-- ==== Sys2Proof/Word.lean ====
section
/-! DEFINITION. The word types of the machine and plain data shared by every file (R8-R10, R16).
Nothing here carries meaning of an instruction. -/

namespace Sys2Proof

/-- A byte of memory. -/
abbrev Byte := BitVec 8
/-- A 32-bit register word. -/
abbrev Word := BitVec 32
/-- A 64-bit value, register pair, code address or control register. -/
abbrev DWord := BitVec 64
/-- A lease-clock value (R6, R16). -/
abbrev Lease := BitVec 48
/-- A set of the 32 lanes of a core. -/
abbrev Mask := BitVec 32
/-- A 16-bit block tag (R92). -/
abbrev Tag := BitVec 16

/-- The lanes of a mask in ascending order (R14). -/
def Mask.lanes (m : Mask) : List Nat := (List.range 32).filter (fun l => m.getLsbD l)

/-- The mask that holds exactly one lane. -/
def Mask.single (l : Nat) : Mask := BitVec.twoPow 32 l

/-- The mask of the lanes of a list. -/
def Mask.ofLanes (ls : List Nat) : Mask := ls.foldl (fun m l => m ||| Mask.single l) 0

/-- The little-endian bytes of a number, `n` of them (R10). -/
def bytesOf : Nat → Nat → List Byte
  | 0, _ => []
  | n + 1, v => BitVec.ofNat 8 v :: bytesOf n (v / 256)

/-- The number that little-endian bytes spell (R10). -/
def natOfBytes : List Byte → Nat
  | [] => 0
  | b :: bs => b.toNat + 256 * natOfBytes bs

/-- R16: lease value `a` is before `b` when (b − a) mod 2^48 lies from 1 to 2^47 − 1. -/
def Lease.before (a b : Lease) : Bool := let d := (b - a).toNat; decide (1 ≤ d ∧ d < 2 ^ 47)

/-- R15, R16: the later of two lease-clock values. -/
def Lease.later (a b : Lease) : Lease := if Lease.before a b then b else a

end Sys2Proof
end

