-- ==== Sys2Proof/Syntax.lean ====
section
/-! DEFINITION. The instructions, tariff instructions, commands and events of the NCL-2048HB: one constructor per row of
spec/opcode_table.json. LA3 operands are already sorted by the name space of R62; an event carries what the outside
brings with it and the names of the units it acts on. -/

namespace Sys2Proof

/-- R57: the predicate field of an LA3 word. -/
structure Guard where
  pred : BitVec 3
  neg  : Bool
  deriving DecidableEq, Repr

/-- R62: a name of the operand name space. `intc k` is the constant k − 64, `fltc k` the code 960 + k of R64. -/
inductive Operand where
  | reg (n : Nat)
  | walker (n : Nat)
  | port (n : Nat)
  | special (n : Nat)
  | intc (k : Nat)
  | fltc (k : Nat)
  deriving DecidableEq, Repr

/-- R21: a source operand with its empty-behaviour bit. -/
structure Src where
  o : Operand
  e : Bool
  deriving DecidableEq, Repr

/-- R109: the integer type in MOD. WID 0 32-bit, 1 64-bit pair, 2 two 16-bit, 3 four 8-bit elements. -/
structure IntTy where
  wid : BitVec 2
  uns : Bool
  sat : Bool
  deriving DecidableEq, Repr

/-- R60, R96: the rounding modes. -/
inductive RMode where
  | rne | rtz | rup | rdn | sr
  deriving DecidableEq, Repr

/-- R60: the modifier extension word of format A. -/
structure Modx where
  round : RMode
  ftz   : Bool
  inf   : Bool
  deriving DecidableEq, Repr

/-- R60: the immediate of format B, in IMM20 or in the extension word. -/
inductive Imm where
  | short (v : BitVec 20)
  | long (v : BitVec 64)
  deriving DecidableEq, Repr

/-- R58, R60: the displacement of format M. -/
inductive Disp where
  | short (v : BitVec 12)
  | long (v : BitVec 32)
  deriving DecidableEq, Repr

/-- R59: the base of a memory operand. -/
inductive AMode where
  | slot | sp | sa | pw
  deriving DecidableEq, Repr

/-- R58, R59: a memory operand. -/
structure MemOp where
  mode : AMode
  slot : BitVec 6
  idx  : Src
  disp : Disp
  deriving DecidableEq, Repr

/-- R58, R60: the offset of a direct transfer, in 8-byte words from the transfer word. -/
inductive Target where
  | short (v : BitVec 20)
  | long (v : BitVec 32)
  deriving DecidableEq, Repr

/-- The engine classes of R254, in code order. -/
inductive EngClass where
  | copy | lathe | net | wayside | mcast
  deriving DecidableEq, Repr

/-- R380: the scopes of fences, releases, barriers and supersteps; `w` is the wayside fence. -/
inductive Scope where
  | crew | cohort | span | domain | w
  deriving DecidableEq, Repr

/-- R58: the parameter block and port of a format-E word; `port none` is VIAQ 0. -/
structure Eng where
  pb   : Nat
  e    : Bool
  port : Option (BitVec 5)
  deriving DecidableEq, Repr

/-- R371, R374: how far a store has come: to its cohort point (F) or to its home (P). -/
inductive StoreStage where
  | cohort | home
  deriving DecidableEq, Repr

/-- R245, R246: what hardware error, if any, strikes a lathe step (an input from outside the rules of computation). -/
inductive LatheErr where
  | none | mismatchOnce | mismatchTwice | array
  deriving DecidableEq, Repr

/-- R489, R490: an arriving data packet. `source` is the peer's address and job identifier as they arrive. -/
structure NetPacket where
  addr   : BitVec 128
  v6     : Bool
  job    : Word
  epoch  : BitVec 8
  first  : Word
  psn    : Word
  kind   : Nat            -- KIND of the work request (R486); 6 a response to a get or an atomic (R487)
  msg    : Nat            -- the sender's number of the message; of a response, the receiver's own
  index  : Nat            -- packet index in the message
  total  : Nat            -- LEN of the message
  rkey   : BitVec 16
  clus   : BitVec 4       -- RCLUS of the sender's entry
  roff   : DWord
  keep   : Bool           -- TAGM keep (already raw where R489 makes it so)
  skew   : BitVec 6       -- the source address modulo 64
  aop    : BitVec 4
  aw64   : Bool
  opnd1  : DWord
  opnd2  : DWord
  data   : List Byte
  tags   : List Tag
  valid  : Bool           -- false: it needs an unused feature, or its response matches no request (R483)
  deriving DecidableEq, Repr

/-- R490-R492: an arriving acknowledgement. -/
structure NetAck where
  addr     : BitVec 128
  v6       : Bool
  job      : Word
  epoch    : BitVec 8
  cack     : Word
  sack     : List Word
  complete : List Nat            -- messages reported complete at the target
  refused  : List (Nat × Nat)    -- messages refused, with the cause of R488
  deriving DecidableEq, Repr

/-- R445, R450: the words of a Caravan message after word 0. -/
abbrev MsgWords := List Word

/-- One constructor per row of spec/opcode_table.json, in the table's order. -/
inductive Instr where
  -- integer and address (R112)
  | add (g : Guard) (ty : IntTy) (d : Operand) (a b : Src)
  | addImm (g : Guard) (ty : IntTy) (d : Operand) (a : Src) (i : Imm)
  | sub (g : Guard) (ty : IntTy) (d : Operand) (a b : Src)
  | subImm (g : Guard) (ty : IntTy) (d : Operand) (a : Src) (i : Imm)
  | mul (g : Guard) (ty : IntTy) (d : Operand) (a b : Src)
  | mulImm (g : Guard) (ty : IntTy) (d : Operand) (a : Src) (i : Imm)
  | mulhi (g : Guard) (ty : IntTy) (d : Operand) (a b : Src)
  | mad (g : Guard) (ty : IntTy) (d : Operand) (a b c : Src)
  | div (g : Guard) (ty : IntTy) (d : Operand) (a b : Src)
  | rem (g : Guard) (ty : IntTy) (d : Operand) (a b : Src)
  | neg (g : Guard) (ty : IntTy) (d : Operand) (a : Src)
  | abs (g : Guard) (ty : IntTy) (d : Operand) (a : Src)
  | min (g : Guard) (ty : IntTy) (d : Operand) (a b : Src)
  | minImm (g : Guard) (ty : IntTy) (d : Operand) (a : Src) (i : Imm)
  | max (g : Guard) (ty : IntTy) (d : Operand) (a b : Src)
  | maxImm (g : Guard) (ty : IntTy) (d : Operand) (a : Src) (i : Imm)
  | and (g : Guard) (ty : IntTy) (d : Operand) (a b : Src)
  | andImm (g : Guard) (ty : IntTy) (d : Operand) (a : Src) (i : Imm)
  | or (g : Guard) (ty : IntTy) (d : Operand) (a b : Src)
  | orImm (g : Guard) (ty : IntTy) (d : Operand) (a : Src) (i : Imm)
  | xor (g : Guard) (ty : IntTy) (d : Operand) (a b : Src)
  | xorImm (g : Guard) (ty : IntTy) (d : Operand) (a : Src) (i : Imm)
  | andn (g : Guard) (ty : IntTy) (d : Operand) (a b : Src)
  | not (g : Guard) (ty : IntTy) (d : Operand) (a : Src)
  | shl (g : Guard) (ty : IntTy) (d : Operand) (a b : Src)
  | shr (g : Guard) (ty : IntTy) (d : Operand) (a b : Src)
  | rot (g : Guard) (ty : IntTy) (d : Operand) (a b : Src)
  | bext (g : Guard) (ty : IntTy) (d : Operand) (a b : Src)
  | bins (g : Guard) (ty : IntTy) (d : Operand) (a b c : Src)
  | popc (g : Guard) (ty : IntTy) (d : Operand) (a : Src)
  | clz (g : Guard) (ty : IntTy) (d : Operand) (a : Src)
  | ctz (g : Guard) (ty : IntTy) (d : Operand) (a : Src)
  | brev (g : Guard) (ty : IntTy) (d : Operand) (a : Src)
  | cmp (g : Guard) (ty : IntTy) (cond k : BitVec 3) (a b : Src)
  | cmpImm (g : Guard) (ty : IntTy) (cond k : BitVec 3) (a : Src) (i : Imm)
  | sel (g : Guard) (dbl : Bool) (p : BitVec 3) (d : Operand) (a b : Src)
  | mov (g : Guard) (dbl : Bool) (d : Operand) (a : Src)
  | movImm (g : Guard) (dbl : Bool) (d : Operand) (i : Imm)
  | lea (g : Guard) (d : Operand) (m : MemOp)
  -- predicate (R124)
  | plog (g : Guard) (op : BitVec 5) (kd ka kb : BitVec 3)
  | pget (g : Guard) (d : Operand)
  | pput (g : Guard) (a b : Src)
  | pbit (g : Guard) (dbl : Bool) (kd : BitVec 3) (a b : Src)
  -- control (R126)
  | br (g : Guard) (t : Target)
  | bre (g : Guard) (dim : BitVec 2) (neg : Bool) (w : Nat) (t : Target)
  | jmp (g : Guard) (a : Src)
  | call (g : Guard) (d : Operand) (t : Target)
  | callr (g : Guard) (d : Operand) (a : Src)
  | ret (g : Guard) (a : Src)
  | exit (g : Guard)
  | yield (g : Guard)
  | brk (g : Guard) (code : BitVec 16)
  | rep (g : Guard) (count : BitVec 7) (mask : BitVec 4) (step : BitVec 2)
  | nop (g : Guard)
  -- floating point (R145)
  | fadd (g : Guard) (ft : BitVec 2) (d : Operand) (a b : Src) (x : Option Modx)
  | fsub (g : Guard) (ft : BitVec 2) (d : Operand) (a b : Src) (x : Option Modx)
  | fmul (g : Guard) (ft : BitVec 2) (d : Operand) (a b : Src) (x : Option Modx)
  | fma (g : Guard) (ft : BitVec 2) (np nc : Bool) (d : Operand) (a b c : Src) (x : Option Modx)
  | fdiv (g : Guard) (d : Operand) (a b : Src) (x : Option Modx)
  | fsqrt (g : Guard) (d : Operand) (a : Src) (x : Option Modx)
  | fneg (g : Guard) (ft : BitVec 2) (d : Operand) (a : Src)
  | fabs (g : Guard) (ft : BitVec 2) (d : Operand) (a : Src)
  | fmin (g : Guard) (ft : BitVec 2) (d : Operand) (a b : Src)
  | fmax (g : Guard) (ft : BitVec 2) (d : Operand) (a b : Src)
  | fminp (g : Guard) (ft : BitVec 2) (d : Operand) (a b : Src)
  | fmaxp (g : Guard) (ft : BitVec 2) (d : Operand) (a b : Src)
  | fcmp (g : Guard) (cond k : BitVec 3) (a b : Src) (x : Option Modx)
  | fclass (g : Guard) (ft : BitVec 2) (d : Operand) (a : Src)
  | frcp (g : Guard) (ft : BitVec 2) (d : Operand) (a : Src) (x : Option Modx)
  | frsq (g : Guard) (ft : BitVec 2) (d : Operand) (a : Src) (x : Option Modx)
  | fexp2 (g : Guard) (ft : BitVec 2) (d : Operand) (a : Src) (x : Option Modx)
  | flog2 (g : Guard) (ft : BitVec 2) (d : Operand) (a : Src) (x : Option Modx)
  | fsinpi (g : Guard) (ft : BitVec 2) (d : Operand) (a : Src) (x : Option Modx)
  | fcospi (g : Guard) (ft : BitVec 2) (d : Operand) (a : Src) (x : Option Modx)
  | ftanh (g : Guard) (ft : BitVec 2) (d : Operand) (a : Src) (x : Option Modx)
  | cvt (g : Guard) (dt st : BitVec 4) (d : Operand) (a : Src) (x : Option Modx)
  | cvtn (g : Guard) (st : BitVec 2) (d : Operand) (a b : Src) (x : Option Modx)
  | cvtw (g : Guard) (dt : BitVec 2) (d : Operand) (a b : Src) (x : Option Modx)
  | fscl (g : Guard) (d : Operand) (a b : Src)
  | dot4 (g : Guard) (ua ub sat : Bool) (d : Operand) (a b c : Src)
  | fdot2 (g : Guard) (ft : BitVec 2) (d : Operand) (a b c : Src) (x : Option Modx)
  | wfu (g : Guard) (d : Operand) (a b : Src) (x : Option Modx)
  | wfm (g : Guard) (d : Operand) (a b : Src) (x : Option Modx)
  | seed (g : Guard) (a : Src)
  | sfget (g : Guard) (d : Operand)
  | sfclr (g : Guard) (a : Src)
  | sfarm (g : Guard) (a : Src)
  -- cross-lane and wave state (R190)
  | vote (g : Guard) (form : BitVec 2) (kd ka : BitVec 3)
  | vmask (g : Guard) (d : Operand) (ka : BitVec 3)
  | shfl (g : Guard) (mode : BitVec 2) (dbl : Bool) (d : Operand) (a b c : Src)
  | red (g : Guard) (op : BitVec 5) (d : Operand) (a : Src) (x : Option Modx)
  | scan (g : Guard) (op : BitVec 5) (d : Operand) (a : Src) (x : Option Modx)
  | scanx (g : Guard) (op : BitVec 5) (d : Operand) (a : Src) (x : Option Modx)
  | elect (g : Guard) (kd : BitVec 3)
  | part (g : Guard) (a : Src)
  | pqset (g : Guard) (a : Src)
  | pqget (g : Guard) (d : Operand)
  | partget (g : Guard) (d : Operand)
  -- core storage, walkers, queues (R197)
  | lds (g : Guard) (size : BitVec 3) (d : Operand) (m : MemOp)
  | sts (g : Guard) (size : BitVec 3) (d : Src) (m : MemOp)
  | rquota (g : Guard) (a : Src)
  | rdead (g : Guard) (a : Src)
  | rgrant (g : Guard) (a : Src)
  | wbind (g : Guard) (w : BitVec 3) (a : Src)
  | wunb (g : Guard) (w : BitVec 3)
  | wseek (g : Guard) (w : BitVec 3) (a b : Src)
  | qbind (g : Guard) (port : BitVec 5) (a : Src)
  | qpop (g : Guard) (cnt : BitVec 3) (d : Operand) (port : Nat) (e : Bool)
  | qpush (g : Guard) (cnt : BitVec 3) (port : Nat) (a : Src)
  | qlen (g : Guard) (d : Operand) (port : Nat) (e : Bool)
  -- lathe and AMEM (R226)
  | lmma (g : Guard) (pb : Nat) (e : Bool)
  | lmmaQueued (g : Guard) (pb : Nat) (e : Bool) (port : BitVec 5)
  | aalloc (g : Guard) (d : Operand) (a : Src)
  | afree (g : Guard) (a : Src)
  | aband (g : Guard) (a : Src)
  | arel (g : Guard) (a : Src)
  | ald (g : Guard) (d : Operand) (a : Src)
  | ast (g : Guard) (a b : Src)
  | ainfo (g : Guard) (d : Operand) (a : Src)
  -- batches (R254)
  | seal (g : Guard) (c : EngClass)
  | waitb (g : Guard) (c : EngClass) (a : Src)
  | bstat (g : Guard) (c : EngClass) (d : Operand)
  -- copy and multicast (R292)
  | cpy (g : Guard) (pb : Nat) (e : Bool)
  | cpyQueued (g : Guard) (pb : Nat) (e : Bool) (port : BitVec 5)
  | cpymc (g : Guard) (pb : Nat) (e : Bool)
  | mcdrain (g : Guard) (nb : Bool) (d : Operand) (a b : Src)
  | mcdrop (g : Guard) (nb : Bool) (d : Operand) (a : Src)
  | mcinfo (g : Guard) (d : Operand) (a : Src)
  -- trap and serai (R305, R315)
  | trap (g : Guard) (d : Operand) (a : Src)
  | resume (g : Guard) (d : Operand) (a b : Src)
  | resumeB (g : Guard) (d : Operand) (a b c : Src)
  | kill (g : Guard) (rec : Bool) (d : Operand) (a b : Src)
  | xres (g : Guard) (step : Bool) (d : Operand) (a b : Src)
  | psave (g : Guard) (d : Operand) (a b : Src)
  | prest (g : Guard) (d : Operand) (a b : Src)
  | crget (g : Guard) (d : Operand) (a : Src)
  | crset (g : Guard) (a b : Src)
  | icinv (g : Guard) (d : Operand) (a b c : Src)
  | mcall (g : Guard) (a : Src)
  | mret (g : Guard)
  -- tasks and manifest (R340)
  | spawn (g : Guard) (d : Operand) (a : Src)
  | mset (g : Guard) (d : Operand) (a : Src)
  | mget (g : Guard) (d : Operand) (a : Src)
  | mdrop (g : Guard) (d : Operand) (a b : Src)
  | mfind (g : Guard) (d : Operand) (a b : Src)
  -- global memory, atomics, fences, barriers (R380)
  | ld (g : Guard) (size : BitVec 3) (d : Operand) (m : MemOp)
  | ldNa (g : Guard) (size : BitVec 3) (d : Operand) (m : MemOp)
  | ldAcq (g : Guard) (size : BitVec 3) (d : Operand) (m : MemOp)
  | st (g : Guard) (size : BitVec 3) (d : Src) (m : MemOp)
  | stRel (g : Guard) (size : BitVec 3) (sc : BitVec 2) (d : Src) (m : MemOp)
  | atom (g : Guard) (op : BitVec 4) (w64 : Bool) (d : Src) (m : MemOp)
  | atomAcq (g : Guard) (op : BitVec 4) (w64 : Bool) (d : Src) (m : MemOp)
  | atomRel (g : Guard) (sc : BitVec 2) (op : BitVec 4) (w64 : Bool) (d : Src) (m : MemOp)
  | atomAr (g : Guard) (sc : BitVec 2) (op : BitVec 4) (w64 : Bool) (d : Src) (m : MemOp)
  | fence (g : Guard) (sc : BitVec 3)
  | bar (g : Guard) (sc : BitVec 2)
  | ss (g : Guard) (sc : BitVec 2)
  | ldtag (g : Guard) (d : Operand) (m : MemOp)
  | sttag (g : Guard) (d : Src) (m : MemOp)
  -- wayside issue (R427)
  | wcmd (g : Guard) (pb : Nat) (e : Bool)
  | wcmdQueued (g : Guard) (pb : Nat) (e : Bool) (port : BitVec 5)
  | winfo (g : Guard) (d : Operand) (a : Src)
  -- network (R498)
  | nsend (g : Guard) (pb : Nat) (e : Bool)
  | nput (g : Guard) (pb : Nat) (e : Bool)
  | nget (g : Guard) (pb : Nat) (e : Bool)
  | natom (g : Guard) (pb : Nat) (e : Bool)
  | npost (g : Guard) (pb : Nat) (e : Bool)
  | nwait (g : Guard) (d : Operand) (a b : Src)
  | nctr (g : Guard) (d : Operand) (a : Src)
  | nset (g : Guard) (a b : Src)
  -- messages and MMIO (R446)
  | msend (g : Guard) (nb : Bool) (d : Operand) (a b : Src)
  | mrecv (g : Guard) (nb : Bool) (d : Operand) (a : Src)
  | mmiow (g : Guard) (a b : Src)
  | mmior (g : Guard) (d : Operand) (a : Src)
  -- LA2 (R84): the LA2 word stands in the record
  | unassignedOpcode (op : BitVec 10) (cause : BitVec 3)
  | la2UntranslatableForm (word : DWord)
  -- tariff instructions (R352)
  | tAdd (d a b : BitVec 4)
  | tSub (d a b : BitVec 4)
  | tAnd (d a b : BitVec 4)
  | tOr (d a b : BitVec 4)
  | tXor (d a b : BitVec 4)
  | tShl (d a b : BitVec 4)
  | tShr (d a b : BitVec 4)
  | tMin (d a b : BitVec 4)
  | tMax (d a b : BitVec 4)
  | tMul (d a b : BitVec 4)
  | tSlt (d a b : BitVec 4)
  | tAddi (d a : BitVec 4) (i : BitVec 14)
  | tAndi (d a : BitVec 4) (i : BitVec 14)
  | tShri (d a : BitVec 4) (i : BitVec 14)
  | tMovi (d : BitVec 4) (i : BitVec 22)
  | tMovhi (d : BitVec 4) (i : BitVec 16)
  | tBeq (a b : BitVec 4) (i : BitVec 14)
  | tBne (a b : BitVec 4) (i : BitVec 14)
  | tBlt (a b : BitVec 4) (i : BitVec 14)
  | tBge (a b : BitVec 4) (i : BitVec 14)
  | tBr (i : BitVec 14)
  | vget (d : BitVec 4) (sel : BitVec 10)
  | vgetIndexed (d a : BitVec 4) (sel : BitVec 10)
  | cget (d a : BitVec 4) (field : BitVec 3)
  | each (d : BitVec 4) (i : BitVec 14)
  | next (d : BitVec 4) (i : BitVec 14)
  | emitDisp (a : BitVec 4)
  | emitDefer
  | emitPreempt (a : BitVec 4)
  | emitNone
  | emitKill
  | emitPark
  | emitRetry
  | emitFallback
  -- events of the core
  | producerComplete (id : Nat) (remote : List Byte)
  | blockedReady (core turn lane : Nat)
  | exceptionRecordPost (core : Nat)
  | rotationBegin (core turn : Nat)
  | rotationEnd (core turn : Nat)
  | reconvergenceRelease (core turn : Nat)
  | coreClockGate (core : Nat)
  | icacheLineFill (core : Nat) (line : DWord)
  | walkerFetchArrive (core turn w : Nat)
  | latheCommandAccept (core : Nat)
  | latheStep (core : Nat) (err : LatheErr)
  | latheCommandComplete (core : Nat)
  | astWriteComplete (core id : Nat)
  | copyIssueUnitServe (core : Nat)
  | copyQueueSlotTake (cl q : Nat)
  | copyPacketCopy (id : Nat)
  | copyPacketFill (id : Nat)
  | copyPacketWarm (id : Nat)
  | copyPacketComplete (id : Nat)
  | depotSlotFull (cl slot : Nat)
  | depotSlotLost (cl slot : Nat)
  | mcdrainWritesDone (cl id : Nat)
  | depotSlotRelease (cl slot : Nat)
  | trapRecordPost (core : Nat)
  | trapRecordStash (core : Nat)
  | psaveDone (id : Nat)
  | prestDone (id : Nat)
  | eventPost (cl source : Nat)
  | eventDropCountPost (cl source : Nat)
  | taskRecordTake (cl : Nat)
  | summaryUpdate (cl tile : Nat)
  | spawnRecordWrite (core : Nat)
  | preemptTick (cl : Nat)
  | decisionRetake (cl : Nat)
  | tariffDecisionBegin (cl : Nat)
  | tariffOverrun (cl : Nat)
  | tariffSwapRequest (cl : Nat)
  | tariffSwap (cl : Nat)
  | clusterPartitionAssign (cl : Nat) (part : BitVec 4)
  | storePerform (id : Nat) (stage : StoreStage)
  | storeAcknowledge (id : Nat)
  | cacheLineFill (cl line : Nat)
  | lineLeaseExpire (cl line : Nat)
  | whAgeing (core turn lane : Nat)
  | barrierRelease (key : Nat)
  | translationWalk (cl idx page : Nat)
  | zbusyWaitTimeout (cl idx page : Nat)
  | tbinvWrite (cl : Nat) (v : DWord)
  | hmigStart
  | hashWindowEnd
  | migrationUnitMove (group : Nat)
  | bankBlockEnd (bank : Nat)
  | rowIdleClose (bank : Nat)
  | periodicRowRefresh (bank row : Nat)
  | throttleEnd (core : Nat)
  | remapTableError (stack : Nat)
  | remapReloadDone (stack : Nat)
  | remapHoldTimeout (stack id : Nat)
  | remapStackTimeout (stack : Nat)
  -- wayside (R428-R438)
  | waysideIssueSend (core : Nat)
  | waysideAccept (stack : Nat)
  | wnop (stack : Nat)
  | vload (stack : Nat)
  | vfill (stack : Nat)
  | vscale (stack : Nat)
  | rzero (stack : Nat)
  | gemv (stack : Nat)
  | rscale (stack : Nat)
  | rbias (stack : Nat)
  | radd (stack : Nat)
  | rclamp (stack : Nat)
  | rtovec (stack : Nat)
  | rstore (stack : Nat)
  | wcount (stack : Nat)
  | waysideCommandComplete (stack : Nat)
  | wctxWrite (stack : Nat) (v : DWord)
  -- Caravan (R442-R453, R466): `self` and `peer` are shard numbers
  | extreq (self peer : Nat) (xid : BitVec 16) (handle : Word) (off : DWord) (len : Word)
  | extrep (self peer : Nat) (xid : BitVec 16) (handle : Word) (off : DWord) (len : Word)
  | extinv (self peer : Nat) (xid : BitVec 16) (handle : Word)
  | extack (self peer : Nat) (xid : BitVec 16) (handle : Word)
  | fwd (self peer : Nat) (xid : BitVec 16) (call : MsgWords)
  | fwdrep (self peer : Nat) (xid : BitVec 16) (res0 res1 : Word)
  | upd (bucket owner : Nat)
  | updack (shard : Nat)
  | migrate (self peer : Nat) (obj : DWord)
  | svcOpen (cl slot group : Nat)
  | svcClose (cl slot group : Nat)
  | svcRead (cl slot group : Nat)
  | svcWrite (cl slot group : Nat)
  | svcPmap (cl slot group : Nat)
  | svcPunmap (cl slot group : Nat)
  | driveInboundWrite (port : Nat) (addr : DWord) (data : List Byte)
  | msixMessage (port : Nat) (data : Word)
  | unsupportedRequest (port : Nat) (addr : DWord)
  -- reset, test, repair, attestation (R459-R469)
  | coldReset
  | srunStart (mask : BitVec 16)
  | rstctlWarm (retain : Bool)
  | warmResetQuiesced
  | warmResetRetrained (failed : BitVec 8)
  | warmResetChecked
  | selfTestHbmRow (cl : Nat) (target : BitVec 40) (pass : Bool)
  | selfTestCore (cl : Nat) (target : BitVec 40) (pass : Bool)
  | selfTestAmemBank (cl : Nat) (target : BitVec 40) (pass : Bool)
  | selfTestCacheSet (cl : Nat) (target : BitVec 40) (pass : Bool)
  | selfTestFabricLane (cl : Nat) (target : BitVec 40) (pass : Bool)
  | selfTestSeraiSram (cl : Nat) (target : BitVec 40) (pass : Bool)
  | selfTestDone
  | repairCoreToSpare (core : Nat)
  | repairStackToService (stack : Nat) (ok : Bool)
  | attestQuote (cl : Nat) (off : BitVec 20)
  | attestExtend (cl : Nat) (off : BitVec 20)
  | attestPubkey (cl : Nat) (off : BitVec 20)
  | shardRestart (shard : Nat)
  | clusterRepair (cl : Nat)
  -- fabric (R474-R482)
  | clockSyncExchange (t1 t2 t3 t4 : Lease)
  | syncLossTimeout
  | fabricRequestTimeout (id : Nat)
  | inboundRead (port : Nat) (src : BitVec 10) (addr : DWord) (len : Nat)
  | inboundWrite (port : Nat) (src : BitVec 10) (addr : DWord) (data : List Byte)
  | inboundAtomic (port : Nat) (src : BitVec 10) (addr : DWord) (op : BitVec 4) (w64 : Bool) (o1 o2 : DWord)
  | recallTimeout (id : Nat)
  | portWidthChange (port : Nat) (width : BitVec 2)
  | ethernetPortChange (port : Nat) (up : Bool)
  -- network engine (R486-R496)
  | netIssueUnitServe (core : Nat)
  | netWrTake (cl q : Nat)
  | netGateOpen (cl q : Nat)
  | netSend (id : Nat)
  | netPut (id : Nat)
  | netGet (id : Nat)
  | netAtomic (id : Nat)
  | netPostReceive (cl q : Nat)
  | netPacketArrive (p : NetPacket)
  | netAckArrive (a : NetAck)
  | netRetransmitTimeout (peer : Nat) (psn : Word)
  | netTargetComplete (id : Nat)
  | netInitiatorComplete (id : Nat)
  | peerTableWrite (entry : Nat) (word : BitVec 2) (v : DWord)
  | regActivate (cl r : Nat)
  | regRevoke (cl r : Nat)
  | revocationComplete (cl r : Nat)
  | registerWrite (cl : Nat) (num : BitVec 24) (v : DWord)
  | driveInboundRead (port : Nat) (addr : DWord) (len : Nat)
  | leaseRecall (port line : Nat)
  | clockSyncRequest (follower : BitVec 10) (t1 : Lease)
  deriving DecidableEq, Repr

end Sys2Proof
end

