-- ==== Sys2Proof/WellFormed.lean ====
section
/-! DEFINITION. Which instructions are well formed: the field and MOD values each description assigns (R61, cause 3) and
the operand codes it accepts (R62, cause 4). Every event of the device is well formed. -/

namespace Sys2Proof

/-- R62: the number of an operand lies in its part of the name space. -/
def Operand.inRange : Operand → Bool
  | .reg n => decide (n < 640)
  | .walker n => decide (n < 8)
  | .port n => decide (n < 32)
  | .special n => decide (n < 13)
  | .intc k => decide (k < 192)
  | .fltc k => decide (k < 64)

/-- R62: codes accepted as a destination: registers, walkers, queue ports and `%zero`. -/
def Operand.isDest : Operand → Bool
  | .reg n => decide (n < 640)
  | .walker n => decide (n < 8)
  | .port n => decide (n < 32)
  | .special n => n == 12
  | _ => false

/-- R20: the D field of a long-latency producer; `one` says that `%zero` is accepted. -/
def Operand.isProducerDest (one : Bool) : Operand → Bool
  | .reg n => decide (n < 640)
  | .special n => one && n == 12
  | _ => false

/-- A group of more than two registers names a register. -/
def Operand.isReg : Operand → Bool
  | .reg n => decide (n < 640)
  | _ => false

def Src.inRange (s : Src) : Bool := s.o.inRange
def Src.isReg (s : Src) : Bool := s.o.isReg

/-- R142: the modifiers an extension word may carry: `r` the codes RNE to RDN, `s` SR, `f` FTZ, `i` INF. -/
def modxOk (x : Option Modx) (r s f i : Bool) : Bool :=
  match x with
  | none => true
  | some m =>
    (match m.round with | .rne => true | .rtz | .rup | .rdn => r | .sr => s) && (f || !m.ftz) && (i || !m.inf)

/-- R112: packed widths, unsigned and saturating types an integer instruction accepts. -/
def tyOk (ty : IntTy) (packed uns sat : Bool) : Bool :=
  (packed || ty.wid.toNat < 2) && (uns || !ty.uns) && (sat || !ty.sat)

/-- R58, R59: SLOT of the modes that do not use all of it. -/
def MemOp.slotOk (m : MemOp) : Bool :=
  match m.mode with
  | .slot => true
  | .sp | .sa => m.slot == 0
  | .pw => m.slot.toNat < 8

def MemOp.isGlobal (m : MemOp) : Bool := m.mode == .slot || m.mode == .sa

/-- R206: SIZE 0 to 6. -/
def sizeOk (size : BitVec 3) : Bool := size.toNat ≤ 6
/-- R206: registers an access of SIZE names. -/
def sizeRegs (size : BitVec 3) : Nat := if size.toNat ≤ 4 then 1 else if size.toNat = 5 then 2 else 4
/-- R206: bytes an access of SIZE moves. -/
def sizeBytes (size : BitVec 3) : Nat :=
  match size.toNat with
  | 0 => 1 | 1 => 1 | 2 => 2 | 3 => 2 | 4 => 4 | 5 => 8 | _ => 16

/-- R386: registers an atomic's D names. -/
def atomRegs (op : BitVec 4) (w64 : Bool) : Nat := (if op = 9 then 2 else 1) * (if w64 then 2 else 1)

/-- R155: width in bits of a type code of `cvt`. -/
def cvtWidth (t : BitVec 4) : Nat :=
  match t.toNat with
  | 0 | 5 | 6 => 32
  | 7 | 8 => 64
  | _ => 16

/-- R156: elements a conversion between widths acts on; 64 counts as 32. -/
def cvtCount (ws wd : Nat) : Nat := 32 / Nat.min (Nat.min ws 32) (Nat.min wd 32)
/-- R156: registers a range of `n` elements of width `w` takes. -/
def cvtRegs (n w : Nat) : Nat := n * w / 32

/-- R61 and the MOD columns of the descriptions: false is cause 3. -/
def Instr.modOk : Instr → Bool
  | .add _ ty .. | .addImm _ ty .. | .sub _ ty .. | .subImm _ ty .. | .mul _ ty .. | .mulImm _ ty .. => tyOk ty true true true
  | .mulhi _ ty .. => tyOk ty true true false
  | .mad _ ty .. => tyOk ty true true true
  | .div _ ty .. => tyOk ty false true true
  | .rem _ ty .. => tyOk ty false true false
  | .neg _ ty .. | .abs _ ty .. => tyOk ty true false true
  | .min _ ty .. | .minImm _ ty .. | .max _ ty .. | .maxImm _ ty .. => tyOk ty true true false
  | .and _ ty .. | .andImm _ ty .. | .or _ ty .. | .orImm _ ty .. | .xor _ ty .. | .xorImm _ ty .. | .andn _ ty .. | .not _ ty ..
      => tyOk ty true true false
  | .shl _ ty .. => tyOk ty true true true
  | .shr _ ty .. | .rot _ ty .. => tyOk ty true true false
  | .bext _ ty .. | .bins _ ty .. => tyOk ty false true false
  | .popc _ ty .. | .clz _ ty .. | .ctz _ ty .. | .brev _ ty .. => tyOk ty true true false
  | .cmp _ ty cond .. | .cmpImm _ ty cond .. => tyOk ty false true false && cond.toNat ≤ 5
  | .lea _ _ m => m.slotOk
  | .plog _ op .. => op.toNat ≤ 4
  | .bre _ dim .. => dim.toNat ≤ 2
  | .rep _ count .. => 1 ≤ count.toNat && count.toNat ≤ 64
  | .fadd _ ft _ _ _ x | .fsub _ ft _ _ _ x | .fmul _ ft _ _ _ x => ft.toNat ≤ 2 && modxOk x true false true true
  | .fma _ ft _ _ _ _ _ _ x => ft.toNat ≤ 2 && modxOk x true false true true
  | .fdiv _ _ _ _ x => modxOk x true false true true
  | .fsqrt _ _ _ x => modxOk x true false true false
  | .fneg _ ft .. | .fabs _ ft .. | .fmin _ ft .. | .fmax _ ft .. | .fminp _ ft .. | .fmaxp _ ft .. | .fclass _ ft .. => ft.toNat ≤ 2
  | .fcmp _ _ _ _ _ x => modxOk x false false true false
  | .frcp _ ft _ _ x | .fexp2 _ ft _ _ x => ft.toNat ≤ 2 && modxOk x false false true true
  | .frsq _ ft _ _ x | .flog2 _ ft _ _ x | .fsinpi _ ft _ _ x | .fcospi _ ft _ _ x | .ftanh _ ft _ _ x =>
      ft.toNat ≤ 2 && modxOk x false false true false
  | .cvt _ dt sty _ _ x => dt.toNat ≤ 8 && sty.toNat ≤ 8 && dt != sty && modxOk x true false true true
  | .cvtn _ sty _ _ _ x => sty.toNat ≤ 2 && modxOk x true true true true
  | .cvtw _ dt _ _ _ x => dt.toNat ≤ 2 && modxOk x true false true false
  | .fdot2 _ ft _ _ _ _ x => (ft == 1 || ft == 2) && modxOk x true false true true
  | .wfu _ _ _ _ x | .wfm _ _ _ _ x => modxOk x true false true false
  | .vote _ form .. => form.toNat ≤ 2
  | .red _ op _ _ x | .scan _ op _ _ x | .scanx _ op _ _ x =>
      op.toNat ≤ 12 && (op == 10 || x == none) && modxOk x true false true true
  | .lds _ size _ m | .sts _ size _ m => sizeOk size && m.slotOk && (m.mode == .sp || m.mode == .pw)
  | .ld _ size _ m | .ldNa _ size _ m | .ldAcq _ size _ m | .st _ size _ m => sizeOk size && m.slotOk && m.isGlobal
  | .stRel _ size _ _ m => sizeOk size && m.slotOk && m.isGlobal
  | .atom _ op _ _ m | .atomAcq _ op _ _ m | .atomRel _ _ op _ _ m | .atomAr _ _ op _ _ m =>
      op.toNat ≤ 9 && m.slotOk && m.isGlobal
  | .fence _ sc => sc.toNat ≤ 4
  | .ss _ sc => sc != 0
  | .ldtag _ _ m | .sttag _ _ m => m.slotOk && m.mode != .pw
  | .tShri _ _ i => i.toNat ≤ 31
  | _ => true

/-- R62 and the operand rules of the descriptions: false is cause 4. -/
def Instr.opsOk : Instr → Bool
  | .add _ _ d a b | .sub _ _ d a b | .mul _ _ d a b | .mulhi _ _ d a b | .div _ _ d a b | .rem _ _ d a b
  | .min _ _ d a b | .max _ _ d a b | .and _ _ d a b | .or _ _ d a b | .xor _ _ d a b | .andn _ _ d a b
  | .shl _ _ d a b | .shr _ _ d a b | .rot _ _ d a b | .bext _ _ d a b => d.isDest && a.inRange && b.inRange
  | .mad _ _ d a b c | .bins _ _ d a b c => d.isDest && a.inRange && b.inRange && c.inRange
  | .neg _ _ d a | .abs _ _ d a | .not _ _ d a | .popc _ _ d a | .clz _ _ d a | .ctz _ _ d a | .brev _ _ d a => d.isDest && a.inRange
  | .addImm _ _ d a _ | .subImm _ _ d a _ | .mulImm _ _ d a _ | .minImm _ _ d a _ | .maxImm _ _ d a _ | .andImm _ _ d a _
  | .orImm _ _ d a _ | .xorImm _ _ d a _ => d.isDest && a.inRange
  | .cmp _ _ _ _ a b => a.inRange && b.inRange
  | .cmpImm _ _ _ _ a _ => a.inRange
  | .sel _ _ _ d a b => d.isDest && a.inRange && b.inRange
  | .mov _ _ d a => d.isDest && a.inRange
  | .movImm _ _ d _ => d.isDest
  | .lea _ d m => d.isDest && m.idx.inRange
  | .pget _ d => d.isDest
  | .pput _ a b => a.inRange && b.inRange
  | .pbit _ _ _ a b => a.inRange && b.inRange
  | .bre _ _ _ w _ => decide (w < 8)
  | .jmp _ a | .ret _ a => a.inRange
  | .call _ d _ => d.isDest
  | .callr _ d a => d.isDest && a.inRange
  | .fadd _ _ d a b _ | .fsub _ _ d a b _ | .fmul _ _ d a b _ | .fmin _ _ d a b | .fmax _ _ d a b | .fminp _ _ d a b
  | .fmaxp _ _ d a b => d.isDest && a.inRange && b.inRange
  | .fma _ _ _ _ d a b c _ => d.isDest && a.inRange && b.inRange && c.inRange
  | .fdiv _ d a b _ => d.isDest && a.inRange && b.inRange
  | .fsqrt _ d a _ => d.isDest && a.inRange
  | .fneg _ _ d a | .fabs _ _ d a | .fclass _ _ d a => d.isDest && a.inRange
  | .fcmp _ _ _ a b _ => a.inRange && b.inRange
  | .frcp _ _ d a _ | .frsq _ _ d a _ | .fexp2 _ _ d a _ | .flog2 _ _ d a _ | .fsinpi _ _ d a _ | .fcospi _ _ d a _
  | .ftanh _ _ d a _ => d.isDest && a.inRange
  | .cvt _ dt sty d a _ =>
      let n := cvtCount (cvtWidth sty) (cvtWidth dt)
      (if n * cvtWidth dt ≤ 32 || cvtWidth dt == 64 && n == 1 then d.isDest else d.isReg) &&
      (if n * cvtWidth sty ≤ 32 || cvtWidth sty == 64 && n == 1 then a.inRange else a.isReg)
  | .cvtn _ _ d a b _ => d.isDest && a.isReg && b.inRange
  | .cvtw _ _ d a b _ => d.isReg && a.inRange && b.inRange
  | .fscl _ d a b => d.isDest && a.inRange && b.inRange
  | .dot4 _ _ _ _ d a b c => d.isDest && a.inRange && b.inRange && c.inRange
  | .fdot2 _ _ d a b c _ => d.isDest && a.inRange && b.inRange && c.inRange
  | .wfu _ d a b _ => d.isReg && a.isReg && b.inRange
  | .wfm _ d a b _ => d.isReg && a.isReg && b.isReg
  | .seed _ a | .sfclr _ a | .sfarm _ a | .part _ a | .pqset _ a => a.inRange
  | .sfget _ d | .pqget _ d | .partget _ d | .vmask _ d _ => d.isDest
  | .shfl _ _ _ d a b c => d.isDest && a.inRange && b.inRange && c.inRange
  | .red _ _ d a _ | .scan _ _ d a _ | .scanx _ _ d a _ => d.isDest && a.inRange
  | .lds _ size d m =>
      (if sizeRegs size = 4 then d.isReg
       else if m.mode == .pw then d.isProducerDest (size.toNat ≤ 4) else d.isDest) && m.idx.inRange
  | .sts _ size d m => (if sizeRegs size = 4 then d.isReg else d.inRange) && m.idx.inRange
  | .rquota _ a | .rdead _ a | .rgrant _ a | .qbind _ _ a => a.inRange
  | .wbind _ _ a => a.isReg
  | .wseek _ _ a b => a.inRange && b.inRange
  | .qpop _ cnt d p _ => d.isProducerDest (cnt == 0) && decide (p < 32)
  | .qpush _ cnt p a => decide (p < 32) && (if cnt.toNat = 0 then a.inRange else a.isReg)
  | .qlen _ d p _ => d.isDest && decide (p < 32)
  | .lmma _ pb _ | .lmmaQueued _ pb _ _ | .cpy _ pb _ | .cpyQueued _ pb _ _ | .cpymc _ pb _ | .wcmd _ pb _ | .wcmdQueued _ pb _ _
  | .nsend _ pb _ | .nput _ pb _ | .nget _ pb _ | .natom _ pb _ | .npost _ pb _ => decide (pb < 640)
  | .aalloc _ d a | .ainfo _ d a => d.isDest && a.inRange
  | .afree _ a | .aband _ a | .arel _ a => a.inRange
  | .ald _ d a => d.isProducerDest false && a.inRange
  | .ast _ a b => a.inRange && b.inRange
  | .waitb _ _ a => a.inRange
  | .bstat _ _ d => d.isDest
  | .mcdrain _ _ d a b => d.isDest && a.inRange && b.inRange
  | .mcdrop _ _ d a => d.isDest && a.inRange
  | .mcinfo _ d a => d.isDest && a.inRange
  | .trap _ d a => d.isProducerDest false && a.isReg
  | .resume _ d a b => d.isProducerDest true && a.inRange && b.inRange
  | .resumeB _ d a b c => d.isProducerDest true && a.inRange && b.inRange && c.inRange
  | .kill _ _ d a b | .xres _ _ d a b => d.isDest && a.inRange && b.inRange
  | .psave _ d a b | .prest _ d a b => d.isProducerDest true && a.inRange && b.inRange
  | .crget _ d a => d.isDest && a.inRange
  | .crset _ a b => a.inRange && b.inRange
  | .icinv _ d a b c => d.isProducerDest true && a.inRange && b.inRange && c.inRange
  | .mcall _ a => a.inRange
  | .spawn _ d a => d.isProducerDest true && a.isReg
  | .mset _ d a => d.isDest && a.isReg
  | .mget _ d a => d.isReg && a.inRange
  | .mdrop _ d a b | .mfind _ d a b => d.isDest && a.inRange && b.inRange
  | .ld _ size d m | .ldNa _ size d m | .ldAcq _ size d m => d.isProducerDest (size.toNat ≤ 4) && m.idx.inRange
  | .st _ size d m | .stRel _ size _ d m => (if sizeRegs size = 4 then d.isReg else d.inRange) && m.idx.inRange
  | .atom _ op w64 d m | .atomAcq _ op w64 d m | .atomRel _ _ op w64 d m | .atomAr _ _ op w64 d m =>
      d.o.isProducerDest (atomRegs op w64 == 1) && m.idx.inRange
  | .ldtag _ d m => d.isProducerDest true && m.idx.inRange
  | .sttag _ d m => d.inRange && m.idx.inRange
  | .winfo _ d a => d.isDest && a.inRange
  | .nwait _ d a b => d.isDest && a.inRange && b.inRange
  | .nctr _ d a => d.isDest && a.inRange
  | .nset _ a b => a.inRange && b.inRange
  | .msend _ _ d a b => d.isDest && a.isReg && b.inRange
  | .mrecv _ _ d a => d.isReg && a.inRange
  | .mmiow _ a b => a.inRange && b.inRange
  | .mmior _ d a => d.isProducerDest true && a.inRange
  | _ => true

/-- A well-formed instruction: every field holds a value its description assigns and every operand a code it accepts. -/
def Instr.wf (i : Instr) : Bool := i.modOk && i.opsOk

end Sys2Proof
end

