-- ==== Sys2Proof/Decode.lean ====
section
/-! DEFINITION. Instruction words: the fields of R57 and R58, the decoder of the 64-bit LA3 words and of the 32-bit tariff
words, the encoder, block headers (R51) and the translation of LA2 words (R75 to R84). The decoder is total: a word that
no rule accepts is refused with the cause of R68 (or, for a tariff word, the swap status of R364). -/

namespace Sys2Proof

/-! ## Fields of an instruction word -/

/-- R57, R58: the fields of an instruction word before its format is known. `s2` also holds IMM20[9:0], SLOT, AMODE and
OFF12[1:0], or PORT and VIAQ; `s3` holds IMM20[19:10], OFF12[11:2], or S2 of format E. -/
structure Raw where
  ln   : BitVec 2
  mod  : BitVec 5
  pneg : BitVec 1
  pred : BitVec 3
  e3   : BitVec 1
  e2   : BitVec 1
  e1   : BitVec 1
  s3   : BitVec 10
  s2   : BitVec 10
  s1   : BitVec 10
  d    : BitVec 10
  opc  : BitVec 10
  deriving DecidableEq, Repr

/-- The word with the given fields. -/
def Raw.toWord (r : Raw) : DWord :=
  r.ln ++ r.mod ++ r.pneg ++ r.pred ++ r.e3 ++ r.e2 ++ r.e1 ++ r.s3 ++ r.s2 ++ r.s1 ++ r.d ++ r.opc

/-- The fields of a word. -/
def Raw.ofWord (w : DWord) : Raw :=
  { ln := w.extractLsb' 62 2, mod := w.extractLsb' 57 5, pneg := w.extractLsb' 56 1, pred := w.extractLsb' 53 3,
    e3 := w.extractLsb' 52 1, e2 := w.extractLsb' 51 1, e1 := w.extractLsb' 50 1, s3 := w.extractLsb' 40 10,
    s2 := w.extractLsb' 30 10, s1 := w.extractLsb' 20 10, d := w.extractLsb' 10 10, opc := w.extractLsb' 0 10 }

/-- An instruction word's fields with its extension word, if it has one. -/
structure Enc where
  raw : Raw
  ext : Option DWord
  deriving DecidableEq, Repr

/-- R62: the operand a code names. -/
def Operand.ofCode (c : BitVec 10) : Option Operand :=
  let n := c.toNat
  if n < 640 then some (.reg n)
  else if n < 648 then some (.walker (n - 640))
  else if n < 680 then some (.port (n - 648))
  else if n < 693 then some (.special (n - 680))
  else if n < 768 then none
  else if n < 960 then some (.intc (n - 768))
  else some (.fltc (n - 960))

/-- R62: the code of an operand. -/
def Operand.code : Operand → BitVec 10
  | .reg n => BitVec.ofNat 10 n
  | .walker n => BitVec.ofNat 10 (640 + n)
  | .port n => BitVec.ofNat 10 (648 + n)
  | .special n => BitVec.ofNat 10 (680 + n)
  | .intc k => BitVec.ofNat 10 (768 + k)
  | .fltc k => BitVec.ofNat 10 (960 + k)

def bit1 (b : Bool) : BitVec 1 := if b then 1 else 0

/-! ## Reading the fields -/

def Raw.guard (r : Raw) : Guard := { pred := r.pred, neg := r.pneg == 1 }
def Raw.ty (r : Raw) : IntTy :=
  { wid := r.mod.extractLsb' 0 2, uns := r.mod.getLsbD 2, sat := r.mod.getLsbD 3 }
def Raw.dst (r : Raw) : Option Operand := Operand.ofCode r.d
/-- D read as a source (format M) has its empty-behaviour bit in E2. -/
def Raw.dsrc (r : Raw) : Option Src := (Operand.ofCode r.d).map fun o => { o, e := r.e2 == 1 }
def Raw.src1 (r : Raw) : Option Src := (Operand.ofCode r.s1).map fun o => { o, e := r.e1 == 1 }
def Raw.src2 (r : Raw) : Option Src := (Operand.ofCode r.s2).map fun o => { o, e := r.e2 == 1 }
def Raw.src3 (r : Raw) : Option Src := (Operand.ofCode r.s3).map fun o => { o, e := r.e3 == 1 }
def Raw.imm20 (r : Raw) : BitVec 20 := r.s3 ++ r.s2
def Raw.off12 (r : Raw) : BitVec 12 := r.s3 ++ r.s2.extractLsb' 8 2

def AMode.ofBits (b : BitVec 2) : AMode :=
  match b.toNat with | 0 => .slot | 1 => .sp | 2 => .sa | _ => .pw
def AMode.bits : AMode → BitVec 2
  | .slot => 0 | .sp => 1 | .sa => 2 | .pw => 3

def RMode.ofBits (b : BitVec 3) : Option RMode :=
  match b.toNat with | 0 => some .rne | 1 => some .rtz | 2 => some .rup | 3 => some .rdn | 4 => some .sr | _ => none
def RMode.bits : RMode → BitVec 3
  | .rne => 0 | .rtz => 1 | .rup => 2 | .rdn => 3 | .sr => 4

def EngClass.ofBits (b : BitVec 3) : Option EngClass :=
  match b.toNat with | 0 => some .copy | 1 => some .lathe | 2 => some .net | 3 => some .wayside | 4 => some .mcast | _ => none
def EngClass.code : EngClass → Nat
  | .copy => 0 | .lathe => 1 | .net => 2 | .wayside => 3 | .mcast => 4

/-- R60: the modifier extension word of format A. -/
def Modx.ofWord (w : DWord) : Option Modx :=
  (RMode.ofBits (w.extractLsb' 0 3)).map fun m => { round := m, ftz := w.getLsbD 3, inf := w.getLsbD 4 }
def Modx.word (m : Modx) : DWord :=
  (0 : BitVec 59) ++ bit1 m.inf ++ bit1 m.ftz ++ m.round.bits

/-- The immediate, displacement or target of a word and its extension. -/
def Enc.imm (c : Enc) : Imm := match c.ext with | none => .short c.raw.imm20 | some w => .long w
def Enc.disp (c : Enc) : Disp := match c.ext with | none => .short c.raw.off12 | some w => .long (w.extractLsb' 0 32)
def Enc.target (c : Enc) : Target := match c.ext with | none => .short c.raw.imm20 | some w => .long (w.extractLsb' 0 32)
def Enc.memOp (c : Enc) : Option MemOp :=
  c.raw.src1.map fun s =>
    { mode := AMode.ofBits (c.raw.s2.extractLsb' 6 2), slot := c.raw.s2.extractLsb' 0 6, idx := s, disp := c.disp }
/-- The modifier extension: absent, read, or (inner `none`) with a reserved ROUND code. -/
def Enc.modx (c : Enc) : Option (Option Modx) :=
  match c.ext with | none => some none | some w => (Modx.ofWord w).map some
def Raw.portNo (r : Raw) : BitVec 5 := r.s2.extractLsb' 0 5
def Raw.viaq (r : Raw) : Bool := r.s2.getLsbD 5

/-! ## Building instructions from fields

Each `build` function reads the fields its descriptions name. Fields they leave out are checked afterwards: a word is
accepted only when the encoding of the instruction built from it is the word itself, so every reserved or unused field
that is not zero is refused with cause 3 (R61). -/

/-- An operand code that names nothing: cause 4 (R62). -/
def orCause4 (o : Option Instr) : Except Nat Instr := match o with | some i => .ok i | none => .error 4

def buildA1 (c : Enc) (mk : Guard → Operand → Src → Instr) : Except Nat Instr :=
  orCause4 (do let d ← c.raw.dst; let a ← c.raw.src1; some (mk c.raw.guard d a))
def buildA2 (c : Enc) (mk : Guard → Operand → Src → Src → Instr) : Except Nat Instr :=
  orCause4 (do let d ← c.raw.dst; let a ← c.raw.src1; let b ← c.raw.src2; some (mk c.raw.guard d a b))
def buildA3 (c : Enc) (mk : Guard → Operand → Src → Src → Src → Instr) : Except Nat Instr :=
  orCause4 (do let d ← c.raw.dst; let a ← c.raw.src1; let b ← c.raw.src2; let e ← c.raw.src3; some (mk c.raw.guard d a b e))
def buildD (c : Enc) (mk : Guard → Operand → Instr) : Except Nat Instr :=
  orCause4 (do let d ← c.raw.dst; some (mk c.raw.guard d))
def buildS1 (c : Enc) (mk : Guard → Src → Instr) : Except Nat Instr :=
  orCause4 (do let a ← c.raw.src1; some (mk c.raw.guard a))
def buildS2 (c : Enc) (mk : Guard → Src → Src → Instr) : Except Nat Instr :=
  orCause4 (do let a ← c.raw.src1; let b ← c.raw.src2; some (mk c.raw.guard a b))
def buildB (c : Enc) (mk : Guard → Operand → Src → Imm → Instr) : Except Nat Instr :=
  orCause4 (do let d ← c.raw.dst; let a ← c.raw.src1; some (mk c.raw.guard d a c.imm))
def buildM (c : Enc) (mk : Guard → Operand → MemOp → Instr) : Except Nat Instr :=
  orCause4 (do let d ← c.raw.dst; let m ← c.memOp; some (mk c.raw.guard d m))
def buildMs (c : Enc) (mk : Guard → Src → MemOp → Instr) : Except Nat Instr :=
  orCause4 (do let d ← c.raw.dsrc; let m ← c.memOp; some (mk c.raw.guard d m))
def buildF1 (c : Enc) (mk : Guard → Operand → Src → Option Modx → Instr) : Except Nat Instr :=
  match c.modx with
  | none => .error 3
  | some x => orCause4 (do let d ← c.raw.dst; let a ← c.raw.src1; some (mk c.raw.guard d a x))
def buildF2 (c : Enc) (mk : Guard → Operand → Src → Src → Option Modx → Instr) : Except Nat Instr :=
  match c.modx with
  | none => .error 3
  | some x => orCause4 (do let d ← c.raw.dst; let a ← c.raw.src1; let b ← c.raw.src2; some (mk c.raw.guard d a b x))
def buildF3 (c : Enc) (mk : Guard → Operand → Src → Src → Src → Option Modx → Instr) : Except Nat Instr :=
  match c.modx with
  | none => .error 3
  | some x =>
    orCause4 (do let d ← c.raw.dst; let a ← c.raw.src1; let b ← c.raw.src2; let e ← c.raw.src3; some (mk c.raw.guard d a b e x))
/-- Format E: PB names a register (cause 4 otherwise). -/
def buildE (c : Enc) (direct : Guard → Nat → Bool → Instr) (queued : Option (Guard → Nat → Bool → BitVec 5 → Instr)) : Except Nat Instr :=
  if c.raw.viaq then
    match queued with
    | some mk => .ok (mk c.raw.guard c.raw.s1.toNat (c.raw.e1 == 1) c.raw.portNo)
    | none => .error 3
  else .ok (direct c.raw.guard c.raw.s1.toNat (c.raw.e1 == 1))
def buildCls (c : Enc) (mk : EngClass → Except Nat Instr) : Except Nat Instr :=
  match EngClass.ofBits (c.raw.mod.extractLsb' 0 3) with | some k => mk k | none => .error 3
/-- A queue port in an operand field (R221, R222): any other code is cause 4. -/
def portOf (c : BitVec 10) : Except Nat Nat :=
  match Operand.ofCode c with | some (.port p) => .ok p | _ => .error 4

/-- R112: integer and address instructions. -/
def buildInt (c : Enc) : Except Nat Instr :=
  let r := c.raw
  match r.opc.toNat with
  | 0x001 => buildA2 c fun g => .add g r.ty
  | 0x002 => buildA2 c fun g => .sub g r.ty
  | 0x003 => buildA2 c fun g => .mul g r.ty
  | 0x004 => buildA2 c fun g => .mulhi g r.ty
  | 0x005 => buildA3 c fun g => .mad g r.ty
  | 0x006 => buildA2 c fun g => .div g r.ty
  | 0x007 => buildA2 c fun g => .rem g r.ty
  | 0x008 => buildA1 c fun g => .neg g r.ty
  | 0x009 => buildA1 c fun g => .abs g r.ty
  | 0x00A => buildA2 c fun g => .min g r.ty
  | 0x00B => buildA2 c fun g => .max g r.ty
  | 0x00C => buildA2 c fun g => .and g r.ty
  | 0x00D => buildA2 c fun g => .or g r.ty
  | 0x00E => buildA2 c fun g => .xor g r.ty
  | 0x00F => buildA2 c fun g => .andn g r.ty
  | 0x010 => buildA1 c fun g => .not g r.ty
  | 0x011 => buildA2 c fun g => .shl g r.ty
  | 0x012 => buildA2 c fun g => .shr g r.ty
  | 0x013 => buildA2 c fun g => .rot g r.ty
  | 0x014 => buildA2 c fun g => .bext g r.ty
  | 0x015 => buildA3 c fun g => .bins g r.ty
  | 0x016 => buildA1 c fun g => .popc g r.ty
  | 0x017 => buildA1 c fun g => .clz g r.ty
  | 0x018 => buildA1 c fun g => .ctz g r.ty
  | 0x019 => buildA1 c fun g => .brev g r.ty
  | 0x01A => buildS2 c fun g => .cmp g r.ty (r.d.extractLsb' 3 3) (r.d.extractLsb' 0 3)
  | 0x01B => buildA2 c fun g => .sel g (r.mod.getLsbD 0) (r.mod.extractLsb' 2 3)
  | 0x01C => buildA1 c fun g => .mov g (r.mod.getLsbD 0)
  | 0x01E => buildM c .lea
  | 0x031 => buildB c fun g => .addImm g r.ty
  | 0x032 => buildB c fun g => .subImm g r.ty
  | 0x033 => buildB c fun g => .mulImm g r.ty
  | 0x03A => buildB c fun g => .minImm g r.ty
  | 0x03B => buildB c fun g => .maxImm g r.ty
  | 0x03C => buildB c fun g => .andImm g r.ty
  | 0x03D => buildB c fun g => .orImm g r.ty
  | 0x03E => buildB c fun g => .xorImm g r.ty
  | 0x04A => buildS1 c fun g a => .cmpImm g r.ty (r.d.extractLsb' 3 3) (r.d.extractLsb' 0 3) a c.imm
  | 0x04C => buildD c fun g d => .movImm g (r.mod.getLsbD 0) d c.imm
  | _ => .error 0

/-- R126: control instructions. -/
def buildCtl (c : Enc) : Except Nat Instr :=
  let r := c.raw
  match r.opc.toNat with
  | 0x060 => .ok (.br r.guard c.target)
  | 0x061 =>
    match Operand.ofCode r.s1 with
    | some (.walker w) => .ok (.bre r.guard (r.mod.extractLsb' 0 2) (r.mod.getLsbD 2) w c.target)
    | _ => .error 4
  | 0x062 => buildS1 c .jmp
  | 0x063 => buildD c fun g d => .call g d c.target
  | 0x064 => buildA1 c .callr
  | 0x065 => buildS1 c .ret
  | 0x066 => .ok (.exit r.guard)
  | 0x067 => .ok (.yield r.guard)
  | 0x068 => .ok (.brk r.guard (r.imm20.extractLsb' 0 16))
  | 0x069 => .ok (.rep r.guard (r.imm20.extractLsb' 0 7) (r.imm20.extractLsb' 7 4) (r.imm20.extractLsb' 11 2))
  | 0x06A => .ok (.nop r.guard)
  | _ => .error 0

/-- R124: predicate instructions. -/
def buildPred (c : Enc) : Except Nat Instr :=
  let r := c.raw
  match r.opc.toNat with
  | 0x080 => .ok (.plog r.guard r.mod (r.d.extractLsb' 0 3) (r.s1.extractLsb' 0 3) (r.s2.extractLsb' 0 3))
  | 0x081 => buildD c .pget
  | 0x082 => buildS2 c .pput
  | 0x083 => buildS2 c fun g => .pbit g (r.mod.getLsbD 0) (r.d.extractLsb' 0 3)
  | _ => .error 0

/-- R145: floating-point, conversion and special-function instructions. -/
def buildFloat (c : Enc) : Except Nat Instr :=
  let r := c.raw
  let ft := r.mod.extractLsb' 0 2
  match r.opc.toNat with
  | 0x090 => buildF2 c fun g => .fadd g ft
  | 0x091 => buildF2 c fun g => .fsub g ft
  | 0x092 => buildF2 c fun g => .fmul g ft
  | 0x093 => buildF3 c fun g => .fma g ft (r.mod.getLsbD 2) (r.mod.getLsbD 3)
  | 0x094 => buildF2 c .fdiv
  | 0x095 => buildF1 c .fsqrt
  | 0x096 => buildA1 c fun g => .fneg g ft
  | 0x097 => buildA1 c fun g => .fabs g ft
  | 0x098 => buildA2 c fun g => .fmin g ft
  | 0x099 => buildA2 c fun g => .fmax g ft
  | 0x09A => buildA2 c fun g => .fminp g ft
  | 0x09B => buildA2 c fun g => .fmaxp g ft
  | 0x09C =>
    match c.modx with
    | none => .error 3
    | some x => buildS2 c fun g a b => .fcmp g (r.d.extractLsb' 3 3) (r.d.extractLsb' 0 3) a b x
  | 0x09D => buildA1 c fun g => .fclass g ft
  | 0x09E => buildF1 c fun g => .frcp g ft
  | 0x09F => buildF1 c fun g => .frsq g ft
  | 0x0A0 => buildF1 c fun g => .fexp2 g ft
  | 0x0A1 => buildF1 c fun g => .flog2 g ft
  | 0x0A2 => buildF1 c fun g => .fsinpi g ft
  | 0x0A3 => buildF1 c fun g => .fcospi g ft
  | 0x0A4 => buildF1 c fun g => .ftanh g ft
  | 0x0A8 => buildF1 c fun g => .cvt g (r.s3.extractLsb' 0 4) (r.s3.extractLsb' 4 4)
  | 0x0A9 => buildF2 c fun g => .cvtn g ft
  | 0x0AA => buildF2 c fun g => .cvtw g ft
  | 0x0AB => buildA2 c .fscl
  | 0x0B0 => buildA3 c fun g => .dot4 g (r.mod.getLsbD 0) (r.mod.getLsbD 1) (r.mod.getLsbD 2)
  | 0x0B1 => buildF3 c fun g => .fdot2 g ft
  | 0x0B4 => buildF2 c .wfu
  | 0x0B5 => buildF2 c .wfm
  | 0x0B8 => buildS1 c .seed
  | 0x0BC => buildD c .sfget
  | 0x0BD => buildS1 c .sfclr
  | 0x0BE => buildS1 c .sfarm
  | _ => .error 0

/-- R190: cross-lane and wave-state instructions. -/
def buildCross (c : Enc) : Except Nat Instr :=
  let r := c.raw
  match r.opc.toNat with
  | 0x100 => .ok (.vote r.guard (r.mod.extractLsb' 0 2) (r.d.extractLsb' 0 3) (r.s1.extractLsb' 0 3))
  | 0x101 => buildD c fun g d => .vmask g d (r.s1.extractLsb' 0 3)
  | 0x102 => buildA3 c fun g => .shfl g (r.mod.extractLsb' 0 2) (r.mod.getLsbD 2)
  | 0x103 => buildF1 c fun g => .red g r.mod
  | 0x104 => buildF1 c fun g => .scan g r.mod
  | 0x105 => buildF1 c fun g => .scanx g r.mod
  | 0x106 => .ok (.elect r.guard (r.d.extractLsb' 0 3))
  | 0x107 => buildS1 c .part
  | 0x108 => buildS1 c .pqset
  | 0x109 => buildD c .pqget
  | 0x10A => buildD c .partget
  | _ => .error 0

/-- R197: core storage, walkers and queues. -/
def buildStore (c : Enc) : Except Nat Instr :=
  let r := c.raw
  let w3 := r.mod.extractLsb' 0 3
  match r.opc.toNat with
  | 0x120 => buildM c fun g => .lds g w3
  | 0x121 => buildMs c fun g => .sts g w3
  | 0x124 => buildS1 c .rquota
  | 0x125 => buildS1 c .rdead
  | 0x126 => buildS1 c .rgrant
  | 0x128 => buildS1 c fun g => .wbind g w3
  | 0x129 => .ok (.wunb r.guard w3)
  | 0x12A => buildS2 c fun g => .wseek g w3
  | 0x130 => buildS1 c fun g => .qbind g r.mod
  | 0x131 => do let p ← portOf r.s1; buildD c fun g d => .qpop g w3 d p (r.e1 == 1)
  | 0x132 => do let p ← portOf r.d; buildS1 c fun g a => .qpush g w3 p a
  | 0x133 => do let p ← portOf r.s1; buildD c fun g d => .qlen g d p (r.e1 == 1)
  | _ => .error 0

/-- R380: global memory, atomics, fences and barriers. -/
def buildMem (c : Enc) : Except Nat Instr :=
  let r := c.raw
  let size := r.mod.extractLsb' 0 3
  let op := r.mod.extractLsb' 0 4
  let w64 := r.mod.getLsbD 4
  match r.opc.toNat with
  | 0x140 =>
    match r.mod.extractLsb' 3 2 |>.toNat with
    | 0 => buildM c fun g => .ld g size
    | 1 => buildM c fun g => .ldNa g size
    | 2 => buildM c fun g => .ldAcq g size
    | _ => .error 3
  | 0x141 => buildMs c fun g => .st g size
  | 0x142 => buildMs c fun g => .stRel g size (r.mod.extractLsb' 3 2)
  | 0x144 => buildMs c fun g => .atom g op w64
  | 0x145 => buildMs c fun g => .atomAcq g op w64
  | 0x148 => buildMs c fun g => .atomRel g 0 op w64
  | 0x149 => buildMs c fun g => .atomRel g 1 op w64
  | 0x14A => buildMs c fun g => .atomRel g 2 op w64
  | 0x14B => buildMs c fun g => .atomRel g 3 op w64
  | 0x14C => buildMs c fun g => .atomAr g 0 op w64
  | 0x14D => buildMs c fun g => .atomAr g 1 op w64
  | 0x14E => buildMs c fun g => .atomAr g 2 op w64
  | 0x14F => buildMs c fun g => .atomAr g 3 op w64
  | 0x150 => .ok (.fence r.guard size)
  | 0x151 => .ok (.bar r.guard (r.mod.extractLsb' 0 2))
  | 0x152 => .ok (.ss r.guard (r.mod.extractLsb' 0 2))
  | 0x154 => buildM c .ldtag
  | 0x155 => buildMs c .sttag
  | _ => .error 0

/-- R226, R254, R292, R305: lathe, batch, copy and trap instructions. -/
def buildEngine (c : Enc) : Except Nat Instr :=
  let r := c.raw
  match r.opc.toNat with
  | 0x160 => buildE c .lmma (some .lmmaQueued)
  | 0x161 => buildA1 c .aalloc
  | 0x162 => buildS1 c .afree
  | 0x163 => buildS1 c .aband
  | 0x164 => buildS1 c .arel
  | 0x165 => buildA1 c .ald
  | 0x166 => buildS2 c .ast
  | 0x167 => buildA1 c .ainfo
  | 0x170 => buildCls c fun k => .ok (.seal r.guard k)
  | 0x171 => buildCls c fun k => buildS1 c fun g => .waitb g k
  | 0x172 => buildCls c fun k => buildD c fun g => .bstat g k
  | 0x180 => buildE c .cpy (some .cpyQueued)
  | 0x181 => buildE c .cpymc none
  | 0x182 =>
    if r.mod.getLsbD 0 then buildA1 c fun g => .mcdrop g (r.mod.getLsbD 1)
    else buildA2 c fun g => .mcdrain g (r.mod.getLsbD 1)
  | 0x183 => buildA1 c .mcinfo
  | 0x190 => buildA1 c .trap
  | _ => .error 0

/-- R315, R446: privileged instructions. -/
def buildPriv (c : Enc) : Except Nat Instr :=
  let r := c.raw
  match r.opc.toNat with
  | 0x194 => if r.mod.getLsbD 0 then buildA3 c .resumeB else buildA2 c .resume
  | 0x195 => buildA2 c fun g => .kill g (r.mod.getLsbD 0)
  | 0x196 => buildA2 c fun g => .xres g (r.mod.getLsbD 0)
  | 0x197 => buildA2 c .psave
  | 0x198 => buildA2 c .prest
  | 0x199 => buildA1 c .crget
  | 0x19A => buildS2 c .crset
  | 0x19B => buildA3 c .icinv
  | 0x19C => buildS1 c .mcall
  | 0x19D => .ok (.mret r.guard)
  | 0x1A0 => buildA2 c fun g => .msend g (r.mod.getLsbD 0)
  | 0x1A1 => buildA1 c fun g => .mrecv g (r.mod.getLsbD 0)
  | 0x1A2 => buildS2 c .mmiow
  | 0x1A3 => buildA1 c .mmior
  | _ => .error 0

/-- R340, R427, R498: task, manifest, wayside and network instructions. -/
def buildTask (c : Enc) : Except Nat Instr :=
  match c.raw.opc.toNat with
  | 0x1B0 => buildA1 c .spawn
  | 0x1B1 => buildA1 c .mset
  | 0x1B2 => buildA1 c .mget
  | 0x1B3 => buildA2 c .mdrop
  | 0x1B4 => buildA2 c .mfind
  | 0x1C0 => buildE c .wcmd (some .wcmdQueued)
  | 0x1C1 => buildA1 c .winfo
  | 0x1C8 => buildE c .nsend none
  | 0x1C9 => buildE c .nput none
  | 0x1CA => buildE c .nget none
  | 0x1CB => buildE c .natom none
  | 0x1CC => buildE c .npost none
  | 0x1CD => buildA2 c .nwait
  | 0x1CE => buildA1 c .nctr
  | 0x1CF => buildS2 c .nset
  | _ => .error 0

/-- R66: the group of an opcode. -/
def build (c : Enc) : Except Nat Instr :=
  let n := c.raw.opc.toNat
  if n < 0x060 then buildInt c
  else if n < 0x080 then buildCtl c
  else if n < 0x090 then buildPred c
  else if n < 0x100 then buildFloat c
  else if n < 0x120 then buildCross c
  else if n < 0x140 then buildStore c
  else if n < 0x160 then buildMem c
  else if n < 0x194 then buildEngine c
  else if n < 0x1B0 then buildPriv c
  else buildTask c

/-! ## The encoder -/

/-- A word of format A with everything unused zero. -/
def rawOf (opc : Nat) (g : Guard) : Raw :=
  { ln := 0, mod := 0, pneg := bit1 g.neg, pred := g.pred, e3 := 0, e2 := 0, e1 := 0, s3 := 0, s2 := 0, s1 := 0, d := 0,
    opc := BitVec.ofNat 10 opc }
def Raw.withD (r : Raw) (o : Operand) : Raw := { r with d := o.code }
def Raw.withDs (r : Raw) (s : Src) : Raw := { r with d := s.o.code, e2 := bit1 s.e }
def Raw.withS1 (r : Raw) (s : Src) : Raw := { r with s1 := s.o.code, e1 := bit1 s.e }
def Raw.withS2 (r : Raw) (s : Src) : Raw := { r with s2 := s.o.code, e2 := bit1 s.e }
def Raw.withS3 (r : Raw) (s : Src) : Raw := { r with s3 := s.o.code, e3 := bit1 s.e }
def Raw.withMod (r : Raw) (m : BitVec 5) : Raw := { r with mod := m }
def Raw.withTy (r : Raw) (t : IntTy) : Raw := { r with mod := (0 : BitVec 1) ++ bit1 t.sat ++ bit1 t.uns ++ t.wid }
def Raw.withImm20 (r : Raw) (v : BitVec 20) : Raw := { r with s3 := v.extractLsb' 10 10, s2 := v.extractLsb' 0 10 }
def Raw.enc (r : Raw) : Enc := { raw := r, ext := none }
def Raw.encX (r : Raw) (w : DWord) : Enc := { raw := { r with ln := 1 }, ext := some w }
def Raw.encModx (r : Raw) (x : Option Modx) : Enc := match x with | none => r.enc | some m => r.encX m.word
def Raw.encImm (r : Raw) (i : Imm) : Enc := match i with | .short v => (r.withImm20 v).enc | .long w => r.encX w
def Raw.encTarget (r : Raw) (t : Target) : Enc :=
  match t with | .short v => (r.withImm20 v).enc | .long w => r.encX (w.setWidth 64)
/-- Format M: index, slot, mode and displacement. -/
def Raw.encMem (r : Raw) (m : MemOp) : Enc :=
  let low : BitVec 8 := m.mode.bits ++ m.slot
  match m.disp with
  | .short v => ({ r.withS1 m.idx with s2 := v.extractLsb' 0 2 ++ low, s3 := v.extractLsb' 2 10 }).enc
  | .long w => ({ r.withS1 m.idx with s2 := (0 : BitVec 2) ++ low, s3 := 0 }).encX (w.setWidth 64)
/-- Format E. -/
def Raw.encEng (r : Raw) (pb : Nat) (e : Bool) (port : Option (BitVec 5)) : Enc :=
  ({ r with s1 := BitVec.ofNat 10 pb, e1 := bit1 e,
            s2 := match port with | none => 0 | some p => (0 : BitVec 4) ++ (1 : BitVec 1) ++ p }).enc

def predD (k : BitVec 3) : BitVec 10 := (0 : BitVec 7) ++ k
def condD (cond k : BitVec 3) : BitVec 10 := (0 : BitVec 4) ++ cond ++ k
def mod2 (b : BitVec 2) : BitVec 5 := (0 : BitVec 3) ++ b
def mod3 (b : BitVec 3) : BitVec 5 := (0 : BitVec 2) ++ b
def modBit (b : Bool) : BitVec 5 := (0 : BitVec 4) ++ bit1 b
def modAtom (op : BitVec 4) (w64 : Bool) : BitVec 5 := bit1 w64 ++ op
def walkerCode (w : Nat) : BitVec 10 := BitVec.ofNat 10 (640 + w)
def portCode (p : Nat) : BitVec 10 := BitVec.ofNat 10 (648 + p)
def clsMod (c : EngClass) : BitVec 5 := BitVec.ofNat 5 c.code

def encI3 (opc : Nat) (g : Guard) (ty : IntTy) (d : Operand) (a b : Src) : Enc := (((((rawOf opc g).withTy ty).withD d).withS1 a).withS2 b).enc
def encI2 (opc : Nat) (g : Guard) (ty : IntTy) (d : Operand) (a : Src) : Enc := ((((rawOf opc g).withTy ty).withD d).withS1 a).enc
def encIi (opc : Nat) (g : Guard) (ty : IntTy) (d : Operand) (a : Src) (i : Imm) : Enc := ((((rawOf opc g).withTy ty).withD d).withS1 a).encImm i
def encA2 (opc : Nat) (g : Guard) (m : BitVec 5) (d : Operand) (a : Src) : Enc := ((((rawOf opc g).withMod m).withD d).withS1 a).enc
def encA3 (opc : Nat) (g : Guard) (m : BitVec 5) (d : Operand) (a b : Src) : Enc := (((((rawOf opc g).withMod m).withD d).withS1 a).withS2 b).enc
def encF2 (opc : Nat) (g : Guard) (m : BitVec 5) (d : Operand) (a : Src) (x : Option Modx) : Enc :=
  ((((rawOf opc g).withMod m).withD d).withS1 a).encModx x
def encF3 (opc : Nat) (g : Guard) (m : BitVec 5) (d : Operand) (a b : Src) (x : Option Modx) : Enc :=
  (((((rawOf opc g).withMod m).withD d).withS1 a).withS2 b).encModx x

/-- The words of an LA3 instruction, from the tables of R57 to R60 and of the descriptions; `none` for a tariff
instruction or an event, which has no LA3 word. -/
def encode : Instr → Option Enc
  | .add g ty d a b => some (encI3 0x001 g ty d a b)
  | .sub g ty d a b => some (encI3 0x002 g ty d a b)
  | .mul g ty d a b => some (encI3 0x003 g ty d a b)
  | .mulhi g ty d a b => some (encI3 0x004 g ty d a b)
  | .mad g ty d a b c => some ((((((rawOf 0x005 g).withTy ty).withD d).withS1 a).withS2 b).withS3 c).enc
  | .div g ty d a b => some (encI3 0x006 g ty d a b)
  | .rem g ty d a b => some (encI3 0x007 g ty d a b)
  | .neg g ty d a => some (encI2 0x008 g ty d a)
  | .abs g ty d a => some (encI2 0x009 g ty d a)
  | .min g ty d a b => some (encI3 0x00A g ty d a b)
  | .max g ty d a b => some (encI3 0x00B g ty d a b)
  | .and g ty d a b => some (encI3 0x00C g ty d a b)
  | .or g ty d a b => some (encI3 0x00D g ty d a b)
  | .xor g ty d a b => some (encI3 0x00E g ty d a b)
  | .andn g ty d a b => some (encI3 0x00F g ty d a b)
  | .not g ty d a => some (encI2 0x010 g ty d a)
  | .shl g ty d a b => some (encI3 0x011 g ty d a b)
  | .shr g ty d a b => some (encI3 0x012 g ty d a b)
  | .rot g ty d a b => some (encI3 0x013 g ty d a b)
  | .bext g ty d a b => some (encI3 0x014 g ty d a b)
  | .bins g ty d a b c => some ((((((rawOf 0x015 g).withTy ty).withD d).withS1 a).withS2 b).withS3 c).enc
  | .popc g ty d a => some (encI2 0x016 g ty d a)
  | .clz g ty d a => some (encI2 0x017 g ty d a)
  | .ctz g ty d a => some (encI2 0x018 g ty d a)
  | .brev g ty d a => some (encI2 0x019 g ty d a)
  | .cmp g ty cond k a b => some ((({ (rawOf 0x01A g).withTy ty with d := condD cond k }).withS1 a).withS2 b).enc
  | .sel g dbl p d a b => some (encA3 0x01B g (p ++ (0 : BitVec 1) ++ bit1 dbl) d a b)
  | .mov g dbl d a => some (encA2 0x01C g (modBit dbl) d a)
  | .lea g d m => some (((rawOf 0x01E g).withD d).encMem m)
  | .addImm g ty d a i => some (encIi 0x031 g ty d a i)
  | .subImm g ty d a i => some (encIi 0x032 g ty d a i)
  | .mulImm g ty d a i => some (encIi 0x033 g ty d a i)
  | .minImm g ty d a i => some (encIi 0x03A g ty d a i)
  | .maxImm g ty d a i => some (encIi 0x03B g ty d a i)
  | .andImm g ty d a i => some (encIi 0x03C g ty d a i)
  | .orImm g ty d a i => some (encIi 0x03D g ty d a i)
  | .xorImm g ty d a i => some (encIi 0x03E g ty d a i)
  | .cmpImm g ty cond k a i => some (({ (rawOf 0x04A g).withTy ty with d := condD cond k }).withS1 a |>.encImm i)
  | .movImm g dbl d i => some ((((rawOf 0x04C g).withMod (modBit dbl)).withD d).encImm i)
  | .plog g op kd ka kb => some ({ rawOf 0x080 g with mod := op, d := predD kd, s1 := predD ka, s2 := predD kb } : Raw).enc
  | .pget g d => some ((rawOf 0x081 g).withD d).enc
  | .pput g a b => some (((rawOf 0x082 g).withS1 a).withS2 b).enc
  | .pbit g dbl kd a b => some ((({ rawOf 0x083 g with mod := modBit dbl, d := predD kd } : Raw).withS1 a).withS2 b).enc
  | .br g t => some ((rawOf 0x060 g).encTarget t)
  | .bre g dim neg w t =>
      some (({ rawOf 0x061 g with mod := (0 : BitVec 2) ++ bit1 neg ++ dim, s1 := walkerCode w } : Raw).encTarget t)
  | .jmp g a => some ((rawOf 0x062 g).withS1 a).enc
  | .call g d t => some (((rawOf 0x063 g).withD d).encTarget t)
  | .callr g d a => some (encA2 0x064 g 0 d a)
  | .ret g a => some ((rawOf 0x065 g).withS1 a).enc
  | .exit g => some (rawOf 0x066 g).enc
  | .yield g => some (rawOf 0x067 g).enc
  | .brk g code => some ((rawOf 0x068 g).withImm20 ((0 : BitVec 4) ++ code)).enc
  | .rep g count mask step => some ((rawOf 0x069 g).withImm20 ((0 : BitVec 7) ++ step ++ mask ++ count)).enc
  | .nop g => some (rawOf 0x06A g).enc
  | .fadd g ft d a b x => some (encF3 0x090 g (mod2 ft) d a b x)
  | .fsub g ft d a b x => some (encF3 0x091 g (mod2 ft) d a b x)
  | .fmul g ft d a b x => some (encF3 0x092 g (mod2 ft) d a b x)
  | .fma g ft np nc d a b c x =>
      some ((((((rawOf 0x093 g).withMod ((0 : BitVec 1) ++ bit1 nc ++ bit1 np ++ ft)).withD d).withS1 a).withS2 b).withS3 c |>.encModx x)
  | .fdiv g d a b x => some (encF3 0x094 g 0 d a b x)
  | .fsqrt g d a x => some (encF2 0x095 g 0 d a x)
  | .fneg g ft d a => some (encA2 0x096 g (mod2 ft) d a)
  | .fabs g ft d a => some (encA2 0x097 g (mod2 ft) d a)
  | .fmin g ft d a b => some (encA3 0x098 g (mod2 ft) d a b)
  | .fmax g ft d a b => some (encA3 0x099 g (mod2 ft) d a b)
  | .fminp g ft d a b => some (encA3 0x09A g (mod2 ft) d a b)
  | .fmaxp g ft d a b => some (encA3 0x09B g (mod2 ft) d a b)
  | .fcmp g cond k a b x => some ((({ rawOf 0x09C g with d := condD cond k } : Raw).withS1 a).withS2 b |>.encModx x)
  | .fclass g ft d a => some (encA2 0x09D g (mod2 ft) d a)
  | .frcp g ft d a x => some (encF2 0x09E g (mod2 ft) d a x)
  | .frsq g ft d a x => some (encF2 0x09F g (mod2 ft) d a x)
  | .fexp2 g ft d a x => some (encF2 0x0A0 g (mod2 ft) d a x)
  | .flog2 g ft d a x => some (encF2 0x0A1 g (mod2 ft) d a x)
  | .fsinpi g ft d a x => some (encF2 0x0A2 g (mod2 ft) d a x)
  | .fcospi g ft d a x => some (encF2 0x0A3 g (mod2 ft) d a x)
  | .ftanh g ft d a x => some (encF2 0x0A4 g (mod2 ft) d a x)
  | .cvt g dt sty d a x =>
      some (((({ rawOf 0x0A8 g with s3 := (0 : BitVec 2) ++ sty ++ dt } : Raw).withD d).withS1 a).encModx x)
  | .cvtn g sty d a b x => some (encF3 0x0A9 g (mod2 sty) d a b x)
  | .cvtw g dt d a b x => some (encF3 0x0AA g (mod2 dt) d a b x)
  | .fscl g d a b => some (encA3 0x0AB g 0 d a b)
  | .dot4 g ua ub sat d a b c =>
      some ((((((rawOf 0x0B0 g).withMod ((0 : BitVec 2) ++ bit1 sat ++ bit1 ub ++ bit1 ua)).withD d).withS1 a).withS2 b).withS3 c).enc
  | .fdot2 g ft d a b c x => some ((((((rawOf 0x0B1 g).withMod (mod2 ft)).withD d).withS1 a).withS2 b).withS3 c |>.encModx x)
  | .wfu g d a b x => some (encF3 0x0B4 g 0 d a b x)
  | .wfm g d a b x => some (encF3 0x0B5 g 0 d a b x)
  | .seed g a => some ((rawOf 0x0B8 g).withS1 a).enc
  | .sfget g d => some ((rawOf 0x0BC g).withD d).enc
  | .sfclr g a => some ((rawOf 0x0BD g).withS1 a).enc
  | .sfarm g a => some ((rawOf 0x0BE g).withS1 a).enc
  | .vote g form kd ka => some ({ rawOf 0x100 g with mod := mod2 form, d := predD kd, s1 := predD ka } : Raw).enc
  | .vmask g d ka => some ({ (rawOf 0x101 g).withD d with s1 := predD ka } : Raw).enc
  | .shfl g mode dbl d a b c =>
      some ((((((rawOf 0x102 g).withMod ((0 : BitVec 2) ++ bit1 dbl ++ mode)).withD d).withS1 a).withS2 b).withS3 c).enc
  | .red g op d a x => some (encF2 0x103 g op d a x)
  | .scan g op d a x => some (encF2 0x104 g op d a x)
  | .scanx g op d a x => some (encF2 0x105 g op d a x)
  | .elect g kd => some ({ rawOf 0x106 g with d := predD kd } : Raw).enc
  | .part g a => some ((rawOf 0x107 g).withS1 a).enc
  | .pqset g a => some ((rawOf 0x108 g).withS1 a).enc
  | .pqget g d => some ((rawOf 0x109 g).withD d).enc
  | .partget g d => some ((rawOf 0x10A g).withD d).enc
  | .lds g size d m => some ((((rawOf 0x120 g).withMod (mod3 size)).withD d).encMem m)
  | .sts g size d m => some ((((rawOf 0x121 g).withMod (mod3 size)).withDs d).encMem m)
  | .rquota g a => some ((rawOf 0x124 g).withS1 a).enc
  | .rdead g a => some ((rawOf 0x125 g).withS1 a).enc
  | .rgrant g a => some ((rawOf 0x126 g).withS1 a).enc
  | .wbind g w a => some (((rawOf 0x128 g).withMod (mod3 w)).withS1 a).enc
  | .wunb g w => some ((rawOf 0x129 g).withMod (mod3 w)).enc
  | .wseek g w a b => some ((((rawOf 0x12A g).withMod (mod3 w)).withS1 a).withS2 b).enc
  | .qbind g port a => some (((rawOf 0x130 g).withMod port).withS1 a).enc
  | .qpop g cnt d port e => some ({ ((rawOf 0x131 g).withMod (mod3 cnt)).withD d with s1 := portCode port, e1 := bit1 e } : Raw).enc
  | .qpush g cnt port a => some ({ ((rawOf 0x132 g).withMod (mod3 cnt)).withS1 a with d := portCode port } : Raw).enc
  | .qlen g d port e => some ({ (rawOf 0x133 g).withD d with s1 := portCode port, e1 := bit1 e } : Raw).enc
  | .lmma g pb e => some ((rawOf 0x160 g).encEng pb e none)
  | .lmmaQueued g pb e p => some ((rawOf 0x160 g).encEng pb e (some p))
  | .aalloc g d a => some (encA2 0x161 g 0 d a)
  | .afree g a => some ((rawOf 0x162 g).withS1 a).enc
  | .aband g a => some ((rawOf 0x163 g).withS1 a).enc
  | .arel g a => some ((rawOf 0x164 g).withS1 a).enc
  | .ald g d a => some (encA2 0x165 g 0 d a)
  | .ast g a b => some (((rawOf 0x166 g).withS1 a).withS2 b).enc
  | .ainfo g d a => some (encA2 0x167 g 0 d a)
  | .seal g c => some ((rawOf 0x170 g).withMod (clsMod c)).enc
  | .waitb g c a => some (((rawOf 0x171 g).withMod (clsMod c)).withS1 a).enc
  | .bstat g c d => some (((rawOf 0x172 g).withMod (clsMod c)).withD d).enc
  | .cpy g pb e => some ((rawOf 0x180 g).encEng pb e none)
  | .cpyQueued g pb e p => some ((rawOf 0x180 g).encEng pb e (some p))
  | .cpymc g pb e => some ((rawOf 0x181 g).encEng pb e none)
  | .mcdrain g nb d a b => some (encA3 0x182 g ((0 : BitVec 3) ++ bit1 nb ++ (0 : BitVec 1)) d a b)
  | .mcdrop g nb d a => some (encA2 0x182 g ((0 : BitVec 3) ++ bit1 nb ++ (1 : BitVec 1)) d a)
  | .mcinfo g d a => some (encA2 0x183 g 0 d a)
  | .trap g d a => some (encA2 0x190 g 0 d a)
  | .resume g d a b => some (encA3 0x194 g 0 d a b)
  | .resumeB g d a b c => some ((((((rawOf 0x194 g).withMod 1).withD d).withS1 a).withS2 b).withS3 c).enc
  | .kill g rec d a b => some (encA3 0x195 g (modBit rec) d a b)
  | .xres g step d a b => some (encA3 0x196 g (modBit step) d a b)
  | .psave g d a b => some (encA3 0x197 g 0 d a b)
  | .prest g d a b => some (encA3 0x198 g 0 d a b)
  | .crget g d a => some (encA2 0x199 g 0 d a)
  | .crset g a b => some (((rawOf 0x19A g).withS1 a).withS2 b).enc
  | .icinv g d a b c => some (((((rawOf 0x19B g).withD d).withS1 a).withS2 b).withS3 c).enc
  | .mcall g a => some ((rawOf 0x19C g).withS1 a).enc
  | .mret g => some (rawOf 0x19D g).enc
  | .spawn g d a => some (encA2 0x1B0 g 0 d a)
  | .mset g d a => some (encA2 0x1B1 g 0 d a)
  | .mget g d a => some (encA2 0x1B2 g 0 d a)
  | .mdrop g d a b => some (encA3 0x1B3 g 0 d a b)
  | .mfind g d a b => some (encA3 0x1B4 g 0 d a b)
  | .ld g size d m => some ((((rawOf 0x140 g).withMod (mod3 size)).withD d).encMem m)
  | .ldNa g size d m => some ((((rawOf 0x140 g).withMod ((1 : BitVec 2) ++ size)).withD d).encMem m)
  | .ldAcq g size d m => some ((((rawOf 0x140 g).withMod ((2 : BitVec 2) ++ size)).withD d).encMem m)
  | .st g size d m => some ((((rawOf 0x141 g).withMod (mod3 size)).withDs d).encMem m)
  | .stRel g size sc d m => some ((((rawOf 0x142 g).withMod (sc ++ size)).withDs d).encMem m)
  | .atom g op w64 d m => some ((((rawOf 0x144 g).withMod (modAtom op w64)).withDs d).encMem m)
  | .atomAcq g op w64 d m => some ((((rawOf 0x145 g).withMod (modAtom op w64)).withDs d).encMem m)
  | .atomRel g sc op w64 d m => some ((((rawOf (0x148 + sc.toNat) g).withMod (modAtom op w64)).withDs d).encMem m)
  | .atomAr g sc op w64 d m => some ((((rawOf (0x14C + sc.toNat) g).withMod (modAtom op w64)).withDs d).encMem m)
  | .fence g sc => some ((rawOf 0x150 g).withMod (mod3 sc)).enc
  | .bar g sc => some ((rawOf 0x151 g).withMod (mod2 sc)).enc
  | .ss g sc => some ((rawOf 0x152 g).withMod (mod2 sc)).enc
  | .ldtag g d m => some (((rawOf 0x154 g).withD d).encMem m)
  | .sttag g d m => some (((rawOf 0x155 g).withDs d).encMem m)
  | .wcmd g pb e => some ((rawOf 0x1C0 g).encEng pb e none)
  | .wcmdQueued g pb e p => some ((rawOf 0x1C0 g).encEng pb e (some p))
  | .winfo g d a => some (encA2 0x1C1 g 0 d a)
  | .nsend g pb e => some ((rawOf 0x1C8 g).encEng pb e none)
  | .nput g pb e => some ((rawOf 0x1C9 g).encEng pb e none)
  | .nget g pb e => some ((rawOf 0x1CA g).encEng pb e none)
  | .natom g pb e => some ((rawOf 0x1CB g).encEng pb e none)
  | .npost g pb e => some ((rawOf 0x1CC g).encEng pb e none)
  | .nwait g d a b => some (encA3 0x1CD g 0 d a b)
  | .nctr g d a => some (encA2 0x1CE g 0 d a)
  | .nset g a b => some (((rawOf 0x1CF g).withS1 a).withS2 b).enc
  | .msend g nb d a b => some (encA3 0x1A0 g (modBit nb) d a b)
  | .mrecv g nb d a => some (encA2 0x1A1 g (modBit nb) d a)
  | .mmiow g a b => some (((rawOf 0x1A2 g).withS1 a).withS2 b).enc
  | .mmior g d a => some (encA2 0x1A3 g 0 d a)
  | _ => none

/-- The 64-bit words of an instruction: its word and, when it has one, its extension word. -/
def encodeWords (i : Instr) : Option (List DWord) :=
  (encode i).map fun c => c.raw.toWord :: (match c.ext with | none => [] | some x => [x])

/-! ## The decoder -/

/-- R61, R62, R68: an instruction from fields and extension word, or the cause of the UNDEFINED fault. Opcode values of
R66 and R67 that no chapter assigns are cause 0; 0x000 is cause 1, the LA2 internal forms cause 2 and a header at an
instruction position cause 5. The privileged range (cause 7 at a compute core) is checked at issue. DEDUCED (LOG 11), where a word breaks both
cause 3 and cause 4: a reserved LN, ROUND, engine class or VIAQ comes first, then an operand code that names nothing (4), then another
reserved field or MOD value (3), then an operand that the instruction does not accept (4). -/
def decode (c : Enc) : Except Nat Instr :=
  let n := c.raw.opc.toNat
  if n = 0 then .error 1
  else if 0x380 ≤ n ∧ n ≤ 0x3BF then .error 2
  else if n = 0x3FF then .error 5
  else
    match build c with
    | .error e => .error (if e = 4 ∧ 1 < c.raw.ln.toNat then 3 else e)
    | .ok i =>
      if encode i = some c then
        if i.modOk then (if i.opsOk then .ok i else .error 4) else .error 3
      else .error 3

/-- R57: a word whose LN is 0b01 is followed by an extension word. -/
def hasExt (w : DWord) : Bool := w.extractLsb' 62 2 == 1

/-- An instruction word with the word that follows it. LN 0b10 and 0b11 are reserved (R57, cause 3 by R61). -/
def decodeWord (w next : DWord) : Except Nat Instr :=
  decode { raw := Raw.ofWord w, ext := if hasExt w then some next else none }

/-- R44, R47: instruction words at 8-byte aligned addresses, little-endian: total on any bytes. A list too short for its
words refuses with cause 5, as an extension word beyond the end of the block does. -/
def decodeBytes (bs : List Byte) : Except Nat (Instr × List Byte) :=
  if bs.length < 8 then .error 5
  else
    let w : DWord := BitVec.ofNat 64 (natOfBytes (bs.take 8))
    if hasExt w then
      if bs.length < 16 then .error 5
      else (decodeWord w (BitVec.ofNat 64 (natOfBytes ((bs.drop 8).take 8)))).map fun i => (i, bs.drop 16)
    else (decodeWord w 0).map fun i => (i, bs.drop 8)

/-! ## Block headers -/

/-- R51: a block header. -/
structure Header where
  len   : Nat
  live  : Nat
  recon : BitVec 16
  pfh   : BitVec 12
  land  : Bool
  conv  : Bool
  loop  : Bool
  xlat  : Bool
  rsvd  : BitVec 4
  deriving DecidableEq, Repr

/-- R46, R51: a word is a header when its opcode is 0x3FF. -/
def isHeader (w : DWord) : Bool := w.extractLsb' 0 10 == 0x3FF

def Header.ofWord (w : DWord) : Header :=
  { len := (w.extractLsb' 10 8).toNat, live := (w.extractLsb' 18 10).toNat, recon := w.extractLsb' 28 16,
    pfh := w.extractLsb' 44 12, land := w.getLsbD 56, conv := w.getLsbD 57, loop := w.getLsbD 58, xlat := w.getLsbD 59,
    rsvd := w.extractLsb' 60 4 }

/-- R51: the checks made on entering a header of an LA3 page; a failure is UNDEFINED with cause 5. -/
def Header.ok (h : Header) : Bool := h.len != 0 && decide (h.live ≤ 640) && h.rsvd == 0 && !h.xlat

/-- R48, R315: the block-ending instructions. -/
def Instr.endsBlock : Instr → Bool
  | .br .. | .bre .. | .jmp .. | .call .. | .callr .. | .ret .. | .exit .. | .mcall .. | .mret .. => true
  | _ => false

/-! ## LA2 (R80 to R84) -/

/-- R81: a register byte as a source. -/
def la2Src (b : BitVec 8) : Option Src :=
  let n := b.toNat
  if n < 240 then some { o := .reg n, e := false }
  else match n with
    | 240 => some { o := .special 12, e := false }
    | 241 => some { o := .special 0, e := false }
    | 242 => some { o := .special 1, e := false }
    | 243 => some { o := .special 2, e := false }
    | 244 => some { o := .special 3, e := false }
    | 245 => some { o := .special 5, e := false }
    | 246 => some { o := .special 6, e := false }
    | 247 => some { o := .special 8, e := false }
    | _ => none

/-- R81: a register byte as a destination. -/
def la2Dst (b : BitVec 8) : Option Operand :=
  if b.toNat < 240 then some (.reg b.toNat) else if b.toNat = 240 then some (.special 12) else none

/-- R80: the fields of an LA2 word. -/
structure La2 where
  op2 : Nat
  rd : BitVec 8
  ra : BitVec 8
  rb : BitVec 8
  rc : BitVec 8
  gA : Guard
  mdA : BitVec 4
  topA : BitVec 16
  gB : Guard
  mdB : BitVec 4
  imm32 : BitVec 32
  slot : BitVec 6
  am : BitVec 2
  disp24 : BitVec 24
  deriving DecidableEq, Repr

def La2.ofWord (w : DWord) : La2 :=
  { op2 := (w.extractLsb' 0 8).toNat, rd := w.extractLsb' 8 8, ra := w.extractLsb' 16 8, rb := w.extractLsb' 24 8,
    rc := w.extractLsb' 32 8, gA := { pred := w.extractLsb' 40 3, neg := w.getLsbD 43 }, mdA := w.extractLsb' 44 4,
    topA := w.extractLsb' 48 16, gB := { pred := w.extractLsb' 24 3, neg := w.getLsbD 27 }, mdB := w.extractLsb' 28 4,
    imm32 := w.extractLsb' 32 32, slot := w.extractLsb' 32 6, am := w.extractLsb' 38 2, disp24 := w.extractLsb' 40 24 }

/-- A reserved or unused LA2 field must be zero, or the word is untranslatable (R80). -/
def ensureZ (b : Bool) (k : Option Enc) : Option Enc := if b then k else none

/-- R83: an integer MD2 is MOD[3:0]. -/
def la2IntRaw (opc : Nat) (f : La2) (g : Guard) (md : BitVec 4) : Raw := (rawOf opc g).withMod ((0 : BitVec 1) ++ md)
/-- R83: a rounding mode other than RNE needs the modifier extension word (R84, form 0x383). -/
def la2Round (r : Raw) (md : BitVec 2) : Enc :=
  if md = 0 then r.enc else r.encX (md.setWidth 64)

/-- R64: the f32 pattern of a floating constant. -/
def fltConst (k : Nat) : BitVec 32 :=
  let m := k % 32
  let v : BitVec 32 :=
    if m < 16 then BitVec.ofNat 32 ((127 + m - 8) * 2 ^ 23)
    else match m with
    | 16 => 0x40400000 | 17 => 0x40A00000 | 18 => 0x40C00000 | 19 => 0x41200000 | 20 => 0x3FC00000 | 21 => 0x3F400000
    | 22 => 0x3DCCCCCD | 23 => 0x3EAAAAAB | 24 => 0x40490FDB | 25 => 0x40C90FDB | 26 => 0x3F317218 | 27 => 0x3FB8AA3B
    | 28 => 0x3F3504F3 | 29 => 0x7F7FFFFF | 30 => 0x7F800000 | _ => 0x7FC00000
  if k / 32 % 2 = 1 then v ||| 0x80000000 else v
/-- R64, R65, R71: the floating constant that an integer operand of a WID reads as the value of an IMM32: its pattern,
zero-extended; no pattern serves packed elements. -/
def la2FltCode (wid : BitVec 2) (v : BitVec 32) : Option Nat :=
  if wid = 0 ∨ (wid = 1 ∧ !v.getLsbD 31) then (List.range 64).find? fun k => fltConst k == v else none
/-- R84: an immediate takes a constant code of the A form, else IMM20 of the B form, else the wide form 0x380. -/
def la2Imm (opcA opcB : Nat) (f : La2) (put : Nat → Raw) (cst : Raw → Src → Raw) : Enc :=
  let v := f.imm32.toInt
  -- R65, R110: the value that the operand reads in each element
  let e := match (f.mdB.extractLsb' 0 2).toNat with
    | 2 => (f.imm32.extractLsb' 0 16).toInt
    | 3 => (f.imm32.extractLsb' 0 8).toInt
    | _ => v
  if -64 ≤ e ∧ e ≤ 127 then (cst (put opcA) { o := .intc (e + 64).toNat, e := false }).enc
  else match la2FltCode (f.mdB.extractLsb' 0 2) f.imm32 with
  | some k => (cst (put opcA) { o := .fltc k, e := false }).enc
  | none =>
  if -(2 ^ 19) ≤ v ∧ v < 2 ^ 19 then ((put opcB).withImm20 (BitVec.ofInt 20 v)).enc
  else (put opcB).encX (f.imm32.signExtend 64)

/-- R82 memory rows: AM, SLOT and DISP24; DISP24 that does not fit OFF12 takes the wide form 0x381. -/
def la2Mem (r : Raw) (f : La2) : Option Enc :=
  match la2Src f.ra with
  | none => none
  | some idx =>
    if f.am = 3 then none
    else
      let v := f.disp24.toInt
      let disp := if -(2 ^ 11) ≤ v ∧ v < 2 ^ 11 then Disp.short (BitVec.ofInt 12 v) else Disp.long (f.disp24.signExtend 32)
      some (r.encMem { mode := AMode.ofBits f.am, slot := f.slot, idx, disp })

/-- R82 transfer rows: OFF32 that does not fit OFF20 takes the wide form 0x382. -/
def la2Target (r : Raw) (f : La2) : Enc :=
  let v := f.imm32.toInt
  r.encTarget (if -(2 ^ 19) ≤ v ∧ v < 2 ^ 19 then .short (BitVec.ofInt 20 v) else .long f.imm32)

/-- The A2 rows of R82. DESIGN CHOICE (LOG 14): the bits MD2[3:2] of `sel` are a field that the opcode does not use, since its
MOD[4:2] comes from RA, and RB is one in the rows `popc`, `clz`, `fsqrt`, `frcp`, `frsq`, `fexp2` and `flog2`, whose LA3 instruction has no S2,
though R82 gives 'S2 RB' for the whole row; a word that sets such a field is untranslatable (R80). -/
def la2A (f : La2) : Option Enc :=
  if f.topA ≠ 0 then none
  else
    let g := f.gA
    let md := f.mdA
    let two (r : Raw) : Option Raw := do let d ← la2Dst f.rd; let a ← la2Src f.ra; some ((r.withD d).withS1 a)
    let three (r : Raw) : Option Raw := do let r ← two r; let b ← la2Src f.rb; some (r.withS2 b)
    let four (r : Raw) : Option Raw := do let r ← three r; let c ← la2Src f.rc; some (r.withS3 c)
    let cmpD : BitVec 10 := condD (f.rd.extractLsb' 3 3) (f.rd.extractLsb' 0 3)
    let ftr (r : Raw) : Raw := r.withMod (mod2 (md.extractLsb' 0 2))
    let intOp := la2IntRaw
    match f.op2 with
    | 0x01 => ensureZ (f.rc == 0) ((three (intOp 0x001 f g md)).map Raw.enc)
    | 0x02 => ensureZ (f.rc == 0) ((three (intOp 0x002 f g md)).map Raw.enc)
    | 0x03 => ensureZ (f.rc == 0) ((three (intOp 0x003 f g md)).map Raw.enc)
    | 0x04 => ensureZ (f.rc == 0) ((three (intOp 0x004 f g md)).map Raw.enc)
    | 0x05 => (four (intOp 0x005 f g md)).map Raw.enc
    | 0x06 => ensureZ (f.rc == 0) ((three (intOp 0x00C f g md)).map Raw.enc)
    | 0x07 => ensureZ (f.rc == 0) ((three (intOp 0x00D f g md)).map Raw.enc)
    | 0x08 => ensureZ (f.rc == 0) ((three (intOp 0x00E f g md)).map Raw.enc)
    | 0x09 => ensureZ (f.rc == 0) ((three (intOp 0x011 f g md)).map Raw.enc)
    | 0x0A => ensureZ (f.rc == 0) ((three (intOp 0x012 f g md)).map Raw.enc)
    | 0x0B => ensureZ (f.rc == 0) ((three (intOp 0x00A f g md)).map Raw.enc)
    | 0x0C => ensureZ (f.rc == 0) ((three (intOp 0x00B f g md)).map Raw.enc)
    | 0x0D => ensureZ (f.rc == 0) ((three (intOp 0x006 f g md)).map Raw.enc)
    | 0x0E => ensureZ (f.rc == 0) ((three (intOp 0x007 f g md)).map Raw.enc)
    | 0x0F => ensureZ (f.rb == 0 && f.rc == 0 && md.extractLsb' 2 2 == 0)
        ((two ((rawOf 0x01C g).withMod (mod2 (md.extractLsb' 0 2)))).map Raw.enc)
    | 0x10 => ensureZ (f.rc == 0 && f.rd.extractLsb' 6 2 == 0)
        (do let a ← la2Src f.ra; let b ← la2Src f.rb
            some (({ intOp 0x01A f g md with d := cmpD }.withS1 a).withS2 b).enc)
    | 0x11 => ensureZ (f.ra.extractLsb' 3 5 == 0 && md.extractLsb' 2 2 == 0)
        (do let d ← la2Dst f.rd; let a ← la2Src f.rb; let b ← la2Src f.rc
            some (((({ rawOf 0x01B g with mod := f.ra.extractLsb' 0 3 ++ md.extractLsb' 0 2 } : Raw).withD d).withS1 a).withS2 b).enc)
    | 0x12 => ensureZ (f.rb == 0 && f.rc == 0) ((two (intOp 0x016 f g md)).map Raw.enc)
    | 0x13 => ensureZ (f.rb == 0 && f.rc == 0) ((two (intOp 0x017 f g md)).map Raw.enc)
    | 0x14 => ensureZ (f.rc == 0) ((three (intOp 0x014 f g md)).map Raw.enc)
    | 0x15 => (four (intOp 0x015 f g md)).map Raw.enc
    | 0x20 => ensureZ (f.rc == 0) ((three (ftr (rawOf 0x090 g))).map (la2Round · (md.extractLsb' 2 2)))
    | 0x21 => ensureZ (f.rc == 0) ((three (ftr (rawOf 0x091 g))).map (la2Round · (md.extractLsb' 2 2)))
    | 0x22 => ensureZ (f.rc == 0) ((three (ftr (rawOf 0x092 g))).map (la2Round · (md.extractLsb' 2 2)))
    | 0x23 => (four ((rawOf 0x093 g).withMod ((0 : BitVec 1) ++ md))).map Raw.enc
    | 0x24 => ensureZ (f.rc == 0) ((three (ftr (rawOf 0x094 g))).map (la2Round · (md.extractLsb' 2 2)))
    | 0x25 => ensureZ (f.rb == 0 && f.rc == 0) ((two (ftr (rawOf 0x095 g))).map (la2Round · (md.extractLsb' 2 2)))
    | 0x26 => ensureZ (f.rc == 0 && md.extractLsb' 2 2 == 0) ((three (ftr (rawOf 0x098 g))).map Raw.enc)
    | 0x27 => ensureZ (f.rc == 0 && md.extractLsb' 2 2 == 0) ((three (ftr (rawOf 0x099 g))).map Raw.enc)
    | 0x28 => ensureZ (f.rc == 0 && f.rd.extractLsb' 6 2 == 0 && md.extractLsb' 2 2 == 0)
        (do let a ← la2Src f.ra; let b ← la2Src f.rb
            some (({ ftr (rawOf 0x09C g) with d := cmpD }.withS1 a).withS2 b).enc)
    | 0x29 => ensureZ (f.rb == 0 && f.rc == 0 && md.extractLsb' 2 2 == 0) ((two (ftr (rawOf 0x09E g))).map Raw.enc)
    | 0x2A => ensureZ (f.rb == 0 && f.rc == 0 && md.extractLsb' 2 2 == 0) ((two (ftr (rawOf 0x09F g))).map Raw.enc)
    | 0x2B => ensureZ (f.rb == 0 && f.rc == 0 && md.extractLsb' 2 2 == 0) ((two (ftr (rawOf 0x0A0 g))).map Raw.enc)
    | 0x2C => ensureZ (f.rb == 0 && f.rc == 0 && md.extractLsb' 2 2 == 0) ((two (ftr (rawOf 0x0A1 g))).map Raw.enc)
    | 0x2D => ensureZ (f.rb == 0 && md.extractLsb' 2 2 == 0)
        ((two ({ rawOf 0x0A8 g with s3 := (0 : BitVec 2) ++ f.rc })).map (la2Round · (md.extractLsb' 0 2)))
    | 0x2E => ensureZ (f.rb == 0 && f.rc == 0 && md.extractLsb' 2 2 == 0) ((two (ftr (rawOf 0x096 g))).map Raw.enc)
    | 0x2F => ensureZ (f.rb == 0 && f.rc == 0 && md.extractLsb' 2 2 == 0) ((two (ftr (rawOf 0x097 g))).map Raw.enc)
    | 0x30 => ensureZ (f.rb == 0 && f.rc == 0 && md.extractLsb' 2 2 == 0 && f.rd.extractLsb' 3 5 == 0 && f.ra.extractLsb' 3 5 == 0)
        (some ({ rawOf 0x100 g with mod := mod2 (md.extractLsb' 0 2), d := f.rd.setWidth 10, s1 := f.ra.setWidth 10 } : Raw).enc)
    | 0x31 => ensureZ (f.rb == 0 && f.rc == 0 && md == 0 && f.ra.extractLsb' 3 5 == 0)
        (do let d ← la2Dst f.rd; some ({ (rawOf 0x101 g).withD d with s1 := f.ra.setWidth 10 } : Raw).enc)
    | 0x32 => ensureZ (!md.getLsbD 3) ((four ((rawOf 0x102 g).withMod (mod3 (md.extractLsb' 0 3)))).map Raw.enc)
    | 0x33 => ensureZ (f.rb == 0 && f.rc == 0) ((two ((rawOf 0x103 g).withMod (md.setWidth 5))).map Raw.enc)
    | 0x34 => ensureZ (f.ra == 0 && f.rb == 0 && f.rc == 0 && md == 0 && f.rd.extractLsb' 3 5 == 0)
        (some ({ rawOf 0x106 g with d := f.rd.setWidth 10 } : Raw).enc)
    | 0x38 => ensureZ (f.rd == 0 && f.ra == 0 && f.rb == 0 && f.rc == 0 && md.toNat ≤ 3)
        (some ((rawOf 0x151 g).withMod (md.setWidth 5)).enc)
    | 0x39 => ensureZ (f.rd == 0 && f.ra == 0 && f.rb == 0 && f.rc == 0 && md.toNat ≤ 7)
        (some ((rawOf 0x150 g).withMod (md.setWidth 5)).enc)
    | 0x3A => ensureZ (f.rd == 0 && f.ra == 0 && f.rb == 0 && f.rc == 0 && md == 0) (some (rawOf 0x066 g).enc)
    | 0x3B => ensureZ (f.rd == 0 && f.ra == 0 && f.rb == 0 && f.rc == 0 && md == 0) (some (rawOf 0x06A g).enc)
    | _ => none

/-- The B2 rows of R82. -/
def la2B (f : La2) : Option Enc :=
  let g := f.gB
  let md := f.mdB
  let row (opcA opcB : Nat) : Option Enc := do
    let d ← la2Dst f.rd; let a ← la2Src f.ra
    some (la2Imm opcA opcB f (fun o => ((la2IntRaw o f g md).withD d).withS1 a) (fun r s => r.withS2 s))
  match f.op2 with
  | 0x41 => row 0x001 0x031
  | 0x42 => row 0x002 0x032
  | 0x43 => row 0x003 0x033
  | 0x46 => row 0x00C 0x03C
  | 0x47 => row 0x00D 0x03D
  | 0x48 => row 0x00E 0x03E
  | 0x4B => row 0x00A 0x03A
  | 0x4C => row 0x00B 0x03B
  | 0x4F => ensureZ (f.ra == 0 && md.extractLsb' 2 2 == 0)
      (do let d ← la2Dst f.rd
          some (la2Imm 0x01C 0x04C f (fun o => ((rawOf o g).withMod (mod2 (md.extractLsb' 0 2))).withD d) (fun r s => r.withS1 s)))
  | 0x50 => ensureZ (f.rd.extractLsb' 6 2 == 0)
      (do let a ← la2Src f.ra
          some (la2Imm 0x01A 0x04A f
            (fun o => ({ la2IntRaw o f g md with d := condD (f.rd.extractLsb' 3 3) (f.rd.extractLsb' 0 3) }).withS1 a) (fun r s => r.withS2 s)))
  | 0x60 => ensureZ (f.rd == 0 && f.ra == 0 && md == 0 && f.imm32.extractLsb' 16 16 == 0)
      (some ((rawOf 0x068 g).withImm20 (f.imm32.extractLsb' 0 20)).enc)
  | _ => none

/-- The M2 rows of R82. -/
def la2M (f : La2) : Option Enc :=
  let g := f.gB
  let sz := f.mdB.extractLsb' 0 3
  let na := f.mdB.getLsbD 3
  let load (opc : Nat) (m : BitVec 5) : Option Enc := do let d ← la2Dst f.rd; la2Mem (((rawOf opc g).withMod m).withD d) f
  let store (opc : Nat) (m : BitVec 5) : Option Enc := do let s ← la2Src f.rd; la2Mem (((rawOf opc g).withMod m).withDs s) f
  match f.op2 with
  | 0x80 => load 0x140 (bit1 na |>.append sz |> fun x => (0 : BitVec 1) ++ x)
  | 0x81 => ensureZ (!na) (store 0x141 (mod3 sz))
  | 0x82 => ensureZ (!na) (load 0x140 ((2 : BitVec 2) ++ sz))
  | 0x83 => do let d ← la2Dst f.rd; la2Mem ({ (rawOf 0x144 g).withMod (f.mdB.setWidth 5) with d := d.code }) f
  | 0x84 => ensureZ (!na) (load 0x120 (mod3 sz))
  | 0x85 => ensureZ (!na) (store 0x121 (mod3 sz))
  | _ => none

/-- The J2 rows of R82. -/
def la2J (f : La2) : Option Enc :=
  let g := f.gB
  ensureZ (f.mdB == 0)
    (match f.op2 with
     | 0xC0 => ensureZ (f.rd == 0 && f.ra == 0) (some (la2Target (rawOf 0x060 g) f))
     | 0xC1 => ensureZ (f.ra == 0) (do let d ← la2Dst f.rd; some (la2Target ((rawOf 0x063 g).withD d) f))
     | 0xC2 => ensureZ (f.rd == 0 && f.imm32 == 0) (do let a ← la2Src f.ra; some ((rawOf 0x062 g).withS1 a).enc)
     | 0xC3 => ensureZ (f.rd == 0 && f.imm32 == 0) (do let a ← la2Src f.ra; some ((rawOf 0x065 g).withS1 a).enc)
     | 0xC4 => ensureZ (f.imm32 == 0) (do let d ← la2Dst f.rd; let a ← la2Src f.ra; some (((rawOf 0x064 g).withD d).withS1 a).enc)
     | _ => none)

/-- R76, R82: the LA3 form an LA2 word is translated into, or `none` when it has no LA3 equivalent. -/
def la2Translate (w : DWord) : Option Enc :=
  let f := La2.ofWord w
  match f.op2 / 64 with
  | 0 => la2A f
  | 1 => la2B f
  | 2 => la2M f
  | _ => la2J f

/-- R77, R83, R84: the instruction of an LA2 word: the untranslatable form, or the translated word under the LA3 rules. -/
def decodeLa2 (w : DWord) : Except Nat Instr :=
  match la2Translate w with
  | none => .ok (.la2UntranslatableForm w)
  | some c => decode c

/-! ## Tariff words (R351, R352) -/

structure TRaw where
  imm14 : BitVec 14
  rb : BitVec 4
  ra : BitVec 4
  rd : BitVec 4
  op : BitVec 6
  deriving DecidableEq, Repr

def TRaw.ofWord (w : Word) : TRaw :=
  { imm14 := w.extractLsb' 18 14, rb := w.extractLsb' 14 4, ra := w.extractLsb' 10 4, rd := w.extractLsb' 6 4, op := w.extractLsb' 0 6 }
def TRaw.toWord (r : TRaw) : Word := r.imm14 ++ r.rb ++ r.ra ++ r.rd ++ r.op

/-- R351, R352: the instruction a tariff word's opcode and used fields give; the error is the SWST code of R364. -/
def tBuild (r : TRaw) : Except Nat Instr :=
  match r.op.toNat with
  | 0x01 => .ok (.tAdd r.rd r.ra r.rb)
  | 0x02 => .ok (.tSub r.rd r.ra r.rb)
  | 0x03 => .ok (.tAnd r.rd r.ra r.rb)
  | 0x04 => .ok (.tOr r.rd r.ra r.rb)
  | 0x05 => .ok (.tXor r.rd r.ra r.rb)
  | 0x06 => .ok (.tShl r.rd r.ra r.rb)
  | 0x07 => .ok (.tShr r.rd r.ra r.rb)
  | 0x08 => .ok (.tMin r.rd r.ra r.rb)
  | 0x09 => .ok (.tMax r.rd r.ra r.rb)
  | 0x0A => .ok (.tMul r.rd r.ra r.rb)
  | 0x0B => .ok (.tSlt r.rd r.ra r.rb)
  | 0x0C => .ok (.tAddi r.rd r.ra r.imm14)
  | 0x0D => .ok (.tAndi r.rd r.ra r.imm14)
  | 0x0E => .ok (.tShri r.rd r.ra r.imm14)
  | 0x0F => .ok (.tMovi r.rd (r.imm14 ++ r.rb ++ r.ra))
  | 0x10 => .ok (.tMovhi r.rd (r.imm14.extractLsb' 0 8 ++ r.rb ++ r.ra))
  | 0x11 => .ok (.tBeq r.ra r.rb r.imm14)
  | 0x12 => .ok (.tBne r.ra r.rb r.imm14)
  | 0x13 => .ok (.tBlt r.ra r.rb r.imm14)
  | 0x14 => .ok (.tBge r.ra r.rb r.imm14)
  | 0x15 => .ok (.tBr r.imm14)
  | 0x16 =>
    if r.imm14.extractLsb' 11 3 ≠ 0 then .error 5
    else if r.imm14.getLsbD 10 then .ok (.vgetIndexed r.rd r.ra (r.imm14.extractLsb' 0 10))
    else if r.ra ≠ 0 then .error 5
    else .ok (.vget r.rd (r.imm14.extractLsb' 0 10))
  | 0x17 => if r.imm14.extractLsb' 3 11 ≠ 0 then .error 5 else .ok (.cget r.rd r.ra (r.imm14.extractLsb' 0 3))
  | 0x18 => .ok (.each r.rd r.imm14)
  | 0x19 => .ok (.next r.rd r.imm14)
  | 0x1A =>
    if r.imm14.extractLsb' 3 11 ≠ 0 then .error 5
    else
      match (r.imm14.extractLsb' 0 3).toNat with
      | 0 => .ok (.emitDisp r.ra)
      | 1 => if r.ra ≠ 0 then .error 5 else .ok .emitDefer
      | 2 => .ok (.emitPreempt r.ra)
      | 3 => if r.ra ≠ 0 then .error 5 else .ok .emitNone
      | 4 => if r.ra ≠ 0 then .error 5 else .ok .emitKill
      | 5 => if r.ra ≠ 0 then .error 5 else .ok .emitPark
      | 6 => if r.ra ≠ 0 then .error 5 else .ok .emitRetry
      | _ => if r.ra ≠ 0 then .error 5 else .ok .emitFallback
  | _ => .error 2

def tRaw3 (op : BitVec 6) (d a b : BitVec 4) : TRaw := { imm14 := 0, rb := b, ra := a, rd := d, op := op }
def tRawI (op : BitVec 6) (d a : BitVec 4) (i : BitVec 14) : TRaw := { imm14 := i, rb := 0, ra := a, rd := d, op := op }
def tRawB (op : BitVec 6) (a b : BitVec 4) (i : BitVec 14) : TRaw := { imm14 := i, rb := b, ra := a, rd := 0, op := op }

/-- The word of a tariff instruction, from the table of R352; `none` for any other row. -/
def tEncode : Instr → Option TRaw
  | .tAdd d a b => some (tRaw3 0x01 d a b)
  | .tSub d a b => some (tRaw3 0x02 d a b)
  | .tAnd d a b => some (tRaw3 0x03 d a b)
  | .tOr d a b => some (tRaw3 0x04 d a b)
  | .tXor d a b => some (tRaw3 0x05 d a b)
  | .tShl d a b => some (tRaw3 0x06 d a b)
  | .tShr d a b => some (tRaw3 0x07 d a b)
  | .tMin d a b => some (tRaw3 0x08 d a b)
  | .tMax d a b => some (tRaw3 0x09 d a b)
  | .tMul d a b => some (tRaw3 0x0A d a b)
  | .tSlt d a b => some (tRaw3 0x0B d a b)
  | .tAddi d a i => some (tRawI 0x0C d a i)
  | .tAndi d a i => some (tRawI 0x0D d a i)
  | .tShri d a i => some (tRawI 0x0E d a i)
  | .tMovi d i => some { imm14 := i.extractLsb' 8 14, rb := i.extractLsb' 4 4, ra := i.extractLsb' 0 4, rd := d, op := 0x0F }
  | .tMovhi d i =>
      some { imm14 := (0 : BitVec 6) ++ i.extractLsb' 8 8, rb := i.extractLsb' 4 4, ra := i.extractLsb' 0 4, rd := d, op := 0x10 }
  | .tBeq a b i => some (tRawB 0x11 a b i)
  | .tBne a b i => some (tRawB 0x12 a b i)
  | .tBlt a b i => some (tRawB 0x13 a b i)
  | .tBge a b i => some (tRawB 0x14 a b i)
  | .tBr i => some (tRawB 0x15 0 0 i)
  | .vget d sel => some (tRawI 0x16 d 0 ((0 : BitVec 4) ++ sel))
  | .vgetIndexed d a sel => some (tRawI 0x16 d a ((1 : BitVec 4) ++ sel))
  | .cget d a field => some (tRawI 0x17 d a ((0 : BitVec 11) ++ field))
  | .each d i => some (tRawI 0x18 d 0 i)
  | .next d i => some (tRawI 0x19 d 0 i)
  | .emitDisp a => some (tRawI 0x1A 0 a 0)
  | .emitDefer => some (tRawI 0x1A 0 0 1)
  | .emitPreempt a => some (tRawI 0x1A 0 a 2)
  | .emitNone => some (tRawI 0x1A 0 0 3)
  | .emitKill => some (tRawI 0x1A 0 0 4)
  | .emitPark => some (tRawI 0x1A 0 0 5)
  | .emitRetry => some (tRawI 0x1A 0 0 6)
  | .emitFallback => some (tRawI 0x1A 0 0 7)
  | _ => none

/-- R351, R352: a tariff word; an unused field that is not zero, or an opcode not assigned, refuses with SWST 2. -/
def tDecode (w : Word) : Except Nat Instr :=
  match tBuild (TRaw.ofWord w) with
  | .error e => if (TRaw.ofWord w).rb ≠ 0 ∨ ((TRaw.ofWord w).op = 0x1A ∧ (TRaw.ofWord w).rd ≠ 0) then .error 2 else .error e
  | .ok i => if tEncode i = some (TRaw.ofWord w) then (if i.modOk then .ok i else .error 2) else .error 2

/-- A tariff word from its bytes in memory order. -/
def tDecodeBytes (bs : List Byte) : Except Nat Instr :=
  if bs.length < 4 then .error 2 else tDecode (BitVec.ofNat 32 (natOfBytes (bs.take 4)))

/-- The decoder on an instruction whose bits are `w` as spec/opcode_table.json numbers them: 32 bits are a tariff word,
64 bits an LA3 word, 128 bits an LA3 word with its extension word. The bytes are laid out little-endian (R10, R44). -/
def decodeTableWord (nbits w : Nat) : Option Instr :=
  if nbits ≤ 32 then
    (match tDecodeBytes (bytesOf 4 w) with | .ok i => some i | .error _ => none)
  else
    (match decodeBytes (bytesOf 16 w) with | .ok (i, _) => some i | .error _ => none)

end Sys2Proof
end

