-- ==== Sys2Proof/Config.lean ====
section
/-! DEFINITION. What an implementation fixes and what the spec leaves open: constants with no body, so that no proof can
see their value. Each is named in a log entry. -/

namespace Sys2Proof.Config

/-- R7, R169-R173 and the orders R282, R309, R388, R430, R449 leave open: which of `n` enabled activities the device
performs at the free-value index `k` (LOG 4). -/
opaque pick : Nat → Nat → Nat

/-- R6, R7: lease-clock nanoseconds and core cycles are not fixed by the order of events: the time that passes before the
step with free-value index `k` (LOG 3). -/
opaque elapsed : Nat → Nat

/-- A value the spec leaves open at free-value index `k` (LOG 7). -/
opaque freeNat : Nat → Nat
/-- The same as a 32-bit word. -/
opaque freeWord : Nat → BitVec 32
/-- The same as a bit: which of two, such as the old or the new value of a byte that an operation failed at (R288, R298, R436,
R488; LOG 7). -/
opaque freeBit : Nat → Bool

/-- R152, R153: which of the values inside its bound an approximate function returns: a fixed function of the function's
number, the operand's bits and FTZ (LOG 8). -/
opaque approxPick : Nat → BitVec 32 → Bool → Nat

/-- R277: the set of the 1,536 of a cache slice that a line lies in (LOG 7). -/
opaque cacheSet : Nat → Nat
/-- R209, R213: how many positions a walker fetches ahead (LOG 7). -/
opaque walkerDepth : Nat
/-- R314: how many events a source can hold while they wait (LOG 7). -/
opaque eventRoom : Nat → Nat

/-- R458 to R460, R468: SM2 and SM3 are named and not defined: the digest and the signature functions (LOG 9). -/
opaque sm3 : List (BitVec 8) → BitVec 256
opaque sm2Verify : List (BitVec 8) → BitVec 256 → Bool
opaque sm2Sign : BitVec 256 → List (BitVec 8) → List (BitVec 8)
opaque sm2PublicKey : BitVec 256 → List (BitVec 8)
/-- R458 to R460: the identity key and the fused values of the part (LOG 9). -/
opaque identityKey : BitVec 256
opaque identityUnsealed : Bool
opaque fusedKeyDigest : BitVec 256
opaque fusedFloor : BitVec 32
/-- R459: the boot image in flash (LOG 9). -/
opaque bootImage : List (BitVec 8)

end Sys2Proof.Config
end

