-- ==== Sys2Proof/Machine/State.lean ====
section
/-! DEFINITION. The state of one NCL-2048HB package, as plain data (R17 to R43 and every chapter's own state), the reasons
a step may stop, and the machine right after reset. Tables that are mostly at their reset value are sparse: lists of
(key, value) pairs with rising keys. -/

namespace Sys2Proof.Machine

/-- A sparse table: keys strictly rising, no entry at its default value. -/
abbrev Sparse (α : Type) := List (Nat × α)

/-! ## Threads -/

/-- R27: thread status, in code order. -/
inductive Status where
  | exited | ready | running | blockedEmpty | blockedQueue | parkedTrap | parkedBarrier | parkedRecon | faulted
  deriving DecidableEq, Repr

/-- R21, R26, R28: what a blocked path waits for. `ports` names pops and pushes as (port, entries); a list that begins with
lanes says what each lane of the path waits for. -/
inductive Wait where
  | none
  | regs (rs : List (Nat × Nat))
  /-- R240: registers of lanes, whatever each lane's status -/
  | lanes (rs : List (Nat × Nat))
  /-- R214: elements of walkers, as (walker, positions ahead, lane) -/
  | walker (needs : List (Nat × Nat × Nat))
  | ports (pops pushes : List (Nat × Nat))
  | page (bti page : Nat)
  | waitb (cls : Nat) (ns : List (Nat × Nat))
  | sealed (cls : Nat) (lanes : List Nat)
  | fence (sc : Scope) (lanes : List Nat)
  | pend (banks : List Nat)
  | latheRoom
  | copyEntry
  | depotFree
  | depotMatch (chan : Nat)
  | trapPlace
  | spawnRoom
  | waysideRoom
  | netEntry
  | nctr (ws : List (Nat × Nat × DWord))
  | mailRoom (dst ring : Nat)
  | mail (ring : Nat)
  | swap
  | wctx (stack : Nat) (v : DWord)
  | stores (wh : Bool)
  /-- R323: the wave a `resume` or `kill` names, where one was present when it began to wait -/
  | saving (core turn : Nat) (area : DWord) (uid : Option Nat)
  deriving DecidableEq, Repr

/-- R255, R257: a batch: operations not yet complete, and the cause of the first failure reported. -/
structure Batch where
  ops  : List Nat := []
  fail : Option Nat := none
  deriving DecidableEq, Repr

/-- R25: the counters of one engine class. SEALED is the length of `queue` (oldest first). -/
structure BatchCtr where
  openOps : Nat := 0
  cur     : Batch := {}
  queue   : List Batch := []
  deriving DecidableEq, Repr

/-- R313: an exception record without the fields its core and cluster add at posting. -/
structure XRec where
  code  : Nat
  finfo : Word
  turn  : Nat
  uid   : Nat := 0
  lane  : Nat
  reps  : BitVec 13
  pc    : DWord
  extra : DWord
  time  : Lease
  word  : DWord
  /-- R349: the issue that took the fault -/
  iss   : Nat := 0
  deriving DecidableEq, Repr

/-- R381: a deferred MEMORY-UNAVAILABLE fault. -/
structure DefFault where
  finfo : Word
  pc    : DWord
  extra : DWord
  word  : DWord
  deriving DecidableEq, Repr

/-- R392, R396: a thread's arrival: barrier instance, BARGEN, the fence that an arrival by `ss` performs, WH of a thread
that has since been saved, and the sealed operations whose completion the release waits for. -/
structure Arrival where
  key    : Nat
  gen    : BitVec 16
  ss     : Option Scope
  wh     : Lease := 0
  ops    : List Nat
  deriving DecidableEq, Repr

/-- R409: what a walk of a page found, kept for the threads that waited on it: the entry, and 1 not valid or malformed,
2 no page read, 3 not present, 4 malformed page or another RGMODE, 16 + FINFO[5:0] an unavailable home. -/
structure WalkRes where
  bti   : Nat
  page  : Nat
  entry : BitVec 512
  res   : Nat
  deriving DecidableEq, Repr

/-- R17: a thread. `empty` maps an empty register to its pending producer. `hdr` and `hdrW` are the address and the word
of the header of the block that holds the PC (R49, R52); `la2` says that the PC lies in LA2 code (R78). -/
structure Thread where
  pc      : DWord := 0
  hdr     : DWord := 0
  hdrW    : DWord := 0
  la2     : Bool := false
  regs    : Sparse Word := []
  empty   : Sparse Nat := []
  preds   : BitVec 8 := 1
  repCnt  : BitVec 7 := 0
  repMask : BitVec 4 := 0
  repStep : BitVec 2 := 0
  wh      : Lease := 0
  batches : Sparse BatchCtr := []
  status  : Status := .exited
  wait    : Wait := .none
  arrived : Option Arrival := none
  defer   : List DefFault := []
  xrec    : Option XRec := none
  walked  : List WalkRes := []
  /-- R312: the word of the thread's last fault -/
  fword   : Option DWord := none
  deriving DecidableEq, Repr

/-! ## Waves -/

/-- R37, R179: a reconvergence entry with its bound word. -/
structure Recon where
  raddr   : DWord
  rlo     : DWord
  members : Mask
  arrived : Mask
  deriving DecidableEq, Repr

/-- R209: a walker: descriptor, position, end flags, BOUND, and the values fetched ahead for the coming positions (per
lane, for lanes whose element lies outside the own slice). -/
structure Walker where
  desc  : BitVec 256 := 0
  i0    : Nat := 0
  i1    : Nat := 0
  i2    : Nat := 0
  e0    : Bool := false
  e1    : Bool := false
  e2    : Bool := false
  bound : Bool := false
  buf   : List (Sparse DWord) := []
  /-- R213: the number of the next operation when it was bound -/
  since : Nat := 0
  deriving DecidableEq, Repr

/-- R307: a trap record. `vec` holds the seven words of each lane. -/
structure TrapRec where
  turn  : Nat
  res   : Nat
  lanes : Mask
  pend  : Mask
  gmask : List Mask
  pc    : DWord
  time  : Lease
  part  : BitVec 4
  vec   : Sparse (List Word)
  core  : Nat := 0
  absent : Bool := false
  save  : DWord := 0
  seq   : BitVec 16 := 0
  /-- R308: numbers the order in which records were made or restored -/
  order : Nat := 0
  /-- R201 to R203: the pair has left the wave's registers, which cancels its write -/
  cut   : Bool := false
  deriving DecidableEq, Repr

/-- R34, R174, R186: a wave. `live` says that the turn holds a wave; `uid` tells waves of one turn apart. -/
structure Wave where
  live     : Bool := false
  uid      : Nat := 0
  threads  : Sparse Thread := []
  tile     : Nat := 5
  satf     : BitVec 7 := 0
  arm      : BitVec 7 := 0
  quant    : Nat := 64
  qcnt     : Nat := 0
  rotLeft  : Nat := 0
  rotLane  : Nat := 31
  rot      : Bool := false
  rotMask  : Mask := 0
  rtovf    : Nat := 0
  recon    : Sparse Recon := []
  walkers  : Sparse Walker := []
  srg      : Sparse Word := []
  runStart : Lease := 0
  rcnt     : Nat := 0
  prio     : Nat := 0
  level    : Nat := 0
  part     : BitVec 4 := 0
  held     : Option TrapRec := none
  restored : List TrapRec := []
  /-- R319, R322: a save or restore of the turn is in progress -/
  busy     : Bool := false
  /-- R317: when the `psave` that freed the turn was accepted -/
  freed    : Option Lease := none
  deriving DecidableEq, Repr

/-! ## Cores -/

/-- R41, R199: a quota-map entry with its dead word. -/
structure Quota where
  base  : Nat := 0
  count : Nat := 0
  valid : Bool := false
  dead  : Nat := 0
  deriving DecidableEq, Repr

/-- R220, R223: an entry of a queue: FIFO slots by lane, or an engine command: its operands, the threads' lanes and the
operation it belongs to. -/
inductive QEntry where
  | fifo (slots : Sparse Word)
  | cmd (words : List Word) (turn uid op : Nat) (regsA regsB : List (List Word))
  deriving DecidableEq, Repr

/-- R228, R229: an AMEM bank: state word and elements (f32 codes, row-major). -/
structure Bank where
  word : BitVec 32 := 0
  data : Sparse Word := []
  /-- R233: left by a retired wave until PEND is 0. -/
  left : Bool := false
  /-- R246: the array holds an uncorrectable error that nothing has found yet. -/
  bad  : Bool := false
  deriving DecidableEq, Repr

/-- R241: an accepted lathe command: its operation, parameter block, captured registers (R240), and how far it has run. -/
structure LatheRun where
  turn  : Nat
  uid   : Nat
  op    : Nat
  words : List Word
  regsA : List (List Word)
  regsB : List (List Word)
  step  : Nat := 0
  flags : BitVec 7 := 0
  /-- R243: words (by step and address / 8) and tags (by step and address / 64) of blocks read ahead of the step's end -/
  ahead : Sparse DWord := []
  aheadT : Sparse Tag := []
  deriving DecidableEq, Repr

/-- R252: an `ast` whose writes have not completed: flat address and bytes of each row, the flags it will set, and the
visibility time of its writes once they have performed. -/
structure AstOp where
  op    : Nat
  turn  : Nat
  uid   : Nat
  rows  : List (Nat × List Byte)
  fl    : BitVec 7 := 0
  vis   : Option Lease := none
  deriving DecidableEq, Repr

/-- R294: an entry of the copy tracking table. `stage` 0 filled, 1 claimed, 2 written. -/
structure CopyTrk where
  words : List Word
  op    : Nat
  order : Nat
  stage : Nat := 0
  w     : Nat := 0
  q     : Nat := 0
  deriving DecidableEq, Repr

/-- R341: a captured record of the spawn unit. -/
structure SpawnEnt where
  words : List Word
  turn  : Nat
  lanes : Mask
  uid   : Nat
  prods : List Nat
  upTo  : Nat
  wh    : Lease
  claimed : Option Nat := none
  deriving DecidableEq, Repr

/-- R428: a captured command of the wayside unit. -/
structure WayEnt where
  words : List Word
  /-- the buffers SLOT0 and SLOT1 named at capture (R428) -/
  b0    : Option Nat
  b1    : Option Nat
  core  : Nat
  turn  : Nat
  uid   : Nat
  op    : Nat
  part  : BitVec 4
  deriving DecidableEq, Repr

/-- R499: an entry of the network tracking table. -/
structure NetTrk where
  words : List Word
  kind  : Nat
  op    : Nat
  order : Nat
  stage : Nat := 0
  w     : Nat := 0
  q     : Nat := 0
  deriving DecidableEq, Repr

/-- R45, R75: a line of the instruction cache: eight words, and whether it was filled as LA2 code. -/
structure ILine where
  la2   : Bool
  words : List DWord
  deriving DecidableEq, Repr

/-- R319: what a core keeps of a saved wave: batch tracking and barrier arrivals by lane, and the block headers. -/
structure SavedWave where
  turn   : Nat
  bti    : Nat
  off    : Nat
  uid    : Nat
  alive  : Mask
  part   : BitVec 4
  batch  : Sparse (Sparse BatchCtr)
  bars   : Sparse Arrival
  hdrs   : Sparse (DWord × DWord)
  fwords : Sparse DWord := []
  /-- R101: flags of its operations that completed since its area was written -/
  satf   : BitVec 7 := 0
  /-- R16: each WH as its area received it, and as it has aged since -/
  whs    : Sparse (Lease × Lease) := []
  /-- R381: deferred faults that its threads are still to take -/
  defer  : Sparse (List DefFault) := []
  la2    : Mask
  prio   : Nat := 0
  level  : Nat := 0
  deriving DecidableEq, Repr

/-- R170 to R176: the cycle in progress: `phase` 0 before port A, 1 before port B, 2 before the end; the paths at the vote
as (turn, PC, lanes); each port's choice; whether it issued; paths that issued `yield`; flags set in the cycle (R101);
PARTW of the chosen waves at its start (R173). -/
structure Cycle where
  phase  : Nat := 0
  paths  : List (Nat × DWord × Mask) := []
  a      : Option (Nat × DWord × Mask) := none
  b      : Option (Nat × DWord × Mask) := none
  aDone  : Bool := false
  bDone  : Bool := false
  yields : List (Nat × Mask) := []
  fset   : Sparse (BitVec 7) := []
  tiles  : Sparse Nat := []
  /-- R249: banks whose REPORT is cleared at the end of the cycle -/
  told   : List Nat := []
  deriving DecidableEq, Repr

/-- A core: its crew's shared state and units. A serai is a core whose waves have lane 0 only (R301). -/
structure Core where
  waves    : Sparse Wave := []
  quotas   : Sparse Quota := []
  ports    : Sparse Nat := []
  queues   : Sparse (List QEntry) := []
  banks    : Sparse Bank := []
  mapped   : List Nat := []
  /-- R464: banks that an error event has named and no test has passed since: none of them is returned to use -/
  toTest   : List Nat := []
  lathe    : List LatheRun := []
  asts     : List AstOp := []
  copyTrk  : Sparse CopyTrk := []
  netTrk   : Sparse NetTrk := []
  spawns   : List SpawnEnt := []
  ways     : List WayEnt := []
  stash    : List TrapRec := []
  xrecs    : List XRec := []
  nextA    : Nat := 0
  passOver : List Nat := []
  cycle    : Cycle := {}
  cyc      : DWord := 0
  /-- R188: a core without a ready thread stands gated, after reset too -/
  gated    : Bool := true
  throttle : Option Lease := none
  admitted : List Nat := []
  icache   : Sparse ILine := []
  fills    : List Nat := []
  saved    : List SavedWave := []
  deriving DecidableEq, Repr

/-! ## Memory accesses in flight -/

/-- R371, R477: where an access goes: a flat SRAM address, a device address, or an offset of a buffer reached through the fabric, with
the home endpoint and the address there. -/
inductive Place where
  | sram (a : Nat)
  | hbm (da : Nat)
  | far (bti off dst addr : Nat)
  deriving DecidableEq, Repr

inductive LoadKind where
  | plain | na | acq | tag
  deriving DecidableEq, Repr

/-- A load in flight. `size` is the code of R206; `ssize` the bytes. -/
structure Access where
  place : Place
  size  : BitVec 3
  /-- the number of the instruction's issue (R439) -/
  iss   : Nat := 0
  /-- lines whose bank the instruction has accessed (R439) -/
  seen  : List Nat := []
  /-- R373: the half of a 16-byte load that has taken effect, and its words -/
  half  : Option (Nat × List Word) := none
  /-- R478, R482: the port and the time of the fabric request that is outstanding -/
  sent  : Option (Nat × Lease) := none
  kind  : LoadKind
  lease : Nat
  cyc   : DWord := 0
  bti   : Nat
  off   : Nat
  flat  : Bool
  pc    : DWord
  word  : DWord
  deriving DecidableEq, Repr

inductive ProdSrc where
  | vals (ws : List Word)
  | load (a : Access)
  | await
  deriving DecidableEq, Repr

/-- R20: a pending producer of one lane. -/
structure Prod where
  core : Nat
  turn : Nat
  lane : Nat
  uid  : Nat
  src  : ProdSrc
  dsts : List Nat
  /-- R389: it is a load's or an atomic's -/
  mem  : Bool := false
  deriving DecidableEq, Repr

inductive StoreKind where
  | data
  | tag
  | atom (op : BitVec 4) (w64 : Bool) (o1 o2 : DWord) (prod : Nat)
  deriving DecidableEq, Repr

/-- R374, R377: a store or atomic in flight: `stage` 0 issued, 1 past F, 2 performed; `vis` its visibility time. -/
structure PStore where
  core  : Nat
  turn  : Nat
  lane  : Nat
  uid   : Nat
  place : Place
  size  : Nat
  data  : Nat
  kind  : StoreKind
  acq   : Bool
  /-- the core's cycle and the order of its cohort point among the cluster's stores -/
  cyc   : DWord := 0
  ford  : Nat := 0
  stage : Nat := 0
  vis   : Lease := 0
  bti   : Nat
  off   : Nat
  flat  : Bool
  pc    : DWord
  word  : DWord
  fail  : Option Word := none
  /-- R373: the other half of a 16-byte store -/
  pair  : Option Nat := none
  /-- R478, R482: the port and the time of the fabric request that is outstanding -/
  sent  : Option (Nat × Lease) := none
  deriving DecidableEq, Repr

/-! ## Clusters -/

/-- R275, R338: a cache line: 128 bytes, two tags, expiry, last use, manifest mark. -/
structure CLine where
  data   : List Byte
  tags   : List Tag
  expiry : Lease
  used   : Nat
  mark   : Option Nat := none
  /-- R277: it holds an uncorrectable error that nothing has found yet -/
  bad    : Bool := false
  deriving DecidableEq, Repr

/-- R295, R296: a depot slot. -/
structure Slot where
  state  : Nat := 0
  lost   : Bool := false
  sender : Nat := 0
  chan   : Nat := 0
  nblk   : Nat := 0
  npend  : Nat := 0
  ndrain : Nat := 0
  mask   : BitVec 128 := 0
  data   : List Byte := []
  tags   : List Tag := []
  soff   : Nat := 0
  op     : Nat := 0
  order  : Nat := 0
  deriving DecidableEq, Repr

/-- R298: a claimed drain. -/
structure Drain where
  cl   : Nat
  core : Nat
  slot : Nat
  op   : Nat
  off  : Nat
  bad  : Bool
  vis  : Option Lease := none
  /-- R298: what it fails with once what it wrote is visible -/
  fail : Option Nat := none
  /-- R296: its slot has been released meanwhile -/
  gone : Bool := false
  deriving DecidableEq, Repr

/-- R329, R332: a gathered wave: records, the queue, and how often its decision was taken again. -/
structure Gather where
  recs    : List (List Word)
  queue   : Nat
  retakes : Nat := 0
  waiting : Bool := false
  /-- a retirement or save has freed room since the last decision -/
  again   : Bool := false
  deriving DecidableEq, Repr

/-- R349: a fault event: the lanes of one issue that recorded one code. -/
structure FaultEv where
  core  : Nat
  turn  : Nat
  uid   : Nat
  code  : Nat
  finfo : Word
  lanes : Mask
  pc    : DWord
  issue : Nat
  deriving DecidableEq, Repr

/-- R350, R356, R357: a decision in progress: its event, the snapshot's scalars and arrays by selector, the candidates'
eight fields, registers, next instruction and instructions executed. -/
structure Decision where
  evkind : Nat
  fault  : Option FaultEv := none
  scal   : Sparse Word
  depth  : List Word
  age    : List Word
  cands  : List (List Word)
  t      : List Word
  idx    : Nat := 0
  /-- the index of the last instruction executed -/
  last   : Nat := 0
  cycles : Nat := 0
  time   : Lease
  /-- R366: GEN of the program that takes it -/
  gen    : Nat := 0
  deriving DecidableEq, Repr

/-- R409: a translation: the entry's words and the page's frame. -/
structure Tlb where
  entry : BitVec 512
  frame : Nat
  used  : Nat
  deriving DecidableEq, Repr

/-- R409: a walk of a page in flight, with the instant it first found ZBUSY (R407). -/
structure Walk where
  bti  : Nat
  page : Nat
  busy : Option Lease := none
  /-- an engine waits for it -/
  eng  : Bool := false
  deriving DecidableEq, Repr

structure Cluster where
  part     : BitVec 4 := 0
  lines    : Sparse CLine := []
  depot    : Sparse Slot := []
  manifest : Sparse (BitVec 128) := []
  mfOrder  : Sparse Nat := []
  /-- R335: forwarded records, with the time at which a dispatcher first read each. -/
  pool     : List (Lease × List Word) := []
  gather   : Option Gather := none
  firstSeen : Sparse Lease := []
  /-- R345: the active slot: its program, length and initial values. -/
  active   : List Word := []
  alen     : Nat := 0
  ainit    : List Word := [0, 0, 0, 0]
  /-- R350: the values t12 to t15 that the next decision starts with. -/
  tvals    : List Word := [0, 0, 0, 0]
  decision : Option Decision := none
  faultEvs : List FaultEv := []
  /-- R349: pre-empt events that wait. -/
  preEv    : Nat := 0
  /-- R349: when a wave began to wait, or the last pre-empt tick since. -/
  preTick  : Option Lease := none
  logDrops : Nat := 0
  tlb      : Sparse Tlb := []
  walks    : List Walk := []
  walkFail : Sparse Word := []
  traps    : Sparse TrapRec := []
  trapSeq  : BitVec 16 := 0
  xSeq     : BitVec 16 := 0
  eSeq     : BitVec 16 := 0
  events   : Sparse (List (List Byte)) := []
  drops    : Sparse (Nat × Nat) := []
  /-- R448: the pointer RRP of `mrecv`. -/
  rrp      : Nat := 15
  /-- R464: ways taken out of a set of the cache slice. -/
  waysOut  : Sparse Nat := []
  mailHead : Sparse Nat := []
  mailTail : Sparse Nat := []
  /-- R288: packets that a `cpy` wrote and no engine has taken: queue and slot, without its sequence value -/
  cpySlots : List (Nat × List Word) := []
  /-- R282, R485: the next copy queue and the next network queue of the rounds -/
  rr       : Nat := 0
  nrr      : Nat := 0
  deriving DecidableEq, Repr

/-- R284, R289: a copy packet an engine has taken: its words, the failure it will report, whether it has run, the latest
visibility time of its writes, the places of each row's source and destination as they stood when it was taken, and the
lease length of its source. -/
structure CopyOp where
  cl    : Nat
  q     : Nat
  words : List Word
  fail  : Option Nat := none
  done  : Bool := false
  vis   : Option Lease := none
  src   : List (List (Place × Nat)) := []
  dst   : List (List (Place × Nat)) := []
  lease : Nat := 0
  /-- R289: the place of its counter, when the counter passed its checks -/
  ctr   : List (Place × Nat) := []
  /-- the owner of its queue when it was taken -/
  part  : BitVec 4 := 0
  /-- R286: source bytes read ahead, by their number in the packet, and the numbers of the destination bytes written ahead -/
  got   : Sparse Byte := []
  put   : List Nat := []
  /-- R482: when it was taken -/
  start : Lease := 0
  deriving DecidableEq, Repr

/-! ## HBM -/

/-- R416, R417: a bank of a stack: open row, its last use, blocked until. -/
structure HBank where
  row   : Option Nat := none
  last  : Lease := 0
  block : Option Lease := none
  deriving DecidableEq, Repr

/-- R412, R414: a version in progress: groups left to migrate, the mask of those done, the lowest group. -/
structure Migration where
  todo : List Nat
  done : BitVec 32
  deriving DecidableEq, Repr

/-! ## Wayside stacks -/

/-- R425, R428, R430: a stack's queue, the command it has accepted, and the arrays VB (key 4,096 c + i) and RA (key
16,384 c + i) of its contexts; `flags` and `fail` of the command that runs, `ran` when its effect has taken place, `vis` the visibility time of its writes,
`segs` the places of its rows as its check found them. -/
structure WayStack where
  queue : List WayEnt := []
  cur   : Option WayEnt := none
  ran   : Bool := false
  flags : BitVec 7 := 0
  fail  : Option Nat := none
  vis   : Option Lease := none
  segs  : List (List (Place × Nat)) := []
  /-- R421: an access of the command has been held for too long -/
  late  : Bool := false
  /-- R437: words (by address / 8) and tags (by address / 64) read ahead of the command's effect -/
  ahead : Sparse DWord := []
  aheadT : Sparse Tag := []
  vb    : Sparse Word := []
  ra    : Sparse Word := []
  deriving DecidableEq, Repr

/-! ## Saves and restores -/

/-- R318, R322: a save or restore in progress: the core and turns, the place of the first area, the result's producer, when
it was accepted, and the visibility time of a save's writes once they have been made. -/
structure SaveOp where
  restore : Bool
  core  : Nat
  turns : List Nat
  bti   : Nat
  off   : Nat
  prod  : Nat
  time  : Lease
  vis   : Option Lease := none
  /-- R101, R319: what the core will keep of the waves, as it stood when their areas were written -/
  kept  : List SavedWave := []
  /-- R323: bytes of the areas read ahead of the restore, by their number -/
  got   : Sparse Byte := []
  deriving DecidableEq, Repr

/-! ## Network engine -/

/-- R490: a packet sent and not yet acknowledged: its PSN, its work request and index, when its timeout expires, the
timeout, retransmissions counted, and the higher PSNs that the acknowledgement showed which caused its latest transmission
(`shown`, empty when none did). `due` marks a transmission that waited for a port. -/
structure NetPkt where
  psn   : Word
  op    : Nat
  index : Nat
  data  : List Byte
  /-- R489: the tags of the source blocks it covers -/
  tags  : List Tag := []
  /-- the request it belongs to, and the number by which the peer knows the message -/
  words : List Word := []
  msg   : Nat := 0
  at_   : Lease
  rto   : Nat
  tries : Nat := 0
  shown : List Word := []
  due   : Bool := false
  deriving DecidableEq, Repr

/-- R484, R490: the sequence state of a peer in both directions. -/
structure PeerSeq where
  epoch  : BitVec 8 := 0
  first  : Option Word := none
  psn    : Word := 0
  unack  : List NetPkt := []
  rEpoch : Option (BitVec 8) := none
  cack   : Word := 0
  bits   : List Word := []
  /-- R490, R492: the messages of the epoch that have ended, with the cause of a refusal -/
  ended  : List (Nat × Option Nat) := []
  deriving DecidableEq, Repr

/-- R486, R491: a work request an engine has started: its queue, its words, the packets sent of all, whether the target has
reported completion, its failure, the visibility time of what has been placed, and the places of its local bytes. -/
structure NetOp where
  cl     : Nat
  q      : Nat
  words  : List Word
  sent   : Nat := 0
  total  : Nat := 0
  report : Bool := false
  fail   : Option Nat := none
  vis    : Option Lease := none
  segs   : List (Place × Nat) := []
  /-- R489: source bytes, and tags of blocks' parts, read ahead of their transmission, by their number in the message -/
  ahead  : Sparse Byte := []
  aheadT : Sparse Tag := []
  /-- R491: the packets of its response that have been placed -/
  got    : List Nat := []
  /-- R487, R490: of a response, the request's number at the peer, and the bytes and tags read, from this byte of a block on -/
  msg    : Option Nat := none
  out    : List Byte := []
  outT   : List Tag := []
  pos    : Nat := 0
  /-- R482: when it was taken -/
  start  : Lease := 0
  /-- R491: the core whose tracking entry its token names -/
  tok    : Option Nat := none
  deriving DecidableEq, Repr

/-- R487 to R492, R496: a message arriving from a peer: what it does, the packet indexes that have arrived, the posted
receive or the registration it goes to, the places it goes to, its failure, and the visibility time of its writes. -/
structure NetMsg where
  peer   : Nat
  msg    : Nat
  kind   : Nat
  clus   : Nat
  key    : Nat
  len    : Nat
  placed : List Nat := []
  recv   : Option (List Word) := none
  part   : BitVec 4 := 0
  segs   : List (Place × Nat) := []
  fail   : Option Nat := none
  vis    : Option Lease := none
  /-- the completion word of a send has been written -/
  done   : Bool := false
  deriving DecidableEq, Repr

/-- What leaves the package: MMIO accesses (R455), responses over the fabric with the visibility time of a write or the expiry of
a read's lease (R474, R479, R481), clock answers (R476), requests over the fabric, and packets and answers over Ethernet (R489 to
R492), and registrations with the switch's directory (R480). -/
inductive Output where
  | mmio (port off : Nat) (data : Option Word)
  | fabric (port dst : Nat) (ok : Bool) (data : List Byte) (vis : Lease)
  /-- R453, R454, R456: a command of an I/O queue pair of a drive: its opcode, the addresses of the places it names, first LBA and
  zero-based block count -/
  | nvme (drive queue opc : Nat) (prps : List DWord) (lba : DWord) (blocks : Nat)
  /-- R474, R477: a request of this package: its port, destination and aligned address, its size, the bytes of the block it writes
  (none where a byte stays), the tag of the block it writes, and the operation and operands of an atomic -/
  | request (port dst addr n : Nat) (data : Option (List (Option Byte))) (tag : Option Tag) (op : Option (BitVec 4 × DWord × DWord))
  /-- R480: the switch is asked to recall the leases of a line -/
  | recall (port addr : Nat)
  /-- R476: a leader's reply to a follower, and a follower's request to its leader -/
  | clock (dst : BitVec 10) (t2 t3 : Lease)
  | clockAsk (port dst : Nat) (t1 : Lease)
  | register (port dst addr : Nat)
  /-- R487, R489, R490: a packet on a port: the cluster addressed, the epoch, its first PSN and its own, the request, the message and its index there, and what
  it carries -/
  | packet (peer port clus : Nat) (epoch : BitVec 8) (first psn : Word) (words : List Word) (msg index : Nat) (data : List Byte) (tags : List Tag)
  /-- R490, R492: an acknowledgement with CACK and the bitmap, and what it reports of a message -/
  | answer (peer : Nat) (epoch : BitVec 8) (cack : Word) (sack : List Word) (msg : Nat) (complete : Bool) (cause : Option Nat)
  deriving DecidableEq, Repr

/-! ## Caravan (R441 to R453) -/

/-- R453: an extent of a file: file offset and length in bytes, drive, first LBA, version of the extent map. -/
structure Extent where
  foff  : Nat
  len   : Nat
  drive : Nat
  lba   : Nat
  ver   : Nat
  deriving DecidableEq, Repr

/-- R442, R452: a file: object ID, path, bytes, sidecar tags, extents, and the version of its extent map. -/
structure FileObj where
  id    : Nat
  path  : List Byte
  data  : List Byte
  side  : Option (List Tag)
  exts  : List Extent
  ver   : Nat := 0
  deriving DecidableEq, Repr

/-- R451: an open handle: its file, partition and whether it may write. -/
structure Handle where
  file  : Nat
  part  : BitVec 4
  write : Bool
  deriving DecidableEq, Repr

/-- R452, R472: a call served whose lanes are not resumed yet: its slot, group and record, and the result. -/
structure SvcDone where
  slot  : Nat
  group : Nat
  order : Nat
  vis   : Lease
  res   : Word
  deriving DecidableEq, Repr
/-- R450, R453: a call sent on as FWD: its XID and the shard it went to, and the slot, group and record it came from; or the shard whose FWD
was sent on, or the shard whose EXTREQ was. -/
structure Fwd where
  xid   : BitVec 16
  peer  : Nat
  from_ : Option (Nat × Nat × Nat) := none
  via   : Option Nat := none
  asker : Option Nat := none
  deriving DecidableEq, Repr

/-- R452: a read that the drive has served: its slot, group and record; where the bytes stand in the shard's SRAM, when it is not direct;
where the sidecar's tags stand there; how many bytes, and when they are visible. -/
structure SvcBuf where
  slot  : Nat
  group : Nat
  order : Nat
  at_   : Option Nat
  side  : Option Nat
  n     : Nat
  vis   : Lease
  deriving DecidableEq, Repr

/-- R442, R443, R453: a shard's replicated tables and caches: OWNMAP, the cluster-to-partition map, the mount table, the version
applied, cached extents by handle, handles the owner refused, requests sent (XID and handle), invalidations (handle, shards told,
shards that have not answered), calls sent on, objects moved to it, reads in use, frames it has given to pages. -/
structure Shard where
  ownmap : Sparse Nat := []
  parts  : Sparse Nat := []
  mounts : Sparse Nat := []
  ver    : Nat := 0
  cache  : List (Nat × Extent) := []
  bad    : List Nat := []
  asked  : List (BitVec 16 × Nat) := []
  inval  : List (Nat × List Nat × List Nat) := []
  fwds   : List Fwd := []
  objs   : List Nat := []
  svc    : List SvcDone := []
  bufs   : List SvcBuf := []
  frames : List Nat := []
  deriving DecidableEq, Repr

/-! ## Boot, reset and repair -/

/-- R463: the states of a warm reset; SELFREF and RESET are passed within the step that leaves QUIESCE. -/
inductive Warm where
  | run | quiesce | retrain | check
  deriving DecidableEq, Repr

/-- R464: a self-test: the cluster whose serai wrote STCMD, its KIND and TARGET, and, once it has run, RESULT, MAPPED and
the KIND of the event it posts. -/
structure SelfTest where
  cl     : Nat
  kind   : Nat
  target : BitVec 40
  res    : Option (Nat × Bool × Nat) := none
  deriving DecidableEq, Repr

/-- R480: a recall the switch has been asked for, for a store of another package: its number, the line, when it was asked for, the
response that waits (port, requester, data), the visibility time of R479, and the later of P and LXL. -/
structure Recall where
  store : Nat
  line  : Nat
  start : Lease
  port  : Nat := 0
  dst   : Nat := 0
  data  : List Byte := []
  vis   : Lease := 0
  early : Lease := 0
  deriving DecidableEq, Repr

/-! ## Issue and inputs -/

/-- The issuing path (R169): core and turn, port, lanes, the instruction's address, its block header and that header's
word, the instruction word for exception records (R313), the words it occupies, and the number of the issue. -/
structure Issue where
  core  : Nat := 0
  turn  : Nat := 0
  portB : Bool := false
  lanes : Mask := 0
  pc    : DWord := 0
  word  : DWord := 0
  words : Nat := 1
  la2   : Bool := false
  n     : Nat := 0
  deriving DecidableEq, Repr

/-- What reaches the package from outside: an event of the table, or an error of a cell array. -/
inductive Input where
  | event (i : Instr)
  | hbmError (block : Nat)
  /-- a block has an error that its ECC bits correct (R402) -/
  | hbmCorrected (block : Nat)
  | bankError (core bank : Nat)
  | sramError (line : Nat)
  /-- a line of a cluster's cache slice (R277) -/
  | lineError (cl line : Nat)
  /-- a file comes to stand on a drive (R442, R471) -/
  | file (f : FileObj)
  /-- an entry of the mount table is to change (R443) -/
  | mount (entry value : Nat)
  /-- the switch at a port offers the directory, or no longer does (R475, R480) -/
  | directory (port : Nat) (on : Bool)
  deriving DecidableEq, Repr

/-! ## Outcomes -/

/-- Why a step stops in a fault. Faults of threads are no stop: they are state (R32, R313). -/
inductive Fault where
  /-- Raised by `step` when the boot sequence has failed (BOOTSTAT.PHASE 15): the package accepts no work (R459), and only a
  cold reset from outside lets it go on. Safe: the spec gives the machine no further step. -/
  | bootFailed
  deriving DecidableEq, Repr

/-- Why a step is refused. -/
inductive Refusal where
  /-- Raised by an arm of `exec` for an instruction that has no meaning yet. Safe. -/
  | notModelled (mnemonic : String)
  deriving DecidableEq, Repr

/-! ## The package -/

/-- The whole machine. Control registers of every unit (R303) stand in `crs`, keyed by unit owner and number. -/
structure State where
  cur     : Issue := {}
  cores   : Sparse Core := []
  cls     : Sparse Cluster := []
  crs     : Sparse DWord := []
  lease   : Lease := 0
  sram    : List Host.Cell := []
  hbm     : List Host.Cell := []
  sramTag : Sparse Tag := []
  hbmTag  : Sparse Tag := []
  lx      : Sparse Lease := []
  badHbm  : List Nat := []
  badSram : List Nat := []
  /-- R402: blocks with an error that the next access to them will correct -/
  softHbm : List Nat := []
  hbanks  : Sparse HBank := []
  rowCnt  : Sparse Nat := []
  remap   : Sparse Nat := []
  /-- R421, R463: the hub's copy of the remap tables -/
  hub     : Sparse Nat := []
  reloadAt : Sparse Lease := []
  mig     : Option Migration := none
  /-- R412: the number of the conflict window in progress -/
  hwin    : Nat := 0
  prods   : Sparse Prod := []
  stores  : Sparse PStore := []
  copies  : Sparse CopyOp := []
  drains  : Sparse Drain := []
  bars    : Sparse Nat := []
  summary : Sparse (Nat × BitVec 16) := []
  /-- R335: insertions (cluster, tile) that have not reached the summary -/
  sumQ    : List (Nat × Nat) := []
  lxl     : Sparse Lease := []
  recalls : Sparse Recall := []
  ways    : Sparse WayStack := []
  saves   : Sparse SaveOp := []
  peers   : Sparse PeerSeq := []
  netOps  : Sparse NetOp := []
  netMsgs : Sparse NetMsg := []
  ethUp   : BitVec 4 := 0
  syncGood : Nat := 0
  syncLast : Lease := 0
  /-- R476: when a follower's latest exchange began, and its t1 until the leader's reply has come -/
  syncAt   : Option Lease := none
  syncT1   : Option Lease := none
  shards  : Sparse Shard := []
  /-- R443: the update in progress: its version, what it changes (below 16 a bucket's owner, from 16 a cluster's partition, from 32
  an entry of the mount table), the new value, and the shards that have not answered -/
  update  : Option (Nat × Nat × Nat × List Nat) := none
  /-- the files on the drives; the extent map of each is state of the shard that owns it (R441, R453) -/
  files   : List FileObj := []
  /-- open handles, each state of the shard that owns its file: only that shard's steps read or write it (R441, R442) -/
  handles : Sparse Handle := []
  /-- what has left the package, oldest first -/
  out     : List Output := []
  drives  : BitVec 2 := 3
  running : BitVec 16 := 0
  warm    : Warm := .run
  meas    : Sparse (BitVec 256) := []
  spares  : Sparse Nat := []
  moved   : Sparse Nat := []
  selfTest : Option SelfTest := none
  /-- R464: units with an error event, which Caravan is to test: cluster, KIND, TARGET -/
  suspects : List (Nat × Nat × BitVec 40) := []
  /-- R468: lines of serai SRAM in which a serai access has found an error -/
  lostSram : List Nat := []
  /-- R469: shards that are to be restarted, since a thread of theirs faulted in monitor mode -/
  restarts : List Nat := []
  repair  : Option (Nat × Nat) := none
  attest  : Option (Nat × Nat) := none
  /-- R466: how far the repair of a cluster has come, and the waves it has saved: core, turn and area -/
  crepair : Sparse Nat := []
  rsaved  : List (Nat × Nat × DWord) := []
  /-- R457: the visibility time of each port's last inbound write -/
  pcieVis : Sparse Lease := []
  inbox   : List Input := []
  nextId  : Nat := 1
  fresh   : Nat := 0
  deriving DecidableEq, Repr

/-- R459: the machine right after a cold reset: every thread exited, every register at its reset value, memory with nothing
listed (LOG 1, 2, 3, 5), and the boot sequence still to run. -/
def State.reset : State := {}

end Sys2Proof.Machine
end

