-- ==== Sys2Proof/Machine/Table.lean ====
section
/-! DEFINITION. Reading and writing sparse tables, and bit fields of words. -/

namespace Sys2Proof.Machine

/-! ## Sparse tables -/

/-- The value at a key; `d` where nothing is listed. -/
def getK {α : Type} (d : α) : List (Nat × α) → Nat → α
  | [], _ => d
  | (k', v) :: t, k => if k = k' then v else getK d t k

/-- List a value at a key. -/
def insK {α : Type} : List (Nat × α) → Nat → α → List (Nat × α)
  | [], k, v => [(k, v)]
  | (k', v') :: t, k, v =>
    if k < k' then (k, v) :: (k', v') :: t else if k = k' then (k, v) :: t else (k', v') :: insK t k v

/-- Write a value at a key in canonical form: a key at the default `d` is not listed. -/
def putK {α : Type} [DecidableEq α] (d : α) : List (Nat × α) → Nat → α → List (Nat × α)
  | [], k, v => if v = d then [] else [(k, v)]
  | (k', v') :: t, k, v =>
    if k < k' then if v = d ∧ getK d t k = d then (k', v') :: t else (k, v) :: (k', v') :: t
    else if k = k' then if v = d ∧ getK d t k = d then t else (k, v) :: t
    else (k', v') :: putK d t k v

/-- Drop a key. -/
def delK {α : Type} (m : List (Nat × α)) (k : Nat) : List (Nat × α) := m.filter (fun p => p.1 != k)

/-- The value listed at a key, if any. -/
def findK {α : Type} (m : List (Nat × α)) (k : Nat) : Option α := (m.find? (fun p => p.1 == k)).map (·.2)

/-- R10: write bytes at rising keys. -/
def putBytes (m : List Host.Cell) (a : Nat) : List Byte → List Host.Cell
  | [] => m
  | b :: bs => putBytes (putK 0 m a b) (a + 1) bs

/-- R10: read `n` bytes at rising keys; an unlisted byte reads 0 (LOG 2). -/
def getBytes (m : List Host.Cell) (a : Nat) : Nat → List Byte
  | 0 => []
  | n + 1 => getK 0 m a :: getBytes m (a + 1) n

/-- Bits [hi:lo] of a number, as a number (R10). -/
def bitsN (v hi lo : Nat) : Nat := v / 2 ^ lo % 2 ^ (hi - lo + 1)
/-- Bits [hi:lo] of a 64-bit word, as a number. -/
def dwBits (v : DWord) (hi lo : Nat) : Nat := bitsN v.toNat hi lo
/-- Bits [hi:lo] of a 32-bit word, as a number. -/
def wBits (v : Word) (hi lo : Nat) : Nat := bitsN v.toNat hi lo
/-- Replace bits [hi:lo] of a 64-bit word. -/
def dwSet (v : DWord) (hi lo : Nat) (x : Nat) : DWord :=
  let m : DWord := BitVec.ofNat 64 ((2 ^ (hi - lo + 1) - 1) * 2 ^ lo)
  (v &&& ~~~m) ||| (BitVec.ofNat 64 (x * 2 ^ lo) &&& m)
def dwBit (v : DWord) (i : Nat) : Bool := v.getLsbD i
/-- Add to a saturating counter held in bits [hi:lo]. -/
def dwSatAdd (v : DWord) (hi lo n : Nat) : DWord := dwSet v hi lo (Nat.min (2 ^ (hi - lo + 1) - 1) (dwBits v hi lo + n))

/-- R10: a pair of registers as one 64-bit value. -/
def pairOf (lo hi : Word) : DWord := hi ++ lo
def loOf (v : DWord) : Word := v.extractLsb' 0 32
def hiOf (v : DWord) : Word := v.extractLsb' 32 32

/-- Bits of a structure held as little-endian 32-bit words (R10). -/
def natOfWords : List Word → Nat
  | [] => 0
  | w :: ws => w.toNat + 2 ^ 32 * natOfWords ws
def wordsOf : Nat → Nat → List Word
  | 0, _ => []
  | n + 1, v => BitVec.ofNat 32 v :: wordsOf n (v / 2 ^ 32)
/-- The words of a list of bytes (R10). -/
def wordsOfBytes (bs : List Byte) : List Word := wordsOf ((bs.length + 3) / 4) (natOfBytes bs)
def bytesOfWords (ws : List Word) : List Byte := bytesOf (4 * ws.length) (natOfWords ws)
/-- Bits [hi:lo] of a structure held as words. -/
def wsBits (ws : List Word) (hi lo : Nat) : Nat := bitsN (natOfWords ws) hi lo
def wsBit (ws : List Word) (i : Nat) : Bool := (natOfWords ws).testBit i

end Sys2Proof.Machine
end

