-- ==== Sys2Proof/Machine/Regs.lean ====
section
/-! DEFINITION. Control registers (R303): their numbers, reset values, access types (R11), and accessors of cores, waves,
threads and clusters. -/

namespace Sys2Proof.Machine

/-! ## Parts of the machine (R2) -/

/-- Core number 2,048 + c is the serai of cluster c. -/
def isSerai (c : Nat) : Bool := decide (2048 ≤ c)
/-- R2: the cluster of a core or serai. -/
def clusterOf (c : Nat) : Nat := if c < 2048 then c / 128 else c - 2048
def coreIndex (c : Nat) : Nat := c % 128
def seraiOf (cl : Nat) : Nat := 2048 + cl

def State.core (s : State) (c : Nat) : Core := getK {} s.cores c
def State.modCore (s : State) (c : Nat) (f : Core → Core) : State := { s with cores := insK s.cores c (f (s.core c)) }
def Core.wave (k : Core) (t : Nat) : Wave := getK {} k.waves t
def Core.modWave (k : Core) (t : Nat) (f : Wave → Wave) : Core := { k with waves := insK k.waves t (f (k.wave t)) }
def Wave.thread (w : Wave) (l : Nat) : Thread := getK {} w.threads l
def Wave.modThread (w : Wave) (l : Nat) (f : Thread → Thread) : Wave := { w with threads := insK w.threads l (f (w.thread l)) }
def State.wave (s : State) (c t : Nat) : Wave := (s.core c).wave t
def State.modWave (s : State) (c t : Nat) (f : Wave → Wave) : State := s.modCore c (fun k => k.modWave t f)
def State.thread (s : State) (c t l : Nat) : Thread := (s.wave c t).thread l
def State.modThread (s : State) (c t l : Nat) (f : Thread → Thread) : State := s.modWave c t (fun w => w.modThread l f)
def State.modThreads (s : State) (c t : Nat) (m : Mask) (f : Nat → Thread → Thread) : State :=
  s.modWave c t (fun w => m.lanes.foldl (fun w l => w.modThread l (f l)) w)
def State.cl (s : State) (c : Nat) : Cluster := getK {} s.cls c
def State.modCl (s : State) (c : Nat) (f : Cluster → Cluster) : State := { s with cls := insK s.cls c (f (s.cl c)) }
def State.way (s : State) (k : Nat) : WayStack := getK {} s.ways k
def State.modWay (s : State) (k : Nat) (f : WayStack → WayStack) : State := { s with ways := insK s.ways k (f (s.way k)) }
def State.peer (s : State) (p : Nat) : PeerSeq := getK {} s.peers p
def State.modPeer (s : State) (p : Nat) (f : PeerSeq → PeerSeq) : State := { s with peers := insK s.peers p (f (s.peer p)) }
def State.shard (s : State) (c : Nat) : Shard := getK {} s.shards c
def State.modShard (s : State) (c : Nat) (f : Shard → Shard) : State := { s with shards := insK s.shards c (f (s.shard c)) }
/-- R42: the partition of a core's cluster. -/
def State.partOf (s : State) (c : Nat) : BitVec 4 := (s.cl (clusterOf c)).part
/-- A fresh number for an operation, a producer, a store or a wave. -/
def State.bump (s : State) : Nat × State := (s.nextId, { s with nextId := s.nextId + 1 })
/-- The lanes of a wave with a status that `f` accepts. -/
def Wave.lanesWith (w : Wave) (f : Status → Bool) : Mask := Mask.ofLanes ((List.range 32).filter fun l => f (w.thread l).status)
def Wave.alive (w : Wave) : Mask := w.lanesWith (fun x => x != .exited)

/-! ## Register numbers (R303) -/

def crNum (unit word : Nat) : Nat := unit * 65536 + word
/-- The owner of a unit: 16 stands for the package (units 0x04 to 0x08). -/
def crOwner (cl num : Nat) : Nat := let u := num / 65536; if 4 ≤ u ∧ u ≤ 8 then 16 else cl
/-- `thr` is 0, or turn + 1 for a register that exists once per serai thread. -/
def crKey (cl thr num : Nat) : Nat := crOwner cl num * 2 ^ 32 + thr * 2 ^ 24 + num

def nSMODE := crNum 0 0
def nMVEC := crNum 0 1
def nMEPC := crNum 0 2
def nMINFO := crNum 0 3
def nTSLOTS := crNum 0 0x10
def nTNOTE := crNum 0 0x11
def nTNPTR := crNum 0 0x12
def nXRING := crNum 0 0x14
def nXPTR := crNum 0 0x15
def nERING := crNum 0 0x16
def nEPTR := crNum 0 0x17
def nRSTAT := crNum 0 0x18
def nMBOX := crNum 0 0x20
def nSRCLS (r : Nat) := crNum 0 (0x30 + r)
def nSBSLOT (n : Nat) := crNum 0 (0x40 + n)
def nCSCTL := crNum 1 0
def nCPSTAT := crNum 1 1
def nTSTAT := crNum 1 2
def nBARCTL := crNum 1 3
def nCQ (q i : Nat) := crNum 1 (0x100 + 4 * q + i)
def nTQ (q i : Nat) := crNum 1 (0x200 + 4 * q + i)
def nNQ (q i : Nat) := crNum 1 (0x300 + 4 * q + i)
def nNCTR (c : Nat) := crNum 1 (0x400 + c)
def nREG (r i : Nat) := crNum 1 (0x500 + 2 * r + i)
def nTPROG (n : Nat) := crNum 2 n
def nTINIT (n : Nat) := crNum 2 (0x80 + n)
def nTCTL := crNum 2 0x90
def nTQUANT := crNum 2 0x91
def nTLIM := crNum 2 0x92
def nTCNT := crNum 2 0x93
def nTLOG := crNum 2 0x94
def nTLOGPTR := crNum 2 0x95
def nTBINV := crNum 3 0
def nTBSTAT := crNum 3 1
def nBTBASE := crNum 4 0
def nBTLEN := crNum 4 1
def nHMIG := crNum 4 2
def nRGMODE (g : Nat) := crNum 4 (0x10 + g)
def nHGSTATE (g : Nat) := crNum 4 (0x40 + g)
def nSTKSTAT (k : Nat) := crNum 4 (0x80 + k)
def nWCTX (k : Nat) := crNum 4 (0xC0 + k)
def nWSTAT (k : Nat) := crNum 4 (0xC8 + k)
def nFABCTL := crNum 5 0
def nPORTSTAT (p : Nat) := crNum 5 (1 + p)
def nINWIN (n i : Nat) := crNum 5 (0x10 + 2 * n + i)
def nPEER (p i : Nat) := crNum 6 (4 * p + i)
def nNETCTL := crNum 6 0x4000
def nBOOTSTAT := crNum 7 0
def nSRUN := crNum 7 1
def nRSTCTL := crNum 7 2
def nSTCMD := crNum 7 0x10
def nSTSTAT := crNum 7 0x11
def nREPCMD := crNum 7 0x12
def nREPSTAT := crNum 7 0x13
def nATTREQ := crNum 7 0x20
def nATTSTAT := crNum 7 0x21
def nCDRAIN := crNum 7 0x30
def nSPALLOC (i : Nat) := crNum (0x80 + i) 0
def nLERR (i : Nat) := crNum (0x80 + i) 1
def nTHR (i : Nat) := crNum (0x80 + i) 2
def nQLIM (i q : Nat) := crNum (0x80 + i) (0x10 + q)
def nBSLOT (i n : Nat) := crNum (0x80 + i) (0x40 + n)
def nPWIN (i n k : Nat) := crNum (0x80 + i) (0x80 + 2 * n + k)

/-- The registers marked M in R303, R444, R461 and R467. -/
def crMonitor (num : Nat) : Bool :=
  num == nMVEC || num == nTSLOTS || num == nTNOTE || num == nXRING || num == nERING || num == nMBOX ||
  (decide (nSRCLS 0 ≤ num) && decide (num ≤ nSRCLS 15))
/-- R461: the registers that accept writes only from monitor mode of serai 0. -/
def crSerai0 (num : Nat) : Bool := num == nSRUN || num == nRSTCTL || num == nREPCMD || num == nCDRAIN
/-- R303: the registers of unit 0 that exist once per serai thread. -/
def crPerThread (num : Nat) : Bool := num == nSMODE || num == nMEPC || num == nMINFO

/-- The reset values that the field maps give; every other register is 0. -/
def crReset (num : Nat) : DWord :=
  let u := num / 65536
  let w := num % 65536
  if u = 0 then
    if w = 0 then 1 else if w = 0x14 ∨ w = 0x16 then 0x400000 else if 0x30 ≤ w ∧ w ≤ 0x3F then 18 else 0
  else if u = 1 then
    if w = 0 then 2000
    else if (0x100 ≤ w ∧ w < 0x210 ∨ 0x300 ≤ w ∧ w < 0x380) ∧ w % 4 = 1 then 8 else 0
  else if u = 2 then if w = 0x94 then 0x400000 else 0
  else if u = 4 then
    if w = 2 then 0x40000000 else if 0x10 ≤ w ∧ w < 0x30 then 4 else if 0x40 ≤ w ∧ w < 0x60 then 0x10001 else 0
  else if u = 5 then if w = 0 then 0x320000640000 else 0
  else if u = 6 then if w = 0x4000 then 0x70028 else 0
  else if u = 7 then if w = 0x11 then 6 else if w = 0x13 then 0x400 else 0
  else if 0x80 ≤ u then if 0x10 ≤ w ∧ w ≤ 0x32 then 0x8000 else 0
  else 0

/-- R11: the bits a write sets, and the bits that a written 1 clears. A number that no rule assigns has neither. -/
def crMask (num : Nat) : DWord × DWord :=
  let u := num / 65536
  let w := num % 65536
  let all : DWord := 0xFFFFFFFFFFFFFFFF
  if u = 0 then
    if w = 1 ∨ w = 2 then (all, 0)
    else if w = 0x10 then (0xFFC00, 0)
    else if w = 0x11 ∨ w = 0x20 then (0xFFC01, 0)
    else if w = 0x12 ∨ w = 0x15 ∨ w = 0x17 then (0xFFFFFFFF, 0)
    else if w = 0x14 ∨ w = 0x16 then (0x1FFFFC0, 0)
    else if w = 0x18 then (0, 0xFFFFFFFFFFFF)
    else if 0x30 ≤ w ∧ w ≤ 0x3F then (0x1F, 0)
    else if 0x40 ≤ w ∧ w ≤ 0x7F then (0x1FFFF, 0)
    else (0, 0)
  else if u = 1 then
    if w = 0 then (0xFFFF, 0)
    else if w = 1 then (0, 0xFFFFFFFF)
    else if w = 2 then (0, 0xFFFFFFFFFFFF)
    else if w = 3 then (0xFFFFFF0001, 0)
    else if 0x100 ≤ w ∧ w < 0x210 then
      if w % 4 = 0 then (all, 0) else if w % 4 = 1 then (0x3FF, 0x4000) else if w % 4 = 2 then (all, 0) else (0, 0)
    else if 0x300 ≤ w ∧ w < 0x380 then
      if w % 4 = 0 then (all, 0) else if w % 4 = 1 then (0x1FF83FF, 0x4000) else if w % 4 = 2 then (all, 0) else (0, 0)
    else if 0x400 ≤ w ∧ w < 0x500 then (all, 0)
    else if 0x500 ≤ w ∧ w < 0x700 then if w % 2 = 0 then (0xFFFF0003FFFC, 0) else (all, 0)
    else (0, 0)
  else if u = 2 then
    if w < 0x82 then (all, 0)
    else if w = 0x90 then (0x1FF, 0)
    else if w = 0x91 then (0xFFFF, 0)
    else if w = 0x92 then (0xFFF1FFF0FFF, 0)
    else if w = 0x93 then (0, 0xFFFF0000FFFFFFFF)
    else if w = 0x94 then (0x1FFFFC0, 0)
    else if w = 0x95 then (0xFFFFFFFF, 0)
    else (0, 0)
  else if u = 3 then if w = 1 then (0, 0xFFFFFFFFFFFF) else (0, 0)
  else if u = 4 then
    if w = 0 then (0x7FFFFFFFFF, 0)
    else if w = 1 then (0x1FFFF, 0)
    else if w = 2 then (0xFFFF0000, 0xFFFF00000000)
    else if 0x10 ≤ w ∧ w < 0x30 then (7, 0)
    else if 0x80 ≤ w ∧ w < 0x88 then (0, 0xFFFFFFFF00000000)
    else if 0xC0 ≤ w ∧ w < 0xC8 then (0x1F1F1F1F, 0)
    else if 0xC8 ≤ w ∧ w < 0xD0 then (0, 0xFFFF0000)
    else (0, 0)
  else if u = 5 then
    if w = 0 then (0x3FFFF05FFFF03FF, 0)
    else if 1 ≤ w ∧ w ≤ 8 then (0, 0xFFFFFFFF0000)
    else if 0x10 ≤ w ∧ w < 0x30 then if w % 2 = 0 then (all, 0) else (0xFFFFFFFFF, 0)
    else (0, 0)
  else if u = 6 then
    if w < 0x4000 then if w % 4 = 0 then (0xFFFFFFFF00003FFF, 0) else if w % 4 = 3 then (0, 0) else (all, 0)
    else if w = 0x4000 then (0xFFFFF, 0)
    else (0, 0)
  else if u = 7 then if w = 2 then (2, 0) else if w = 0x30 then (0xFFFF, 0) else (0, 0)
  else if 0x80 ≤ u ∧ u < 0x100 then
    if w = 0 then (0x3FF03FF, 0)
    else if w = 1 then (0, 0xFFFFFF)
    else if w = 2 then (0, 0xFFFF0000)
    else if 0x10 ≤ w ∧ w ≤ 0x32 then (0xFF7F, 0)
    else if 0x40 ≤ w ∧ w ≤ 0x7F then (0x1FFFF, 0)
    else if 0x80 ≤ w ∧ w ≤ 0x8F then if w % 2 = 0 then (0xFFFFFFFFFFFF, 0) else (0x8001FFFF, 0)
    else (0, 0)
  else (0, 0)

/-- A control register as it stands. -/
def State.crT (s : State) (cl thr num : Nat) : DWord := getK (crReset num) s.crs (crKey cl thr num)
def State.cr (s : State) (cl num : Nat) : DWord := s.crT cl 0 num
def State.setCrT (s : State) (cl thr num : Nat) (v : DWord) : State := { s with crs := putK (crReset num) s.crs (crKey cl thr num) v }
def State.setCr (s : State) (cl num : Nat) (v : DWord) : State := s.setCrT cl 0 num v
def State.modCr (s : State) (cl num : Nat) (f : DWord → DWord) : State := s.setCr cl num (f (s.cr cl num))
/-- A saturating counter field counts up (R339, R411, R420). -/
def State.crCount (s : State) (cl num hi lo n : Nat) : State := s.modCr cl num (fun v => dwSatAdd v hi lo n)
/-- R11: what a write of `v` leaves in a register that holds `old`. -/
def crWrite (num : Nat) (old v : DWord) : DWord :=
  let m := crMask num
  ((old &&& ~~~m.1) ||| (v &&& m.1)) &&& ~~~(v &&& m.2)
/-- A register of a core (unit 0x80 + c). -/
def State.ccr (s : State) (c : Nat) (f : Nat → Nat) : DWord := s.cr (clusterOf c) (f (coreIndex c))

/-! ## Serai modes (R302, R304) -/

def State.smode (s : State) (cl turn : Nat) : DWord := s.crT cl (turn + 1) nSMODE
def State.isMonitor (s : State) (cl turn : Nat) : Bool := (s.smode cl turn).getLsbD 0
def State.setSmode (s : State) (cl turn : Nat) (monitor : Bool) (code : Option Nat) : State :=
  let v := dwSet (s.smode cl turn) 0 0 (if monitor then 1 else 0)
  s.setCrT cl (turn + 1) nSMODE (match code with | some c => dwSet v 15 8 c | none => v)

end Sys2Proof.Machine
end

