-- ==== Sys2Proof/Machine/Memory.lean ====
section
/-! DEFINITION. Memory: flat SRAM (R271), HBM by location (R397-R402), tags (R92), buffers and walks (R403-R410), leases and
the cache slice (R274-R277, R376), row counters (R416-R418), and raising events (R314). -/

namespace Sys2Proof.Machine

/-! ## Events (R314) -/

/-- R314: an event record of a source, without its SEQ: SOURCE, KIND, TIME and the payload's words. -/
def eventRecord (source kind : Nat) (time : Lease) (payload : List Word) : List Byte :=
  [BitVec.ofNat 8 source, BitVec.ofNat 8 kind, 0, 0, 0, 0, 0, 0] ++ bytesOf 8 time.toNat ++
    (bytesOfWords payload ++ List.replicate 48 0).take 48

/-- R314: an event waits in its source; a source that cannot hold it counts it. -/
def State.raise (s : State) (cl source kind : Nat) (payload : List Word) : State :=
  s.modCl cl fun k =>
    let q := getK [] k.events source
    let d := getK (0, 0) k.drops source
    if d.1 = 0 ∧ q.length < Config.eventRoom source + 1 then
      { k with events := insK k.events source (q ++ [eventRecord source kind s.lease payload]) }
    else { k with drops := insK k.drops source (Nat.min 0xFFFFFFFF (d.1 + 1), if d.1 = 0 then kind else d.2) }

/-- An event whose payload the spec does not give. -/
def State.raiseOpen (s : State) (cl source kind : Nat) : State :=
  { s.raise cl source kind ((List.range 12).map fun i => Config.freeWord (s.fresh + i)) with fresh := s.fresh + 12 }

/-- Something leaves the package. -/
def State.emit (s : State) (o : Output) : State := { s with out := s.out ++ [o] }

/-- R464: a unit that an error event names is to be tested. -/
def State.suspect (s : State) (cl kind : Nat) (target : Nat) : State :=
  let x := (cl, kind, BitVec.ofNat 40 target)
  if s.suspects.contains x then s else { s with suspects := s.suspects ++ [x] }

/-! ## Flat SRAM (R271) -/

inductive FlatName where
  | slice (core off : Nat)
  | serai (cl off : Nat)
  | nothing
  deriving DecidableEq, Repr

/-- R271: what a flat address names. -/
def flatName (a : Nat) : FlatName :=
  if 2 ^ 30 ≤ a then .nothing
  else
    let cl := bitsN a 28 25
    if bitsN a 29 29 = 0 then
      let off := bitsN a 17 0
      if off < 196608 then .slice (cl * 128 + bitsN a 24 18) off else .nothing
    else if bitsN a 24 20 = 0 then .serai cl (bitsN a 19 0) else .nothing

/-- R271: the flat address of a byte of a core's slice. -/
def sliceAddr (core off : Nat) : Nat := core / 128 * 2 ^ 25 + core % 128 * 2 ^ 18 + off
/-- R271: the flat address of a byte of a serai's local SRAM. -/
def seraiAddr (cl off : Nat) : Nat := 2 ^ 29 + cl * 2 ^ 25 + off
/-- The own storage of a core or serai: its slice, or its local SRAM (R301). -/
def ownAddr (core off : Nat) : Nat := if isSerai core then seraiAddr (core - 2048) off else sliceAddr core off

def State.rdSram (s : State) (a n : Nat) : List Byte := getBytes s.sram a n
def State.wrSram (s : State) (a : Nat) (bs : List Byte) : State := { s with sram := putBytes s.sram a bs }
def State.rdWord (s : State) (a : Nat) : Word := BitVec.ofNat 32 (natOfBytes (s.rdSram a 4))
def State.rdDWord (s : State) (a : Nat) : DWord := BitVec.ofNat 64 (natOfBytes (s.rdSram a 8))
/-- Words in a serai's local SRAM. -/
def State.wrSerai (s : State) (cl off : Nat) (ws : List Word) : State := s.wrSram (seraiAddr cl off) (bytesOfWords ws)
def State.rdSerai (s : State) (cl off n : Nat) : List Word := wordsOf n (natOfBytes (s.rdSram (seraiAddr cl off) (4 * n)))

/-! ## HBM (R397 to R401, R413) -/

def State.rgMode (s : State) (g : Nat) : Nat := dwBits (s.cr 16 (nRGMODE g)) 2 0
/-- R400: G of a unit under a key. -/
def hashG (u key : Nat) : Nat := (u * key % 2 ^ 32) / 256 % 4096
/-- R413, R415: the key that places a unit of a hashed group now. -/
def State.unitKey (s : State) (g u : Nat) : Nat :=
  let h := s.cr 16 (nHGSTATE g)
  if dwBit h 48 && decide (dwBits h 47 32 ≤ u) then dwBits h 31 16 else dwBits h 15 0

/-- A block's physical place as one number: stack, pc, SID, bg, bank, row, cb from the top (R399). -/
def locOf (stack pc sid bg bank row cb : Nat) : Nat :=
  (((((stack * 64 + pc) * 4 + sid) * 4 + bg) * 4 + bank) * 16384 + row) * 16 + cb
def locStack (loc : Nat) : Nat := loc / 2 ^ 30
def locBank (loc : Nat) : Nat := loc / 2 ^ 18
def locRow (loc : Nat) : Nat := loc / 16 % 16384
/-- R422: a location word: stack, pc, SID, bg, bank. -/
def bankWord (bank : Nat) : Word :=
  BitVec.ofNat 32 (bank / 4096 + bitsN bank 11 6 * 8 + bitsN bank 5 4 * 512 + bitsN bank 3 2 * 2048 + bitsN bank 1 0 * 8192)
/-- The bank number of a location word. -/
def bankOfWord (w : Nat) : Nat := bitsN w 2 0 * 4096 + bitsN w 8 3 * 64 + bitsN w 10 9 * 16 + bitsN w 12 11 * 4 + bitsN w 14 13

/-- R399: the place of block X of a row group, under an interleave mode. -/
def placeBlock (mode g x : Nat) : Nat :=
  let row := fun low => g * 512 + low
  if mode = 3 then
    locOf (bitsN x 27 25) (bitsN x 4 4 + 2 * bitsN x 24 20) (bitsN x 8 7) (bitsN x 19 18) (bitsN x 6 5) (row (bitsN x 17 9)) (bitsN x 3 0)
  else if mode = 0 then
    locOf (bitsN x 3 1) (bitsN x 9 4) (bitsN x 15 14) (bitsN x 13 12) (bitsN x 11 10) (row (bitsN x 27 19)) (bitsN x 0 0 + 2 * bitsN x 18 16)
  else
    let f := if mode = 2 then bitsN x 15 10 ^^^ bitsN x 21 16 else bitsN x 15 10
    locOf (bitsN x 27 25) (bitsN x 9 4) (bitsN f 5 4) (bitsN f 3 2) (bitsN f 1 0) (row (bitsN x 24 16)) (bitsN x 3 0)

/-- R399, R400: the location of the block that holds a device address. -/
def State.locate (s : State) (da : Nat) : Nat :=
  let g := bitsN da 38 34
  let x := bitsN da 33 6
  let m := s.rgMode g
  if m = 0 then
    let u := bitsN x 27 13
    placeBlock 0 g (x ^^^ (2 * hashG u (s.unitKey g u)))
  else placeBlock m g x
/-- R401: a device address of a group whose MODE is 4 names no memory. -/
def State.hbmNamed (s : State) (da : Nat) : Bool := decide (da < 2 ^ 39) && s.rgMode (bitsN da 38 34) != 4

def State.rdHbm (s : State) (da : Nat) : Nat → List Byte
  | 0 => []
  | n + 1 => getK 0 s.hbm (s.locate da * 64 + da % 64) :: s.rdHbm (da + 1) n
def State.wrHbm (s : State) (da : Nat) : List Byte → State
  | [] => s
  | b :: bs => { s with hbm := putK 0 s.hbm (s.locate da * 64 + da % 64) b }.wrHbm (da + 1) bs
def State.hbmBad (s : State) (da : Nat) : Bool := s.badHbm.contains (s.locate da)
/-- R402: a write of a whole block and its tag clears its error. -/
def State.clearBad (s : State) (da : Nat) : State :=
  { s with badHbm := s.badHbm.filter (· != s.locate da), softHbm := s.softHbm.filter (· != s.locate da) }

/-- Memory in its canonical form: keys strictly rising, and no byte listed that an unlisted key reads as (LOG 2). -/
def Memory.wf : List Host.Cell → Bool
  | [] => true
  | [(_, b)] => b != 0
  | (a, b) :: (a', b') :: m => decide (a < a') && b != 0 && Memory.wf ((a', b') :: m)

/-! ## Places: bytes and tags at a home (R92, R371) -/

def Place.add : Place → Nat → Place
  | .sram a, n => .sram (a + n)
  | .hbm d, n => .hbm (d + n)
  | .far b o d a, n => .far b (o + n) d ((a + n) % 2 ^ 64)
def Place.isFar : Place → Bool | .far .. => true | _ => false
/-- Offset of a place in its 64-byte block. -/
def blockPos : Place → Nat
  | .sram a => a % 64
  | .hbm d => d % 64
  | .far _ _ _ a => a % 64
def blockStart (p : Place) : Place :=
  match p with
  | .sram a => .sram (a / 64 * 64)
  | .hbm d => .hbm (d / 64 * 64)
  | .far b o d a => .far b o d (a / 64 * 64)
/-- The parts of a run of bytes that lie in one block each. -/
def blocksOf (p : Place) (n : Nat) : List (Place × Nat) :=
  let pos := blockPos p
  (List.range ((pos + n + 63) / 64)).map fun i =>
    let lo := Nat.max (64 * i) pos
    let hi := Nat.min (64 * (i + 1)) (pos + n)
    (p.add (lo - pos), hi - lo)
/-- Bytes at a local home. Far bytes arrive with the events that serve them. -/
def State.rdHome (s : State) : Place → Nat → List Byte
  | .sram a, n => s.rdSram a n
  | .hbm d, n => s.rdHbm d n
  | .far .., n => List.replicate n 0
/-- R11, R307: a byte of a trap slot that software only reads: all but VEC, in a slot that holds a record and in every slot
while posting is enabled (LOG 34). -/
def State.roByte (s : State) (a : Nat) : Bool :=
  match flatName a with
  | .serai cl off =>
    let base := dwBits (s.cr cl nTSLOTS) 19 10 * 1024
    let k := (off - base) / 1024
    decide (base ≤ off) && decide (k < 256) && !(decide (0x40 ≤ (off - base) % 1024) && decide ((off - base) % 1024 < 0x3C0)) &&
      (dwBit (s.cr cl nTNOTE) 0 || (s.cl cl).traps.any fun p => p.1 == k)
  | _ => false
/-- The bytes that a write at a flat address leaves there. -/
def State.kept (s : State) (a : Nat) (bs : List Byte) : List Byte :=
  if a + bs.length ≤ 2 ^ 29 then bs
  else (bs.zip (List.range bs.length)).map fun p => if s.roByte (a + p.2) then getK 0 s.sram (a + p.2) else p.1
def State.wrHome (s : State) : Place → List Byte → State
  | .sram a, bs => s.wrSram a (s.kept a bs)
  | .hbm d, bs => s.wrHbm d bs
  | .far .., _ => s
/-- R92: the tag of the block that holds a place. -/
def State.tagAt (s : State) : Place → Tag
  | .sram a => getK 0 s.sramTag (a / 64)
  | .hbm d => getK 0 s.hbmTag (s.locate d)
  | .far .. => 0
def State.setTag (s : State) (p : Place) (t : Tag) : State :=
  match p with
  | .sram a => { s with sramTag := putK 0 s.sramTag (a / 64) t }
  | .hbm d => { s with hbmTag := putK 0 s.hbmTag (s.locate d) t }
  | .far .. => s

/-- The line of a place: where a cache slice and a lease know it by; a fabric line by its home endpoint and its address there. -/
def lineKey : Place → Nat
  | .sram a => a / 128
  | .hbm d => 2 ^ 40 + d / 128
  | .far _ _ d a => 2 ^ 60 + d * 2 ^ 57 + a / 128
/-- The first byte of a place's line. -/
def lineBase : Place → Place
  | .sram a => .sram (a / 128 * 128)
  | .hbm d => .hbm (d / 128 * 128)
  | .far b o d a => .far b o d (a / 128 * 128)
def linePos : Place → Nat
  | .sram a => a % 128
  | .hbm d => d % 128
  | .far _ _ _ a => a % 128

/-! ## Buffer-table entries (R404, R477) and page-map entries (R405) -/

def ebits (e : BitVec 512) (hi lo : Nat) : Nat := bitsN e.toNat hi lo
/-- R404: the rights in the order READ, WRITE, EXEC, ATOM, WAYS. -/
def eRight (e : BitVec 512) (r : Nat) : Bool := e.getLsbD (1 + r)
def eOwner (e : BitVec 512) : BitVec 4 := e.extractLsb' 6 4
def eMode (e : BitVec 512) : Nat := ebits e 12 10
def eLa2 (e : BitVec 512) : Bool := e.getLsbD 13
def eLease (e : BitVec 512) : Nat := ebits e 31 16
def eDtag (e : BitVec 512) : Tag := e.extractLsb' 32 16
def eFar (e : BitVec 512) : Bool := ebits e 51 48 == 1
def eLength (e : BitVec 512) : Nat := ebits e 104 64
/-- R404, R477: VALID and not malformed. -/
def entryOk (e : BitVec 512) : Bool :=
  e.getLsbD 0 && ebits e 63 52 == 0 && ebits e 127 105 == 0 && ebits e 255 167 == 0 && decide (ebits e 12 10 ≤ 3) &&
  decide (ebits e 15 14 ≤ 1) && decide (ebits e 51 48 ≤ 1) && decide (eLength e ≤ 2 ^ 40) &&
  (if eFar e then ebits e 12 10 == 0 && ebits e 166 128 == 0 && ebits e 337 330 != 0 && ebits e 511 340 == 0
   else ebits e 511 256 == 0)

/-- R404: the entry of a buffer as the table holds it now. -/
def State.tableEntry (s : State) (bti : Nat) : BitVec 512 :=
  BitVec.ofNat 512 (natOfBytes (s.rdHbm ((dwBits (s.cr 16 nBTBASE) 38 0 + 64 * bti) % 2 ^ 39) 64))
/-- R475: the clock allowance of the domain. -/
def State.skew (s : State) : Lease := BitVec.ofNat 48 (dwBits (s.cr 16 nFABCTL) 31 16)
def State.portUp (s : State) (p : Nat) : Bool := dwBits (s.cr 16 (nPORTSTAT p)) 1 0 != 0
/-- R478: the port of a line of a fabric buffer, and the port its requests take now, if one is up. -/
def State.farPort (s : State) (bti off : Nat) : Nat × Option Nat :=
  let ports := (List.range 8).filter fun p => (s.tableEntry bti).getLsbD (330 + p)
  let k := if ports.isEmpty then 0 else off / 128 % ports.length
  (ports.getD k 0, (ports.drop k ++ ports.take k).find? s.portUp)
/-- R478, R482: why a fabric access completes with MEMORY-UNAVAILABLE now: FINFO[5:0]. -/
def State.farDown (s : State) (bti off : Nat) : Option Nat :=
  let p := s.farPort bti off
  if !dwBit (s.cr 16 nFABCTL) 33 ∨ p.2.isNone then some (48 + p.1) else none

/-- R478: the ports that the outstanding requests to a line took. -/
def State.farPorts (s : State) (line : Nat) : List Nat :=
  (s.prods.filterMap fun x => match x.2.src with | .load a => if lineKey a.place = line then a.sent.map (·.1) else none | _ => none) ++
  s.stores.filterMap fun x => if lineKey x.2.place = line then x.2.sent.map (·.1) else none
/-- R478: a line changes port only once no request to it is outstanding on another; requests to it wait. -/
def State.farHeld (s : State) (bti off line : Nat) : Bool :=
  let p := s.farPort bti off
  (s.farPorts line).any (· != p.2.getD p.1)
/-- R474, R477, R478: a request of `n` bytes, aligned to its size, leaves for what another package or endpoint holds. -/
def State.farSend (s : State) (p : Place) (n : Nat) (data : Option (List (Option Byte))) (tag : Option Tag) (op : Option (BitVec 4 × DWord × DWord)) :
    State :=
  match p with
  | .far b o d a => let x := s.farPort b o; s.emit (.request (x.2.getD x.1) d (a / n * n) n data tag op)
  | _ => s
/-- R474: a read of one block or one line. -/
def State.farAsk (s : State) (p : Place) (n : Nat) : State := s.farSend p n none none none
/-- R474: writes of the blocks that hold bytes; a byte without a value, like the other bytes of a block, stays. -/
def State.farPut (s : State) (p : Place) (bs : List (Option Byte)) : State :=
  match p with
  | .far .. => ((blocksOf p bs.length).foldl (fun (a : State × List (Option Byte)) q =>
      (a.1.farSend q.1 64 (some (List.replicate (blockPos q.1) none ++ a.2.take q.2 ++ List.replicate (64 - blockPos q.1 - q.2) none)) none none,
        a.2.drop q.2)) (s, bs)).1
  | _ => s
/-- R92, R474: the tag of a block is written. -/
def State.farTag (s : State) (p : Place) (t : Tag) : State := s.farSend p 64 none (some t) none
/-- R386, R474: an atomic request. -/
def State.farOp (s : State) (p : Place) (w64 : Bool) (op : BitVec 4) (o1 o2 : DWord) : State :=
  s.farSend p (if w64 then 8 else 4) none none (some (op, o1, o2))
/-- R482: TMO in ticks. -/
def State.tmo (s : State) : Nat := 1000 * dwBits (s.cr 16 nFABCTL) 47 40
/-- R482: has a request that left at a time passed its limit? -/
def State.farLate (s : State) (t : Lease) : Bool := decide (s.tmo < (s.lease - t).toNat)

def rREAD := 0
def rWRITE := 1
def rEXEC := 2
def rATOM := 3
def rWAYS := 4

/-! ## Row activations (R416 to R418) -/

def State.stkUnavail (s : State) (k : Nat) : Bool := dwBit (s.cr 16 (nSTKSTAT k)) 25
def State.stkReload (s : State) (k : Nat) : Bool := dwBit (s.cr 16 (nSTKSTAT k)) 24
def Wave.hasPath (w : Wave) : Bool := w.live && !w.busy && decide (w.lanesWith (· == .ready) ≠ 0)
/-- Turns in order from `from`, wrapping after 15 (R170). -/
def turnsFrom (from_ : Nat) : List Nat := (List.range 16).map fun i => (from_ + i) % 16

/-- R418: an alert throttles the offending core until 10,000 ticks after it. -/
def State.throttleCore (s : State) (c : Nat) : State :=
  let s := s.modCore c fun k =>
    let adm := match k.throttle with
      | some _ => k.admitted
      | none => ((turnsFrom k.nextA).filter fun t => (k.wave t).hasPath).take 4
    { k with throttle := some (s.lease + 10000), admitted := adm }
  (s.modCr (clusterOf c) (nTHR (coreIndex c)) fun v => dwSet v 0 0 1).crCount (clusterOf c) (nTHR (coreIndex c)) 31 16 1

/-- R412, R416, R417, R422: an access to a block opens its row if it is not open, a conflict and an activation are counted,
and the 1,024th activation raises an alert. `origin` is the offending core; the migration engine counts no conflict. -/
def State.activate (s : State) (loc : Nat) (origin : Option Nat) (mig : Bool := false) : State :=
  let b := locBank loc
  let k := locStack loc
  let row := getK (locRow loc) s.remap (b * 16384 + locRow loc)
  let hb := getK {} s.hbanks b
  let opened := if Lease.before (hb.last + 100) s.lease then none else hb.row
  if opened = some row then { s with hbanks := insK s.hbanks b { hb with row := some row, last := s.lease } }
  else
    let s := if opened.isSome && !mig then s.crCount 16 (nSTKSTAT k) 23 0 1 else s
    let key := b * 32768 + row
    let n := getK 0 s.rowCnt key + 1
    if n < 1024 then
      { s with hbanks := insK s.hbanks b { hb with row := some row, last := s.lease }, rowCnt := putK 0 s.rowCnt key n }
    else
      let s := { s with
        hbanks := insK s.hbanks b { row := some row, last := s.lease, block := some (s.lease + 280) }
        rowCnt := putK 0 s.rowCnt key 0 }
      let s := s.crCount 16 (nSTKSTAT k) 47 32 1
      let thr := match origin with | some c => if c < 2048 then some c else none | none => none
      let s := match thr with | some c => s.throttleCore c | none => s
      s.raise (2 * k) 4 0 [bankWord b, BitVec.ofNat 32 row, match thr with | some c => BitVec.ofNat 32 c | none => 0xFFFFFFFF]

/-- R464: the row of a location is to be tested. -/
def State.suspectRow (s : State) (loc : Nat) : State :=
  s.suspect (2 * locStack loc) 0 ((bankWord (locBank loc)).toNat + locRow loc * 2 ^ 15)
/-- R402, R422, R464: an error that the ECC bits of a block correct is posted (KIND 1) by the access that finds it. -/
def State.foundSoft (s : State) (loc : Nat) : State :=
  if s.softHbm.contains loc then
    ({ s with softHbm := s.softHbm.filter (· != loc) }.raise (2 * locStack loc) 4 1
      [bankWord (locBank loc), BitVec.ofNat 32 (locRow loc), BitVec.ofNat 32 (loc % 16)]).suspectRow loc
  else s
/-- An access to a block (R402, R416). -/
def State.touch (s : State) (loc : Nat) (origin : Option Nat) (mig : Bool := false) : State := (s.activate loc origin mig).foundSoft loc

/-- R414, R417, R421: a request to a block is held by a blocked bank or a reloading stack. -/
def State.held (s : State) (loc : Nat) : Bool :=
  (match (getK {} s.hbanks (locBank loc)).block with | some t => Lease.before s.lease t | none => false) ||
  s.stkReload (locStack loc)

/-- R402, R421: why a home cannot serve a read: FINFO[5:0] of MEMORY-UNAVAILABLE. -/
def State.homeDown (s : State) (p : Place) (n : Nat) : Option Nat :=
  match p with
  | .sram _ => none
  | .hbm d =>
    (List.range (Nat.max 1 ((d % 64 + n + 63) / 64))).findSome? fun i =>
      let a := if i = 0 then d else (d / 64 + i) * 64
      let k := locStack (s.locate a)
      if s.stkUnavail k then some (16 + k) else if n > 0 ∧ s.hbmBad a then some (32 + k) else none
  | .far b o .. => s.farDown b o
/-- R464: does a test hold the serai SRAM region of a flat address? -/
def State.regionHeld (s : State) (a : Nat) : Bool :=
  match s.selfTest with
  | some t => t.kind == 5 && t.res.isNone &&
      (match flatName a with | .serai cl off => cl == bitsN t.target.toNat 3 0 && off / 65536 == bitsN t.target.toNat 7 4 | _ => false)
  | none => false
def State.heldPlace (s : State) : Place → Bool
  | .hbm d => s.held (s.locate d)
  | .sram a => s.regionHeld a
  | .far b o d a => s.farHeld b o (lineKey (.far b o d a))
def State.touchPlace (s : State) (p : Place) (origin : Option Nat) : State :=
  match p with | .hbm d => s.touch (s.locate d) origin | _ => s
/-- R416, R417: an access to a run of bytes touches each of its blocks, and is held while one of them is. -/
def State.touchSpan (s : State) (p : Place) (n : Nat) (origin : Option Nat) : State :=
  (blocksOf p n).foldl (fun s b => s.touchPlace b.1 origin) s
def State.heldSpan (s : State) (p : Place) (n : Nat) : Bool := (blocksOf p n).any fun b => s.heldPlace b.1
/-- R402, R422: an uncorrectable error found in a block is posted (KIND 2); the word after the row is the column block. -/
def State.reportBad (s : State) (p : Place) : State :=
  match p with
  | .hbm d =>
    let l := s.locate d
    (s.raise (2 * locStack l) 4 2 [bankWord (locBank l), BitVec.ofNat 32 (locRow l), BitVec.ofNat 32 (l % 16)]).suspectRow l
  | _ => s
/-- R402, R416: an access to a line touches its row once, and finds what errors are corrected in both its blocks. -/
def State.touchWhole (s : State) (b : Place) (origin : Option Nat) : State :=
  let s := s.touchPlace b origin
  match b with | .hbm d => s.foundSoft (s.locate (d + 64)) | _ => s

/-- R402, R416: an access to a run of bytes that finds uncorrectable errors touches their blocks and posts them. -/
def State.foundBad (s : State) (p : Place) (n : Nat) : State :=
  (blocksOf p n).foldl (fun s b => match b.1 with
    | .hbm d => if s.hbmBad d then (s.touchPlace b.1 none).reportBad b.1 else s
    | _ => s) s

/-! ## Walks (R407, R409) -/

/-- The device addresses of a frame's blocks. -/
def frameBlocks (frame : Nat) : List Nat := (List.range 1024).map fun i => frame * 65536 + i * 64
/-- R402, R407: a whole block and its tag are written, with zeros and the tag given. -/
def State.clearBlock (s : State) (t : Tag) (da : Nat) : State :=
  let l := s.locate da
  ({ s with hbm := s.hbm.filter (fun c => c.1 / 64 != l), hbmTag := putK 0 s.hbmTag l t }.clearBad da).touch l none
/-- R407: write every byte of a frame 0 and every tag DTAG; a stack out of service takes no write (R421). -/
def State.clearFrame (s : State) (frame : Nat) (t : Tag) : State :=
  (frameBlocks frame).foldl (fun s da => if s.stkUnavail (locStack (s.locate da)) then s else s.clearBlock t da) s
/-- R421: the first stack out of service among those of a frame's blocks. -/
def State.frameDown (s : State) (frame : Nat) : Option Nat :=
  (frameBlocks frame).findSome? fun da => let k := locStack (s.locate da); if s.stkUnavail k then some k else none
/-- R414, R417, R421: does a walk wait for a held home, or for one that the clearing of its frame writes to? -/
def State.walkHeld (s : State) (bti page : Nat) : Bool :=
  let ea := (dwBits (s.cr 16 nBTBASE) 38 0 + 64 * bti) % 2 ^ 39
  let e := s.tableEntry bti
  let pa := (ebits e 166 128 + 8 * page) % 2 ^ 39
  let p := natOfBytes (s.rdHbm pa 8)
  s.heldPlace (.hbm ea) ||
    (entryOk e && !eFar e && decide (page * 65536 < eLength e) &&
      (s.heldPlace (.hbm pa) ||
        (p.testBit 0 && p.testBit 1 && !p.testBit 2 && (frameBlocks (bitsN p 38 16)).any fun da => s.heldPlace (.hbm da))))

/-- R407, R409: what a walk of a page finds: the result of `WalkRes`, or 0 with the frame, or 6 while ZBUSY is 1. A frame
with ZINIT is cleared on the way. -/
def State.walkPage (s : State) (bti page : Nat) : Nat × BitVec 512 × Nat × State :=
  if dwBits (s.cr 16 nBTLEN) 16 0 ≤ bti then (1, 0, 0, s)
  else
    let ea := (dwBits (s.cr 16 nBTBASE) 38 0 + 64 * bti) % 2 ^ 39
    if !s.hbmNamed ea then (1, 0, 0, s)
    else match s.homeDown (.hbm ea) 64 with
    | some d => (16 + d, 0, 0, s.foundBad (.hbm ea) 64)
    | none =>
      let s := s.touchPlace (.hbm ea) none
      let e : BitVec 512 := BitVec.ofNat 512 (natOfBytes (s.rdHbm ea 64))
      if !entryOk e then (1, e, 0, s)
      else if eLength e ≤ page * 65536 then (2, e, 0, s)
      else if eFar e then (0, e, 0, s)
      else
        let pa := (ebits e 166 128 + 8 * page) % 2 ^ 39
        if !s.hbmNamed pa then (4, e, 0, s)
        else match s.homeDown (.hbm pa) 8 with
        | some d => (16 + d, e, 0, s.foundBad (.hbm pa) 8)
        | none =>
          let s := s.touchPlace (.hbm pa) none
          let p := natOfBytes (s.rdHbm pa 8)
          let frame := bitsN p 38 16
          if !p.testBit 0 then (3, e, 0, s)
          else if bitsN p 63 39 ≠ 0 ∨ s.rgMode (frame / 2 ^ 18) ≠ eMode e then (4, e, 0, s)
          else if p.testBit 2 then (6, e, frame, s)
          else if p.testBit 1 then
            -- a frame that could not be cleared keeps ZBUSY 1 (R407)
            (match s.frameDown frame with
            | some k => (32 + k, e, 0, ((s.clearFrame frame (eDtag e)).wrHbm pa (bytesOf 8 (p + 2))).touchPlace (.hbm pa) none)
            | none => (0, e, frame, ((s.clearFrame frame (eDtag e)).wrHbm pa (bytesOf 8 (p - 2))).touchPlace (.hbm pa) none))
          else (0, e, frame, s)

/-- Where a translation of a page is kept: offsets have 48 bits, so a page has 32. -/
def pageKey (bti page : Nat) : Nat := bti * 2 ^ 32 + page

/-- The outcome of checking an access (R407, R381). -/
inductive Chk where
  | ok (p : Place) (e : BitVec 512)
  | bad (code : Nat) (finfo : Word) (extra : DWord)
  | miss (bti page : Nat)
  deriving DecidableEq, Repr

/-- R408: FINFO of ACCESS. -/
def accessInfo (cause right bti : Nat) : Word := BitVec.ofNat 32 (cause + 2 ^ (4 + right) + 2 ^ 16 * bti)

/-- R407 steps 2 to 5, given what is known of the access's first page: its result and entry. -/
def checkBuffer (part : BitVec 4) (bti off size right res : Nat) (e : BitVec 512) : Option Chk :=
  let x := BitVec.ofNat 64 off
  if 16 ≤ res ∧ e = 0 then some (.bad 8 (BitVec.ofNat 32 (res - 16 + 2 ^ 16 * bti)) x)
  else if res = 1 then some (.bad 7 (accessInfo 1 right bti) x)
  else if eOwner e ≠ part then some (.bad 7 (accessInfo 2 right bti) x)
  else if eLength e < off + size then some (.bad 7 (accessInfo 3 right bti) x)
  else if !eRight e right then some (.bad 7 (accessInfo 4 right bti) x)
  else none
/-- R407 step 6: the code of a page that has no frame. -/
def pageAbsent (res : Nat) : Option Nat := if 16 ≤ res then some 8 else if res = 3 then some 6 else none
/-- The place of an offset of a buffer in a page that has passed. -/
def pagePlace (bti off : Nat) (e : BitVec 512) (frame : Nat) : Place := if eFar e then .far bti off (ebits e 329 320) ((ebits e 319 256 + off) % 2 ^ 64) else .hbm (frame * 65536 + off % 65536)
/-- R407 steps 6 and 7 for a page. -/
def checkPage (bti off right res : Nat) (e : BitVec 512) (frame : Nat) : Chk :=
  let x := BitVec.ofNat 64 off
  if 16 ≤ res then .bad 8 (BitVec.ofNat 32 (res - 16 + 2 ^ 16 * bti)) x
  else if res = 3 then .bad 6 (BitVec.ofNat 32 ((if right = rEXEC then 1 else 0) + 2 ^ 16 * bti)) x
  else if res = 4 then .bad 7 (accessInfo 5 right bti) x
  else .ok (pagePlace bti off e frame) e
/-- R407 steps 2 to 7 for an access that lies in one page, given what is known of the page: its result, entry and frame. -/
def checkEntry (part : BitVec 4) (bti off size right : Nat) (res : Nat) (e : BitVec 512) (frame : Nat) : Chk :=
  match checkBuffer part bti off size right res e with
  | some c => c
  | none => checkPage bti off right res e frame

/-- R407: a thread's access through a slot: a translation, or what a walk it waited for has found, or a miss. -/
def State.checkBuf (s : State) (cl : Nat) (walked : List WalkRes) (part : BitVec 4) (slot : Option Nat) (off size right : Nat) : Chk :=
  match slot with
  | none => .bad 7 (accessInfo 0 right 0) (BitVec.ofNat 64 off)
  | some bti =>
    let page := off / 65536
    match findK (s.cl cl).tlb (pageKey bti page) with
    | some t => checkEntry part bti off size right 0 t.entry t.frame
    | none =>
      match walked.find? (fun w => w.bti == bti && w.page == page) with
      | some w => checkEntry part bti off size right w.res w.entry 0
      | none => .miss bti page

/-- An engine's access walks for itself, page by page (R283, R409); `none` while a page is held by ZBUSY. -/
def State.checkEngine (s : State) (part : BitVec 4) (bti off size right : Nat) : Option Chk × State :=
  let (r, e, f, s) := s.walkPage bti (off / 65536)
  if r = 6 then (none, s) else (some (checkEntry part bti off size right r e f), s)

/-! ## Leases and the cache slice (R274 to R277, R376) -/

/-- R376, R414: where the home keeps LX: it moves with the block. -/
def State.lxKey (s : State) : Place → Nat
  | .sram a => a / 128
  | .hbm d => 2 ^ 40 + s.locate d / 2
  | p => lineKey p
/-- R475, R480: is the switch directory used through a port? -/
def State.dirUsed (s : State) (port : Nat) : Bool := dwBit (s.cr 16 nFABCTL) 32 && dwBit (s.cr 16 (nPORTSTAT port)) 2
/-- R480: a lease received over the fabric is registered with the switch's directory. -/
def State.register (s : State) (p : Place) : State :=
  match p with
  | .far b o d a =>
    let x := s.farPort b o
    let port := x.2.getD x.1
    if s.dirUsed port && (s.tableEntry b).getLsbD 339 then s.emit (.register port d (a / 128 * 128)) else s
  | _ => s
/-- R377: the visibility time a home of this package returns for a store that performs now. Of a fabric home (R479): of one that grants
leases, a time not before the request left, when it may have performed, later than the leases that this package holds, with those of
others, which only the home knows; of another, the arrival of its response; with SKEW. -/
def State.visTime (s : State) (p : Place) (left : Lease := s.lease) : Lease :=
  match p with
  | .far b .. =>
    if (s.tableEntry b).getLsbD 338 then
      let v := left + BitVec.ofNat 48 (Config.freeNat s.fresh % 2 ^ 17)
      (match findK s.lx (s.lxKey p) with | some x => Lease.later v x | none => v) + s.skew
    else s.lease + s.skew
  | p => match findK s.lx (s.lxKey p) with | some x => Lease.later s.lease x | none => s.lease
/-- A free value has been used where the place is another package's. -/
def State.farUsed (s : State) (p : Place) : State := match p with | .far .. => { s with fresh := s.fresh + 1 } | _ => s

/-- R274: may the cache slice of a cluster hold the line of a place? -/
def cacheable (cl : Nat) : Place → Bool
  | .sram a => match flatName a with | .slice c _ => decide (c / 128 ≠ cl) | _ => false
  | .hbm _ => true
  | .far .. => true

/-- A live copy of a line (R275). -/
def State.liveLine (s : State) (cl : Nat) (p : Place) : Option CLine :=
  match findK (s.cl cl).lines (lineKey p) with
  | some c => if Lease.before s.lease c.expiry then some c else none
  | none => none

/-- An event of an error that the spec gives no KIND and no payload. -/
def State.raiseFree (s : State) (cl source : Nat) : State :=
  { s with fresh := s.fresh + 1 }.raiseOpen cl source (Config.freeNat s.fresh % 255)

/-- R338: a marked line leaves: the entry it marks, if still valid with HOLDER 128, loses 128 bytes, and is cleared at 0. -/
def Cluster.unmark (k : Cluster) (mark : Option Nat) : Cluster :=
  match mark with
  | none => k
  | some n =>
    let e := (getK 0 k.manifest n).toNat
    if e.testBit 0 ∧ bitsN e 47 40 = 128 then
      let b := bitsN e 117 96
      if b ≤ 128 then { k with manifest := putK 0 k.manifest n 0 }
      else { k with manifest := putK 0 k.manifest n (BitVec.ofNat 128 (e - 128 * 2 ^ 96)) }
    else k
/-- A line leaves the cache slice (R277, R338). -/
def Cluster.dropLine (k : Cluster) (key : Nat) : Cluster :=
  match findK k.lines key with
  | none => k
  | some c => { k with lines := delK k.lines key }.unmark c.mark

/-- R277: an access that finds an uncorrectable error in a live copy drops the line and is served by the home; the error is
reported (LOG 7). -/
def State.scrub (s : State) (cl : Nat) (p : Place) : State :=
  match s.liveLine cl p with
  | some c => if c.bad then ((s.modCl cl fun k => k.dropLine (lineKey p)).raiseFree cl 4).suspect cl 3 (cl + 16 * (Config.cacheSet (lineKey p) % 2048)) else s
  | none => s
/-- R276: a fetch waits for an unacknowledged store of the cluster to the line. -/
def State.lineBusy (s : State) (cl : Nat) (p : Place) : Bool :=
  s.stores.any fun x => clusterOf x.2.core == cl && decide (1 ≤ x.2.stage) && lineKey x.2.place == lineKey p
/-- R277: the line a fill replaces in a full set: one whose lease has expired, else the least recently used. -/
def Cluster.victim (k : Cluster) (now : Lease) (set ways : Nat) : Option Nat :=
  let inSet := k.lines.filter fun p => Config.cacheSet p.1 % 1536 == set
  if inSet.length < ways then none
  else match inSet.find? (fun p => !Lease.before now p.2.expiry) with
    | some p => some p.1
    | none => (inSet.foldl (fun (m : Option (Nat × Nat)) p =>
        match m with | some (_, u) => if p.2.used < u then some (p.1, p.2.used) else m | none => some (p.1, p.2.used)) none).map (·.1)

/-- R376, R479: the expiry of the lease under which a line is filled: a fabric home sends it. -/
def State.leaseEnd (s : State) (p : Place) (len : Nat) : Lease :=
  s.lease + BitVec.ofNat 48 (match p with | .far .. => Config.freeNat s.fresh % 2 ^ 17 | _ => len)
/-- R275, R277, R376, R480: fill a line of a cluster with the bytes and tags given, under a new lease that the home counts; one received
over the fabric is registered. -/
def State.fillLine (s : State) (cl : Nat) (p : Place) (bytes : List Byte) (tags : List Tag) (len : Nat) (mark : Option Nat) : State :=
  let key := lineKey p
  let exp := s.leaseEnd p len
  let s := (s.farUsed p).register p
  let lk := s.lxKey p
  let lx := match findK s.lx lk with | some x => Lease.later x exp | none => exp
  let ll := match findK s.lxl lk with | some x => Lease.later x exp | none => exp
  let s := match p with | .far .. => { s with lx := insK s.lx lk lx } | _ => { s with lx := insK s.lx lk lx, lxl := insK s.lxl lk ll }
  let set := Config.cacheSet key % 1536
  let s := s.modCl cl fun k =>
    let old := findK k.lines key
    let k := match old with
      | some _ => k
      | none => match k.victim s.lease set (16 - getK 0 k.waysOut set) with | some v => k.dropLine v | none => k
    let k := match old with
      | some c => if mark.isSome && c.mark != mark then k.unmark c.mark else k
      | none => k
    let m := match mark with | some _ => mark | none => old.bind (·.mark)
    if 16 ≤ getK 0 k.waysOut set then k
    else { k with lines := insK k.lines key { data := bytes, tags := tags, expiry := exp, used := s.nextId, mark := m } }
  { s with nextId := s.nextId + 1 }

/-- The bytes and tags of a local line at its home. -/
def State.homeLine (s : State) (p : Place) : List Byte × List Tag :=
  let b := lineBase p
  (s.rdHome b 128, [s.tagAt b, s.tagAt (b.add 64)])

/-- R276: a cluster's live copy takes a store's bytes. -/
def CLine.store (c : CLine) (pos : Nat) (bs : List Byte) : CLine :=
  { c with data := c.data.take pos ++ bs ++ c.data.drop (pos + bs.length) }

end Sys2Proof.Machine
end

