-- ==== Sys2Proof/Machine/NumFmt.lean ====
section
/-! DEFINITION. Number formats, block tags, rounding and exact arithmetic (R85 to R106), and the approximate functions of
R152 to R154. Values are exact (a fraction times a power of two) until one rounding. -/

namespace Sys2Proof

/-! ## Exact values -/

/-- An exact rational `num / den · 2^exp`; `den` is never 0 in a value built here. -/
structure Exact where
  num : Int
  den : Nat
  exp : Int
  deriving DecidableEq, Repr

namespace Exact
def ofInt (n : Int) : Exact := { num := n, den := 1, exp := 0 }
def dyadic (n : Int) (e : Int) : Exact := { num := n, den := 1, exp := e }
def isZero (x : Exact) : Bool := x.num == 0
def isNeg (x : Exact) : Bool := decide (x.num < 0)
def neg (x : Exact) : Exact := { x with num := -x.num }
def abs (x : Exact) : Exact := { x with num := x.num.natAbs }
/-- Numerator after lowering the exponent to `e ≤ x.exp`. -/
def numAt (x : Exact) (e : Int) : Int := x.num * ((2 ^ (x.exp - e).toNat : Nat) : Int)
def add (x y : Exact) : Exact :=
  let e := min x.exp y.exp
  { num := x.numAt e * (y.den : Int) + y.numAt e * (x.den : Int), den := x.den * y.den, exp := e }
def sub (x y : Exact) : Exact := x.add y.neg
def mul (x y : Exact) : Exact := { num := x.num * y.num, den := x.den * y.den, exp := x.exp + y.exp }
/-- `x / y` for `y` not zero. -/
def div (x y : Exact) : Exact :=
  { num := x.num * (y.den : Int) * (if y.num < 0 then -1 else 1), den := x.den * y.num.natAbs, exp := x.exp - y.exp }
/-- `x · 2^k`. -/
def scale (x : Exact) (k : Int) : Exact := { x with exp := x.exp + k }
def lt (x y : Exact) : Bool := (x.sub y).isNeg
def le (x y : Exact) : Bool := !(y.lt x)
def eq (x y : Exact) : Bool := (x.sub y).isZero
/-- |x| / 2^q as floor, remainder and divisor. -/
def quot (x : Exact) (q : Int) : Nat × Nat × Nat :=
  let d := x.exp - q
  let n := if 0 ≤ d then x.num.natAbs * 2 ^ d.toNat else x.num.natAbs
  let m := if 0 ≤ d then x.den else x.den * 2 ^ (-d).toNat
  (n / m, n % m, m)
/-- The e with 2^e ≤ |x| < 2^(e+1), for x not zero. -/
def log2 (x : Exact) : Int :=
  let l : Int := (x.num.natAbs.log2 : Int) - (x.den.log2 : Int)
  let below : Bool := if 0 ≤ l then decide (x.num.natAbs < x.den * 2 ^ l.toNat) else decide (x.num.natAbs * 2 ^ (-l).toNat < x.den)
  (if below then l - 1 else l) + x.exp
/-- floor(x) -/
def floor (x : Exact) : Int :=
  let (q, r, _) := x.quot 0
  if x.num < 0 then (if r = 0 then -(q : Int) else -(q : Int) - 1) else q
end Exact

/-- A value of a format (R85, R90): `nan sig` is signalling when `sig`; `fin` is finite and not zero. -/
inductive FVal where
  | nan (sig : Bool)
  | inf (neg : Bool)
  | zero (neg : Bool)
  | fin (x : Exact)
  deriving DecidableEq, Repr

def FVal.isNan : FVal → Bool | .nan _ => true | _ => false
def FVal.isSnan : FVal → Bool | .nan s => s | _ => false
def FVal.isInf : FVal → Bool | .inf _ => true | _ => false
def FVal.isZero : FVal → Bool | .zero _ => true | _ => false
def FVal.isNeg : FVal → Bool
  | .nan _ => false | .inf n => n | .zero n => n | .fin x => x.isNeg
/-- An exact value as a value: zero takes the given sign. -/
def FVal.ofExact (x : Exact) (zneg : Bool) : FVal := if x.isZero then .zero zneg else .fin x
def FVal.neg : FVal → FVal
  | .nan s => .nan s | .inf n => .inf (!n) | .zero n => .zero (!n) | .fin x => .fin x.neg
def FVal.abs : FVal → FVal
  | .nan s => .nan s | .inf _ => .inf false | .zero _ => .zero false | .fin x => .fin x.abs
/-- The exact value of a finite operand. -/
def FVal.exact : FVal → Exact
  | .fin x => x | _ => Exact.ofInt 0
def FVal.mapFin (f : Exact → Exact) : FVal → FVal
  | .fin x => .fin (f x) | v => v

/-! ## Formats -/

/-- R85, R87, R89: an IEEE format by exponent and fraction bits; a binary8 or binary4 format by width and precision; an
integer format. -/
inductive Fmt where
  | ieee (eb fb : Nat)
  | bin (k p : Nat) (uns finOnly : Bool)
  | int (w : Nat) (uns : Bool)
  deriving DecidableEq, Repr

def Fmt.f32 : Fmt := .ieee 8 23
def Fmt.bf16 : Fmt := .ieee 8 7
def Fmt.f16 : Fmt := .ieee 5 10

def Fmt.width : Fmt → Nat
  | .ieee eb fb => eb + fb + 1 | .bin k _ _ _ => k | .int w _ => w
/-- R85, R89: fraction bits t. -/
def Fmt.frac : Fmt → Nat
  | .ieee _ fb => fb | .bin _ p _ _ => p - 1 | .int _ _ => 0
/-- R85, R89: exponent bias. -/
def Fmt.bias : Fmt → Int
  | .ieee eb _ => 2 ^ (eb - 1) - 1
  | .bin k p uns _ => 2 ^ ((if uns then k - p + 1 else k - p) - 1)
  | .int _ _ => 0
/-- The exponent of the smallest normal magnitude. -/
def Fmt.emin (f : Fmt) : Int := 1 - f.bias
def Fmt.hasSign : Fmt → Bool
  | .ieee _ _ => true | .bin _ _ uns _ => !uns | .int _ uns => !uns
/-- R90: the format has the infinity of this sign. -/
def Fmt.hasInf (f : Fmt) (neg : Bool) : Bool :=
  match f with
  | .ieee _ _ => true
  | .bin _ _ uns fo => !fo && !(uns && neg)
  | .int _ _ => false

/-- R90: the NaN code; R85: the default NaN. -/
def Fmt.nanCode : Fmt → Nat
  | .ieee eb fb => (2 ^ eb - 1) * 2 ^ fb + 2 ^ (fb - 1)
  | .bin k _ uns _ => if uns then 2 ^ k - 1 else 2 ^ (k - 1)
  | .int _ _ => 0
def Fmt.infCode (f : Fmt) (neg : Bool) : Nat :=
  match f with
  | .ieee eb fb => (2 ^ eb - 1) * 2 ^ fb + (if neg then 2 ^ (eb + fb) else 0)
  | .bin k _ uns _ => if uns then 2 ^ k - 2 else if neg then 2 ^ k - 1 else 2 ^ (k - 1) - 1
  | .int _ _ => 0
/-- R91: the code of the largest finite magnitude, without sign. -/
def Fmt.maxCode : Fmt → Nat
  | .ieee eb fb => (2 ^ eb - 2) * 2 ^ fb + (2 ^ fb - 1)
  | .bin k _ uns fo => if uns then (if fo then 2 ^ k - 2 else 2 ^ k - 3) else (if fo then 2 ^ (k - 1) - 1 else 2 ^ (k - 1) - 2)
  | .int w uns => if uns then 2 ^ w - 1 else 2 ^ (w - 1) - 1

/-- R85, R89: the magnitude of a code without sign that is not special. -/
def Fmt.magOf (f : Fmt) (m : Nat) : Exact :=
  let t := f.frac
  let e := m / 2 ^ t
  let fr := m % 2 ^ t
  if e = 0 then Exact.dyadic fr (1 - f.bias - t) else Exact.dyadic (2 ^ t + fr : Nat) ((e : Int) - f.bias - t)

/-- R85, R87, R89, R90: the value of a code. -/
def Fmt.decode (f : Fmt) (code : Nat) : FVal :=
  match f with
  | .int w uns =>
    let c := code % 2 ^ w
    let v : Int := if !uns && decide (2 ^ (w - 1) ≤ c) then (c : Int) - 2 ^ w else c
    FVal.ofExact (Exact.ofInt v) false
  | .ieee eb fb =>
    let c := code % 2 ^ (eb + fb + 1)
    let s := decide (2 ^ (eb + fb) ≤ c)
    let m := c % 2 ^ (eb + fb)
    if m / 2 ^ fb = 2 ^ eb - 1 then
      (if m % 2 ^ fb = 0 then .inf s else .nan (decide (m % 2 ^ fb < 2 ^ (fb - 1))))
    else if m = 0 then .zero s
    else let x := f.magOf m; .fin (if s then x.neg else x)
  | .bin k _ uns _ =>
    let c := code % 2 ^ k
    if c = f.nanCode then .nan false
    else if f.hasInf false && c == f.infCode false then .inf false
    else if f.hasInf true && c == f.infCode true then .inf true
    else
      let s := !uns && decide (2 ^ (k - 1) ≤ c)
      let m := if uns then c else c % 2 ^ (k - 1)
      let x := f.magOf m
      if x.isZero then .zero false else .fin (if s then x.neg else x)

/-! ## Flags (R36) -/

/-- SATF[6:0]: SAT, INV, DZ, OVF, UNF, INX, AMU. -/
abbrev Flags := BitVec 7
def Flags.none : Flags := 0
def Flags.sat : Flags := 0x01
def Flags.inv : Flags := 0x02
def Flags.dz  : Flags := 0x04
def Flags.ovf : Flags := 0x08
def Flags.unf : Flags := 0x10
def Flags.inx : Flags := 0x20
def Flags.amu : Flags := 0x40

/-- A code with the flags its making raised. -/
structure Res where
  code : Nat
  fl   : Flags
  deriving DecidableEq, Repr

/-! ## Rounding (R96 to R99) -/

/-- How a result is rounded: mode, FTZ, INF and, for SR, the draw u. -/
structure Rnd where
  mode : RMode := .rne
  ftz  : Bool := false
  inf  : Bool := false
  draw : Nat := 0
  deriving DecidableEq, Repr

def Rnd.rne : Rnd := {}

/-- R96, R99: whether the magnitude `k` (floor, with remainder `r` of `m`) moves up to `k + 1`; `even` says that the lower
neighbour wins a tie. -/
def roundsUp (mode : RMode) (neg even : Bool) (r m draw : Nat) : Bool :=
  if r = 0 then false
  else match mode with
    | .rne => decide (m < 2 * r) || (decide (2 * r = m) && !even)
    | .rtz => false
    | .rup => !neg
    | .rdn => neg
    | .sr => if neg then !decide (draw < (m - r) * 2 ^ 32 / m) else decide (draw < r * 2 ^ 32 / m)

/-- Sign bit of a format's codes. -/
def Fmt.signBit : Fmt → Nat
  | .ieee eb fb => 2 ^ (eb + fb)
  | .bin k _ _ _ => 2 ^ (k - 1)
  | .int _ _ => 0
/-- The zero of a sign; R97: binary8 and binary4 have one zero. -/
def Fmt.zeroCode (f : Fmt) (neg : Bool) : Nat :=
  match f with | .ieee eb fb => if neg then 2 ^ (eb + fb) else 0 | _ => 0
def Fmt.signed (f : Fmt) (neg : Bool) (m : Nat) : Nat :=
  if neg then (if m = 0 then f.zeroCode true else f.signBit + m) else m

/-- R96: a finite non-zero value into an integer format. -/
def roundInt (w : Nat) (uns : Bool) (r : Rnd) (x : Exact) : Res :=
  let (q, rem, m) := x.quot 0
  let q' := if roundsUp r.mode x.isNeg (q % 2 == 0) rem m r.draw then q + 1 else q
  let v : Int := if x.isNeg then -(q' : Int) else q'
  let lo : Int := if uns then 0 else -(2 ^ (w - 1) : Int)
  let hi : Int := if uns then 2 ^ w - 1 else 2 ^ (w - 1) - 1
  if uns ∧ x.isNeg then { code := 0, fl := Flags.sat ||| Flags.inx }               -- R97: however small
  else if v < lo then { code := (lo % 2 ^ w).toNat, fl := Flags.sat ||| Flags.inx }
  else if hi < v then { code := hi.toNat, fl := Flags.sat ||| Flags.inx }
  else { code := (v % 2 ^ w).toNat, fl := if rem = 0 then 0 else Flags.inx }

/-- R96 to R99: a finite non-zero value into an IEEE, binary8 or binary4 format. -/
def roundFloat (f : Fmt) (r : Rnd) (x : Exact) : Res :=
  let neg := x.isNeg
  if neg && !f.hasSign then { code := 0, fl := Flags.sat ||| Flags.inx }        -- R97
  else
    let t := f.frac
    let e := x.log2
    let tiny := decide (e < f.emin)
    if r.ftz && tiny then { code := f.zeroCode neg, fl := Flags.unf ||| Flags.inx }   -- R98
    else
      let q : Int := max e f.emin - t
      let (k, rem, m) := x.quot q
      -- R96: with no fraction bits the even neighbour is the one whose E is even
      let even := if t = 0 then (if k = 0 then true else decide ((e + f.bias) % 2 = 0)) else k % 2 == 0
      let k' := if roundsUp r.mode neg even rem m r.draw then k + 1 else k
      let inexact := rem != 0
      let mag := ((q + t + f.bias - 1) * 2 ^ t + k').toNat
      let beyond := decide (k' ≠ 0) && (Exact.dyadic k' q |> fun y => (f.magOf f.maxCode).lt y)
      if beyond then
        let toInf := match r.mode with
          | .rne => true | .sr => true | .rtz => false | .rup => !neg | .rdn => neg
        if r.inf && f.hasInf neg then
          { code := if toInf then f.infCode neg else f.signed neg f.maxCode, fl := Flags.ovf ||| Flags.inx }
        else { code := f.signed neg f.maxCode, fl := Flags.sat ||| Flags.ovf ||| Flags.inx }
      else
        { code := f.signed neg mag,
          fl := (if inexact then Flags.inx else 0) ||| (if inexact && tiny then Flags.unf else 0) }

/-- R102, R96, R97: any value into any format. -/
def Fmt.conv (f : Fmt) (r : Rnd) (v : FVal) : Res :=
  match v with
  | .nan sig => { code := f.nanCode, fl := if sig || (match f with | .int _ _ => true | _ => false) then Flags.inv else 0 }
  | .inf neg =>
    if f.hasInf neg then { code := f.infCode neg, fl := 0 }
    else
      match f with
      | .int w uns => { code := if neg then (if uns then 0 else 2 ^ (w - 1)) else f.maxCode, fl := Flags.sat }
      | _ => { code := if neg && !f.hasSign then 0 else f.signed neg f.maxCode, fl := Flags.sat }
  | .zero neg => { code := f.zeroCode neg, fl := 0 }
  | .fin x =>
    match f with
    | .int w uns => roundInt w uns r x
    | _ => roundFloat f r x

/-- R98: with FTZ a subnormal input reads as zero of its sign, or as the zero code of a format without signed zeros. -/
def Fmt.flushIn (f : Fmt) (ftz : Bool) (v : FVal) : FVal :=
  match f, v with
  | .int _ _, _ => v
  | .bin .., .fin x => if ftz && decide (x.log2 < f.emin) then .zero false else v
  | _, .fin x => if ftz && decide (x.log2 < f.emin) then .zero x.isNeg else v
  | _, _ => v

/-! ## Tags (R92 to R95) -/

def tagFmt (t : Tag) : BitVec 8 := t.extractLsb' 0 8
def tagScl (t : Tag) : Nat := (t.extractLsb' 8 8).toNat

/-- R93: the format a FMT code names; raw and reserved codes name none. -/
def fmtOf (c : BitVec 8) : Option Fmt :=
  let low := (c.extractLsb' 0 6).toNat
  let p := (c.extractLsb' 0 3).toNat
  match (c.extractLsb' 6 2).toNat with
  | 0 =>
    match low with
    | 1 => some .f32 | 2 => some .bf16 | 3 => some .f16
    | 4 => some (.int 8 false) | 5 => some (.int 8 true) | 6 => some (.int 4 false) | 7 => some (.int 4 true)
    | _ => none
  | 1 => if c.getLsbD 3 || p == 0 then none else some (.bin 8 p (c.getLsbD 5) (c.getLsbD 4))
  | 2 => if c.getLsbD 3 || p == 0 || decide (3 < p) then none else some (.bin 4 p (c.getLsbD 5) (c.getLsbD 4))
  | _ => none
/-- R93: the code is reserved (neither raw nor a format). -/
def fmtReserved (c : BitVec 8) : Bool := c != 0 && (fmtOf c).isNone

/-- R157: the narrow formats: s8, z8, s4, z4 and the binary8 and binary4 formats. -/
def narrowFmt (c : BitVec 8) : Option Fmt :=
  match fmtOf c with
  | some (.ieee _ _) => none
  | o => o

/-- R94: Decode(code, FMT, SCL) with FMT naming a format. -/
def decodeElem (f : Fmt) (scl code : Nat) : FVal :=
  if scl = 255 then .nan false else (f.decode code).mapFin (·.scale ((scl : Int) - 127))

/-! ## Arithmetic on values (R146) -/

/-- Result of an arithmetic operation before rounding: `none` is an invalid operation. -/
abbrev AVal := Option FVal

/-- R146: the exact sum; a zero sum of opposite signs is −0 only under RDN. -/
def addV (mode : RMode) (a b : FVal) : AVal :=
  match a, b with
  | .nan s, .nan t => some (.nan (s || t))
  | .nan s, _ => some (.nan s)
  | _, .nan s => some (.nan s)
  | .inf m, .inf n => if m == n then some (.inf m) else none
  | .inf m, _ => some (.inf m)
  | _, .inf n => some (.inf n)
  | .zero m, .zero n => some (.zero (if m == n then m else mode == .rdn))
  | .zero _, .fin y => some (.fin y)
  | .fin x, .zero _ => some (.fin x)
  | .fin x, .fin y => some (FVal.ofExact (x.add y) (mode == .rdn))

/-- R146: the exact product. -/
def mulV (a b : FVal) : AVal :=
  match a, b with
  | .nan s, .nan t => some (.nan (s || t))
  | .nan s, _ => some (.nan s)
  | _, .nan s => some (.nan s)
  | .inf m, .inf n => some (.inf (m != n))
  | .inf _, .zero _ => none
  | .zero _, .inf _ => none
  | .inf m, .fin y => some (.inf (m != y.isNeg))
  | .fin x, .inf n => some (.inf (x.isNeg != n))
  | .zero m, b => some (.zero (m != b.isNeg))
  | a, .zero n => some (.zero (a.isNeg != n))
  | .fin x, .fin y => some (.fin (x.mul y))

/-- R144, R146: round an exact result: a NaN operand that is signalling, or an invalid operation, sets INV and gives the
default NaN; an infinite result is exact. -/
def finish (f : Fmt) (r : Rnd) (anyS anyQ : Bool) (v : AVal) : Res :=
  if anyS then { code := f.nanCode, fl := Flags.inv }
  else if anyQ then { code := f.nanCode, fl := 0 }
  else match v with
    | none => { code := f.nanCode, fl := Flags.inv }
    | some v => f.conv r v

def addF (f : Fmt) (r : Rnd) (a b : FVal) : Res :=
  finish f r (a.isSnan || b.isSnan) (a.isNan || b.isNan) (addV r.mode a b)
def mulF (f : Fmt) (r : Rnd) (a b : FVal) : Res :=
  finish f r (a.isSnan || b.isSnan) (a.isNan || b.isNan) (mulV a b)
/-- R146: fused a·b + c; 0 × ∞ is invalid. DEDUCED (LOG 16): with a quiet NaN c it gives NaN and no flag, as the pseudocode has it, which
tests for NaN before the table's "whatever c is". -/
def fmaF (f : Fmt) (r : Rnd) (np nc : Bool) (a b c : FVal) : Res :=
  let v : AVal := match mulV a b with
    | none => none
    | some p => addV r.mode (if np then p.neg else p) (if nc then c.neg else c)
  finish f r (a.isSnan || b.isSnan || c.isSnan) (a.isNan || b.isNan || c.isNan) v
/-- R147: a / b. -/
def divF (f : Fmt) (r : Rnd) (a b : FVal) : Res :=
  let sgn := a.isNeg != b.isNeg
  let v : AVal := match a, b with
    | .inf _, .inf _ => none
    | .zero _, .zero _ => none
    | .inf _, _ => some (.inf sgn)
    | _, .inf _ => some (.zero sgn)
    | .zero _, _ => some (.zero sgn)
    | _, .zero _ => some (.inf sgn)
    | .fin x, .fin y => some (.fin (x.div y))
    | _, _ => none
  let res := finish f r (a.isSnan || b.isSnan) (a.isNan || b.isNan) v
  match a, b with
  | .fin _, .zero _ => { res with fl := res.fl ||| Flags.dz }
  | _, _ => res

/-- floor(√n), by `fuel` bits from the top. -/
def natSqrtAux (n : Nat) : Nat → Nat → Nat
  | 0, acc => acc
  | i + 1, acc => let t := acc + 2 ^ i; natSqrtAux n i (if t * t ≤ n then t else acc)
def natSqrt (n : Nat) : Nat := natSqrtAux n (n.log2 / 2 + 1) 0

/-- √x of a positive dyadic, exact or standing strictly between two neighbours with at least 30 bits to spare. -/
def sqrtExact (x : Exact) : Exact :=
  -- make the exponent even and the numerator at least 2^80 long, then append a sticky half
  let n := x.num.natAbs
  let sh : Nat := 100 + (if (x.exp % 2 == 0) then 0 else 1)
  let m := n * 2 ^ sh / x.den
  let exact := decide (n * 2 ^ sh % x.den = 0)
  let s := natSqrt m
  let e := (x.exp - sh) / 2
  if exact && s * s == m then Exact.dyadic s e else Exact.dyadic (2 * s + 1 : Nat) (e - 1)

/-- R147: √a. -/
def sqrtF (f : Fmt) (r : Rnd) (a : FVal) : Res :=
  let v : AVal := match a with
    | .zero n => some (.zero n)
    | .inf false => some (.inf false)
    | .inf true => none
    | .fin x => if x.isNeg then none else some (.fin (sqrtExact x))
    | .nan s => some (.nan s)
  finish f r a.isSnan a.isNan v

/-! ## Comparison (R103, R104, R150) -/

/-- a < b as values, −0 below +0 when `zeros`. -/
def ltV (zeros : Bool) (a b : FVal) : Bool :=
  match a, b with
  | .nan _, _ => false
  | _, .nan _ => false
  | .inf m, .inf n => m && !n
  | .inf m, _ => m
  | _, .inf n => !n
  | .zero m, .zero n => zeros && m && !n
  | a, b => a.exact.lt b.exact
def eqV (a b : FVal) : Bool := !a.isNan && !b.isNan && !ltV false a b && !ltV false b a

/-- R104: `fmin` (`prop` false) and `fminp` (true), or their maxima, on codes. -/
def minMaxF (f : Fmt) (mx prop : Bool) (ca cb : Nat) : Res :=
  let a := f.decode ca
  let b := f.decode cb
  if a.isSnan || b.isSnan then { code := f.nanCode, fl := Flags.inv }
  else if a.isNan && b.isNan then { code := f.nanCode, fl := 0 }
  else if a.isNan || b.isNan then { code := if prop then f.nanCode else if a.isNan then cb else ca, fl := 0 }
  else { code := if (if mx then ltV true a b else ltV true b a) then cb else ca, fl := 0 }

/-! ## Summation (R105) -/

/-- A running exact chunk sum: NaN by 0·∞ or ∞−∞ (`inv`), or by a NaN element (`nan`). -/
structure ChunkSum where
  sum : Exact
  pos : Bool
  neg : Bool
  nan : Bool
  inv : Bool
  deriving DecidableEq, Repr

def ChunkSum.zero : ChunkSum := { sum := Exact.ofInt 0, pos := false, neg := false, nan := false, inv := false }
def ChunkSum.add (c : ChunkSum) (a b : FVal) : ChunkSum :=
  if a.isNan || b.isNan then { c with nan := true }
  else match mulV a b with
    | none => { c with nan := true, inv := true }
    | some (.inf n) => if n then { c with neg := true } else { c with pos := true }
    | some v => { c with sum := c.sum.add v.exact }
/-- R105: S_c as a value and whether INV is set. -/
def ChunkSum.value (c : ChunkSum) : FVal × Bool :=
  if c.nan || (c.pos && c.neg) then (.nan false, c.inv || (c.pos && c.neg))
  else if c.pos then (.inf false, false)
  else if c.neg then (.inf true, false)
  else (FVal.ofExact c.sum false, false)
/-- R105 step 2: acc := Round(acc + S_c, f32, RNE). DESIGN CHOICE (LOG 18): an element of the bank that holds a signalling NaN (it came
from a save area) gives the default NaN with no INV, since R105 names 0 × ∞ and ∞ − ∞ alone, though R86 names any signalling operand. -/
def accumulate (acc : Nat) (c : ChunkSum) : Res :=
  let (s, inv) := c.value
  let a := Fmt.f32.decode acc
  let base : Res := match addV .rne a s with
    | none => { code := Fmt.f32.nanCode, fl := Flags.inv }
    | some v => Fmt.f32.conv Rnd.rne (match v with | .nan _ => .nan false | v => v)
  { base with fl := base.fl ||| (if inv then Flags.inv else 0) }

/-! ## Stochastic-rounding generator (R100) -/

/-- One draw: the next state, which is also u. -/
def srgNext (s : Word) : Word :=
  let s := s ^^^ (s <<< 13)
  let s := s ^^^ (s >>> 17)
  s ^^^ (s <<< 5)
/-- R100: the start value of a lane's generator. -/
def srgInit (lane : Nat) : Word := 0x9E3779B9 + BitVec.ofNat 32 lane

/-! ## Approximate functions (R152 to R154) -/

/-- The functions in opcode order from `frcp`. -/
inductive Approx where
  | rcp | rsq | exp2 | log2 | sinpi | cospi | tanh
  deriving DecidableEq, Repr
def Approx.no : Approx → Nat
  | .rcp => 0 | .rsq => 1 | .exp2 => 2 | .log2 => 3 | .sinpi => 4 | .cospi => 5 | .tanh => 6

/-- Fixed-point numbers of 128 fraction bits. -/
def fxOne : Int := 2 ^ 128
def fxLn2 : Int := 235865763225513294137944142764154484399
def fxPi : Int := 1069028584064966747859680373161870783300
def fxInvLn2 : Int := 490923683258796565746369346286093237521
def fxMul (a b : Int) : Int := a * b / 2 ^ 128
def fxOf (x : Exact) : Int := (x.scale 128).floor
def fxExact (a : Int) : Exact := Exact.dyadic a (-128)
/-- Σ over k of t_k with t_(k+1) = t_k · x / (k+1): e^x for 0 ≤ x < 1. -/
def fxExpSum (x : Int) : Nat → Nat → Int → Int
  | 0, _, _ => 0
  | n + 1, k, t => t + fxExpSum x n (k + 1) (fxMul t x / (k + 1 : Nat))
/-- 2^x near the exact value, as a dyadic. -/
def exp2Approx (x : Exact) : Exact :=
  -- close to 0 two terms are exact far beyond the bound, and keep the result apart from 1
  if x.abs.lt (Exact.dyadic 1 (-60)) then (Exact.ofInt 1).add (x.mul (fxExact fxLn2)) else
  let n := x.floor
  let f := fxOf (x.sub (Exact.ofInt n))
  (fxExact (fxExpSum (fxMul f fxLn2) 40 0 fxOne)).scale n
/-- Σ z^(2k+1)/(2k+1). -/
def fxAtanh (z2 : Int) : Nat → Nat → Int → Int
  | 0, _, _ => 0
  | n + 1, k, t => t / (2 * k + 1 : Nat) + fxAtanh z2 n (k + 1) (fxMul t z2)
def log2Approx (x : Exact) : Exact :=
  let e := x.log2
  let m := fxOf (x.scale (-e))
  let z := (m - fxOne) * fxOne / (m + fxOne)
  let ln := 2 * fxAtanh (fxMul z z) 50 0 z
  (Exact.ofInt e).add (fxExact (fxMul ln fxInvLn2))
/-- Alternating sum t − t·x²/((k+1)(k+2)) + …: sin from k = 1, cos from k = 0. -/
def fxSinSum (x2 : Int) : Nat → Nat → Int → Int
  | 0, _, _ => 0
  | n + 1, k, t => t + fxSinSum x2 n (k + 2) (-(fxMul t x2) / ((k + 1) * (k + 2) : Nat))
/-- sin(πx) for x in [0, 1/2]. -/
def sinpiQuarter (x : Exact) : Exact :=
  let a := fxMul (fxOf x) fxPi
  fxExact (fxSinSum (fxMul a a) 30 1 a)
/-- x modulo 2, in [0, 2). -/
def mod2Exact (x : Exact) : Exact := x.sub (Exact.ofInt (2 * (x.scale (-1)).floor))
def half : Exact := Exact.dyadic 1 (-1)
/-- sin(πx) near the exact value. -/
def sinpiApprox (x : Exact) : Exact :=
  -- close to 0 the first term alone is exact far beyond the bound, and keeps the scale of a tiny result
  if x.abs.lt (Exact.dyadic 1 (-40)) then x.mul (fxExact fxPi) else
  let r := mod2Exact x
  let neg := Exact.le (Exact.ofInt 1) r
  let r := if neg then r.sub (Exact.ofInt 1) else r
  let r := if half.lt r then (Exact.ofInt 1).sub r else r
  let v := sinpiQuarter r
  if neg then v.neg else v
def cospiApprox (x : Exact) : Exact := sinpiApprox (x.add half)
/-- tanh x for |x| < 9.5. -/
def tanhApprox (x : Exact) : Exact :=
  let e := exp2Approx ((x.scale 1).mul (fxExact fxInvLn2))
  (e.sub (Exact.ofInt 1)).div (e.add (Exact.ofInt 1))

/-- R152: the ulp at an exact result: the gap between the enclosing f32 values, 2^-149 below the normal range. -/
def ulpAt (y : Exact) : Exact :=
  if y.isZero then Exact.dyadic 1 (-149) else Exact.dyadic 1 (max y.log2 (-126) - 23)

/-- Codes of f32 in increasing order of value as integers. -/
def f32Ord (c : Nat) : Int := if 2 ^ 31 ≤ c then -((c : Int) - 2 ^ 31) else c
def f32OfOrd (i : Int) : Nat := if i < 0 then 2 ^ 31 + i.natAbs else i.toNat
/-- A finite exact value to f32 by mode, with no overflow past the largest finite value. -/
def f32At (mode : RMode) (y : Exact) : Nat :=
  if y.isZero then 0 else (roundFloat .f32 { mode } y).code

/-- R152, R153: the value returned within a bound around `y` (the exact value up to 2^-100): one of the f32 values of the
interval, chosen by the free function of the operand. -/
def approxPickCode (fn : Approx) (x : Word) (ftz : Bool) (y bound : Exact) : Nat :=
  let at_ := fun (c : Nat) (z : Exact) => match Fmt.f32.decode c with | .fin v => v.eq z | _ => z.isZero
  -- R153: the bound of `frcp` is not reached; that of the others no representable value reaches
  let strict := fn.no == Approx.rcp.no
  let lo := let c := f32At .rup (y.sub bound); f32Ord c + (if strict && at_ c (y.sub bound) then 1 else 0)
  let hi := let c := f32At .rdn (y.add bound); f32Ord c - (if strict && at_ c (y.add bound) then 1 else 0)
  let n := (hi - lo + 1).toNat
  f32OfOrd (lo + (Config.approxPick fn.no x ftz % (if n = 0 then 1 else n) : Nat))

/-- R152: overflow, tiny results and INX of an inexact result near `y`. -/
def approxResult (fn : Approx) (x : Word) (ftz inf : Bool) (y bound : Exact) (limit1 : Bool) : Res :=
  let maxv := Fmt.f32.magOf Fmt.f32.maxCode
  if maxv.lt y.abs then roundFloat .f32 { mode := .rne, ftz, inf } y
  else
    let tiny := y.isZero || decide (y.log2 < -126)
    if tiny && ftz then { code := Fmt.f32.zeroCode y.isNeg, fl := Flags.unf ||| Flags.inx }
    else
      let c := approxPickCode fn x ftz y bound
      -- R153: sine, cosine and tanh never lie outside [-1, 1]
      let c := if limit1 && decide (0x3F800000 < c % 2 ^ 31) then (if 2 ^ 31 ≤ c then 0xBF800000 else 0x3F800000) else c
      { code := c, fl := Flags.inx ||| (if tiny then Flags.unf else 0) }

/-- The exact case of a row: the value with no flag, flushed under R98 when FTZ is set and it is tiny. -/
def exactResult (ftz : Bool) (v : FVal) : Res :=
  match v with
  | .fin x => roundFloat .f32 { mode := .rne, ftz } x
  | v => Fmt.f32.conv Rnd.rne v

def isPow2 (x : Exact) : Bool := x.num.natAbs.log2 |> fun l => x.num.natAbs == 2 ^ l && x.den == 1
def f32One : FVal := .fin (Exact.ofInt 1)

/-- R153, R154: the f32 function. -/
def approxF32 (fn : Approx) (ftz inf : Bool) (xc : Word) : Res :=
  let v := Fmt.f32.flushIn ftz (Fmt.f32.decode xc.toNat)
  let nan : Res := { code := Fmt.f32.nanCode, fl := 0 }
  let inv : Res := { code := Fmt.f32.nanCode, fl := Flags.inv }
  let infR (neg : Bool) (fl : Flags) : Res := { code := Fmt.f32.infCode neg, fl }
  let zeroR (neg : Bool) : Res := { code := Fmt.f32.zeroCode neg, fl := 0 }
  let abs22 := Exact.dyadic 1 (-22)
  match v with
  | .nan s => if s then inv else nan
  | .inf neg =>
    match fn with
    | .rcp => zeroR neg
    | .rsq => if neg then inv else zeroR false
    | .exp2 => if neg then zeroR false else infR false 0
    | .log2 => if neg then inv else infR false 0
    | .sinpi | .cospi => inv
    | .tanh => exactResult ftz (if neg then f32One.neg else f32One)
  | .zero neg =>
    match fn with
    | .rcp => infR neg Flags.dz
    | .rsq => infR true Flags.dz |> fun r => if neg then r else infR false Flags.dz
    | .exp2 | .cospi => exactResult ftz f32One
    | .log2 => infR true Flags.dz
    | .sinpi | .tanh => zeroR neg
  | .fin x =>
    match fn with
    | .rcp =>
      let y := (Exact.ofInt 1).div x
      if isPow2 x && decide (-126 ≤ y.log2) && decide (y.log2 ≤ 127) then exactResult ftz (.fin y)
      else approxResult fn xc ftz inf y (ulpAt y) false
    | .rsq =>
      if x.isNeg then inv
      else
        let y := sqrtExact ((Exact.ofInt 1).div x |> fun z => { z with num := z.num * 2 ^ 200, exp := z.exp - 200 })
        if isPow2 x && decide (x.log2 % 2 = 0) then exactResult ftz (.fin (Exact.dyadic 1 (-(x.log2 / 2))))
        else approxResult fn xc ftz false y ((ulpAt y).scale 1) false
    | .exp2 =>
      let n := x.floor
      if (Exact.ofInt n).eq x && decide (-149 ≤ n) && decide (n ≤ 127) then exactResult ftz (.fin (Exact.dyadic 1 n))
      else if decide (n < -1000) then approxResult fn xc ftz inf (Exact.dyadic 1 (-1000)) (Exact.dyadic 1 (-148)) false
      else if decide (1000 < n) then roundFloat .f32 { mode := .rne, ftz, inf } (Exact.dyadic 1 1000)
      else let y := exp2Approx x; approxResult fn xc ftz inf y ((ulpAt y).scale 1) false
    | .log2 =>
      if x.isNeg then inv
      else if isPow2 x then exactResult ftz (FVal.ofExact (Exact.ofInt x.log2) false)
      else
        let y := log2Approx x
        let near := Exact.le half x && x.lt (Exact.ofInt 2)
        approxResult fn xc ftz false y (if near then abs22 else (ulpAt y).scale 1) false
    | .sinpi =>
      let d := x.scale 1
      if (Exact.ofInt d.floor).eq d then
        (if d.floor % 2 = 0 then zeroR x.isNeg
         else exactResult ftz (if (d.floor - 1) % 4 = 0 then f32One else f32One.neg))
      else approxResult fn xc ftz false (sinpiApprox x) abs22 true
    | .cospi =>
      let d := x.scale 1
      if (Exact.ofInt d.floor).eq d then
        (if d.floor % 2 = 0 then exactResult ftz (if d.floor % 4 = 0 then f32One else f32One.neg) else zeroR false)
      else approxResult fn xc ftz false (cospiApprox x) abs22 true
    | .tanh =>
      if Exact.le x.abs (Exact.dyadic 1 (-12)) then exactResult ftz (.fin x)
      else if Exact.le (Exact.dyadic 19 (-1)) x.abs then exactResult ftz (if x.isNeg then f32One.neg else f32One)
      else approxResult fn xc ftz false (tanhApprox x) abs22 true

end Sys2Proof
end

