-- ==== Sys2Proof/Machine/Ops.lean ====
section
/-! DEFINITION. The named operations on threads, waves and cores: code addresses and transfers (R45 to R56), reconvergence
(R178 to R184), faults (R32, R302, R313, R349), exit and retirement (R131, R187, R233), batches (R255 to R258), quotas
(R18, R41), producers (R20 to R22) and the advance to the next instruction (R47, R137). -/

namespace Sys2Proof.Machine

/-! ## Values the spec leaves open -/

def State.openNat (s : State) : Nat × State := (Config.freeNat s.fresh, { s with fresh := s.fresh + 1 })
def State.openBit (s : State) : Bool × State := (Config.freeBit s.fresh, { s with fresh := s.fresh + 1 })
/-- R16: a past lease-clock value that leaves the range of the comparison as the clock goes from `old` to `now`. -/
def Lease.aged (old now v : Lease) : Lease := if (old - v).toNat < 2 ^ 47 && decide (2 ^ 47 ≤ (now - v).toNat) then now - 1 else v
def Thread.aged (f : Lease → Lease) (t : Thread) : Thread :=
  { t with wh := f t.wh, arrived := t.arrived.map fun a => { a with wh := f a.wh } }
def SavedWave.aged (f : Lease → Lease) (v : SavedWave) : SavedWave :=
  { v with bars := v.bars.map fun b => (b.1, { b.2 with wh := f b.2.wh }), whs := v.whs.map fun p => (p.1, p.2.1, f p.2.2) }
def Core.aged (f : Lease → Lease) (k : Core) : Core :=
  { k with
    waves := k.waves.map fun w => (w.1, { w.2 with threads := w.2.threads.map fun t => (t.1, t.2.aged f) })
    saved := k.saved.map (·.aged f)
    spawns := k.spawns.map fun e => { e with wh := f e.wh }
    asts := k.asts.map fun a => { a with vis := a.vis.map f }
    throttle := k.throttle.map f }
def Cluster.aged (f : Lease → Lease) (k : Cluster) : Cluster :=
  { k with
    lines := k.lines.map fun l => (l.1, { l.2 with expiry := f l.2.expiry })
    walks := k.walks.map fun w => { w with busy := w.busy.map f } }
def PeerSeq.aged (f : Lease → Lease) (p : PeerSeq) : PeerSeq := { p with unack := p.unack.map fun k => { k with at_ := f k.at_ } }
/-- R16: what the device keeps of times that have passed, as the clock goes on from `old`. -/
def State.aged (s : State) (old : Lease) : State :=
  let f := Lease.aged old s.lease
  { s with
    cores := s.cores.map fun k => (k.1, k.2.aged f)
    cls := s.cls.map fun k => (k.1, k.2.aged f)
    lx := s.lx.map fun p => (p.1, f p.2)
    lxl := s.lxl.map fun p => (p.1, f p.2)
    hbanks := s.hbanks.map fun b => (b.1, { b.2 with last := f b.2.last, block := b.2.block.map f })
    stores := s.stores.map fun p => (p.1, { p.2 with vis := f p.2.vis })
    copies := s.copies.map fun p => (p.1, { p.2 with vis := p.2.vis.map f })
    drains := s.drains.map fun p => (p.1, { p.2 with vis := p.2.vis.map f })
    ways := s.ways.map fun p => (p.1, { p.2 with vis := p.2.vis.map f })
    saves := s.saves.map fun p => (p.1, { p.2 with vis := p.2.vis.map f, kept := p.2.kept.map (·.aged f) })
    netOps := s.netOps.map fun p => (p.1, { p.2 with vis := p.2.vis.map f })
    netMsgs := s.netMsgs.map fun p => (p.1, { p.2 with vis := p.2.vis.map f })
    peers := s.peers.map fun p => (p.1, p.2.aged f)
    shards := s.shards.map fun p => (p.1, { p.2 with svc := p.2.svc.map fun x => { x with vis := f x.vis } })
    syncAt := s.syncAt.map f
    pcieVis := s.pcieVis.map fun p => (p.1, f p.2)
    recalls := s.recalls.map fun p => (p.1, { p.2 with start := f p.2.start, vis := f p.2.vis, early := f p.2.early }) }
/-- R16: the lease clock goes on by less than half its range. -/
def State.later (s : State) (d : Nat) : State :=
  ({ s with lease := s.lease + BitVec.ofNat 48 (d % 2 ^ 46) } : State).aged s.lease
/-- Bytes that only another package knows. -/
def State.openBytes (s : State) : Nat → List Byte × State
  | 0 => ([], s)
  | n + 1 =>
    let (v, s) := s.openNat
    let (bs, s) := s.openBytes n
    (BitVec.ofNat 8 v :: bs, s)
/-- R288, R298, R436: each byte old or new. -/
def State.mixBytes (s : State) : List Byte → List Byte → List Byte × State
  | o :: os, n :: ns =>
    let (b, s) := s.openBit
    let (bs, s) := s.mixBytes os ns
    ((if b then n else o) :: bs, s)
  | _, ns => (ns, s)
/-- The same of bytes that another package holds: a byte that stays old is not written. -/
def State.mixFar (s : State) : List Byte → List (Option Byte) × State
  | [] => ([], s)
  | n :: ns =>
    let (b, s) := s.openBit
    let (bs, s) := s.mixFar ns
    ((if b then some n else none) :: bs, s)

/-! ## Quotas and registers (R18, R41, R199) -/

def State.quota (s : State) (c t : Nat) : Quota := getK {} (s.core c).quotas t
/-- R18, R41, R301: the number of registers a thread of a turn may name. -/
def State.quotaOf (s : State) (c t : Nat) : Nat :=
  if isSerai c then 640 else let q := s.quota c t; if q.valid then q.count * 32 else 0
/-- R200: registers below this number are dead. -/
def State.deadBelow (s : State) (c t : Nat) : Nat := if isSerai c then 0 else 32 * (s.quota c t).dead
def Thread.reg (t : Thread) (r : Nat) : Word := getK 0 t.regs r
/-- R22: an ordinary write fills the register and cancels the pending producer's write. -/
def Thread.setReg (t : Thread) (r : Nat) (v : Word) : Thread := { t with regs := putK 0 t.regs r v, empty := delK t.empty r }
def Thread.setRegs (t : Thread) (r : Nat) : List Word → Thread
  | [] => t
  | v :: vs => (t.setReg r v).setRegs (r + 1) vs
/-- R20: is a register empty? -/
def Thread.isEmpty (t : Thread) (r : Nat) : Bool := t.empty.any (fun p => p.1 == r)
/-- R20, R22: a producer marks its destinations empty; an earlier pending producer is cancelled. -/
def Thread.markEmpty (t : Thread) (rs : List Nat) (id : Nat) : Thread :=
  { t with empty := rs.foldl (fun m r => insK m r id) t.empty }
/-- R20, R22: a producer completes: the registers that still wait for it receive its words. -/
def Thread.fill (t : Thread) (id : Nat) (dsts : List Nat) (ws : List Word) : Thread :=
  (dsts.zip ws).foldl (fun t p => if findK t.empty p.1 == some id then t.setReg p.1 p.2 else t) t
/-- R381: the destinations are left full, with the values they held. -/
def Thread.fillOld (t : Thread) (id : Nat) : Thread := { t with empty := t.empty.filter (fun p => p.2 != id) }
/-- R19: predicates; k0 reads as 1 and a write to it is discarded. -/
def Thread.pred (t : Thread) (k : BitVec 3) : Bool := k == 0 || t.preds.getLsbD k.toNat
def Thread.setPred (t : Thread) (k : BitVec 3) (v : Bool) : Thread :=
  if k = 0 then t
  else { t with preds := (t.preds &&& ~~~(BitVec.twoPow 8 k.toNat)) ||| (if v then BitVec.twoPow 8 k.toNat else 0) }
/-- R19: the predicate field after its negate. -/
def Thread.guardOk (t : Thread) (g : Guard) : Bool := t.pred g.pred != g.neg
/-- R23: the repeat state as 13 bits. -/
def Thread.reps (t : Thread) : BitVec 13 := t.repStep ++ t.repMask ++ t.repCnt
def Thread.setReps (t : Thread) (v : BitVec 13) : Thread :=
  { t with repCnt := v.extractLsb' 0 7, repMask := v.extractLsb' 7 4, repStep := v.extractLsb' 11 2 }
/-- R15, R24: Horizon(t). -/
def Thread.horizon (t : Thread) (v : Lease) : Thread := { t with wh := Lease.later t.wh v }

/-! ## The issuing path (R14, R169) -/

/-- R14: the lanes of the issuing path whose predicate passes. -/
def State.active (s : State) (g : Guard) : Mask :=
  let w := s.wave s.cur.core s.cur.turn
  Mask.ofLanes (s.cur.lanes.lanes.filter fun l => (w.thread l).guardOk g)
def State.curCl (s : State) : Nat := clusterOf s.cur.core
def State.curThread (s : State) (l : Nat) : Thread := s.thread s.cur.core s.cur.turn l
def State.modLane (s : State) (l : Nat) (f : Thread → Thread) : State := s.modThread s.cur.core s.cur.turn l f
def State.modCurWave (s : State) (f : Wave → Wave) : State := s.modWave s.cur.core s.cur.turn f
/-- R101: flags are ORed into SATF, and those set in this cycle are kept in view for a W1C clear. -/
def State.addFlags (s : State) (c t : Nat) (fl : Flags) : State :=
  if fl = 0 then s
  else s.modCore c fun k =>
    let k := k.modWave t fun w => { w with satf := w.satf ||| fl }
    { k with cycle := { k.cycle with fset := insK k.cycle.fset t (getK 0 k.cycle.fset t ||| fl) } }
def SavedWave.addFlags (uid : Nat) (fl : Flags) (v : SavedWave) : SavedWave :=
  if v.uid = uid then { v with satf := v.satf ||| fl } else v
/-- R101: flags of an engine operation, set in the SATF of the wave of the thread that issued it: one that is saved, or whose area
has already been written, receives them at its restore. -/
def State.opFlags (s : State) (c uid : Nat) (fl : Flags) : State :=
  let s : State := { s with saves := s.saves.map fun (p : Nat × SaveOp) =>
    (p.1, if p.2.core = c then { p.2 with kept := p.2.kept.map (SavedWave.addFlags uid fl) } else p.2) }
  match (s.core c).waves.find? fun w => w.2.live && w.2.uid == uid with
  | some w => s.addFlags c w.1 fl
  | none => s.modCore c fun k => { k with saved := k.saved.map (SavedWave.addFlags uid fl) }
def State.curFlags (s : State) (fl : Flags) : State := s.addFlags s.cur.core s.cur.turn fl

/-- The thread still executes the instruction: it has neither blocked, faulted nor left for monitor mode, whose entry is marked
by 2 in `hdr` (R302). -/
def Thread.going (t : Thread) : Bool := t.status == .ready && t.hdr != 2
/-- R172: the port issues nothing in this cycle. -/
def State.unissued (s : State) : State :=
  s.modCore s.cur.core fun k => { k with cycle :=
    if s.cur.portB then { k.cycle with bDone := false } else { k.cycle with aDone := false } }
/-- R28, R29, R172: the path blocks: those of its threads that have not faulted take a blocked status and re-attempt when `w` is
met. -/
def State.block (s : State) (st : Status) (w : Wait) : State :=
  s.unissued.modThreads s.cur.core s.cur.turn s.cur.lanes fun _ t =>
    if t.going then { t with status := st, wait := w } else t

/-- R188: has a core a thread that may issue? -/
def Core.awake (k : Core) : Bool := k.waves.any fun w => w.2.threads.any fun t => t.2.status == .ready
/-- R188: a serai's action on a core that stands gated wakes it for a cycle, at whose end it gates again. Where the action has
made a thread ready, the core counts its waking when it issues. One cycle: DEDUCED, LOG 3. -/
def Core.poke (k : Core) : Core := if k.gated && !k.awake then { k with cyc := k.cyc + 1 } else k
def State.poke (s : State) (c : Nat) : State := s.modCore c Core.poke

/-! ## Code addresses (R45) -/

def caBti (pc : DWord) : Nat := dwBits pc 63 48
def caOff (pc : DWord) : Nat := dwBits pc 47 0
/-- R45: adding an offset keeps the buffer and wraps the offset. -/
def caAdd (pc : DWord) (n : Int) : DWord := dwSet pc 47 0 (((caOff pc : Int) + n) % (2 ^ 48 : Int)).toNat
/-- A serai in monitor mode runs from its local SRAM at offsets 0 to 1,048,575 of index 0 (R459; LOG 10). -/
def State.localCode (s : State) (c t : Nat) (pc : DWord) : Bool :=
  isSerai c && s.isMonitor (clusterOf c) t && decide (pc.toNat < 2 ^ 20)
def lineNo (loc : Bool) (pc : DWord) : Nat := pc.toNat / 64 + (if loc then 2 ^ 60 else 0)
/-- The cached line of a code address. -/
def State.codeLine (s : State) (c t : Nat) (pc : DWord) : Option ILine :=
  findK (s.core c).icache (lineNo (s.localCode c t pc) pc)
def ILine.at (l : ILine) (pc : DWord) : DWord := l.words.getD (dwBits pc 5 3) 0
/-- A line that is not present is requested. -/
def State.wantLine (s : State) (c t : Nat) (pc : DWord) : State :=
  let n := lineNo (s.localCode c t pc) pc
  s.modCore c fun k => if k.fills.contains n then k else { k with fills := k.fills ++ [n] }

/-! ## Reconvergence (R180 to R184) -/

/-- R31, R32: a lane leaves every entry of its wave. -/
def Wave.unrecon (w : Wave) (l : Nat) : Wave :=
  { w with recon := w.recon.map fun p => (p.1, { p.2 with members := p.2.members &&& ~~~(Mask.single l), arrived := p.2.arrived &&& ~~~(Mask.single l) }) }
/-- R179: is an address inside the region of an entry? -/
def Recon.inside (r : Recon) (a : DWord) : Bool :=
  decide (Nat.min r.rlo.toNat r.raddr.toNat ≤ a.toNat) && decide (a.toNat ≤ Nat.max r.rlo.toNat r.raddr.toNat)
/-- R182: a member's PC moves from `a` to `b`: it leaves an entry whose region it leaves. -/
def Recon.leave (r : Recon) (l : Nat) (a b : DWord) : Recon :=
  if r.members.getLsbD l && r.inside a && !r.inside b then
    { r with members := r.members &&& ~~~(Mask.single l), arrived := r.arrived &&& ~~~(Mask.single l) }
  else r
/-- R182: a lane's PC moves from `a` to `b`: it leaves every entry whose region it leaves. -/
def Wave.leave (w : Wave) (l : Nat) (a b : DWord) : Wave :=
  { w with recon := w.recon.map fun p => (p.1, p.2.leave l a b) }
/-- R180: a branch of the block headed at `hdr` divides the lanes `m`. -/
def Wave.divide (w : Wave) (hdr : DWord) (recon : BitVec 16) (m : Mask) : Wave :=
  if recon = 0 then w
  else
    let ra := caAdd hdr (8 * recon.toInt)
    if w.recon.any (fun p => p.2.raddr == ra && p.2.rlo == hdr && (p.2.members &&& m) == m) then w
    else match (List.range 8).find? (fun i => !(w.recon.any fun p => p.1 == i)) with
      | some i => { w with recon := insK w.recon i { raddr := ra, rlo := hdr, members := m, arrived := 0 } }
      | none => { w with rtovf := Nat.min 65535 (w.rtovf + 1) }

/-! ## Faults (R32, R302, R313, R349) -/

/-- R302: a fault of a serai thread, or `mcall`: enter monitor mode. Check 1 of R50 is made here, the rest at the fetch. -/
def State.enterMonitor (s : State) (cl turn : Nat) (ret : DWord) (code : Nat) (info : Word) : State :=
  let s := s.setCrT cl (turn + 1) nMEPC ret
  let s := s.setCrT cl (turn + 1) nMINFO (info.setWidth 64)
  let s := s.setSmode cl turn true (some code)
  s.modThread (seraiOf cl) turn 0 fun t => { t with pc := s.cr cl nMVEC, hdr := 2, hdrW := 0, la2 := false, status := .ready, wait := .none, walked := [] }

/-- R469: a shard is to be restarted. -/
def State.toRestart (s : State) (cl : Nat) : State := if s.restarts.contains cl then s else { s with restarts := s.restarts ++ [cl] }
/-- R469: a thread that faults in monitor mode is reported to the lowest-numbered other running shard, and its shard is to be
restarted. -/
def State.monitorFault (s : State) (cl : Nat) : State :=
  match (List.range 16).find? (fun i => i != cl && s.running.getLsbD i) with
  | some i => (s.raiseOpen i 6 0).toRestart cl
  | none => s.toRestart cl

/-- R349, R356: a fault event covers the lanes of one issue that record one code, with what the lowest records; codes ascend
within an issue. -/
def addFaultEv : List FaultEv → FaultEv → List FaultEv
  | [], e => [e]
  | x :: xs, e =>
    if x.issue = e.issue ∧ x.code = e.code then
      (if e.lanes.lanes.headD 32 < x.lanes.lanes.headD 32 then { e with lanes := x.lanes ||| e.lanes }
       else { x with lanes := x.lanes ||| e.lanes }) :: xs
    else if x.issue = e.issue ∧ e.code < x.code then e :: x :: xs
    else x :: addFaultEv xs e

/-- R464, R468: a serai access has found an uncorrectable error in its SRAM. -/
def State.foundSram (s : State) (cl code : Nat) (finfo : Word) (extra : DWord) : State :=
  let a := if finfo.getLsbD 6 then extra.toNat else seraiAddr cl extra.toNat
  if code = 8 ∧ wBits finfo 5 4 = 2 ∧ wBits finfo 31 16 = 0 ∧ s.badSram.contains (a / 128) ∧ !s.lostSram.contains (a / 128) then
    { s with lostSram := s.lostSram ++ [a / 128] }.suspect cl 5 (cl + 16 * (a % 2 ^ 20 / 65536))
  else s
/-- R32: the lane takes a fault of the instruction numbered `issue`. On a compute core the thread becomes faulted, its record
is formed (R313), it leaves its reconvergence entries (R31) and a fault event is raised (R349). On a serai, shard mode
enters monitor mode, and monitor mode leaves the thread faulted (R302). PAGE faults are counted (R411). DESIGN CHOICE (LOG 21): that an
instruction is a return (R129) is recorded by its word alone, since no field and no counter of the spec holds it. -/
def State.faultAt (s : State) (c t l : Nat) (issue code : Nat) (finfo : Word) (extra : DWord) (pc word : DWord) : State :=
  let s := if code = 6 then s.crCount (clusterOf c) nTBSTAT 31 16 1 else s
  if isSerai c then
    let cl := clusterOf c
    let s := s.foundSram cl code finfo extra
    if s.isMonitor cl t then
      (s.modThread c t l fun th => { th with status := .faulted, walked := [], fword := some word }).monitorFault cl
    else s.enterMonitor cl t pc code finfo
  else
    let th := s.thread c t l
    let r : XRec := { code, finfo, turn := t, uid := (s.wave c t).uid, lane := l, reps := th.reps, pc := pc, extra, time := s.lease, word, iss := issue }
    let s := s.modWave c t fun w =>
      (w.modThread l fun th => { th with status := .faulted, wait := .none, xrec := some r, walked := [], fword := some word }).unrecon l
    let ev : FaultEv := { core := c, turn := t, uid := (s.wave c t).uid, code, finfo, lanes := Mask.single l, pc, issue }
    s.modCl (clusterOf c) fun k => { k with faultEvs := addFaultEv k.faultEvs ev }

/-- R32: a lane of the issuing path faults, with its PC at the faulting instruction. -/
def State.takeFault (s : State) (l code : Nat) (finfo : Word) (extra : DWord := 0) : State :=
  s.faultAt s.cur.core s.cur.turn l s.cur.n code finfo extra s.cur.pc s.cur.word
/-- R381: deferred faults of lanes are taken at the boundary. -/
def State.takeDeferred (s : State) (m : Mask) : State :=
  m.lanes.foldl (fun (s : State) l =>
    match (s.curThread l).defer with
    | [] => s
    | d :: ds =>
      -- the record's word is the access's, not the one at the thread's PC
      ((s.modLane l fun t => { t with defer := ds }).faultAt s.cur.core s.cur.turn l s.cur.n 8 d.finfo d.extra d.pc d.word).modLane l
        fun t => { t with fword := none }) s
/-- The same fault in several lanes. -/
def State.takeFaults (s : State) (m : Mask) (code : Nat) (finfo : Word) (extra : DWord := 0) : State :=
  m.lanes.foldl (fun s l => s.takeFault l code finfo extra) s
/-- R68: an UNDEFINED fault, with the cause, in the lanes given. -/
def State.undefined (s : State) (m : Mask) (opc cause : Nat) (extra : DWord := 0) : State :=
  s.takeFaults m 1 (BitVec.ofNat 32 (opc % 1024 + cause * 1024)) extra
/-- R68, R84: the opcode FINFO reports; in translated code the one of the form that the LA2 word became, 0x384 where it has none (LOG 14). -/
def curOpc (s : State) : Nat :=
  if s.cur.la2 then match la2Translate s.cur.word with | some c => c.raw.opc.toNat | none => 0x384
  else dwBits s.cur.word 9 0

/-- R302, R67: the privileged opcodes run on a serai, in both modes; on a compute core they are UNDEFINED with cause 7. -/
def privileged (s : State) (run : State) : State :=
  if isSerai s.cur.core then run else s.undefined s.cur.lanes (curOpc s) 7
/-- R301: opcodes that the serai lacks are UNDEFINED with cause 0 there. -/
def computeOnly (s : State) (run : State) : State :=
  if isSerai s.cur.core then s.undefined s.cur.lanes (curOpc s) 0 else run

/-! ## Headers and transfers (R47, R49 to R55) -/

/-- R54, R183: lanes at a CONV header arrive and park while a matching entry has members still due. -/
def Wave.arrive (w : Wave) (addr : DWord) (m : Mask) : Wave :=
  let w := { w with recon := w.recon.map fun p =>
      if p.2.raddr == addr then (p.1, { p.2 with arrived := p.2.arrived ||| (p.2.members &&& m) }) else p }
  m.lanes.foldl (fun w l =>
    if w.recon.any (fun p => p.2.raddr == addr && p.2.members.getLsbD l && (p.2.members &&& ~~~p.2.arrived) != 0) then
      w.modThread l fun t => { t with status := .parkedRecon, pc := addr }
    else w) w

/-- R53, R182: lanes that go on from a header into its block leave the entries whose region they leave so, but for those at which
they have arrived. -/
def Wave.leaveHeader (w : Wave) (addr : DWord) (conv : Bool) (m : Mask) : Wave :=
  m.lanes.foldl (fun w l =>
    if (w.thread l).status == .parkedRecon then w
    else { w with recon := w.recon.map fun p => if conv && p.2.raddr == addr then p else (p.1, p.2.leave l addr (caAdd addr 8)) }) w

/-- R49, R51, R54, R55: the lanes `m` reach a header at `addr` with the word `w`. -/
def State.enterHeader (s : State) (c t : Nat) (m : Mask) (issue : Nat) (addr w : DWord) : State :=
  let h := Header.ofWord w
  if !h.ok then
    m.lanes.foldl (fun s l => s.faultAt (c := c) (t := t) (l := l) issue 1 (BitVec.ofNat 32 (0x3FF + 5 * 1024)) 0 addr w)
      (s.modThreads c t m fun _ th => { th with pc := addr, hdr := addr, hdrW := w, la2 := false })
  else
    let s := s.modThreads c t m fun _ th => { th with pc := caAdd addr 8, hdr := addr, hdrW := w, la2 := false }
    let s := s.modWave c t fun wv => (if h.conv then wv.arrive addr m else wv).leaveHeader addr h.conv m
    if h.pfh = 0 then s
    else
      let line := caAdd addr (64 * h.pfh.toInt)
      if (s.codeLine c t line).isSome then s else s.wantLine c t line

/-- The lanes `m` reach the code at `addr` by fall-through (R47, R76): the header there is entered when its line is present,
and at the next attempt to issue otherwise. DESIGN CHOICE (LOG 11): from translated code into a line that was filled as LA3 code (its
attribute has changed between the fills) the header check of R47 applies, though R76 has none for a line of LA2. -/
def State.fallTo (s : State) (c t : Nat) (m : Mask) (issue : Nat) (addr : DWord) : State :=
  match s.codeLine c t addr with
  | none => s.modThreads c t m fun _ th => { th with pc := addr, hdrW := 0, la2 := false }
  | some ln =>
    if ln.la2 then s.modThreads c t m fun _ th => { th with pc := addr, hdr := addr, hdrW := 0, la2 := true }
    else if !isHeader (ln.at addr) then
      m.lanes.foldl (fun s l => s.faultAt (c := c) (t := t) (l := l) issue 5 4 addr addr (ln.at addr))
        (s.modThreads c t m fun _ th => { th with pc := addr, hdrW := 0, la2 := false })
    else s.enterHeader c t m issue addr (ln.at addr)

/-- What R50 finds at the target of a transfer of one lane. -/
inductive Tgt where
  | ok (word : DWord) (la2 : Bool)
  | wait
  | miss (bti page : Nat)
  | bad (code : Nat) (finfo : Word) (extra : DWord)
  deriving DecidableEq, Repr

/-- R402, R422: a fetch that an uncorrectable error ends posts it. -/
def State.foundCode (s : State) (c t l : Nat) (a : DWord) : State :=
  if s.localCode c t a then s
  else match s.checkBuf (clusterOf c) (s.thread c t l).walked (s.partOf c) (some (caBti a)) (caOff a) 8 rEXEC with
    | .ok p _ => if (s.homeDown p 8).any fun d => decide (32 ≤ d) && decide (d < 48) then s.foundBad p 8 else s
    | _ => s
/-- R50 in order, with the outcomes of R45; from LA2 code or into it, R76 and R78 say which checks apply. -/
def State.checkTarget (s : State) (c t l : Nat) (indirect : Bool) (tgt : DWord) : Tgt :=
  if tgt.extractLsb' 0 3 ≠ 0 then .bad 5 2 tgt
  else
    let look : Option Tgt :=
      if s.localCode c t tgt then
        -- R468: a line of the local SRAM that has an error is not filled
        if (s.codeLine c t tgt).isNone && s.badSram.contains (seraiAddr (clusterOf c) tgt.toNat / 128) then some (.bad 8 32 tgt) else none
      else match s.checkBuf (clusterOf c) (s.thread c t l).walked (s.partOf c) (some (caBti tgt)) (caOff tgt) 8 rEXEC with
        | .miss b p => some (.miss b p)
        | .bad 7 f x => some (if f.extractLsb' 0 4 = 5 then .bad 7 f x else .bad 5 3 tgt)
        | .bad code f x => some (.bad code f x)
        | .ok (.far ..) _ => some (.bad 5 3 tgt)
        | .ok p _ =>
          if (s.codeLine c t tgt).isSome then none
          else (s.homeDown p 8).map fun d => .bad 8 (BitVec.ofNat 32 (d + 2 ^ 16 * caBti tgt)) (BitVec.ofNat 64 (caOff tgt))
    match look with
    | some r => r
    | none =>
      match s.codeLine c t tgt with
      | none => .wait
      | some ln =>
        let w := ln.at tgt
        if ln.la2 then .ok w true
        else if !isHeader w then .bad 5 0 tgt
        else if indirect && !(Header.ofWord w).land then .bad 5 1 tgt
        else .ok w false

/-- R182: lanes move from the issuing instruction; calls are not tested. -/
def State.moveLanes (s : State) (m : Mask) (call : Bool) (dest : DWord) : State :=
  if call then s else s.modCurWave fun w => m.lanes.foldl (fun w l => w.leave l s.cur.pc dest) w

/-- The lanes `m` have transferred to a target that passed R50. -/
def State.goTo (s : State) (m : Mask) (call : Bool) (dest word : DWord) (la2 : Bool) : State :=
  let s := s.moveLanes m call dest
  if la2 then s.modThreads s.cur.core s.cur.turn m fun _ th => { th with pc := dest, hdr := dest, hdrW := 0, la2 := true }
  else s.enterHeader s.cur.core s.cur.turn m s.cur.n dest word

/-! ## Advancing (R47, R76, R137) -/

/-- The address of the word after the instruction. -/
def Issue.nextPc (i : Issue) : DWord := caAdd i.pc (8 * (i.words : Int))

/-- R47: is the instruction the last of its block? In LA2 code a block is what is left of the 64-byte line (R76). -/
def Thread.atEnd (t : Thread) (i : Issue) : Bool :=
  if t.la2 then dwBits i.pc 5 3 == 7
  else decide (dwBits t.hdrW 17 10 < (caOff i.pc - caOff t.hdr) / 8 + i.words)

/-- R47, R137: the lanes `m` complete the instruction without a transfer: a repeat is counted down, and at its end, or with
no repeat, the PC moves to the next instruction. -/
def State.advance (s : State) (m : Mask) : State :=
  let w := s.wave s.cur.core s.cur.turn
  let s := s.modThreads s.cur.core s.cur.turn m fun _ t =>
    { t with repCnt := if t.repCnt = 0 then 0 else t.repCnt - 1, wait := .none, walked := [] }
  let moved := Mask.ofLanes (m.lanes.filter fun l => (w.thread l).repCnt.toNat ≤ 1)
  let falling := Mask.ofLanes (moved.lanes.filter fun l => (w.thread l).atEnd s.cur)
  let next := s.cur.nextPc
  let s := (s.modThreads s.cur.core s.cur.turn (moved &&& ~~~falling) fun _ t => { t with pc := next }).moveLanes moved false next
  if falling = 0 then s else s.fallTo s.cur.core s.cur.turn falling s.cur.n next

/-- R361: an instruction of the wave issued in some lane without a fault. -/
def State.issued (s : State) : State := s.modCurWave fun w => { w with rcnt := 0 }
/-- The instruction ends in the lanes of the path that have not faulted or left it: they advance. -/
def State.finish (s : State) : State :=
  let w := s.wave s.cur.core s.cur.turn
  let m := Mask.ofLanes (s.cur.lanes.lanes.filter fun l => (w.thread l).going)
  if m = 0 then s else (s.issued).advance m

/-! ## Batches (R255 to R258) -/

def BatchCtr.settle (b : BatchCtr) : BatchCtr :=
  { b with queue := b.queue.dropWhile fun q => q.ops.isEmpty && q.fail.isNone }
/-- R25, R258: FAILED: every operation of the oldest sealed batch has completed and one failed. -/
def BatchCtr.failed (b : BatchCtr) : Option Nat :=
  match b.queue with | q :: _ => if q.ops.isEmpty then q.fail else none | [] => none
/-- R25: the counter word. -/
def BatchCtr.word (b : BatchCtr) : Word :=
  BitVec.ofNat 32 (b.openOps + 65536 * b.queue.length + (if b.failed.isSome then 2 ^ 20 else 0))
def Batch.complete (q : Batch) (id : Nat) (fail : Option Nat) : Batch :=
  if q.ops.contains id then { ops := q.ops.filter (· != id), fail := match q.fail with | some f => some f | none => fail } else q
def BatchCtr.complete (b : BatchCtr) (id : Nat) (fail : Option Nat) : BatchCtr :=
  BatchCtr.settle { b with cur := b.cur.complete id fail, queue := b.queue.map fun q => q.complete id fail }
def Thread.batch (t : Thread) (cls : Nat) : BatchCtr := getK {} t.batches cls
def Thread.modBatch (t : Thread) (cls : Nat) (f : BatchCtr → BatchCtr) : Thread := { t with batches := insK t.batches cls (f (t.batch cls)) }
/-- R255: an operation joins the open batch of its class. -/
def Thread.joinOp (t : Thread) (cls id : Nat) : Thread :=
  t.modBatch cls fun b => { b with openOps := Nat.min 65535 (b.openOps + 1), cur := { b.cur with ops := b.cur.ops ++ [id] } }
/-- R255: an operation joins the open batch of every active thread. -/
def State.joinOp (s : State) (m : Mask) (cls id : Nat) : State :=
  s.modThreads s.cur.core s.cur.turn m fun _ t => t.joinOp cls id
/-- R257, R258, R262: an operation of a core completes, in the threads present and in those saved. -/
def State.completeOp (s : State) (c id : Nat) (fail : Option Nat) : State :=
  s.modCore c fun k =>
    { k with
      waves := k.waves.map fun w => (w.1, { w.2 with threads := w.2.threads.map fun t =>
        (t.1, { t.2 with batches := t.2.batches.map (fun b => (b.1, b.2.complete id fail))
                         arrived := t.2.arrived.map fun a => { a with ops := a.ops.filter (· != id) } }) })
      saved := k.saved.map fun v => { v with
        batch := v.batch.map (fun l => (l.1, l.2.map fun b => (b.1, b.2.complete id fail)))
        bars := v.bars.map fun b => (b.1, { b.2 with ops := b.2.ops.filter (· != id) }) } }

/-! ## AMEM banks (R228 to R233) -/

def Core.bank (k : Core) (b : Nat) : Bank := getK {} k.banks b
def Core.modBank (k : Core) (b : Nat) (f : Bank → Bank) : Core := { k with banks := insK k.banks b (f (k.bank b)) }
def Bank.valid (b : Bank) : Bool := b.word.getLsbD 0
def Bank.owner (b : Bank) : Nat := wBits b.word 4 1
def Bank.granted (b : Bank) : Bool := b.word.getLsbD 5
def Bank.grantee (b : Bank) : Nat := wBits b.word 9 6
def Bank.abase (b : Bank) : Nat := wBits b.word 13 10
def Bank.poison (b : Bank) : Bool := b.word.getLsbD 19
def Bank.pend (b : Bank) : Nat := wBits b.word 31 24
def wSet (v : Word) (hi lo x : Nat) : Word :=
  let m : Word := BitVec.ofNat 32 ((2 ^ (hi - lo + 1) - 1) * 2 ^ lo)
  (v &&& ~~~m) ||| (BitVec.ofNat 32 (x * 2 ^ lo) &&& m)
def Bank.set (b : Bank) (hi lo x : Nat) : Bank := { b with word := wSet b.word hi lo x }
/-- R228: does the wave of a turn hold the bank? -/
def Bank.heldBy (b : Bank) (t : Nat) : Bool :=
  b.valid && !b.left && (if b.granted then b.grantee == t else b.owner == t)
/-- R229: a bank that is not allocated, nor mapped out. -/
def Core.bankIdle (k : Core) (b : Nat) : Bool := !(k.bank b).valid && !k.mapped.contains b
/-- R229: a free bank. DEDUCED (LOG 13): one that an error event has named is free again when its test has passed (R464). -/
def Core.bankFree (k : Core) (b : Nat) : Bool := k.bankIdle b && !k.toTest.contains b

/-- R233: the banks of a wave that retires. -/
def Core.retireBanks (k : Core) (t : Nat) : Core :=
  let banks := List.range 16
  let k := banks.foldl (fun k b =>
    let bk := k.bank b
    if bk.valid && bk.granted && bk.grantee == t && bk.owner != t then k.modBank b fun x => x.set 5 5 0 else k) k
  let own := banks.filter fun b => let x := k.bank b; x.valid && x.owner == t && !x.left
  let passed := own.filter fun b => (k.bank b).granted
  let k := (own.filter fun b => !(k.bank b).granted).foldl (fun k b =>
    if (k.bank b).pend = 0 then { k with banks := delK k.banks b } else k.modBank b fun x => { x with left := true }) k
  passed.foldl (fun k b =>
    let g := (k.bank b).grantee
    let grp := passed.filter fun x => (k.bank x).owner == t && (k.bank x).granted && (k.bank x).grantee == g
    if grp.isEmpty then k
    else
      let base := grp.foldl Nat.min 16
      grp.foldl (fun k x => k.modBank x fun y => (((y.set 4 1 g).set 5 5 0).set 13 10 base).set 18 14 grp.length) k) k

/-! ## Trap records (R307, R308) -/

/-- R307: the first 64 bytes of a record. -/
def TrapRec.head (r : TrapRec) (state : Nat) : List Byte :=
  bytesOf 4 (state + (if r.absent then 256 else 0) + r.seq.toNat * 2 ^ 16) ++
  bytesOf 4 (r.core + r.turn * 2 ^ 11 + r.res * 2 ^ 15) ++ bytesOf 4 r.lanes.toNat ++ bytesOf 4 r.pend.toNat ++
  (List.range 4).flatMap (fun i => bytesOf 4 (r.gmask.getD i 0).toNat) ++
  bytesOf 8 r.pc.toNat ++ bytesOf 8 r.save.toNat ++ bytesOf 8 r.time.toNat ++
  bytesOf 8 (r.part.toNat + r.gmask.length * 16)
/-- R307: the place of a slot. -/
def State.slotPlace (s : State) (cl slot : Nat) : Nat := seraiAddr cl (dwBits (s.cr cl nTSLOTS) 19 10 * 1024 + 1024 * slot)
/-- R308: a posted record is changed; one with nothing left in PEND becomes FREE. -/
def State.setTrap (s : State) (cl slot : Nat) (r : TrapRec) : State :=
  let live := r.pend != 0
  (s.wrSram (s.slotPlace cl slot) (r.head (if live then 1 else 0))).modCl cl fun k =>
    { k with traps := if live then insK k.traps slot r else delK k.traps slot }
/-- R201 to R203: every record of a present wave, wherever it stands. -/
def State.mapRecs (s : State) (c t : Nat) (f : TrapRec → TrapRec) : State :=
  let cl := clusterOf c
  let s := ((s.cl cl).traps.filter fun p => p.2.core == c && p.2.turn == t && !p.2.absent && f p.2 != p.2).foldl
    (fun s p => let r := f p.2
      if r.res = p.2.res then s.modCl cl fun k => { k with traps := insK k.traps p.1 r } else s.setTrap cl p.1 r) s
  s.modCore c fun k =>
    { k.modWave t (fun w => { w with held := w.held.map f, restored := w.restored.map f }) with
      stash := k.stash.map fun r => if r.turn = t then f r else r }

/-! ## Exit and retirement (R131, R187) -/

/-- R332, R360: a turn of the cluster has become free: a wave that waits is decided again. -/
def State.roomFreed (s : State) (cl : Nat) : State :=
  s.modCl cl fun k => { k with gather := k.gather.map fun g => if g.waiting then { g with again := true } else g }
/-- R187, R332: the last thread of a wave has exited: its entries, quota and banks are released, and a waiting wave may be
decided again. -/
def State.retireWave (s : State) (c t : Nat) : State :=
  let s := s.modCore c fun k =>
    let k := k.retireBanks t
    { k with waves := insK k.waves t { uid := (k.wave t).uid }
             quotas := delK k.quotas t
             admitted := k.admitted.filter (· != t)
             passOver := k.passOver.filter (· != t)
             stash := k.stash.filter fun r => r.turn != t || r.pend != 0 }
  s.roomFreed (clusterOf c)

/-- R131, R31, R262, R319: a thread exits (a wave that is being saved keeps its turn until the save ends): pending register
writes and what it waited for are dropped, and it leaves every entry. -/
def Thread.exited (t : Thread) : Thread :=
  { t with status := .exited, empty := [], wait := .none, arrived := none, defer := [], xrec := none,
           repCnt := 0, repMask := 0, repStep := 0, walked := [] }
def State.exitLanes (s : State) (c t : Nat) (m : Mask) : State :=
  let s := s.modWave c t fun w => m.lanes.foldl (fun w l => (w.modThread l Thread.exited).unrecon l) w
  if (s.wave c t).live && (s.wave c t).alive == 0 && !(s.wave c t).busy then s.retireWave c t else s

/-! ## Translation misses (R409) -/

/-- R409, R411: a miss joins the walk of its page, or asks for one; at most 32 walks are in flight. -/
def State.addWalk (s : State) (cl bti page : Nat) : State :=
  let k := s.cl cl
  let s := s.crCount cl nTBSTAT 15 0 1
  if k.walks.any (fun w => w.bti == bti && w.page == page) then s
  else
    let s := if 32 ≤ k.walks.length then s.crCount cl nTBSTAT 47 32 1 else s
    s.modCl cl fun k => { k with walks := k.walks ++ [{ bti, page }] }
/-- R409: the path waits for a walk, as for a long-latency producer. -/
def State.blockPage (s : State) (bti page : Nat) : State :=
  (s.addWalk s.curCl bti page).block .blockedEmpty (.page bti page)

/-! ## Special values (R42) -/

def State.special (s : State) (l n : Nat) : Word :=
  let c := s.cur.core
  let k := s.core c
  let th := s.curThread l
  match n with
  | 0 => BitVec.ofNat 32 l
  | 1 => BitVec.ofNat 32 s.cur.turn
  | 2 => if isSerai c then Config.freeWord s.curCl else BitVec.ofNat 32 c
  | 3 => BitVec.ofNat 32 s.curCl
  | 4 => BitVec.ofNat 32 (s.curCl / 2)
  | 5 => (s.partOf c).setWidth 32
  | 6 => k.cyc.extractLsb' 0 32
  | 7 => k.cyc.extractLsb' 32 32
  | 8 => s.lease.extractLsb' 0 32
  | 9 => (s.lease.extractLsb' 32 16).setWidth 32
  | 10 => th.wh.extractLsb' 0 32
  | 11 => (th.wh.extractLsb' 32 16).setWidth 32
  | _ => 0

end Sys2Proof.Machine
end

