-- ==== Sys2Proof/Machine/Flags.lean ====
section
/-! DEFINITION. SATF (R36, R101, R166 to R168): its word form, the W1C clear and the ARITH check of a barrier. -/

namespace Sys2Proof.Machine

/-- R36: SATF as a 32-bit word. -/
def Wave.satfWord (w : Wave) : Word := BitVec.ofNat 32 (w.satf.toNat + 256 * w.arm.toNat)
/-- R101, R167: a W1C clear leaves the flags that any instruction has set in this cycle. -/
def State.clearFlags (s : State) (c t : Nat) (m : BitVec 7) : State :=
  let kept := getK 0 (s.core c).cycle.fset t
  s.modWave c t fun w => { w with satf := (w.satf &&& ~~~m) ||| (w.satf &&& kept) }
/-- R36: the flags that are set and armed. -/
def Wave.armed (w : Wave) : BitVec 7 := w.satf &&& w.arm
/-- R111: SAT as an integer instruction sets it. -/
def satFlag (b : Bool) : Flags := if b then Flags.sat else 0

end Sys2Proof.Machine
end

