-- ==== Sys2Proof/Machine/Access.lean ====
section
/-! DEFINITION. Issuing memory accesses: producers (R20), flat-address checks (R272, R381), loads, stores and atomics as they
issue (R372, R374, R386), own-slice accesses (R208), and memory operands (R59). -/

namespace Sys2Proof.Machine

/-! ## Producers (R20, R22) -/

/-- R20: a producer of a lane of the issuing path marks its destinations empty. -/
def State.newProd (s : State) (l : Nat) (src : ProdSrc) (dsts : List Nat) (mem : Bool := false) : Nat × State :=
  let (id, s) := s.bump
  let p : Prod := { core := s.cur.core, turn := s.cur.turn, lane := l, uid := (s.wave s.cur.core s.cur.turn).uid, src, dsts, mem }
  (id, { s with prods := insK s.prods id p }.modLane l fun t => t.markEmpty dsts id)
/-- R20, R22: a producer completes: its registers fill, unless they have been written or the thread has gone. -/
def State.completeProd (s : State) (id : Nat) (ws : List Word) : State :=
  match findK s.prods id with
  | none => s
  | some p =>
    let s := { s with prods := delK s.prods id }
    if (s.wave p.core p.turn).uid = p.uid then s.modThread p.core p.turn p.lane fun t => t.fill id p.dsts ws else s

/-! ## Sizes (R206) -/

/-- R206: the words a load of SIZE delivers from its bytes. -/
def extend (size : BitVec 3) (bs : List Byte) : List Word :=
  let v := natOfBytes bs
  match size.toNat with
  | 0 => [BitVec.ofNat 32 v]
  | 1 => [(BitVec.ofNat 8 v).signExtend 32]
  | 2 => [BitVec.ofNat 32 v]
  | 3 => [(BitVec.ofNat 16 v).signExtend 32]
  | 4 => [BitVec.ofNat 32 v]
  | 5 => wordsOf 2 v
  | _ => wordsOf 4 v
/-- R383: the low bytes of the source that a store of SIZE writes. -/
def storeBytes (n : Nat) (ws : List Word) : List Byte := bytesOf n (natOfWords ws)

/-! ## Flat addresses (R271, R272, R381) -/

/-- R204: do the bytes lie within SPALLOC? A serai's local SRAM has no allocation (R301). -/
def State.spOk (s : State) (c off size : Nat) : Bool :=
  if isSerai c then decide (off + size ≤ 2 ^ 20)
  else
    let v := s.ccr c nSPALLOC
    decide (dwBits v 9 0 * 256 ≤ off) && decide (off + size ≤ (dwBits v 9 0 + dwBits v 25 16) * 256)
/-- R198: SLICE-BOUND at a slice offset. -/
def sliceBound (off : Nat) : Chk := .bad 0x0D (BitVec.ofNat 32 off) 0
/-- R381 step 3 for a flat address. -/
def State.checkFlat (s : State) (c a size right : Nat) : Chk :=
  let refuse : Chk := .bad 7 (accessInfo 6 right 0) (BitVec.ofNat 64 a)
  match flatName a with
  | .nothing => refuse
  | .serai _ _ => if isSerai c then .ok (.sram a) 0 else refuse
  | .slice k off =>
    if k = c then (if s.spOk c off size then .ok (.sram a) 0 else sliceBound off)
    else if (s.cl (k / 128)).part = s.partOf c then .ok (.sram a) 0
    else refuse
/-- R264: the misaligned fault of an access address. -/
def misalignedAddr (a : Nat) : Chk := .bad 4 1 (BitVec.ofNat 64 a)
/-- R208, R301: does a place lie in the core's own storage? -/
def isOwn (c : Nat) : Place → Bool
  | .sram a => match flatName a with
    | .slice k _ => k == c
    | .serai k _ => c == 2048 + k
    | .nothing => false
  | _ => false
/-- R275, R278: the lease a load of a place asks for. -/
def State.leaseFor (s : State) (cl : Nat) (p : Place) (e : BitVec 512) : Nat :=
  match p with
  | .sram _ => if cacheable cl p then dwBits (s.cr cl nCSCTL) 15 0 else 0
  | .hbm _ => eLease e
  | .far .. => if e.getLsbD 338 then eLease e else 0

/-! ## Lines of the cache slice (R275 to R277, R375) -/

/-- The bytes and tags of a line at its home; `remote` are those of a fabric line. -/
def State.lineBytes (s : State) (p : Place) (remote : List Byte) : (List Byte × List Tag) × State :=
  match p with
  | .far .. => let (a, s) := s.openNat; let (b, s) := s.openNat; ((remote, [BitVec.ofNat 16 a, BitVec.ofNat 16 b]), s)
  | p => (s.homeLine p, s)
/-- The lines that an access touches, by their first bytes. -/
def linesOf (p : Place) (n : Nat) : List Place :=
  let a := lineBase p
  let b := lineBase (p.add (n - 1))
  if lineKey a = lineKey b then [a] else [a, b]
/-- R377: the visibility time of bytes that are written now: the latest of their lines'. -/
def State.visSpan (s : State) (p : Place) (n : Nat) : Lease := (linesOf p n).foldl (fun v b => Lease.later v (s.visTime b)) (s.visTime p)
/-- R275, R375: after an access served at the home: a plain load fills, and a live copy is replaced: it goes where the line
cannot be held again. -/
def State.serveLine (s : State) (cl : Nat) (a : Access) (b : Place) (remote : List Byte) : State :=
  let live := (s.liveLine cl b).isSome
  if !cacheable cl b then s
  else if a.lease = 0 ∨ (s.homeDown b 128).isSome then
    if a.kind = .acq ∧ live then s.modCl cl fun k => k.dropLine (lineKey b) else s
  else if (a.kind = .acq ∧ live) ∨ ((a.kind = .plain ∨ a.kind = .tag) ∧ !live) then
    let (x, s) := s.lineBytes b remote
    s.fillLine cl b x.1 x.2 a.lease none
  else s
/-- A used line is the most recent (R277). -/
def State.useLine (s : State) (cl : Nat) (b : Place) : State :=
  let (n, s) := s.bump
  s.modCl cl fun k => { k with lines := k.lines.map fun l => if l.1 = lineKey b then (l.1, { l.2 with used := n }) else l }

/-! ## Memory operands (R59) -/

def dispVal : Disp → Int
  | .short v => v.toInt
  | .long v => v.toInt
/-- R59: the effective address, given the index words: a buffer offset (48 bits), a slice or window offset (32 bits), or a
flat address (48 bits). -/
def effAddr (m : MemOp) (idx : List Word) : Nat :=
  let i : Int := (natOfWords idx : Nat)
  match m.mode with
  | .slot => ((i + dispVal m.disp) % (2 ^ 48 : Int)).toNat
  | .sa => ((i % (2 ^ 48 : Int) + dispVal m.disp) % (2 ^ 48 : Int)).toNat
  | .sp | .pw => ((i + dispVal m.disp) % (2 ^ 32 : Int)).toNat
/-- R59: the index of `[sa + ...]` is a pair. -/
def idxRegs (m : MemOp) : Nat := if m.mode = .sa then 2 else 1
/-- R406, R303: the buffer-table index of a slot, if the slot is mapped. -/
def State.slotIndex (s : State) (c n : Nat) : Option Nat :=
  let v := if isSerai c then s.cr (clusterOf c) (nSBSLOT n) else s.ccr c (fun i => nBSLOT i n)
  if dwBit v 16 then some (dwBits v 15 0) else none
/-- R468: an access of a serai that finds an uncorrectable error in a line of its own SRAM. A store covers less than the line, and has no
effect, as R402 has it of a block. -/
def State.seraiEcc (s : State) (c right : Nat) (flat : Bool) (a : Nat) (r : Chk) : Chk :=
  match r with
  | .ok (.sram x) e =>
    if isSerai c && isOwn c (.sram x) && s.badSram.contains (x / 128) then
      .bad 8 (BitVec.ofNat 32 (32 + (if flat then 64 else 0))) (BitVec.ofNat 64 a)
    else .ok (.sram x) e
  | r => r
/-- R381 steps 2 and 3 and PAGE for a lane's access through a memory operand of a slot, the own slice or a flat address. -/
def State.checkMem (s : State) (c t l : Nat) (m : MemOp) (idx : List Word) (size right : Nat) : Chk :=
  let a := effAddr m idx
  if a % size ≠ 0 then misalignedAddr a
  else match m.mode with
  | .slot => s.checkBuf (clusterOf c) (s.thread c t l).walked (s.partOf c) (s.slotIndex c m.slot.toNat) a size right
  | .sa => s.seraiEcc c right true a (s.checkFlat c a size right)
  | .sp | .pw => s.seraiEcc c right false a (if s.spOk c a size then .ok (.sram (ownAddr c a)) 0 else sliceBound a)

/-! ## Issue (R208, R372, R382 to R387) -/

/-- R382: a load issues in a lane. An own-slice access performs at the bank now; of one of 16 bytes one half does, and the other half
before the core issues again (R208, R373). -/
def State.issueLoad (s : State) (l : Nat) (p : Place) (e : BitVec 512) (size : BitVec 3) (kind : LoadKind) (m : Option (Nat × Nat)) (dsts : List Nat) : State :=
  let cl := clusterOf s.cur.core
  let kind := if kind == .plain && e.getLsbD 14 then .na else kind
  if isOwn s.cur.core p ∧ (size ≠ 6 ∨ kind = .tag) then
    let ws := if kind == .tag then [(s.tagAt p).setWidth 32] else extend size (s.rdHome p (sizeBytes size))
    (s.newProd l (.vals ws) dsts true).2
  else
    let (half, s) : Option (Nat × List Word) × State :=
      if isOwn s.cur.core p then
        let (b, s) := s.openBit
        let h := if b then 1 else 0
        (some (h, wordsOf 2 (natOfBytes (s.rdHome (p.add (8 * h)) 8))), s)
      else (none, s)
    let (bti, off, flat) := match m, p with
      | some (b, o), _ => (b, o, false)
      | none, .sram a => (0, a, true)
      | none, _ => (0, 0, true)
    let a : Access := { place := p, size, kind, iss := s.cur.n, half, lease := if kind == .tag && e.getLsbD 14 then 0 else s.leaseFor cl p e, cyc := (s.core s.cur.core).cyc, bti, off, flat, pc := s.cur.pc, word := s.cur.word }
    (s.newProd l (.load a) dsts true).2

/-- R386: the new value of an atomic, if it writes. -/
def atomNew (op : BitVec 4) (w : Nat) (old o1 o2 : Nat) : Option Nat :=
  let sg := fun v : Nat => (BitVec.ofNat w v).toInt
  match op.toNat with
  | 0 => some ((old + o1) % 2 ^ w)
  | 1 => some (if sg old ≤ sg o1 then old else o1)
  | 2 => some (if sg old ≤ sg o1 then o1 else old)
  | 3 => some (Nat.min old o1)
  | 4 => some (Nat.max old o1)
  | 5 => some (old &&& o1)
  | 6 => some (old ||| o1)
  | 7 => some (old ^^^ o1)
  | 8 => some o1
  | 9 => if old = o1 then some o2 else none
  | _ => none
/-- R387, R474: an atomic performs at a home: the old value, whether it wrote, and the state after; of one at another package the old
value, and with it whether a compare-and-swap wrote, is what the response says. -/
def State.performAtom (s : State) (p : Place) (op : BitVec 4) (w64 : Bool) (o1 o2 : DWord) : Nat × Bool × State :=
  let n := if w64 then 8 else 4
  let (bs, s) : List Byte × State := match p with | .far .. => (s.farOp p w64 op o1 o2).openBytes n | _ => (s.rdHome p n, s)
  let old := natOfBytes bs
  match atomNew op (8 * n) old (o1.toNat % 2 ^ (8 * n)) (o2.toNat % 2 ^ (8 * n)) with
  | some v => (old, true, s.wrHome p (bytesOf n v))
  | none => (old, false, s)

/-- R383, R387: a store, tag store or atomic issues in a lane. In the own slice it performs at the bank now; of a store of 16 bytes one
half does, and the other half before the core issues again (R208, R373). -/
def State.issueStore (s : State) (l : Nat) (p : Place) (size : Nat) (data : Nat) (kind : StoreKind) (acq : Bool) (m : Option (Nat × Nat)) : State :=
  if isOwn s.cur.core p then
    let v := s.visTime p
    match kind with
    | .data =>
      if size ≠ 16 then (s.wrHome p (bytesOf size data)).modLane l fun t => t.horizon v
      else
        let (b, s) := s.openBit
        let h := if b then 1 else 0
        let part := fun (i : Nat) => data / 2 ^ (64 * i) % 2 ^ 64
        let s := (s.wrHome (p.add (8 * h)) (bytesOf 8 (part h))).modLane l fun t => t.horizon v
        let (id, s) := s.bump
        { s with stores := insK s.stores id {
            core := s.cur.core, turn := s.cur.turn, lane := l, uid := (s.wave s.cur.core s.cur.turn).uid, place := p.add (8 * (1 - h)),
            size := 8, data := part (1 - h), kind, acq, cyc := (s.core s.cur.core).cyc, bti := 0, off := 0, flat := true,
            pc := s.cur.pc, word := s.cur.word } }
    | .tag => (s.setTag p (BitVec.ofNat 16 data)).modLane l fun t => t.horizon v
    | .atom op w64 o1 o2 prod =>
      let (old, wrote, s) := s.performAtom p op w64 o1 o2
      let s := { s with prods := match findK s.prods prod with
        | some q => insK s.prods prod { q with src := .vals (wordsOf 2 old) }
        | none => s.prods }
      s.modLane l fun t => t.horizon (if wrote then v else s.lease)
  else
    let (bti, off, flat) := match m, p with
      | some (b, o), _ => (b, o, false)
      | none, .sram a => (0, a, true)
      | none, _ => (0, 0, true)
    let (id, s) := s.bump
    let st : PStore := { core := s.cur.core, turn := s.cur.turn, lane := l, uid := (s.wave s.cur.core s.cur.turn).uid,
                         place := p, size, data, kind, acq, cyc := (s.core s.cur.core).cyc, bti, off, flat, pc := s.cur.pc, word := s.cur.word }
    if size ≠ 16 then { s with stores := insK s.stores id st }
    else
      -- R373: two 8-byte accesses
      let (id2, s) := s.bump
      let lo : PStore := { st with size := 8, data := data % 2 ^ 64, pair := some id2 }
      let hi : PStore := { st with place := p.add 8, size := 8, data := data / 2 ^ 64, pair := some id }
      { s with stores := insK (insK s.stores id lo) id2 hi }

/-- R208, R373: before a core issues again, the halves of its 16-byte accesses to its own storage that have not performed do. -/
def State.settle (s : State) (c : Nat) : State :=
  let s := (s.stores.filter fun x => x.2.core == c && x.2.stage == 0 && isOwn c x.2.place).foldl (fun (s : State) x =>
    { s.wrHome x.2.place (bytesOf x.2.size x.2.data) with stores := insK s.stores x.1 { x.2 with stage := 2, vis := s.visTime x.2.place } }) s
  s.prods.foldl (fun (s : State) x =>
    match x.2.src with
    | .load a => (match (if x.2.core = c ∧ isOwn c a.place then a.half else none) with
      | some (h, ws) =>
        let w := wordsOf 2 (natOfBytes (s.rdHome (a.place.add (8 * (1 - h))) 8))
        s.completeProd x.1 (if h = 0 then ws ++ w else w ++ ws)
      | none => s)
    | _ => s) s

/-! ## Fences (R389) -/

/-- The loads and atomics of a thread whose result has not returned. -/
def State.loadsOf (s : State) (c t l : Nat) : List (Nat × Prod) :=
  s.prods.filter fun p => p.2.core == c && p.2.turn == t && p.2.lane == l && p.2.uid == (s.wave c t).uid && p.2.mem
def State.storesOf (s : State) (c t l : Nat) : List (Nat × PStore) :=
  s.stores.filter fun p => p.2.core == c && p.2.turn == t && p.2.lane == l && p.2.uid == (s.wave c t).uid
/-- R374: has a store reached its cohort point? -/
def PStore.atF (p : PStore) : Bool := if cacheable (clusterOf p.core) p.place then decide (1 ≤ p.stage) else decide (2 ≤ p.stage)
def Place.isHbm : Place → Bool | .hbm _ => true | _ => false
/-- R389: do the conditions of a fence hold for a thread? Atomics count as loads until their old value has returned. -/
def State.fenceMet (s : State) (sc : Scope) (c t l : Nat) : Bool :=
  let st := s.storesOf c t l
  let loads := (s.loadsOf c t l).isEmpty
  match sc with
  | .crew => loads && st.all (fun p => p.2.atF && (match p.2.kind with | .atom .. => decide (2 ≤ p.2.stage) | _ => true))
  | .cohort => loads && st.isEmpty
  | .span | .domain => loads && st.isEmpty && Lease.before (s.thread c t l).wh s.lease
  | .w => st.all (fun p => !p.2.place.isHbm)

/-! ## Order of accesses in flight (R372, R375, R388) -/

def LoadKind.isTag : LoadKind → Bool | .tag => true | _ => false
def StoreKind.isTag : StoreKind → Bool | .tag => true | _ => false
def StoreKind.isAtom : StoreKind → Bool | .atom .. => true | _ => false
/-- Do two accesses name a common byte, or the same tag (R385)? -/
def sameBytes (tp : Bool) (p : Place) (n : Nat) (tq : Bool) (q : Place) (m : Nat) : Bool :=
  let hit := fun (a b : Nat) =>
    if tp then a / 64 == b / 64 else decide (a < b + m) && decide (b < a + n)
  tp == tq && (match p, q with
    | .sram a, .sram b => hit a b
    | .hbm a, .hbm b => hit a b
    | .far _ _ x a, .far _ _ y b => x == y && hit a b
    | _, _ => false)
/-- Who issued an access: core, turn, lane, wave, and the core's cycle. -/
structure Who where
  core : Nat
  turn : Nat
  lane : Nat
  uid  : Nat
  cyc  : DWord
  deriving DecidableEq, Repr
def Who.sameThread (a b : Who) : Bool := a.core == b.core && a.turn == b.turn && a.lane == b.lane && a.uid == b.uid
def Who.sameCycle (a b : Who) : Bool := a.core == b.core && a.cyc == b.cyc
def PStore.who (p : PStore) : Who := { core := p.core, turn := p.turn, lane := p.lane, uid := p.uid, cyc := p.cyc }
def Prod.who (p : Prod) (a : Access) : Who := { core := p.core, turn := p.turn, lane := p.lane, uid := p.uid, cyc := a.cyc }

/-- R273: do two accesses name a common 8-byte word of a slice? -/
def sameWord (tp : Bool) (p : Place) (n : Nat) (tq : Bool) (q : Place) (m : Nat) : Bool :=
  !tp && !tq && (match p, q with
    | .sram a, .sram b => (match flatName a with | .slice .. => true | _ => false) && decide (a / 8 * 8 < b + m) && decide (b / 8 * 8 < a + n)
    | _, _ => false)
/-- R273, R388: do two accesses of one thread take effect in order for what they name? -/
def sameSpot (cl : Nat) (tp : Bool) (p : Place) (n : Nat) (tq : Bool) (q : Place) (m : Nat) : Bool :=
  sameBytes tp p n tq q m || (!cacheable cl p && sameWord tp p n tq q m)
/-- R273, R372, R388: is an access numbered `id` held by an earlier access of its thread, or of its core's cycle? `copy` says that
it is served by a live copy, which stores past F have updated. -/
def State.heldByEarlier (s : State) (id : Nat) (w : Who) (tag : Bool) (p : Place) (n : Nat) (load copy : Bool) : Bool :=
  (s.stores.any fun x =>
    let y := x.2
    let done := 2 ≤ y.stage ∨ (1 ≤ y.stage ∧ (copy ∨ !load) ∧ !y.kind.isAtom)
    x.1 < id &&
      ((w.sameThread y.who && y.acq && decide (y.stage < 2)) ||
       (w.sameThread y.who && !decide done && sameSpot (clusterOf w.core) tag p n y.kind.isTag y.place y.size) ||
       (w.sameCycle y.who && !decide done && sameBytes tag p n y.kind.isTag y.place y.size))) ||
  (s.prods.any fun x => match x.2.src with
    | .load a => x.1 < id &&
        ((w.sameThread (x.2.who a) && (a.kind == .acq || sameSpot (clusterOf w.core) tag p n a.kind.isTag a.place (sizeBytes a.size))) ||
         (!load && w.sameCycle (x.2.who a) && sameBytes tag p n a.kind.isTag a.place (sizeBytes a.size)))
    | _ => false)

end Sys2Proof.Machine
end

