-- ==== Sys2Proof/Machine/Operands.lean ====
section
/-! DEFINITION. Operands of lane instructions (R62 to R65, R107, R108, R137, R138): quota and alignment checks, blocking on
empty sources, walkers (R209 to R214), queue ports (R216 to R222), reading and writing, and the frame that every ordinary
instruction is a body in. -/

namespace Sys2Proof.Machine

/-- R65: how a constant is read. -/
inductive Ty where
  | int
  | pk (w : Nat)
  | f32
  | pk16 (f : Fmt)
  deriving DecidableEq, Repr

/-- A source an instruction reads: `pos` 0 to 2 for S1 to S3, 3 for D read as a source; `n` registers or entries from a base
that is a multiple of `al`. -/
structure SrcReq where
  pos : Nat
  src : Src
  n   : Nat := 1
  al  : Nat := 1
  ty  : Ty := .int
  deriving DecidableEq, Repr

structure DstReq where
  o  : Operand
  n  : Nat := 1
  al : Nat := 1
  deriving DecidableEq, Repr

/-- What an instruction reads and writes; `rep` says that `rep` may repeat it (R138); `other` lists the fields
that hold a predicate index; `once` that a fault of the instruction is taken in every active lane (R227). -/
structure Spec where
  srcs : List SrcReq := []
  dst  : Option DstReq := none
  rep  : Bool := false
  other : List Nat := []
  once : Bool := false
  deriving DecidableEq, Repr

/-! ## Repeats (R137, R138) -/

/-- R137: the field number of an operand position. -/
def fieldOf (pos : Nat) : Nat := if pos = 3 then 0 else pos + 1
/-- R137: the register a field names in this issue. -/
def Thread.step (t : Thread) (field r : Nat) : Nat :=
  if t.repCnt ≠ 0 ∧ t.repMask.getLsbD field then r + (t.repCnt.toNat - 1) * 2 ^ t.repStep.toNat else r
/-- R138: the cause of the UNDEFINED fault of a repeated instruction. DESIGN CHOICE (LOG 11): a field that REPMASK selects and the
instruction has no operand in (S3 of `add`, S2 of `mov`, D of `pput`) names nothing: no fault, and no register of it steps. -/
def repCause (s : State) (sp : Spec) (act : Mask) : Option Nat :=
  let ths := act.lanes.map s.curThread
  if ths.all (fun t => t.repCnt == 0) then none
  else if !sp.rep then some 3
  else
    let named := (sp.dst.toList.map fun d => (0, d.o)) ++ sp.srcs.map fun r => (fieldOf r.pos, r.src.o)
    if ths.any (fun t => t.repCnt != 0 && (named.any (fun p => t.repMask.getLsbD p.1 && !p.2.isReg) ||
        sp.other.any fun f => t.repMask.getLsbD f)) then some 4 else none

/-! ## QUOTA and alignment (R17, R18, R200) -/

/-- The register ranges an instruction names in a lane, in the order D, S1, S2, S3 (R33). -/
def Spec.ranges (sp : Spec) (t : Thread) : List (Nat × Nat × Nat) :=
  let ofO := fun (field : Nat) (o : Operand) (n al : Nat) => match o with | .reg r => [(t.step field r, n, al)] | _ => []
  let at_ := fun p => sp.srcs.flatMap fun r => if r.pos = p then ofO (fieldOf p) r.src.o r.n r.al else []
  (match sp.dst with | some d => ofO 0 d.o d.n d.al | none => []) ++ at_ 3 ++ at_ 0 ++ at_ 1 ++ at_ 2
/-- R18, R33, R200: the first register out of quota or dead. -/
def firstOut (q dead : Nat) (rs : List (Nat × Nat × Nat)) : Option Nat :=
  rs.findSome? fun p => (List.range p.2.1).findSome? fun i => if p.1 + i < dead ∨ q ≤ p.1 + i then some (Nat.min (p.1 + i) 1023) else none
/-- R264: the first misaligned operand register, in the order that R33 gives for QUOTA (DESIGN CHOICE, LOG 11: R264 names the
register and no order). -/
def firstMis (rs : List (Nat × Nat × Nat)) : Option Nat := rs.findSome? fun p => if p.1 % p.2.2 ≠ 0 then some p.1 else none
/-- R18, R108 steps 2 and 3: the fault of every active lane, if any. DESIGN CHOICE (LOG 11): where repeats step to different registers
in different lanes, every lane's record names the register of the lowest-numbered lane that offends. -/
def operandFault (s : State) (sp : Spec) (act : Mask) : Option (Nat × Word) :=
  let rs := act.lanes.map fun l => sp.ranges (s.curThread l)
  let q := s.quotaOf s.cur.core s.cur.turn
  let dead := s.deadBelow s.cur.core s.cur.turn
  match rs.findSome? (firstOut q dead) with
  | some r => some (2, BitVec.ofNat 32 r)
  | none => match rs.findSome? firstMis with
    | some r => some (4, BitVec.ofNat 32 (2 * r))
    | none => none

/-! ## Empty sources (R21) -/

def SrcReq.emptyRegs (r : SrcReq) (t : Thread) : List Nat :=
  match r.src.o with
  | .reg b => let b := t.step (fieldOf r.pos) b; ((List.range r.n).map (b + ·)).filter t.isEmpty
  | _ => []

/-! ## Constants (R64, R65) -/

/-- Copies of an element value in a 32-bit operand (R88). -/
def splat (w v : Nat) : Word := BitVec.ofNat 32 ((List.range (32 / w)).foldl (fun a i => a + v % 2 ^ w * 2 ^ (w * i)) 0)
/-- R65: an integer constant as an operand of a type. -/
def intConst (ty : Ty) (n k : Nat) : List Word :=
  let v : Int := (k : Int) - 64
  match ty with
  | .int => wordsOf n (v % (2 ^ (32 * n) : Int)).toNat
  | .pk w => [splat w (v % (2 ^ w : Int)).toNat]
  | .f32 => [BitVec.ofNat 32 (Fmt.f32.conv Rnd.rne (FVal.ofExact (Exact.ofInt v) false)).code]
  | .pk16 f => [splat 16 (f.conv Rnd.rne (FVal.ofExact (Exact.ofInt v) false)).code]
/-- R65: a floating constant as an operand of a type. -/
def fltOperand (ty : Ty) (n k : Nat) : List Word :=
  let v := fltConst k
  match ty with
  | .pk16 f => [splat 16 (f.conv Rnd.rne (Fmt.f32.decode v.toNat)).code]
  | _ => v :: List.replicate (n - 1) 0

/-! ## Walkers (R209 to R214) -/

def Wave.walker (w : Wave) (i : Nat) : Walker := getK {} w.walkers i
def Wave.modWalker (w : Wave) (i : Nat) (f : Walker → Walker) : Wave := { w with walkers := insK w.walkers i (f (w.walker i)) }
def Walker.field (w : Walker) (hi lo : Nat) : Nat := bitsN w.desc.toNat hi lo
def Walker.sfield (w : Walker) (hi lo : Nat) : Int := (BitVec.ofNat (hi - lo + 1) (w.field hi lo)).toInt
def Walker.esize (w : Walker) : Nat := w.field 49 48
/-- R210: the address of lane `l` at the current position. -/
def Walker.addr (w : Walker) (l : Nat) : Nat :=
  (((w.field 47 0 : Nat) + w.i0 * w.sfield 127 96 + w.i1 * w.sfield 191 160 + w.i2 * w.sfield 255 224 +
    l * (w.sfield 95 80 + w.sfield 159 144 + w.sfield 223 208) : Int) % (2 ^ 48 : Int)).toNat
/-- R210: advance the walker once; what was fetched for the position is used up. -/
def Walker.advance (w : Walker) : Walker :=
  let w := { w with e0 := false, e1 := false, e2 := false, buf := w.buf.drop 1 }
  if w.i0 + 1 ≠ w.field 79 64 then { w with i0 := w.i0 + 1 }
  else
    let w := { w with i0 := 0, e0 := true }
    if w.i1 + 1 ≠ w.field 143 128 then { w with i1 := w.i1 + 1 }
    else
      let w := { w with i1 := 0, e1 := true }
      if w.i2 + 1 ≠ w.field 207 192 then { w with i2 := w.i2 + 1 } else { w with i2 := 0, e2 := true }
/-- The walker some positions further on. -/
def Walker.ahead (w : Walker) : Nat → Walker
  | 0 => w
  | n + 1 => (w.advance).ahead n
/-- R214: has the element of a lane not arrived for the current position? -/
def Walker.lacks (w : Walker) (l : Nat) : Bool := (w.buf.head?.bind (findK · l)).isNone
/-- R211: the access of a lane, checked as an own-slice or a flat access. -/
def State.checkWalker (s : State) (w : Walker) (l right : Nat) : Chk :=
  let a := w.addr l
  let n := 2 ^ w.esize
  if a % n ≠ 0 then misalignedAddr a else s.checkFlat s.cur.core a n right
/-- R211: the value a read delivers. -/
def Walker.deliver (w : Walker) (raw : Nat) : List Word :=
  match w.esize with
  | 0 => [if w.desc.getLsbD 50 then (BitVec.ofNat 8 raw).signExtend 32 else BitVec.ofNat 32 raw]
  | 1 => [if w.desc.getLsbD 50 then (BitVec.ofNat 16 raw).signExtend 32 else BitVec.ofNat 32 raw]
  | 2 => [BitVec.ofNat 32 raw]
  | _ => wordsOf 2 raw
/-- R206: the SIZE code of a walker's elements. -/
def Walker.sizeCode (w : Walker) : BitVec 3 :=
  match w.esize with
  | 0 => if w.desc.getLsbD 50 then 1 else 0
  | 1 => if w.desc.getLsbD 50 then 3 else 2
  | 2 => 4
  | _ => 5
/-- R211: the cause of BINDING for a walker operand. -/
def Walker.bindCause (w : Walker) (n : Nat) : Option Nat :=
  if !w.bound then some 0 else if (w.esize == 3) != (n == 2) then some 1 else none
def bindInfo (cause which : Nat) : Word := BitVec.ofNat 32 (cause + 16 * which)

/-! ## Queues (R216 to R220) -/

def Core.queue (k : Core) (q : Nat) : List QEntry := getK [] k.queues q
def Core.setQueue (k : Core) (q : Nat) (l : List QEntry) : Core := { k with queues := insK k.queues q l }
def Core.portQueue (k : Core) (p : Nat) : Option Nat := findK k.ports p
/-- R217: the queues that ports name. -/
def boundQueues (ports : Sparse Nat) : List Nat := (List.range 35).filter fun q => ports.any fun p => p.2 == q
def Core.freeEntries (k : Core) : Nat := 128 - (k.queues.map fun q => q.2.length).sum
def State.qlim (s : State) (c q : Nat) : DWord := s.ccr c (fun i => nQLIM i q)
/-- R218: the reservation of a bound queue. -/
def State.reservation (s : State) (c : Nat) (k : Core) (p : Nat) : Nat := dwBits (s.qlim c p) 6 0 - (k.queue p).length
/-- R218: is a push to a queue accepted? -/
def State.pushOk (s : State) (c : Nat) (k : Core) (q : Nat) : Bool :=
  decide ((k.queue q).length < dwBits (s.qlim c q) 15 8) &&
  decide ((((boundQueues k.ports).filter (· != q)).map (s.reservation c k)).sum < k.freeEntries)
/-- R219, R222: are `n` pushes to a queue accepted together? -/
def State.pushesOk (s : State) (c : Nat) : Nat → Core → Nat → Bool
  | 0, _, _ => true
  | n + 1, k, q => s.pushOk c k q && s.pushesOk c n (k.setQueue q (k.queue q ++ [.fifo []])) q
/-- R220: the slot of a lane in a FIFO entry. -/
def QEntry.slot (e : QEntry) (l : Nat) : Word := match e with | .fifo m => getK 0 m l | .cmd .. => 0
/-- R220: an ordinary port operand names a FIFO. -/
def Core.portCause (k : Core) (p : Nat) : Option Nat :=
  match k.portQueue p with | none => some 3 | some q => if 32 ≤ q then some 4 else none

/-! ## Reading sources -/

/-- R42, R43: a special value, or a pair whose halves come from one sample. -/
def State.specialWords (s : State) (l n k : Nat) : List Word := (List.range n).map fun i => s.special l (k + i)

/-- The words of one source in a lane. `k` is the crew with its queues as earlier pops left them, `w` the wave with its
walkers as earlier reads left them. -/
def State.readSrc (s : State) (k : Core) (w : Wave) (l : Nat) (r : SrcReq) : List Word :=
  match r.src.o with
  | .reg b => let t := w.thread l; let b := t.step (fieldOf r.pos) b; (List.range r.n).map fun i => t.reg (b + i)
  | .special n => s.specialWords l r.n n
  | .intc c => intConst r.ty r.n c
  | .fltc c => fltOperand r.ty r.n c
  | .port p => match k.portQueue p with
    | some q => ((k.queue q).take r.n).map fun e => e.slot l
    | none => []
  | .walker i =>
    let wk := w.walker i
    match s.checkWalker wk l rREAD with
    | .ok p _ =>
      if isOwn s.cur.core p then wk.deliver (natOfBytes (s.rdHome p (2 ^ wk.esize)))
      else match wk.buf with
        | m :: _ => wk.deliver ((getK 0 m l).toNat)
        | [] => []
    | _ => []
/-- R63: what the appearance of a source takes: queue entries or a walker position. -/
def consume (k : Core) (w : Wave) (r : SrcReq) : Core × Wave :=
  match r.src.o with
  | .port p => match k.portQueue p with
    | some q => (k.setQueue q ((k.queue q).drop r.n), w)
    | none => (k, w)
  | .walker i => (k, w.modWalker i Walker.advance)
  | _ => (k, w)

/-- What keeps an instruction from issuing, or lets it issue: `stop` with the state after faults or blocking, `go` with the
state before and after its pops and walker reads, and the sources' words of each lane. -/
inductive Prep where
  | stop (s : State)
  | go (s0 s1 : State) (rows : List (Nat × List (List Word)))

/-- Read all sources in order (R63), once for the instruction. -/
def readAll (s : State) (act : List Nat) : Core → Wave → List SrcReq → List (List (List Word)) → Core × Wave × List (List (List Word))
  | k, w, [], acc => (k, w, acc)
  | k, w, r :: rs, acc =>
    let vals := act.map fun l => s.readSrc k w l r
    let (k', w') := consume k w r
    readAll s act k' w' rs (acc ++ [vals])

/-- The walker reads of an instruction, each with the walker as the appearance finds it. -/
def walkerReads : Wave → List SrcReq → List (Nat × Walker)
  | _, [] => []
  | w, r :: rs =>
    match r.src.o with
    | .walker i => (i, w.walker i) :: walkerReads (w.modWalker i Walker.advance) rs
    | _ => walkerReads w rs

/-- R265: the priority number of a fault found where walkers are checked or later: of an access, or of the instruction itself. -/
def accessPrio (code : Nat) : Nat :=
  match code with | 2 => 2 | 0x0E => 5 | 0x10 | 0x12 => 6 | 4 => 7 | 5 => 9 | 6 => 10 | 8 => 11 | _ => 8
/-- R265: of two faults of a lane, the one that is recorded. -/
def worse : Option (Nat × Word × DWord) → Option (Nat × Word × DWord) → Option (Nat × Word × DWord)
  | some a, some b => some (if accessPrio b.1 < accessPrio a.1 then b else a)
  | some a, none => some a
  | none, b => b
/-- R211, R265: the fault a lane's walker accesses take: the one of the lowest priority number, reads first among equals. -/
def State.walkerFault (s : State) (reads : List Walker) (write : Option Walker) (l : Nat) : Option (Nat × Word × DWord) :=
  let one := fun (right : Nat) (w : Walker) => match s.checkWalker w l right with | .bad c f x => some (c, f, x) | _ => none
  worse (reads.foldl (fun f w => worse f (one rREAD w)) none) (write.bind (one rWRITE))

/-- R214: does a lane's walker read miss? DESIGN CHOICE (LOG 17): a read of an element in the own slice never does; the buffer holds
elements fetched from outside it alone, and the example after R215 (a `mov` from an own-slice walker runs on before its row arrives)
is met by any `mov` that does not wait. -/
def State.walkerMiss (s : State) (l : Nat) (w : Walker) : Bool :=
  match s.checkWalker w l rREAD with
  | .ok p _ => !isOwn s.cur.core p && w.lacks l
  | _ => false

/-- R214: the elements that the walker reads of an instruction miss, as (walker, positions ahead, lane). -/
def State.walkerNeeds (s : State) (lanes : List Nat) (reads : List (Nat × Walker)) : List (Nat × Nat × Nat) :=
  (List.range reads.length).flatMap fun j =>
    match reads[j]? with
    | some p => (lanes.filter fun l => s.walkerMiss l p.2).map fun l => (p.1, ((reads.take j).filter fun q => q.1 == p.1).length, l)
    | none => []
/-- The fault of every active lane of BINDING (R211, R220), if any. -/
def bindFault (s : State) (sp : Spec) : Option Word :=
  let k := s.core s.cur.core
  let w := s.wave s.cur.core s.cur.turn
  let one := fun (o : Operand) (n : Nat) => match o with
    | .walker i => ((w.walker i).bindCause n).map fun c => bindInfo c i
    | .port p => (k.portCause p).map fun c => bindInfo c p
    | _ => none
  match sp.srcs.findSome? (fun r => one r.src.o r.n) with
  | some f => some f
  | none => sp.dst.bind fun d => one d.o d.n

/-- R219: the first pop, in operand order, that does not find its entries. -/
def shortPop : Core → List SrcReq → Option SrcReq
  | _, [] => none
  | k, r :: rs =>
    match r.src.o with
    | .port p => match k.portQueue p with
      | some q => if (k.queue q).length < r.n then some r else shortPop (k.setQueue q ((k.queue q).drop r.n)) rs
      | none => shortPop k rs
    | _ => shortPop k rs

/-- R219: the FINFO of the EMPTY fault of a pop whose E bit is set. -/
def SrcReq.emptyPort (r : SrcReq) : Option Word :=
  match r.src.o with
  | .port p => if r.src.e then some (BitVec.ofNat 32 (648 + p + 1024 * r.pos)) else none
  | _ => none
/-- R227: a fault of a "once" instruction is taken in every active lane: the one of the lowest-numbered lane that has it. -/
def everyLane {α : Type} (once : Bool) (lanes : List Nat) (bad : List (Nat × α)) : List (Nat × α) :=
  if once then (match bad with | p :: _ => lanes.map fun l => (l, p.2) | [] => []) else bad
/-- The pops and pushes of an instruction, as (port, entries). -/
def Spec.pops (sp : Spec) : List (Nat × Nat) := sp.srcs.flatMap fun r => match r.src.o with | .port p => [(p, r.n)] | _ => []
def Spec.pushes (sp : Spec) : List (Nat × Nat) := match sp.dst with | some d => (match d.o with | .port p => [(p, d.n)] | _ => []) | none => []

/-- The words of each lane's sources; a source that a walker's fault keeps from being read has none. -/
abbrev LaneWords := List (Nat × List (List Word))
/-- The words of the lowest-numbered lane all of whose sources can be read. -/
def LaneWords.first (all : LaneWords) : Option (List (List Word)) := (all.find? fun p => p.2.all fun v => !v.isEmpty).map (·.2)
/-- What an instruction adds to the checks of its operands: an empty register of a lane that the source fields do not show, by operand
position (R143), and the fault of its own that a lane takes, where a walker operand of the lane faults as well (R265). DEDUCED (LOG 17):
a fault of its own that depends on the value the walker would have given is not found. -/
structure Extra where
  hole : Nat → Option (Nat × Nat) := fun _ => none
  own  : LaneWords → Nat → List (List Word) → Option (Nat × Word × DWord) := fun _ _ _ => none

/-- Steps 1 to 4 of R108 and the BINDING, queue and walker conditions (R198, R211, R214, R219). `mov` says that the
instruction is the A form of `mov` with a register destination, which a walker miss does not hold back. -/
def prep (s : State) (g : Guard) (sp : Spec) (mov : Bool := false) (x : Extra := {}) : Prep :=
  let act := s.active g
  if act = 0 then .stop s.finish
  else match repCause s sp act with
  | some cause => .stop (s.undefined act (curOpc s) cause).finish
  | none =>
  match operandFault s sp act with
  | some (code, info) => .stop (s.takeFaults act code info).finish
  | none =>
  let lanes := act.lanes
  let waits := lanes.flatMap fun l => (sp.srcs.filter fun r => !r.src.e).flatMap fun r => (r.emptyRegs (s.curThread l)).map fun x => (l, x)
  if !waits.isEmpty then .stop (s.block .blockedEmpty (.regs waits))
  else
  let bad := lanes.filterMap fun l => ((x.hole l).or (sp.srcs.findSome? fun r => (r.emptyRegs (s.curThread l)).head?.map fun x => (r.pos, x))).map fun p => (l, p)
  let bad := everyLane sp.once lanes bad
  let s0 := bad.foldl (fun s p => s.takeFault p.1 3 (BitVec.ofNat 32 (p.2.2 + 1024 * p.2.1))) s
  let lanes := lanes.filter fun l => !(bad.any fun p => p.1 == l)
  if lanes.isEmpty then .stop s0.finish
  else
  let k := s.core s.cur.core
  let w := s.wave s.cur.core s.cur.turn
  let short := shortPop k sp.srcs
  match short.bind SrcReq.emptyPort with
  | some info => .stop (s0.takeFaults (Mask.ofLanes lanes) 3 info).finish
  | none =>
  match bindFault s sp with
  | some info => .stop (s0.takeFaults (Mask.ofLanes lanes) 0x0E info).finish
  | none =>
  if short.isSome then .stop (s.block .blockedQueue (.ports sp.pops sp.pushes))
  else
  let reads := walkerReads w sp.srcs
  if !mov && !(s.walkerNeeds lanes reads).isEmpty then .stop (s.block .blockedEmpty (.walker (s.walkerNeeds lanes reads)))
  else
  let (k1, w1, vals) := readAll s lanes k w sp.srcs []
  let room := sp.pushes.all fun p => match k1.portQueue p.1 with | some q => s.pushesOk s.cur.core p.2 k1 q | none => false
  if !room then .stop (s.block .blockedQueue (.ports sp.pops sp.pushes))
  else
  let dw := sp.dst.bind fun d => match d.o with | .walker i => some (w1.walker i) | _ => none
  let all : LaneWords := (lanes.zip (List.range lanes.length)).map fun p => (p.1, vals.map fun v => v.getD p.2 [])
  let wf := everyLane sp.once lanes (all.filterMap fun p =>
    (s.walkerFault (reads.map (·.2)) dw p.1).map fun f => (p.1, (worse (some f) (x.own all p.1 p.2)).getD f))
  let s0 := wf.foldl (fun s p => s.takeFault p.1 p.2.1 p.2.2.1 p.2.2.2) s0
  let rows := (lanes.zip (List.range lanes.length)).filterMap fun p =>
    if wf.any (fun f => f.1 == p.1) then none else some (p.1, vals.map fun v => v.getD p.2 [])
  if rows.isEmpty then .stop s0.finish
  else
    let s1 := s0.modCore s.cur.core fun c => { c with queues := k1.queues }
    let s1 := s1.modCurWave fun wv => { wv with walkers := w1.walkers }
    .go s0 s1 rows

/-- Register D of a lane in this issue. -/
def State.dstReg (s : State) (l r : Nat) : Nat := (s.curThread l).step 0 r

/-- Write a destination in the lanes given: registers (R22), a walker's position (R210), a queue port (R220) or nothing. -/
def State.writeDst (s : State) (d : DstReq) (outs : List (Nat × List Word)) : State :=
  if outs.isEmpty then s
  else match d.o with
  | .reg r => outs.foldl (fun s p => s.modLane p.1 fun t => t.setRegs (t.step 0 r) p.2) s
  | .port p =>
    match (s.core s.cur.core).portQueue p with
    | some q =>
      let ents := (List.range d.n).map fun i => QEntry.fifo (outs.foldl (fun m o => putK 0 m o.1 (o.2.getD i 0)) [])
      s.modCore s.cur.core fun k => k.setQueue q (k.queue q ++ ents)
    | none => s
  | .walker i =>
    let w := (s.wave s.cur.core s.cur.turn).walker i
    let n := 2 ^ w.esize
    let s := outs.foldl (fun s p =>
      match s.checkWalker w p.1 rWRITE with
      | .ok pl _ => s.issueStore p.1 pl n (natOfWords p.2 % 2 ^ (8 * n)) .data false none
      | _ => s) s
    s.modCurWave fun wv => wv.modWalker i Walker.advance
  | _ => s

/-- The frame of an ordinary instruction: the body gives each lane the words of D and the flags it raises, reading the state
as earlier lanes left it (only the generators of R100 change). -/
def laneOp (s : State) (g : Guard) (sp : Spec) (body : State → Nat → List (List Word) → State × List Word × Flags) : State :=
  match prep s g sp with
  | .stop s => s
  | .go _ s1 rows =>
    let r := rows.foldl (fun (a : State × List (Nat × List Word) × Flags) p =>
      let b := body a.1 p.1 p.2
      (b.1, a.2.1 ++ [(p.1, b.2.1)], a.2.2 ||| b.2.2)) (s1, [], 0)
    let s := match sp.dst with | some d => r.1.writeDst d r.2.1 | none => r.1
    (s.curFlags r.2.2).finish

/-- The frame for a body that reads nothing but its operands. -/
def pureOp (s : State) (g : Guard) (sp : Spec) (f : List (List Word) → List Word × Flags) : State :=
  laneOp s g sp fun s _ vs => (s, f vs)

/-- The frame of an instruction that acts once, with the words of the lowest-numbered active lane (R34). DESIGN CHOICE (LOG 11):
where that lane takes an EMPTY or a walker fault, the words are those of the lowest-numbered lane that takes none. -/
def onceOp (s : State) (g : Guard) (sp : Spec) (body : State → List Nat → List (List Word) → State) : State :=
  match prep s g sp with
  | .stop s => s
  | .go _ s1 rows =>
    match rows with
    | [] => s1.finish
    | r :: _ => (body s1 (rows.map (·.1)) r.2).finish

/-- The n-th word of the i-th source. -/
def wordAt (vs : List (List Word)) (i n : Nat) : Word := (vs.getD i []).getD n 0
/-- The i-th source as a 64-bit pair. -/
def pairAt (vs : List (List Word)) (i : Nat) : DWord := pairOf (wordAt vs i 0) (wordAt vs i 1)

end Sys2Proof.Machine
end

