-- ==== Sys2Proof/Machine/Int.lean ====
section
/-! DEFINITION. Integer and address instructions (R109 to R123). -/

namespace Sys2Proof.Machine

/-- R109: the width of an element, the elements of an operand and its registers. -/
def tyWidth (ty : IntTy) : Nat := match ty.wid.toNat with | 0 => 32 | 1 => 64 | 2 => 16 | _ => 8
def tyCount (ty : IntTy) : Nat := match ty.wid.toNat with | 0 => 1 | 1 => 1 | 2 => 2 | _ => 4
def tyRegs (ty : IntTy) : Nat := if ty.wid = 1 then 2 else 1
def tyOpnd (ty : IntTy) : Ty := if ty.wid.toNat < 2 then .int else .pk (tyWidth ty)
/-- Element `i` of width `w` of an operand's value (R88). -/
def elemAt (w i v : Nat) : Nat := v / 2 ^ (w * i) % 2 ^ w
/-- R111: an element as an exact integer. -/
def elemInt (uns : Bool) (w x : Nat) : Int := if uns then (x : Int) else (BitVec.ofNat w x).toInt
/-- R111: the element result of an exact integer. -/
def elemRes (ty : IntTy) (x : Int) : Nat × Flags :=
  let w := tyWidth ty
  let lo : Int := if ty.uns then 0 else -((2 ^ (w - 1) : Nat) : Int)
  let hi : Int := if ty.uns then (2 ^ w : Nat) - 1 else (2 ^ (w - 1) : Nat) - 1
  if ty.sat then
    let y := if x < lo then lo else if hi < x then hi else x
    ((y % (2 ^ w : Int)).toNat, satFlag (decide (y ≠ x)))
  else ((x % (2 ^ w : Int)).toNat, 0)

/-- An element-by-element instruction (R88): `f` gives an element's result from the operands' elements. -/
def elemwise (ty : IntTy) (f : List Nat → Nat × Flags) (vs : List (List Word)) : List Word × Flags :=
  let vals := vs.map natOfWords
  let w := tyWidth ty
  let r := (List.range (tyCount ty)).foldl (fun (a : Nat × Flags) i =>
    let e := f (vals.map (elemAt w i))
    (a.1 + e.1 % 2 ^ w * 2 ^ (w * i), a.2 ||| e.2)) (0, 0)
  (wordsOf (tyRegs ty) r.1, r.2)
/-- R111: an arithmetic instruction, by its exact result. -/
def arith (ty : IntTy) (f : List Int → Int) : List (List Word) → List Word × Flags :=
  elemwise ty fun es => elemRes ty (f (es.map (elemInt ty.uns (tyWidth ty))))

/-- The source and destination forms of R112. -/
def tySrc (ty : IntTy) (pos : Nat) (s : Src) : SrcReq := { pos, src := s, n := tyRegs ty, al := tyRegs ty, ty := tyOpnd ty }
def tyDst (ty : IntTy) (d : Operand) : DstReq := { o := d, n := tyRegs ty, al := tyRegs ty }
def spec1 (ty : IntTy) (d : Operand) (a : Src) : Spec := { srcs := [tySrc ty 0 a], dst := some (tyDst ty d), rep := true }
def spec2 (ty : IntTy) (d : Operand) (a b : Src) : Spec := { srcs := [tySrc ty 0 a, tySrc ty 1 b], dst := some (tyDst ty d), rep := true }
def spec3 (ty : IntTy) (d : Operand) (a b c : Src) : Spec :=
  { srcs := [tySrc ty 0 a, tySrc ty 1 b, tySrc ty 2 c], dst := some (tyDst ty d), rep := true }
/-- A B form: `rep` does not repeat it (R138). -/
def specB (ty : IntTy) (d : Operand) (a : Src) : Spec := { srcs := [tySrc ty 0 a], dst := some (tyDst ty d) }

/-- R110: the immediate in place of S2. -/
def immVal : Imm → DWord
  | .short v => v.signExtend 64
  | .long v => v
def immWords (ty : IntTy) (i : Imm) : List Word :=
  let v := (immVal i).toNat
  if ty.wid.toNat < 2 then wordsOf (tyRegs ty) (v % 2 ^ tyWidth ty) else [splat (tyWidth ty) v]

def arg (es : List Int) (i : Nat) : Int := es.getD i 0

def addX (es : List Int) : Int := arg es 0 + arg es 1
def subX (es : List Int) : Int := arg es 0 - arg es 1
def mulX (es : List Int) : Int := arg es 0 * arg es 1
def madX (es : List Int) : Int := arg es 0 * arg es 1 + arg es 2
def minX (es : List Int) : Int := if arg es 0 ≤ arg es 1 then arg es 0 else arg es 1
def maxX (es : List Int) : Int := if arg es 0 ≤ arg es 1 then arg es 1 else arg es 0

def execAdd (g : Guard) (ty : IntTy) (d : Operand) (a b : Src) (s : State) : Host.Outcome State Fault Refusal :=
  .next (pureOp s g (spec2 ty d a b) (arith ty addX))
def execAddImm (g : Guard) (ty : IntTy) (d : Operand) (a : Src) (i : Imm) (s : State) : Host.Outcome State Fault Refusal :=
  .next (pureOp s g (specB ty d a) fun vs => arith ty addX (vs ++ [immWords ty i]))
def execSub (g : Guard) (ty : IntTy) (d : Operand) (a b : Src) (s : State) : Host.Outcome State Fault Refusal :=
  .next (pureOp s g (spec2 ty d a b) (arith ty subX))
def execSubImm (g : Guard) (ty : IntTy) (d : Operand) (a : Src) (i : Imm) (s : State) : Host.Outcome State Fault Refusal :=
  .next (pureOp s g (specB ty d a) fun vs => arith ty subX (vs ++ [immWords ty i]))
def execMul (g : Guard) (ty : IntTy) (d : Operand) (a b : Src) (s : State) : Host.Outcome State Fault Refusal :=
  .next (pureOp s g (spec2 ty d a b) (arith ty mulX))
def execMulImm (g : Guard) (ty : IntTy) (d : Operand) (a : Src) (i : Imm) (s : State) : Host.Outcome State Fault Refusal :=
  .next (pureOp s g (specB ty d a) fun vs => arith ty mulX (vs ++ [immWords ty i]))
/-- R113: floor(a × b / 2^w). -/
def execMulhi (g : Guard) (ty : IntTy) (d : Operand) (a b : Src) (s : State) : Host.Outcome State Fault Refusal :=
  .next (pureOp s g (spec2 ty d a b) (arith ty fun es => mulX es / (2 ^ tyWidth ty : Int)))
def execMad (g : Guard) (ty : IntTy) (d : Operand) (a b c : Src) (s : State) : Host.Outcome State Fault Refusal :=
  .next (pureOp s g (spec3 ty d a b c) (arith ty madX))

/-- R114: quotient and remainder; the flag is DZ. -/
def divRem (uns : Bool) (w : Nat) (a b : Int) : Int × Int × Flags :=
  if b = 0 then
    (if uns then (2 ^ w : Int) - 1 else if 0 ≤ a then (2 ^ (w - 1) : Int) - 1 else -(2 ^ (w - 1) : Int), a, Flags.dz)
  else (a.tdiv b, a - b * a.tdiv b, 0)
def execDiv (g : Guard) (ty : IntTy) (d : Operand) (a b : Src) (s : State) : Host.Outcome State Fault Refusal :=
  .next (pureOp s g (spec2 ty d a b) (elemwise ty fun es =>
    let xs := es.map (elemInt ty.uns (tyWidth ty))
    let r := divRem ty.uns (tyWidth ty) (arg xs 0) (arg xs 1)
    let q := elemRes ty r.1
    (q.1, q.2 ||| r.2.2)))
def execRem (g : Guard) (ty : IntTy) (d : Operand) (a b : Src) (s : State) : Host.Outcome State Fault Refusal :=
  .next (pureOp s g (spec2 ty d a b) (elemwise ty fun es =>
    let xs := es.map (elemInt ty.uns (tyWidth ty))
    let r := divRem ty.uns (tyWidth ty) (arg xs 0) (arg xs 1)
    ((r.2.1 % (2 ^ tyWidth ty : Int)).toNat, r.2.2)))

def execNeg (g : Guard) (ty : IntTy) (d : Operand) (a : Src) (s : State) : Host.Outcome State Fault Refusal :=
  .next (pureOp s g (spec1 ty d a) (arith ty fun es => -arg es 0))
def execAbs (g : Guard) (ty : IntTy) (d : Operand) (a : Src) (s : State) : Host.Outcome State Fault Refusal :=
  .next (pureOp s g (spec1 ty d a) (arith ty fun es => ((arg es 0).natAbs : Int)))
def execMin (g : Guard) (ty : IntTy) (d : Operand) (a b : Src) (s : State) : Host.Outcome State Fault Refusal :=
  .next (pureOp s g (spec2 ty d a b) (arith ty minX))
def execMinImm (g : Guard) (ty : IntTy) (d : Operand) (a : Src) (i : Imm) (s : State) : Host.Outcome State Fault Refusal :=
  .next (pureOp s g (specB ty d a) fun vs => arith ty minX (vs ++ [immWords ty i]))
def execMax (g : Guard) (ty : IntTy) (d : Operand) (a b : Src) (s : State) : Host.Outcome State Fault Refusal :=
  .next (pureOp s g (spec2 ty d a b) (arith ty maxX))
def execMaxImm (g : Guard) (ty : IntTy) (d : Operand) (a : Src) (i : Imm) (s : State) : Host.Outcome State Fault Refusal :=
  .next (pureOp s g (specB ty d a) fun vs => arith ty maxX (vs ++ [immWords ty i]))

/-- R115: bit by bit over the whole operand. -/
def bitwise (f : Nat → Nat → Nat) (ty : IntTy) (vs : List (List Word)) : List Word × Flags :=
  (wordsOf (tyRegs ty) (f (natOfWords (vs.getD 0 [])) (natOfWords (vs.getD 1 []))), 0)
/-- R115: S1 AND NOT S2 over the whole operand. -/
def andnN (x y : Nat) : Nat := x ^^^ (x &&& y)
def execAnd (g : Guard) (ty : IntTy) (d : Operand) (a b : Src) (s : State) : Host.Outcome State Fault Refusal :=
  .next (pureOp s g (spec2 ty d a b) (bitwise (· &&& ·) ty))
def execAndImm (g : Guard) (ty : IntTy) (d : Operand) (a : Src) (i : Imm) (s : State) : Host.Outcome State Fault Refusal :=
  .next (pureOp s g (specB ty d a) fun vs => bitwise (· &&& ·) ty (vs ++ [immWords ty i]))
def execOr (g : Guard) (ty : IntTy) (d : Operand) (a b : Src) (s : State) : Host.Outcome State Fault Refusal :=
  .next (pureOp s g (spec2 ty d a b) (bitwise (· ||| ·) ty))
def execOrImm (g : Guard) (ty : IntTy) (d : Operand) (a : Src) (i : Imm) (s : State) : Host.Outcome State Fault Refusal :=
  .next (pureOp s g (specB ty d a) fun vs => bitwise (· ||| ·) ty (vs ++ [immWords ty i]))
def execXor (g : Guard) (ty : IntTy) (d : Operand) (a b : Src) (s : State) : Host.Outcome State Fault Refusal :=
  .next (pureOp s g (spec2 ty d a b) (bitwise (· ^^^ ·) ty))
def execXorImm (g : Guard) (ty : IntTy) (d : Operand) (a : Src) (i : Imm) (s : State) : Host.Outcome State Fault Refusal :=
  .next (pureOp s g (specB ty d a) fun vs => bitwise (· ^^^ ·) ty (vs ++ [immWords ty i]))
def execAndn (g : Guard) (ty : IntTy) (d : Operand) (a b : Src) (s : State) : Host.Outcome State Fault Refusal :=
  .next (pureOp s g (spec2 ty d a b) (bitwise andnN ty))
def execNot (g : Guard) (ty : IntTy) (d : Operand) (a : Src) (s : State) : Host.Outcome State Fault Refusal :=
  .next (pureOp s g (spec1 ty d a) (bitwise (fun x _ => 2 ^ (32 * tyRegs ty) - 1 - x % 2 ^ (32 * tyRegs ty)) ty))

/-- R116: a × 2^n, where amounts of the width or more need not be formed exactly. -/
def shlX (w : Nat) (a : Int) (n : Nat) : Int := a * (2 ^ Nat.min n (2 * w) : Nat)
def execShl (g : Guard) (ty : IntTy) (d : Operand) (a b : Src) (s : State) : Host.Outcome State Fault Refusal :=
  .next (pureOp s g (spec2 ty d a b) (elemwise ty fun es =>
    elemRes ty (shlX (tyWidth ty) (elemInt ty.uns (tyWidth ty) (es.getD 0 0)) (es.getD 1 0))))
/-- R116: floor(a / 2^n). -/
def execShr (g : Guard) (ty : IntTy) (d : Operand) (a b : Src) (s : State) : Host.Outcome State Fault Refusal :=
  .next (pureOp s g (spec2 ty d a b) (elemwise ty fun es =>
    elemRes ty (elemInt ty.uns (tyWidth ty) (es.getD 0 0) / ((2 ^ Nat.min (es.getD 1 0) (tyWidth ty) : Nat) : Int))))
def rotN (w x n : Nat) : Nat := x * 2 ^ (n % w) % 2 ^ w + x / 2 ^ (w - n % w)
def execRot (g : Guard) (ty : IntTy) (d : Operand) (a b : Src) (s : State) : Host.Outcome State Fault Refusal :=
  .next (pureOp s g (spec2 ty d a b) (elemwise ty fun es => (rotN (tyWidth ty) (es.getD 0 0) (es.getD 1 0), 0)))

/-- R117: the field of a value, extended. -/
def bextN (uns : Bool) (w x pl : Nat) : Nat :=
  let p := pl % 256
  let len := pl / 256 % 256
  let v := x / 2 ^ p % 2 ^ len
  if len = 0 then 0
  else if uns ∨ v < 2 ^ (len - 1) then v % 2 ^ w
  else (((v : Int) - (2 ^ len : Nat)) % (2 ^ w : Int)).toNat
def execBext (g : Guard) (ty : IntTy) (d : Operand) (a b : Src) (s : State) : Host.Outcome State Fault Refusal :=
  .next (pureOp s g (spec2 ty d a b) (elemwise ty fun es => (bextN ty.uns (tyWidth ty) (es.getD 0 0) (es.getD 1 0), 0)))
/-- R117: a field of the first value replaced by the low bits of the second. -/
def binsN (w x y pl : Nat) : Nat :=
  let p := pl % 256
  let len := pl / 256 % 256
  let m := (2 ^ len - 1) * 2 ^ p % 2 ^ w
  (andnN x m + ((y % 2 ^ len) * 2 ^ p % 2 ^ w)) % 2 ^ w
def execBins (g : Guard) (ty : IntTy) (d : Operand) (a b c : Src) (s : State) : Host.Outcome State Fault Refusal :=
  .next (pureOp s g (spec3 ty d a b c) (elemwise ty fun es => (binsN (tyWidth ty) (es.getD 0 0) (es.getD 1 0) (es.getD 2 0), 0)))

/-- R118: the bit counts of an element. -/
def popcN (w x : Nat) : Nat := ((List.range w).filter x.testBit).length
def clzN (w x : Nat) : Nat := if x = 0 then w else w - 1 - x.log2
def ctzN (w x : Nat) : Nat := ((List.range w).find? x.testBit).getD w
def brevN (w x : Nat) : Nat := (List.range w).foldl (fun a i => a + if x.testBit i then 2 ^ (w - 1 - i) else 0) 0
def count1 (f : Nat → Nat → Nat) (ty : IntTy) : List (List Word) → List Word × Flags :=
  elemwise ty fun es => (f (tyWidth ty) (es.getD 0 0), 0)
def execPopc (g : Guard) (ty : IntTy) (d : Operand) (a : Src) (s : State) : Host.Outcome State Fault Refusal :=
  .next (pureOp s g (spec1 ty d a) (count1 popcN ty))
def execClz (g : Guard) (ty : IntTy) (d : Operand) (a : Src) (s : State) : Host.Outcome State Fault Refusal :=
  .next (pureOp s g (spec1 ty d a) (count1 clzN ty))
def execCtz (g : Guard) (ty : IntTy) (d : Operand) (a : Src) (s : State) : Host.Outcome State Fault Refusal :=
  .next (pureOp s g (spec1 ty d a) (count1 ctzN ty))
def execBrev (g : Guard) (ty : IntTy) (d : Operand) (a : Src) (s : State) : Host.Outcome State Fault Refusal :=
  .next (pureOp s g (spec1 ty d a) (count1 brevN ty))

/-- R119: a condition code. -/
def condHolds (cond : BitVec 3) (a b : Int) : Bool :=
  match cond.toNat with
  | 0 => a == b | 1 => a != b | 2 => decide (a < b) | 3 => decide (a ≤ b) | 4 => decide (b < a) | _ => decide (b ≤ a)
/-- A body that writes a predicate of each lane that issues. -/
def predOp (s : State) (g : Guard) (sp : Spec) (k : BitVec 3) (f : State → Nat → List (List Word) → Bool × Flags) : State :=
  match prep s g sp with
  | .stop s => s
  | .go _ s1 rows =>
    let outs := rows.map fun p => (p.1, f s1 p.1 p.2)
    let s := outs.foldl (fun s o => s.modLane o.1 fun t => t.setPred k o.2.1) s1
    (s.curFlags (outs.foldl (fun a o => a ||| o.2.2) 0)).finish
def cmpVals (ty : IntTy) (cond : BitVec 3) (x y : List Word) : Bool :=
  condHolds cond (elemInt ty.uns (tyWidth ty) (natOfWords x)) (elemInt ty.uns (tyWidth ty) (natOfWords y))
def execCmp (g : Guard) (ty : IntTy) (cond k : BitVec 3) (a b : Src) (s : State) : Host.Outcome State Fault Refusal :=
  .next (predOp s g { srcs := [tySrc ty 0 a, tySrc ty 1 b], rep := true, other := [0] } k fun _ _ vs =>
    (cmpVals ty cond (vs.getD 0 []) (vs.getD 1 []), 0))
def execCmpImm (g : Guard) (ty : IntTy) (cond k : BitVec 3) (a : Src) (i : Imm) (s : State) : Host.Outcome State Fault Refusal :=
  .next (predOp s g { srcs := [tySrc ty 0 a] } k fun _ _ vs => (cmpVals ty cond (vs.getD 0 []) (immWords ty i), 0))

/-- R121, R122: 32-bit operands or pairs. -/
def dblRegs (dbl : Bool) : Nat := if dbl then 2 else 1
def dblSrc (dbl : Bool) (pos : Nat) (a : Src) : SrcReq := { pos, src := a, n := dblRegs dbl, al := dblRegs dbl }
def dblDst (dbl : Bool) (d : Operand) : DstReq := { o := d, n := dblRegs dbl, al := dblRegs dbl }
def execSel (g : Guard) (dbl : Bool) (p : BitVec 3) (d : Operand) (a b : Src) (s : State) : Host.Outcome State Fault Refusal :=
  .next (laneOp s g { srcs := [dblSrc dbl 0 a, dblSrc dbl 1 b], dst := some (dblDst dbl d), rep := true } fun s l vs =>
    (s, if (s.curThread l).pred p then vs.getD 0 [] else vs.getD 1 [], 0))

/-- R20, R214: a missing walker read by the A form of `mov` with a register destination issues as a producer: lanes whose
element lies in the own slice, or has been fetched, write it at once. -/
def movMiss (s : State) (g : Guard) (dbl : Bool) (d : Operand) (a : Src) (i : Nat) : State :=
  match prep s g { srcs := [dblSrc dbl 0 a], dst := some (dblDst dbl d), rep := true } true with
  | .stop s => s
  | .go _ s1 rows =>
    let w := (s.wave s.cur.core s.cur.turn).walker i
    let s := rows.foldl (fun st p =>
      let base := match d with | .reg r => st.dstReg p.1 r | _ => 0
      if s.walkerMiss p.1 w then
        match s.checkWalker w p.1 rREAD with
        | .ok pl _ => st.issueLoad p.1 pl 0 w.sizeCode .plain none ((List.range (dblRegs dbl)).map (base + ·))
        | _ => st
      else st.modLane p.1 fun t => t.setRegs base (p.2.getD 0 [])) s1
    s.finish
def execMov (g : Guard) (dbl : Bool) (d : Operand) (a : Src) (s : State) : Host.Outcome State Fault Refusal :=
  match a.o, d with
  | .walker i, .reg _ => .next (movMiss s g dbl d a i)
  | _, _ => .next (pureOp s g { srcs := [dblSrc dbl 0 a], dst := some (dblDst dbl d), rep := true } fun vs => (vs.getD 0 [], 0))
def execMovImm (g : Guard) (dbl : Bool) (d : Operand) (i : Imm) (s : State) : Host.Outcome State Fault Refusal :=
  .next (pureOp s g { dst := some (dblDst dbl d) } fun _ => (wordsOf (dblRegs dbl) (immVal i).toNat, 0))

/-- R123: the address a memory operand names. -/
def leaVal (s : State) (m : MemOp) (idx : List Word) : Nat :=
  let i : Int := (natOfWords idx : Nat)
  let c := s.cur.core
  match m.mode with
  | .slot => ((i + dispVal m.disp) % (2 ^ 64 : Int)).toNat
  | .sp => (((ownAddr c 0 : Nat) + i + dispVal m.disp) % (2 ^ 48 : Int)).toNat
  | .sa => ((i % (2 ^ 48 : Int) + dispVal m.disp) % (2 ^ 48 : Int)).toNat
  | .pw => (((dwBits (s.ccr c fun x => nPWIN x m.slot.toNat 0) 47 0 : Nat) + i + dispVal m.disp) % (2 ^ 48 : Int)).toNat
/-- The index source of a memory operand. -/
def idxSrc (m : MemOp) : SrcReq := { pos := 0, src := m.idx, n := idxRegs m, al := idxRegs m }
def execLea (g : Guard) (d : Operand) (m : MemOp) (s : State) : Host.Outcome State Fault Refusal :=
  .next (laneOp s g { srcs := [idxSrc m], dst := some { o := d, n := 2, al := 2 } } fun s _ vs =>
    (s, wordsOf 2 (leaVal s m (vs.getD 0 [])), 0))

end Sys2Proof.Machine
end

