-- ==== Sys2Proof/Machine/Float.lean ====
section
/-! DEFINITION. Floating-point, conversion and sticky-flag instructions (R141 to R168). -/

namespace Sys2Proof.Machine

/-! ## Types and modifiers (R141, R142) -/

/-- R141: the format of a floating type, its width and how a constant is read as it. -/
def ftFmt (ft : BitVec 2) : Fmt := match ft.toNat with | 0 => .f32 | 1 => .bf16 | _ => .f16
def fmtTy (f : Fmt) : Ty := match f with | .ieee 8 23 => .f32 | .int w _ => if w = 16 then .pk 16 else .int | f => .pk16 f
/-- R142: the rounding of an instruction. -/
def rndOf (x : Option Modx) : Rnd := match x with | none => {} | some m => { mode := m.round, ftz := m.ftz, inf := m.inf }
/-- R98: an element's value as an instruction reads it. -/
def readF (f : Fmt) (r : Rnd) (c : Nat) : FVal := f.flushIn r.ftz (f.decode c)
/-- R97, R98: an element's value as a conversion to `df` reads it: a negative value is not flushed where `df` is unsigned. -/
def readTo (df f : Fmt) (r : Rnd) (c : Nat) : FVal :=
  match f.decode c with
  | .fin x => if x.isNeg && (match df with | .int _ uns => uns | _ => !df.hasSign) then .fin x else readF f r c
  | _ => readF f r c

/-- Elements of width `w` of a range's words, ascending (R156). -/
def elemsOf (w n : Nat) (ws : List Word) : List Nat := let v := natOfWords ws; (List.range n).map fun i => elemAt w i v
/-- Elements of width `w` packed into a range of `n` registers. -/
def packElems (w n : Nat) (es : List Nat) : List Word :=
  wordsOf n ((List.range es.length).foldl (fun a i => a + es.getD i 0 % 2 ^ w * 2 ^ (w * i)) 0)
def resFlags (rs : List Res) : Flags := rs.foldl (fun a r => a ||| r.fl) 0

/-- An instruction on the elements of one-register operands (R88, R144): `f` maps the codes of an element. -/
def elemF (f : Fmt) (op : List Nat → Res) (vs : List (List Word)) : List Word × Flags :=
  let n := 32 / f.width
  let cols := vs.map (elemsOf f.width n)
  let rs := (List.range n).map fun i => op (cols.map fun c => c.getD i 0)
  (packElems f.width 1 (rs.map (·.code)), resFlags rs)
def fltSrc (f : Fmt) (pos : Nat) (s : Src) : SrcReq := { pos, src := s, ty := fmtTy f }
def fltSpec (f : Fmt) (d : Operand) (srcs : List Src) : Spec :=
  { srcs := (srcs.zip (List.range 3)).map fun p => fltSrc f p.2 p.1, dst := some { o := d }, rep := true }
def codeAt (es : List Nat) (i : Nat) : Nat := es.getD i 0

/-! ## Arithmetic (R146 to R149) -/

def execFadd (g : Guard) (ft : BitVec 2) (d : Operand) (a b : Src) (x : Option Modx) (s : State) : Host.Outcome State Fault Refusal :=
  let f := ftFmt ft; let r := rndOf x
  .next (pureOp s g (fltSpec f d [a, b]) (elemF f fun es => addF f r (readF f r (codeAt es 0)) (readF f r (codeAt es 1))))
def execFsub (g : Guard) (ft : BitVec 2) (d : Operand) (a b : Src) (x : Option Modx) (s : State) : Host.Outcome State Fault Refusal :=
  let f := ftFmt ft; let r := rndOf x
  .next (pureOp s g (fltSpec f d [a, b]) (elemF f fun es => addF f r (readF f r (codeAt es 0)) (readF f r (codeAt es 1)).neg))
def execFmul (g : Guard) (ft : BitVec 2) (d : Operand) (a b : Src) (x : Option Modx) (s : State) : Host.Outcome State Fault Refusal :=
  let f := ftFmt ft; let r := rndOf x
  .next (pureOp s g (fltSpec f d [a, b]) (elemF f fun es => mulF f r (readF f r (codeAt es 0)) (readF f r (codeAt es 1))))
def execFma (g : Guard) (ft : BitVec 2) (np nc : Bool) (d : Operand) (a b c : Src) (x : Option Modx) (s : State) : Host.Outcome State Fault Refusal :=
  let f := ftFmt ft; let r := rndOf x
  .next (pureOp s g (fltSpec f d [a, b, c]) (elemF f fun es =>
    fmaF f r np nc (readF f r (codeAt es 0)) (readF f r (codeAt es 1)) (readF f r (codeAt es 2))))
def execFdiv (g : Guard) (d : Operand) (a b : Src) (x : Option Modx) (s : State) : Host.Outcome State Fault Refusal :=
  let r := rndOf x
  .next (pureOp s g (fltSpec .f32 d [a, b]) (elemF .f32 fun es => divF .f32 r (readF .f32 r (codeAt es 0)) (readF .f32 r (codeAt es 1))))
def execFsqrt (g : Guard) (d : Operand) (a : Src) (x : Option Modx) (s : State) : Host.Outcome State Fault Refusal :=
  let r := rndOf x
  .next (pureOp s g (fltSpec .f32 d [a]) (elemF .f32 fun es => sqrtF .f32 r (readF .f32 r (codeAt es 0))))
/-- R148: only the sign bit changes. -/
def fnegCode (f : Fmt) (c : Nat) : Res := { code := if f.signBit ≤ c then c - f.signBit else c + f.signBit, fl := 0 }
def fabsCode (f : Fmt) (c : Nat) : Res := { code := c % f.signBit, fl := 0 }
def execFneg (g : Guard) (ft : BitVec 2) (d : Operand) (a : Src) (s : State) : Host.Outcome State Fault Refusal :=
  .next (pureOp s g (fltSpec (ftFmt ft) d [a]) (elemF (ftFmt ft) fun es => fnegCode (ftFmt ft) (codeAt es 0)))
def execFabs (g : Guard) (ft : BitVec 2) (d : Operand) (a : Src) (s : State) : Host.Outcome State Fault Refusal :=
  .next (pureOp s g (fltSpec (ftFmt ft) d [a]) (elemF (ftFmt ft) fun es => fabsCode (ftFmt ft) (codeAt es 0)))
/-- R149: R103 and R104 in each element. -/
def minMaxOp (s : State) (g : Guard) (ft : BitVec 2) (mx prop : Bool) (d : Operand) (a b : Src) : State :=
  pureOp s g (fltSpec (ftFmt ft) d [a, b]) (elemF (ftFmt ft) fun es => minMaxF (ftFmt ft) mx prop (codeAt es 0) (codeAt es 1))
def execFmin (g : Guard) (ft : BitVec 2) (d : Operand) (a b : Src) (s : State) : Host.Outcome State Fault Refusal :=
  .next (minMaxOp s g ft false false d a b)
def execFmax (g : Guard) (ft : BitVec 2) (d : Operand) (a b : Src) (s : State) : Host.Outcome State Fault Refusal :=
  .next (minMaxOp s g ft true false d a b)
def execFminp (g : Guard) (ft : BitVec 2) (d : Operand) (a b : Src) (s : State) : Host.Outcome State Fault Refusal :=
  .next (minMaxOp s g ft false true d a b)
def execFmaxp (g : Guard) (ft : BitVec 2) (d : Operand) (a b : Src) (s : State) : Host.Outcome State Fault Refusal :=
  .next (minMaxOp s g ft true true d a b)

/-! ## Compare and classify (R150, R151) -/

def fcmpHolds (cond : BitVec 3) (a b : FVal) : Bool :=
  let un := a.isNan || b.isNan
  match cond.toNat with
  | 0 => eqV a b
  | 1 => un || !eqV a b
  | 2 => ltV false a b
  | 3 => ltV false a b || eqV a b
  | 4 => ltV false b a
  | 5 => ltV false b a || eqV a b
  | 6 => un
  | _ => !un
def execFcmp (g : Guard) (cond k : BitVec 3) (a b : Src) (x : Option Modx) (s : State) : Host.Outcome State Fault Refusal :=
  .next (predOp s g { srcs := [fltSrc .f32 0 a, fltSrc .f32 1 b], rep := true, other := [0] } k fun _ _ vs =>
    let r := rndOf x
    let p := readF .f32 r (wordAt vs 0 0).toNat
    let q := readF .f32 r (wordAt vs 1 0).toNat
    (fcmpHolds cond p q, if p.isSnan || q.isSnan then Flags.inv else 0))
/-- R151: the class of a code. -/
def fclassBit (f : Fmt) (c : Nat) : Nat :=
  match f.decode c with
  | .nan true => 8 | .nan false => 9
  | .inf true => 0 | .inf false => 7
  | .zero true => 3 | .zero false => 4
  | .fin x => let sub := decide (x.log2 < f.emin); if x.isNeg then (if sub then 2 else 1) else (if sub then 5 else 6)
def execFclass (g : Guard) (ft : BitVec 2) (d : Operand) (a : Src) (s : State) : Host.Outcome State Fault Refusal :=
  let f := ftFmt ft
  .next (pureOp s g (fltSpec f d [a]) fun vs =>
    (packElems f.width 1 ((elemsOf f.width (32 / f.width) (vs.getD 0 [])).map fun c => 2 ^ fclassBit f c), 0))

/-! ## Approximate functions (R152) -/

/-- R152: a packed form widens exactly, applies the f32 function and converts back with RNE. -/
def approxElem (fn : Approx) (f : Fmt) (r : Rnd) (c : Nat) : Res :=
  match f with
  | .ieee 8 23 => approxF32 fn r.ftz r.inf (BitVec.ofNat 32 c)
  | _ =>
    let v := readF f r c
    let w : Word := match v with
      | .nan true => 0x7F800001
      | v => BitVec.ofNat 32 (Fmt.f32.conv Rnd.rne v).code
    let y := approxF32 fn r.ftz r.inf w
    let z := f.conv { r with mode := .rne } (Fmt.f32.decode y.code)
    { code := z.code, fl := y.fl ||| z.fl }
def approxOp (fn : Approx) (s : State) (g : Guard) (ft : BitVec 2) (d : Operand) (a : Src) (x : Option Modx) : State :=
  pureOp s g (fltSpec (ftFmt ft) d [a]) (elemF (ftFmt ft) fun es => approxElem fn (ftFmt ft) (rndOf x) (codeAt es 0))
def execFrcp (g : Guard) (ft : BitVec 2) (d : Operand) (a : Src) (x : Option Modx) (s : State) : Host.Outcome State Fault Refusal :=
  .next (approxOp .rcp s g ft d a x)
def execFrsq (g : Guard) (ft : BitVec 2) (d : Operand) (a : Src) (x : Option Modx) (s : State) : Host.Outcome State Fault Refusal :=
  .next (approxOp .rsq s g ft d a x)
def execFexp2 (g : Guard) (ft : BitVec 2) (d : Operand) (a : Src) (x : Option Modx) (s : State) : Host.Outcome State Fault Refusal :=
  .next (approxOp .exp2 s g ft d a x)
def execFlog2 (g : Guard) (ft : BitVec 2) (d : Operand) (a : Src) (x : Option Modx) (s : State) : Host.Outcome State Fault Refusal :=
  .next (approxOp .log2 s g ft d a x)
def execFsinpi (g : Guard) (ft : BitVec 2) (d : Operand) (a : Src) (x : Option Modx) (s : State) : Host.Outcome State Fault Refusal :=
  .next (approxOp .sinpi s g ft d a x)
def execFcospi (g : Guard) (ft : BitVec 2) (d : Operand) (a : Src) (x : Option Modx) (s : State) : Host.Outcome State Fault Refusal :=
  .next (approxOp .cospi s g ft d a x)
def execFtanh (g : Guard) (ft : BitVec 2) (d : Operand) (a : Src) (x : Option Modx) (s : State) : Host.Outcome State Fault Refusal :=
  .next (approxOp .tanh s g ft d a x)

/-! ## Conversions (R155 to R159) -/

/-- R155: the type codes. -/
def cvtFmt (t : BitVec 4) : Fmt :=
  match t.toNat with
  | 0 => .f32 | 1 => .bf16 | 2 => .f16 | 3 => .int 16 false | 4 => .int 16 true | 5 => .int 32 false | 6 => .int 32 true
  | 7 => .int 64 false | _ => .int 64 true
def cvtAl (t : BitVec 4) : Nat := if cvtWidth t = 64 then 2 else 1
def execCvt (g : Guard) (dt st : BitVec 4) (d : Operand) (a : Src) (x : Option Modx) (s : State) : Host.Outcome State Fault Refusal :=
  let n := cvtCount (cvtWidth st) (cvtWidth dt)
  let df := cvtFmt dt
  let sf := cvtFmt st
  let r := rndOf x
  .next (pureOp s g
    { srcs := [{ pos := 0, src := a, n := cvtRegs n (cvtWidth st), al := cvtAl st, ty := fmtTy sf }]
      dst := some { o := d, n := cvtRegs n (cvtWidth dt), al := cvtAl dt }, rep := true, other := [3] } fun vs =>
    let rs := (elemsOf (cvtWidth st) n (vs.getD 0 [])).map fun c => df.conv r (readTo df sf r c)
    (packElems (cvtWidth dt) (cvtRegs n (cvtWidth dt)) (rs.map (·.code)), resFlags rs))

/-- R157, R158: registers of `w`-bit elements that the format of a tag in S2 fixes: one when it is not narrow. -/
def tagRegs (w : Nat) (tag : Word) : Nat :=
  match narrowFmt (tag.extractLsb' 0 8) with | some f => 32 / f.width * w / 32 | none => 1
/-- R143: the registers of the long range of `cvtn` or `cvtw` in a lane: by the lane's own tag, or for a tag that only
reading S2 shows, those of a 4-bit format. -/
def State.tagRange (s : State) (l w : Nat) (b : Src) : Nat :=
  match b.o with
  | .walker _ | .port _ => 8 * w / 32
  | .reg r => let t := s.curThread l
    if t.isEmpty (t.step 2 r) then 1 else tagRegs w (t.reg (t.step 2 r))
  | _ => tagRegs w ((s.readSrc (s.core s.cur.core) (s.wave s.cur.core s.cur.turn) l { pos := 1, src := b }).headD 0)

/-- R143: `cvtn` and `cvtw`, whose long range, at field `field` from register `base`, depends on the lane's tag. `e` is the E
bit of a long source range, and none for a destination. The body gives a lane's words of D. -/
def tagOp (s : State) (g : Guard) (sp : Spec) (b : Src) (w field base : Nat) (e : Option Bool)
    (body : State → Nat → Nat → List (List Word) → State × List Word × Flags) : State :=
  let act := s.active g
  if act = 0 then s.finish
  else match repCause s sp act with
  | some cause => (s.undefined act (curOpc s) cause).finish
  | none =>
  -- R108 step 2: the registers that no tag decides
  let tag : Spec := { srcs := sp.srcs.filter fun r => r.pos == 1 }
  let fixed : Spec := if field = 0 then { srcs := sp.srcs } else { tag with dst := sp.dst }
  let lanes := act.lanes
  let q := s.quotaOf s.cur.core s.cur.turn
  let dead := s.deadBelow s.cur.core s.cur.turn
  -- a tag out of quota cannot be read, and the range is then its base alone
  let noTag := fun l => (firstOut q dead (tag.ranges (s.curThread l))).isSome
  let range := fun l => ((s.curThread l).step field base, if noTag l then 1 else s.tagRange l w b, 1)
  -- R33: the order D, S1, S2
  let order := fun l =>
    let t := s.curThread l
    if field = 0 then range l :: sp.ranges t else ({ dst := sp.dst } : Spec).ranges t ++ range l :: tag.ranges t
  match operandFault s fixed act with
  | some (code, info) =>
    if code = 2 then (lanes.foldl (fun s l => s.takeFault l 2 (match firstOut q dead (order l) with | some r => BitVec.ofNat 32 r | none => info)) s).finish
    else (s.takeFaults act code info).finish
  | none =>
  let tagWaits := if b.e then [] else lanes.flatMap fun l => (SrcReq.emptyRegs { pos := 1, src := b } (s.curThread l)).map fun x => (l, x)
  if !tagWaits.isEmpty then s.block .blockedEmpty (.regs tagWaits)
  else
  let out := lanes.filterMap fun l => (firstOut q dead (order l)).map fun r => (l, r)
  let s := out.foldl (fun s p => s.takeFault p.1 2 (BitVec.ofNat 32 p.2)) s
  let left := lanes.filter fun l => !(out.any fun p => p.1 == l)
  if left.isEmpty then s.finish
  else
  let s := if out.isEmpty then s else { s with cur := { s.cur with lanes := s.cur.lanes &&& ~~~(Mask.ofLanes (out.map (·.1))) } }
  let holes := fun l => let t := s.curThread l
    ((List.range (s.tagRange l w b)).map (t.step field base + ·)).filter t.isEmpty
  let waits := if e == some false then left.flatMap fun l => (holes l).map fun x => (l, x) else []
  if !waits.isEmpty then s.block .blockedEmpty (.regs waits)
  else match prep s g sp false { hole := fun l => if e == some true then (holes l).head?.map fun x => (0, x) else none } with
  | .stop s => s
  | .go _ s1 rows =>
    let r := rows.foldl (fun (a : State × List (Nat × List Word) × Flags) p =>
      let o := body a.1 p.1 (s.tagRange p.1 w b) p.2
      (o.1, a.2.1 ++ [(p.1, o.2.1)], a.2.2 ||| o.2.2)) (s1, [], 0)
    let s := match sp.dst with | some d => r.1.writeDst d r.2.1 | none => r.1
    (s.curFlags r.2.2).finish

def Wave.srgAt (w : Wave) (l : Nat) : Word := getK (srgInit l) w.srg l
def Wave.setSrg (w : Wave) (l : Nat) (v : Word) : Wave := { w with srg := insK w.srg l v }
/-- R99, R100: the rounding of the next element of a lane: under SR it draws. -/
def State.drawRnd (s : State) (l : Nat) (r : Rnd) : State × Rnd :=
  if r.mode = .sr then
    let u := srgNext ((s.wave s.cur.core s.cur.turn).srgAt l)
    (s.modCurWave fun w => w.setSrg l u, { r with draw := u.toNat })
  else (s, r)

/-- R157: one element scaled by the tag and converted. -/
def narrowElem (sf df : Fmt) (r : Rnd) (scl c : Nat) : Res :=
  df.conv r (if scl = 255 then .nan false else (readTo df sf r c).mapFin (·.scale (127 - (scl : Int))))
/-- R157: the elements of a lane in ascending order. -/
def narrowLane (sf df : Fmt) (r : Rnd) (scl l : Nat) : State → List Nat → State × List Res
  | s, [] => (s, [])
  | s, c :: cs =>
    let d := s.drawRnd l r
    let rest := narrowLane sf df r scl l d.1 cs
    (rest.1, narrowElem sf df d.2 scl c :: rest.2)
def execCvtn (g : Guard) (st : BitVec 2) (d : Operand) (a b : Src) (x : Option Modx) (s : State) : Host.Outcome State Fault Refusal :=
  let sf := ftFmt st
  let base := match a.o with | .reg r => r | _ => 0
  .next (tagOp s g { srcs := [{ pos := 0, src := a }, { pos := 1, src := b }], dst := some { o := d }, rep := true } b sf.width 1 base (some a.e)
    fun s l _ vs =>
      let tag := wordAt vs 1 0
      match narrowFmt (tag.extractLsb' 0 8) with
      | none => (s, [0], Flags.inv)
      | some df =>
        let t := s.curThread l
        let n := 32 / df.width * sf.width / 32
        let ws := (List.range n).map fun i => t.reg (t.step 1 base + i)
        let o := narrowLane sf df (rndOf x) (wBits tag 15 8) l s (elemsOf sf.width (32 / df.width) ws)
        (o.1, packElems df.width 1 (o.2.map (·.code)), resFlags o.2))

/-- R158: one code decoded under its tag and converted. DESIGN CHOICE (LOG 16): a scaled value below the f32 range is rounded, with
UNF and INX (R96, R98), though R102 names saturation alone as setting a flag. -/
def wideElem (nf df : Fmt) (r : Rnd) (scl c : Nat) : Res :=
  df.conv r (if scl = 255 then .nan false else (readF nf r c).mapFin (·.scale ((scl : Int) - 127)))
def execCvtw (g : Guard) (dt : BitVec 2) (d : Operand) (a b : Src) (x : Option Modx) (s : State) : Host.Outcome State Fault Refusal :=
  let df := ftFmt dt
  let base := match d with | .reg r => r | _ => 0
  .next (tagOp s g { srcs := [{ pos := 0, src := a }, { pos := 1, src := b }], dst := some { o := d }, rep := true } b df.width 0 base none
    fun s _ _ vs =>
      let tag := wordAt vs 1 0
      match narrowFmt (tag.extractLsb' 0 8) with
      | none => (s, [splat df.width df.nanCode], Flags.inv)
      | some nf =>
        let n := 32 / nf.width
        let rs := (elemsOf nf.width n (vs.getD 0 [])).map (wideElem nf df (rndOf x) (wBits tag 15 8))
        (s, packElems df.width (n * df.width / 32) (rs.map (·.code)), resFlags rs))

/-- R159: a format's largest finite magnitude M. -/
def fmtMax (f : Fmt) : Exact :=
  match f with | .int .. => Exact.ofInt f.maxCode | f => f.magOf f.maxCode
/-- R159: the least e with a · 2^−e ≤ M. -/
def leastScale (a m : Exact) : Int :=
  let e := a.log2 - m.log2
  if Exact.le (a.scale (-e)) m then e else e + 1
def fsclWord (a b : Word) : Word × Flags :=
  let c : BitVec 8 := b.extractLsb' 0 8
  match narrowFmt c with
  | none => (0, Flags.inv)
  | some f =>
    match (Fmt.f32.decode a.toNat).abs with
    | .nan _ | .inf _ => (BitVec.ofNat 32 (c.toNat + 255 * 256), Flags.inv)
    | .zero _ => (BitVec.ofNat 32 (c.toNat + 127 * 256), 0)
    | .fin x => (BitVec.ofNat 32 (c.toNat + 256 * (127 + max (-127) (min 127 (leastScale x (fmtMax f)))).toNat), 0)
def execFscl (g : Guard) (d : Operand) (a b : Src) (s : State) : Host.Outcome State Fault Refusal :=
  .next (pureOp s g { srcs := [fltSrc .f32 0 a, { pos := 1, src := b }], dst := some { o := d }, rep := true } fun vs =>
    let r := fsclWord (wordAt vs 0 0) (wordAt vs 1 0)
    ([r.1], r.2))

/-! ## Dot products (R160, R161) -/

def dot4X (ua ub : Bool) (a b c : Word) : Int :=
  let e := fun (u : Bool) (w : Word) (i : Nat) => elemInt u 8 (elemAt 8 i w.toNat)
  elemInt (ua && ub) 32 c.toNat + ((List.range 4).map fun i => e ua a i * e ub b i).sum
def execDot4 (g : Guard) (ua ub sat : Bool) (d : Operand) (a b c : Src) (s : State) : Host.Outcome State Fault Refusal :=
  .next (pureOp s g
    { srcs := [{ pos := 0, src := a }, { pos := 1, src := b }, { pos := 2, src := c }]
      dst := some { o := d }, rep := true } fun vs =>
    let r := elemRes { wid := 0, uns := ua && ub, sat } (dot4X ua ub (wordAt vs 0 0) (wordAt vs 1 0) (wordAt vs 2 0))
    ([BitVec.ofNat 32 r.1], r.2))
/-- R161: c + a0·b0 + a1·b1, rounded once to f32. -/
def fdot2F (f : Fmt) (r : Rnd) (a b : List Nat) (c : Nat) : Res :=
  let av := a.map (readF f r)
  let bv := b.map (readF f r)
  let cv := readF .f32 r c
  let p0 := mulV (av.getD 0 (.zero false)) (bv.getD 0 (.zero false))
  let p1 := mulV (av.getD 1 (.zero false)) (bv.getD 1 (.zero false))
  let all := cv :: av ++ bv
  let v : AVal := match p0, p1 with
    | some x, some y => (addV r.mode x y).bind fun t => addV r.mode t cv
    | _, _ => none
  finish .f32 r (all.any (·.isSnan)) (all.any (·.isNan)) v
def execFdot2 (g : Guard) (ft : BitVec 2) (d : Operand) (a b c : Src) (x : Option Modx) (s : State) : Host.Outcome State Fault Refusal :=
  let f := ftFmt ft
  .next (pureOp s g { srcs := [fltSrc f 0 a, fltSrc f 1 b, fltSrc .f32 2 c], dst := some { o := d }, rep := true } fun vs =>
    let r := fdot2F f (rndOf x) (elemsOf 16 2 (vs.getD 0 [])) (elemsOf 16 2 (vs.getD 1 [])) (wordAt vs 2 0).toNat
    ([BitVec.ofNat 32 r.code], r.fl))

/-! ## Welford accumulation (R163 to R165) -/

def f32Of (w : Word) (r : Rnd) : FVal := readF .f32 r w.toNat
def natV (n : Nat) : FVal := FVal.ofExact (Exact.ofInt n) false
/-- R164: one sample added to a triple. DEDUCED (LOG 16): with n = 0 the mean receives the bits of x, a NaN or a subnormal under FTZ
among them, with no flag, and M2 is +0, as the pseudocode has it: no Round takes place there. -/
def wfuTriple (r : Rnd) (t : List Word) (x : Word) : List Word × Flags :=
  let n := (t.getD 0 0).toNat
  let m := t.getD 1 0
  let q := t.getD 2 0
  if n = 0xFFFFFFFF then ([t.getD 0 0, m, q], Flags.sat)
  else if n = 0 then ([1, x, 0], 0)
  else
    let xv := f32Of x r
    let d := addF .f32 r xv (f32Of m r).neg
    let dq := divF .f32 r (Fmt.f32.decode d.code) (natV (n + 1))
    let m' := addF .f32 r (f32Of m r) (Fmt.f32.decode dq.code)
    let e := addF .f32 r xv (Fmt.f32.decode m'.code).neg
    let q' := fmaF .f32 r false false (Fmt.f32.decode d.code) (Fmt.f32.decode e.code) (f32Of q r)
    ([BitVec.ofNat 32 (n + 1), BitVec.ofNat 32 m'.code, BitVec.ofNat 32 q'.code], resFlags [d, dq, m', e, q'])
/-- R165: two triples merged. -/
def wfmTriple (r : Rnd) (a b : List Word) : List Word × Flags :=
  let na := (a.getD 0 0).toNat
  let nb := (b.getD 0 0).toNat
  if na = 0 then ([b.getD 0 0, b.getD 1 0, b.getD 2 0], 0)
  else if nb = 0 then ([a.getD 0 0, a.getD 1 0, a.getD 2 0], 0)
  else
    let n := na + nb
    let v := fun (x : Res) => Fmt.f32.decode x.code
    let ma := f32Of (a.getD 1 0) r
    let dl := addF .f32 r (f32Of (b.getD 1 0) r) ma.neg
    let f := divF .f32 r (natV nb) (natV n)
    let m' := fmaF .f32 r false false (v dl) (v f) ma
    let g := divF .f32 r (natV (na * nb)) (natV n)
    let sm := addF .f32 r (f32Of (a.getD 2 0) r) (f32Of (b.getD 2 0) r)
    let t := mulF .f32 r (v dl) (v dl)
    let q' := fmaF .f32 r false false (v t) (v g) (v sm)
    ([BitVec.ofNat 32 (Nat.min 0xFFFFFFFF n), BitVec.ofNat 32 m'.code, BitVec.ofNat 32 q'.code],
      resFlags [dl, f, m', g, sm, t, q'] ||| satFlag (decide (2 ^ 32 ≤ n)))
def execWfu (g : Guard) (d : Operand) (a b : Src) (x : Option Modx) (s : State) : Host.Outcome State Fault Refusal :=
  .next (pureOp s g { srcs := [{ pos := 0, src := a, n := 3 }, fltSrc .f32 1 b], dst := some { o := d, n := 3 }, rep := true } fun vs =>
    wfuTriple (rndOf x) (vs.getD 0 []) (wordAt vs 1 0))
def execWfm (g : Guard) (d : Operand) (a b : Src) (x : Option Modx) (s : State) : Host.Outcome State Fault Refusal :=
  .next (pureOp s g { srcs := [{ pos := 0, src := a, n := 3 }, { pos := 1, src := b, n := 3 }], dst := some { o := d, n := 3 }, rep := true } fun vs =>
    wfmTriple (rndOf x) (vs.getD 0 []) (vs.getD 1 []))

/-! ## The generator and the sticky flags (R162, R166 to R168) -/

def execSeed (g : Guard) (a : Src) (s : State) : Host.Outcome State Fault Refusal :=
  .next (laneOp s g { srcs := [{ pos := 0, src := a }], rep := true } fun s l vs =>
    let v := wordAt vs 0 0
    (s.modCurWave fun w => w.setSrg l (if v = 0 then srgInit l else v), [], 0))
def execSfget (g : Guard) (d : Operand) (s : State) : Host.Outcome State Fault Refusal :=
  .next (laneOp s g { dst := some { o := d }, rep := true } fun s _ _ => (s, [(s.wave s.cur.core s.cur.turn).satfWord], 0))
def execSfclr (g : Guard) (a : Src) (s : State) : Host.Outcome State Fault Refusal :=
  .next (match prep s g { srcs := [{ pos := 0, src := a }], rep := true } with
    | .stop s => s
    | .go _ s1 rows =>
      let m : BitVec 7 := rows.foldl (fun m p => m ||| (wordAt p.2 0 0).extractLsb' 0 7) 0
      (s1.clearFlags s1.cur.core s1.cur.turn m).finish)
def execSfarm (g : Guard) (a : Src) (s : State) : Host.Outcome State Fault Refusal :=
  .next (onceOp s g { srcs := [{ pos := 0, src := a }], rep := true } fun s _ vs =>
    s.modCurWave fun w => { w with arm := (wordAt vs 0 0).extractLsb' 0 7 })

end Sys2Proof.Machine
end

