-- ==== Sys2Proof/Machine/Cross.lean ====
section
/-! DEFINITION. Cross-lane and wave-state instructions (R189 to R196). -/

namespace Sys2Proof.Machine

/-- R189: PARTW.TILE as it stood at the start of the issue cycle. -/
def State.tileNow (s : State) : Nat := getK (s.wave s.cur.core s.cur.turn).tile (s.core s.cur.core).cycle.tiles s.cur.turn
/-- The lowest lane of the tile of a lane, for tiles of 2^`tile` lanes. -/
def tileBase (tile l : Nat) : Nat := l / 2 ^ tile * 2 ^ tile
/-- The participants of the tile that begins at `b` (R189). -/
def tileRows (tile b : Nat) (rows : List (Nat × List (List Word))) : List (Nat × List (List Word)) :=
  rows.filter fun p => tileBase tile p.1 == b

/-- The frame of an instruction that writes D from the values of all participants of its tile. -/
def crossOp (s : State) (g : Guard) (sp : Spec) (f : Nat → List (Nat × List (List Word)) → Nat → List (List Word) → List Word × Flags) : State :=
  match prep s g sp with
  | .stop s => s
  | .go _ s1 rows =>
    let tile := s1.tileNow
    let outs : List (Nat × List Word × Flags) := rows.map fun p => (p.1, f tile (tileRows tile (tileBase tile p.1) rows) p.1 p.2)
    let s := match sp.dst with | some d => s1.writeDst d (outs.map fun (o : Nat × List Word × Flags) => (o.1, o.2.1)) | none => s1
    (s.curFlags (outs.foldl (fun a (o : Nat × List Word × Flags) => a ||| o.2.2) 0)).finish
/-- The same for a predicate. -/
def crossPred (s : State) (g : Guard) (k : BitVec 3) (f : State → List Nat → Nat → Bool) : State :=
  match prep s g {} with
  | .stop s => s
  | .go _ s1 rows =>
    let tile := s1.tileNow
    (rows.foldl (fun s p => s.modLane p.1 fun t => t.setPred k (f s1 ((tileRows tile (tileBase tile p.1) rows).map (·.1)) p.1)) s1).finish

/-- R191: the vote forms. -/
def voteVal (form : BitVec 2) (vs : List Bool) : Bool :=
  match form.toNat with
  | 0 => vs.any id
  | 1 => vs.all id
  | _ => vs.all id || vs.all (!·)
def execVote (g : Guard) (form : BitVec 2) (kd ka : BitVec 3) (s : State) : Host.Outcome State Fault Refusal :=
  .next (crossPred s g kd fun s ls _ => voteVal form (ls.map fun l => (s.curThread l).pred ka))
def execVmask (g : Guard) (d : Operand) (ka : BitVec 3) (s : State) : Host.Outcome State Fault Refusal :=
  .next (crossOp s g { dst := some { o := d } } fun _ rows _ _ =>
    ([Mask.ofLanes ((rows.map (·.1)).filter fun l => (s.curThread l).pred ka)], 0))

/-- R192: the source lane of a participant. -/
def shflLane (mode : BitVec 2) (tile l n : Nat) : Option Nat :=
  let w := 2 ^ tile
  let b := tileBase tile l
  match mode.toNat with
  | 0 => if n < w then some (b + n) else none
  | 1 => if b + n ≤ l then some (l - n) else none
  | 2 => if l + n < b + w then some (l + n) else none
  | _ => let x := l ^^^ (n % 32); if b ≤ x ∧ x < b + w then some x else none
def execShfl (g : Guard) (mode : BitVec 2) (dbl : Bool) (d : Operand) (a b c : Src) (s : State) : Host.Outcome State Fault Refusal :=
  .next (crossOp s g { srcs := [dblSrc dbl 0 a, { pos := 1, src := b }, dblSrc dbl 2 c], dst := some (dblDst dbl d) } fun tile rows l vs =>
    let src := (shflLane mode tile l (wordAt vs 1 0).toNat).bind fun x => (rows.find? fun p => p.1 == x)
    (match src with | some p => p.2.getD 0 [] | none => vs.getD 2 [], 0))
def execElect (g : Guard) (kd : BitVec 3) (s : State) : Host.Outcome State Fault Refusal :=
  .next (crossPred s g kd fun _ ls l => ls.head? == some l)

/-- R194: one combine of two values. -/
def combine (op : BitVec 5) (r : Rnd) (a b : Word) : Word × Flags :=
  let i := fun (uns : Bool) => elemRes { wid := 0, uns, sat := true } (elemInt uns 32 a.toNat + elemInt uns 32 b.toNat)
  let ofRes := fun (x : Res) => (BitVec.ofNat 32 x.code, x.fl)
  match op.toNat with
  | 0 => (a + b, 0)
  | 1 => (BitVec.ofNat 32 (i false).1, (i false).2)
  | 2 => (BitVec.ofNat 32 (i true).1, (i true).2)
  | 3 => (if a.toInt ≤ b.toInt then a else b, 0)
  | 4 => (if a.toInt ≤ b.toInt then b else a, 0)
  | 5 => (if a.toNat ≤ b.toNat then a else b, 0)
  | 6 => (if a.toNat ≤ b.toNat then b else a, 0)
  | 7 => (a &&& b, 0)
  | 8 => (a ||| b, 0)
  | 9 => (a ^^^ b, 0)
  | 10 => ofRes (addF .f32 r (f32Of a r) (f32Of b r))
  | 11 => ofRes (minMaxF .f32 false false a.toNat b.toNat)
  | _ => ofRes (minMaxF .f32 true false a.toNat b.toNat)
/-- R194: the identity of an operation. -/
def identity (op : BitVec 5) : Word :=
  match op.toNat with
  | 3 => 0x7FFFFFFF | 4 => 0x80000000 | 5 => 0xFFFFFFFF | 7 => 0xFFFFFFFF | 10 => 0x80000000 | 11 => 0x7F800000 | 12 => 0xFF800000
  | _ => 0
/-- R106: node `n` of level `j` of the pairwise tree. -/
def treeNode (f : Word → Word → Word × Flags) (leaf : Nat → Option Word) : Nat → Nat → Option Word × Flags
  | 0, n => (leaf n, 0)
  | j + 1, n =>
    match treeNode f leaf j (2 * n), treeNode f leaf j (2 * n + 1) with
    | (some a, x), (some b, y) => let c := f a b; (some c.1, x ||| y ||| c.2)
    | (some a, x), (none, y) => (some a, x ||| y)
    | (none, x), (o, y) => (o, x ||| y)
/-- R194: the running combine of values in ascending lane order. -/
def runningCombine (f : Word → Word → Word × Flags) : List Word → Option (Word × Flags)
  | [] => none
  | v :: vs => some (vs.foldl (fun (a : Word × Flags) x => let c := f a.1 x; (c.1, a.2 ||| c.2)) (v, 0))
def rowVal (p : Nat × List (List Word)) : Word := wordAt p.2 0 0
def redSpec (d : Operand) (a : Src) (op : BitVec 5) : Spec :=
  { srcs := [if 10 ≤ op.toNat then fltSrc .f32 0 a else { pos := 0, src := a }], dst := some { o := d } }
def execRed (g : Guard) (op : BitVec 5) (d : Operand) (a : Src) (x : Option Modx) (s : State) : Host.Outcome State Fault Refusal :=
  .next (crossOp s g (redSpec d a op) fun tile rows l _ =>
    let n := treeNode (combine op (rndOf x)) (fun i => (rows.find? fun p => p.1 == tileBase tile l + i).map rowVal) tile 0
    ([n.1.getD 0], n.2))
def execScan (g : Guard) (op : BitVec 5) (d : Operand) (a : Src) (x : Option Modx) (s : State) : Host.Outcome State Fault Refusal :=
  .next (crossOp s g (redSpec d a op) fun _ rows l _ =>
    match runningCombine (combine op (rndOf x)) ((rows.filter fun p => p.1 ≤ l).map rowVal) with
    | some v => ([v.1], v.2)
    | none => ([identity op], 0))
def execScanx (g : Guard) (op : BitVec 5) (d : Operand) (a : Src) (x : Option Modx) (s : State) : Host.Outcome State Fault Refusal :=
  .next (crossOp s g (redSpec d a op) fun _ rows l _ =>
    match runningCombine (combine op (rndOf x)) ((rows.filter fun p => p.1 < l).map rowVal) with
    | some v => ([v.1], v.2)
    | none => ([identity op], 0))

/-- R195: PARTW.TILE once for the wave, or INV. -/
def execPart (g : Guard) (a : Src) (s : State) : Host.Outcome State Fault Refusal :=
  .next (onceOp s g { srcs := [{ pos := 0, src := a }] } fun s _ vs =>
    let v := (wordAt vs 0 0).toNat
    if 1 ≤ v ∧ v ≤ 5 then s.modCurWave fun w => { w with tile := v } else s.curFlags Flags.inv)
/-- R196, R38. -/
def execPqset (g : Guard) (a : Src) (s : State) : Host.Outcome State Fault Refusal :=
  .next (onceOp s g { srcs := [{ pos := 0, src := a }] } fun s _ vs =>
    let v := wBits (wordAt vs 0 0) 9 0
    if v = 0 then s else s.modCurWave fun w => { w with quant := v })
def execPqget (g : Guard) (d : Operand) (s : State) : Host.Outcome State Fault Refusal :=
  .next (laneOp s g { dst := some { o := d } } fun s _ _ => (s, [BitVec.ofNat 32 (s.wave s.cur.core s.cur.turn).quant], 0))
def execPartget (g : Guard) (d : Operand) (s : State) : Host.Outcome State Fault Refusal :=
  .next (laneOp s g { dst := some { o := d } } fun s _ _ => (s, [BitVec.ofNat 32 (s.wave s.cur.core s.cur.turn).tile], 0))

end Sys2Proof.Machine
end

