-- ==== Sys2Proof/Machine/Storage.lean ====
section
/-! DEFINITION. Core storage, walker and queue instructions (R197 to R225), and the arrival of a walker's fetch. -/

namespace Sys2Proof.Machine

/-- A fault of every lane that issues, with nothing else done. -/
def faultRows (s : State) (rows : List (Nat × List (List Word))) (code : Nat) (info : Word) : State :=
  (s.takeFaults (Mask.ofLanes (rows.map (·.1))) code info).finish
/-- R265: the BINDING fault of an instruction that acts once, as a lane with a walker fault takes it: `pre` is one that no source
decides. -/
def bindOwn (s : State) (pre : Option Word) (body : State → List (List Word) → State ⊕ Word) : Extra :=
  { own := fun all _ _ =>
      (pre.or (all.first.bind fun vs => match body s vs with | .inr info => some info | .inl _ => none)).map fun i => (0x0E, i, 0) }
/-- An instruction that acts once for the wave or the crew, with the words of the lowest-numbered active lane, and may be
refused with a BINDING fault in every active lane. -/
def bindOp (s : State) (g : Guard) (sp : Spec) (body : State → List (List Word) → State ⊕ Word) (pre : Option Word := none) : State :=
  match prep s g sp false (bindOwn s pre body) with
  | .stop s => s
  | .go s0 s1 rows =>
    match rows with
    | [] => s1.finish
    | r :: _ =>
      match body s1 r.2 with
      | .inl s => s.finish
      | .inr info => faultRows s0 rows 0x0E info

/-- A fault of one lane: lane, code, FINFO and EXTRA. -/
abbrev LaneFault := Nat × Nat × Word × DWord
/-- The lanes that a check faults, and the rows of the others. -/
def splitFaults {α : Type} (rows : List (Nat × α)) (f : Nat → α → Option (Nat × Word × DWord)) : List LaneFault × List (Nat × α) :=
  (rows.filterMap fun p => (f p.1 p.2).map fun e => (p.1, e), rows.filter fun p => (f p.1 p.2).isNone)
def State.takeEach (s : State) (fs : List LaneFault) : State := fs.foldl (fun s e => s.takeFault e.1 e.2.1 e.2.2.1 e.2.2.2) s
/-- R28: some lanes have faulted, and the rest of the path blocks. -/
def State.faultAndBlock (s : State) (fs : List LaneFault) (st : Status) (w : Wait) : State :=
  let s := s.takeEach fs
  { s with cur := { s.cur with lanes := s.cur.lanes &&& ~~~(Mask.ofLanes (fs.map fun (e : LaneFault) => e.1)) } }.block st w

/-! ## Loads and stores of the slice (R206 to R208, R40) -/

/-- The BASE, LEN and BOUND of a parameter window (R40). -/
def State.window (s : State) (c n : Nat) : Nat × Nat × Bool :=
  (dwBits (s.ccr c fun i => nPWIN i n 0) 47 0, dwBits (s.ccr c fun i => nPWIN i n 1) 16 0, dwBit (s.ccr c fun i => nPWIN i n 1) 31)
/-- What an `lds` finds for a lane: bytes at a place, zeros, or a fault. -/
inductive LdsAt where
  | at_ (p : Place)
  | zeros
  | bad (code : Nat) (finfo : Word) (extra : DWord)
  deriving DecidableEq, Repr
/-- A flat access that may start in the middle of an 8-byte word (R40): its first and its last byte are checked. -/
def State.checkSpan (s : State) (c a size right : Nat) : Chk :=
  match s.checkFlat c a 1 right with
  | .ok p e => (match s.checkFlat c (a + size - 1) 1 right with | .ok _ _ => .ok p e | r => r)
  | r => r
/-- R207, R40: the checks of a lane of `lds`. -/
def State.ldsAt (s : State) (c : Nat) (m : MemOp) (idx : List Word) (size : Nat) : LdsAt :=
  let o := effAddr m idx
  if o % size ≠ 0 then .bad 4 1 (BitVec.ofNat 64 o)
  else match m.mode with
  | .pw =>
    let w := s.window c m.slot.toNat
    if !w.2.2 then .bad 0x0A (BitVec.ofNat 32 (m.slot.toNat + 8)) 0
    else if w.2.1 < o + size then .zeros
    else
      let a := (w.1 + o) % 2 ^ 48
      if isOwn c (.sram a) && isOwn c (.sram (a + size - 1)) then .at_ (.sram a)
      else match s.checkSpan c a size rREAD with
        | .ok p _ => .at_ p
        | .bad code f x => .bad code f x
        | .miss _ _ => .zeros
  | _ => match s.seraiEcc c rREAD false o (if s.spOk c o size then .ok (.sram (ownAddr c o)) 0 else sliceBound o) with
    | .ok p _ => .at_ p
    | .bad code f x => .bad code f x
    | .miss _ _ => .zeros
/-- R198, R265: the fault of the access itself, where the index can be read. -/
def ldsOwn (s : State) (m : MemOp) (size : BitVec 3) : Extra :=
  { own := fun _ _ vs => if (vs.getD 0 []).isEmpty then none
      else match s.ldsAt s.cur.core m (vs.getD 0 []) (sizeBytes size) with | .bad code f x => some (code, f, x) | _ => none }
/-- R206: the D of a load. -/
def loadDst (d : Operand) (n : Nat) : DstReq := { o := d, n, al := if n = 3 then 1 else n }
/-- R207, R208: an own-slice `lds` has its result before the core issues again: one of 16 bytes is two accesses (R373). -/
def execLds (g : Guard) (size : BitVec 3) (d : Operand) (m : MemOp) (s : State) : Host.Outcome State Fault Refusal :=
  let n := sizeRegs size
  .next (match prep s g { srcs := [idxSrc m], dst := some (loadDst d n) } false (ldsOwn s m size) with
    | .stop s => s
    | .go s0 s1 rows =>
      let c := s1.cur.core
      let res := rows.map fun p => (p.1, s1.ldsAt c m (p.2.getD 0 []) (sizeBytes size))
      let faults := fun (s : State) => res.foldl (fun s r => match r.2 with | .bad code f x => s.takeFault r.1 code f x | _ => s) s
      if isSerai c && res.any (fun r => match r.2 with | .at_ p => isOwn c p && s1.heldPlace p | _ => false) then s0.block .blockedQueue .none
      else if res.all fun r => match r.2 with | .bad .. => true | _ => false then (faults s0).finish
      else
        let s := faults s1
        let now := res.filterMap fun r => match r.2 with
          | .zeros => some (r.1, List.replicate n 0)
          | .at_ p => if isOwn c p ∧ size ≠ 6 then some (r.1, extend size (s.rdHome p (sizeBytes size))) else none
          | .bad .. => none
        let s := s.writeDst { o := d, n } now
        (res.foldl (fun s r => match r.2 with
          | .at_ p => if isOwn c p ∧ size ≠ 6 then s
            else s.issueLoad r.1 p 0 size .plain none (match d with | .reg x => (List.range n).map (x + ·) | _ => [])
          | _ => s) s).finish)
/-- R207: the checks of a lane of `sts`. -/
def State.stsAt (s : State) (m : MemOp) (k : Nat) (idx : List Word) : Chk :=
  let o := effAddr m idx
  if o % k ≠ 0 then misalignedAddr o
  else if m.mode = .pw then .bad 0x0A (BitVec.ofNat 32 m.slot.toNat) 0
  else if s.spOk s.cur.core o k then .ok (.sram (ownAddr s.cur.core o)) 0 else sliceBound o
/-- R198, R265: the fault of the access itself, where the index can be read. -/
def accessOwn (check : Nat → List Word → Chk) : Extra :=
  { own := fun _ l vs => if (vs.getD 0 []).isEmpty then none
      else match check l (vs.getD 0 []) with | .bad code f x => some (code, f, x) | _ => none }
def execSts (g : Guard) (size : BitVec 3) (d : Src) (m : MemOp) (s : State) : Host.Outcome State Fault Refusal :=
  let n := sizeRegs size
  let k := sizeBytes size
  .next (match prep s g { srcs := [idxSrc m, { pos := 3, src := d, n, al := n }] } false (accessOwn fun _ => s.stsAt m k) with
    | .stop s => s
    | .go s0 s1 rows =>
      let c := s1.cur.core
      let res : List (Nat × Chk × Nat) := rows.map fun p => (p.1, s1.stsAt m k (p.2.getD 0 []), natOfWords (p.2.getD 1 []) % 2 ^ (8 * k))
      if isSerai c && res.any (fun r => match r.2.1 with | .ok p _ => s1.heldPlace p | _ => false) then s0.block .blockedQueue .none
      else if res.all fun r => match r.2.1 with | .ok .. => false | _ => true then
        (res.foldl (fun s r => match r.2.1 with | .bad code f x => s.takeFault r.1 code f x | _ => s) s0).finish
      else
        (res.foldl (fun s r => match r.2.1 with
          | .ok p _ => s.issueStore r.1 p k r.2.2 .data false none
          | .bad code f x => s.takeFault r.1 code f x
          | .miss _ _ => s) s1).finish)

/-! ## Register quotas (R201 to R203) -/

def Quota.covers (q : Quota) (b : Nat) : Bool := q.valid && decide (q.base ≤ b) && decide (b < q.base + q.count)
/-- No other turn's entry holds a block of the run. -/
def Core.blocksFree (k : Core) (t lo n : Nat) : Bool :=
  (List.range n).all fun i => k.quotas.all fun p => p.1 == t || !p.2.covers (lo + i)
def Core.setQuota (k : Core) (t : Nat) (q : Quota) : Core := { k with quotas := insK k.quotas t q }
/-- Registers in [lo, hi) read zero and are full. -/
def Thread.clearRegs (t : Thread) (lo hi : Nat) : Thread :=
  let out := fun r => decide (r < lo) || decide (hi ≤ r)
  { t with regs := t.regs.filter fun p => out p.1, empty := t.empty.filter fun p => out p.1 }
/-- Pending writes to registers below `hi` are cancelled (R22). -/
def Thread.cancelBelow (t : Thread) (hi : Nat) : Thread := { t with empty := t.empty.filter fun p => decide (hi ≤ p.1) }
/-- Keys from `n` up move down by `n`; lower ones go. -/
def downKeys {α : Type} (n : Nat) (m : List (Nat × α)) : List (Nat × α) :=
  m.filterMap fun p => if n ≤ p.1 then some (p.1 - n, p.2) else none
/-- R203: registers are renamed downwards by `n`. -/
def Thread.renameDown (t : Thread) (n : Nat) : Thread :=
  { t with regs := downKeys n t.regs, empty := downKeys n t.empty,
           wait := match t.wait with
             | .regs rs => .regs (rs.filterMap fun p => if n ≤ p.2 then some (p.1, p.2 - n) else none)
             | .lanes rs => .lanes (rs.filterMap fun p => if n ≤ p.2 then some (p.1, p.2 - n) else none)
             | w => w }
def Wave.mapThreads (w : Wave) (f : Thread → Thread) : Wave := { w with threads := w.threads.map fun p => (p.1, f p.2) }

def bindTurn (t : Nat) : Word := bindInfo 7 t
/-- R201. -/
def State.resize (s : State) (c t n : Nat) : State ⊕ Word :=
  let q := s.quota c t
  if 20 < n ∨ q.dead ≠ 0 then .inr (bindTurn t)
  else if n ≤ q.count then
    .inl (((s.modCore c fun k => k.setQuota t { q with count := n }).modWave c t fun w => w.mapThreads fun th => th.clearRegs (32 * n) 640).mapRecs c t
      fun r => if 32 * n ≤ r.res then { r with cut := true } else r)
  else if 48 < q.base + n ∨ !(s.core c).blocksFree t (q.base + q.count) (n - q.count) then .inr (bindTurn t)
  else .inl ((s.modCore c fun k => k.setQuota t { q with count := n }).modWave c t fun w => w.mapThreads fun th => th.clearRegs (32 * q.count) 640)
def rquotaBody (s : State) (vs : List (List Word)) : State ⊕ Word := s.resize s.cur.core s.cur.turn (wordAt vs 0 0).toNat
/-- R201: dead blocks refuse every `rquota`. -/
def State.rquotaPre (s : State) : Option Word :=
  if (s.quota s.cur.core s.cur.turn).dead = 0 then none else some (bindTurn s.cur.turn)
def execRquota (g : Guard) (a : Src) (s : State) : Host.Outcome State Fault Refusal :=
  .next (computeOnly s (bindOp s g { srcs := [{ pos := 0, src := a }] } rquotaBody s.rquotaPre))
/-- R202. -/
def State.setDead (s : State) (c t d : Nat) : State ⊕ Word :=
  let q := s.quota c t
  if q.count < d then .inr (bindTurn t)
  else .inl (((s.modCore c fun k => k.setQuota t { q with dead := d }).modWave c t fun w => w.mapThreads fun th =>
    (th.cancelBelow (32 * d)).clearRegs (32 * d) (32 * q.dead)).mapRecs c t fun r => if r.res < 32 * d then { r with cut := true } else r)
def rdeadBody (s : State) (vs : List (List Word)) : State ⊕ Word := s.setDead s.cur.core s.cur.turn (wordAt vs 0 0).toNat
def execRdead (g : Guard) (a : Src) (s : State) : Host.Outcome State Fault Refusal :=
  .next (computeOnly s (bindOp s g { srcs := [{ pos := 0, src := a }] } rdeadBody))
/-- R203. -/
def State.grant (s : State) (c t r : Nat) : State ⊕ Word :=
  let gv := s.quota c t
  let rv := s.quota c r
  if gv.dead = 0 ∨ r = t ∨ 15 < r ∨ !rv.valid ∨ rv.base + rv.count ≠ gv.base ∨ 20 < rv.count + gv.dead then .inr (bindTurn (Nat.min r 31))
  else
    let n := 32 * gv.dead
    let uid := (s.wave c t).uid
    let s := s.modCore c fun k =>
      (k.setQuota r { rv with count := rv.count + gv.dead }).setQuota t { gv with base := gv.base + gv.dead, count := gv.count - gv.dead, dead := 0 }
    let s := s.modWave c r fun w => w.mapThreads fun th => th.clearRegs (32 * rv.count) 640
    let s := s.modWave c t fun w => w.mapThreads fun th => th.renameDown n
    let s := s.mapRecs c t fun r => if r.cut ∨ r.res < n then { r with cut := true } else { r with res := r.res - n }
    -- a pending producer moves with the word it will fill; one of a granted word has been cancelled
    .inl { s with prods := s.prods.map fun p =>
      if p.2.core = c ∧ p.2.turn = t ∧ p.2.uid = uid then
        (p.1, { p.2 with dsts := p.2.dsts.map fun x => if n ≤ x then x - n else x + 2 ^ 16 }) else p }
def rgrantBody (s : State) (vs : List (List Word)) : State ⊕ Word := s.grant s.cur.core s.cur.turn (wordAt vs 0 0).toNat
def execRgrant (g : Guard) (a : Src) (s : State) : Host.Outcome State Fault Refusal :=
  .next (computeOnly s (bindOp s g { srcs := [{ pos := 0, src := a }] } rgrantBody))

/-! ## Walkers (R209, R213 to R215) -/

def bindWalker (cause w : Nat) : Word := bindInfo cause w
def Walker.descOk (d : BitVec 256) : Bool :=
  bitsN d.toNat 63 51 == 0 && bitsN d.toNat 79 64 != 0 && bitsN d.toNat 143 128 != 0 && bitsN d.toNat 207 192 != 0
def wbindBody (w : BitVec 3) (s : State) (vs : List (List Word)) : State ⊕ Word :=
  let d := BitVec.ofNat 256 (natOfWords (vs.getD 0 []))
  if Walker.descOk d then .inl (s.modCurWave fun wv => wv.modWalker w.toNat fun _ => { desc := d, bound := true, since := s.nextId })
  else .inr (bindWalker 2 w.toNat)
def execWbind (g : Guard) (w : BitVec 3) (a : Src) (s : State) : Host.Outcome State Fault Refusal :=
  .next (bindOp s g { srcs := [{ pos := 0, src := a, n := 8, al := 8 }] } (wbindBody w))
def execWunb (g : Guard) (w : BitVec 3) (s : State) : Host.Outcome State Fault Refusal :=
  .next (onceOp s g {} fun s _ _ => s.modCurWave fun wv => wv.modWalker w.toNat fun x => { desc := x.desc })
/-- R209: the cause of the BINDING fault of `wseek`, as far as the sources that are `known` decide it. -/
def Walker.seekCause (k : Walker) (known : Nat → Bool) (vs : List (List Word)) : Option Nat :=
  if !k.bound then some 0
  else if known 0 && (decide (k.field 79 64 ≤ wBits (wordAt vs 0 0) 15 0) || decide (k.field 143 128 ≤ wBits (wordAt vs 0 0) 31 16)) ||
      known 1 && decide (k.field 207 192 ≤ wBits (wordAt vs 1 0) 15 0) then some 2
  else none
def State.curWalker (s : State) (w : BitVec 3) : Walker := (s.wave s.cur.core s.cur.turn).walker w.toNat
def seekOwn (s : State) (w : BitVec 3) : Extra :=
  { own := fun all _ vs =>
      let ws := all.first.getD vs
      ((s.curWalker w).seekCause (fun i => !(ws.getD i []).isEmpty) ws).map fun c => (0x0E, bindWalker c w.toNat, 0) }
def execWseek (g : Guard) (w : BitVec 3) (a b : Src) (s : State) : Host.Outcome State Fault Refusal :=
  .next (match prep s g { srcs := [{ pos := 0, src := a }, { pos := 1, src := b }] } false (seekOwn s w) with
    | .stop s => s
    | .go s0 s1 rows =>
      match rows with
      | [] => s1.finish
      | r :: _ =>
        match (s1.curWalker w).seekCause (fun _ => true) r.2 with
        | some c => faultRows s0 rows 0x0E (bindWalker c w.toNat)
        | none => (s1.modCurWave fun wv => wv.modWalker w.toNat fun x =>
            { x with i0 := wBits (wordAt r.2 0 0) 15 0, i1 := wBits (wordAt r.2 0 0) 31 16, i2 := wBits (wordAt r.2 1 0) 15 0,
                     e0 := false, e1 := false, e2 := false, buf := [] }).finish)

/-- The bytes that a cluster's load of a place finds now, byte by byte: its live copy, or the home (R372). -/
def State.lookBytes (s : State) (cl : Nat) (p : Place) (n : Nat) : List Byte :=
  (List.range n).map fun i =>
    let q := p.add i
    match (if cacheable cl q then s.liveLine cl q else none) with
    | some c => c.data.getD (linePos q) 0
    | none => (s.rdHome q 1).headD 0
/-- R213, R388: is the fetch of a lane's element held by its place, or by what its thread issued before the `wbind`? -/
def State.fetchHeld (s : State) (core turn l : Nat) (wk : Walker) (p : Place) : Bool :=
  let cl := clusterOf core
  let n := 2 ^ wk.esize
  let who : Who := { core, turn, lane := l, uid := (s.wave core turn).uid, cyc := 0xFFFFFFFFFFFFFFFF }
  let copy := (cacheable cl p && (s.liveLine cl p).isSome)
  s.heldPlace p || s.heldByEarlier wk.since who false p n true copy || (cacheable cl p && !copy && s.lineBusy cl p)
/-- The places outside the own slice that the lanes read at a walker's position, of the lanes whose element has not arrived. -/
def State.walkerPlaces (s : State) (core turn : Nat) (wk : Walker) : List (Nat × Place) :=
  ((List.range 32).filter fun l => wk.lacks l).filterMap fun l =>
    match ({ s with cur := { s.cur with core, turn } } : State).checkWalker wk l rREAD with
    | .ok p _ => if isOwn core p then none else some (l, p)
    | _ => none
/-- R209, R213: the first position ahead that a walker is to fetch elements of, with their places; it fetches as far as one
instruction may read (R62), and beyond it as far as the implementation's buffer reaches. -/
def State.walkerNext (s : State) (core turn : Nat) (wk : Walker) : Option (Nat × List (Nat × Place)) :=
  (List.range 4 ++ (List.range (Config.walkerDepth + 1)).drop 4).findSome? fun i =>
    let ps := s.walkerPlaces core turn (wk.ahead i)
    if ps.isEmpty then none else some (i, ps)
/-- Elements of a position reach a walker's buffer. -/
def Walker.put (w : Walker) (i : Nat) (vals : Sparse DWord) : Walker :=
  let buf := w.buf ++ List.replicate (i + 1 - w.buf.length) []
  { w with buf := buf.set i (vals.foldl (fun m v => insK m v.1 v.2) (buf.getD i [])) }
/-- R213, R275, R372: one element is fetched as an ordinary load fetches it: a live copy serves it, or its home, which fills
the line; the bytes that are found come back. -/
def State.walkerLoad (s : State) (cl : Nat) (p : Place) (n : Nat) : List Byte × State :=
  let s := s.scrub cl p
  if cacheable cl p && (s.liveLine cl p).isSome then (s.lookBytes cl p n, s.useLine cl (lineBase p))
  else
    let a : Access := { place := p, size := 0, kind := .plain, lease := s.leaseFor cl p 0, bti := 0, off := 0, flat := true, pc := 0, word := 0 }
    let s := s.serveLine cl a (lineBase p) []
    (s.lookBytes cl p n, s)
/-- R213, R214: the elements that have not arrived of the first such position do: for each lane whose element lies outside the own
slice and passes its checks, what an ordinary load there finds now. -/
def execWalkerFetchArrive (core turn w : Nat) (s : State) : Host.Outcome State Fault Refusal :=
  let wk := (s.wave core turn).walker w
  if !wk.bound then .next s
  else match s.walkerNext core turn wk with
  | none => .next s
  | some (i, ps) =>
    if ps.any fun x => (s.thread core turn x.1).status != .exited && s.fetchHeld core turn x.1 wk x.2 then .next s
    else
      let r := ps.foldl (fun (a : Sparse DWord × State) x =>
        let v := a.2.walkerLoad (clusterOf core) x.2 (2 ^ wk.esize)
        (insK a.1 x.1 (BitVec.ofNat 64 (natOfBytes v.1)), v.2)) ([], s)
      .next (r.2.modWave core turn fun wv => wv.modWalker w fun x => x.put i r.1)

/-! ## Queue ports (R216 to R222) -/

/-- R217: the queue that KIND and FIFO of a binding word name. -/
def boundQueue (b : Nat) : Nat := if bitsN b 2 0 = 1 then bitsN b 12 8 else 30 + bitsN b 2 0
/-- R217, R218: may the ports be as given? `none` when they may. -/
def Core.portsCause (s : State) (c : Nat) (k : Core) : Option Nat :=
  let bound := boundQueues k.ports
  if 128 < (bound.map fun q => dwBits (s.qlim c q) 6 0).sum then some 5
  else if k.freeEntries < (bound.map (s.reservation c k)).sum then some 5
  else if (List.range 35).any fun q => !(k.queue q).isEmpty && !bound.contains q then some 5
  else none
/-- R217. DESIGN CHOICE (LOG 17): R217 gives FIFO as 0 for the KINDs other than 1; another value is refused as a reserved bit. -/
def qbindBody (port : BitVec 5) (s : State) (vs : List (List Word)) : State ⊕ Word :=
  let b := (wordAt vs 0 0).toNat
  let kind := bitsN b 2 0
  if 5 ≤ kind ∨ bitsN b 7 3 ≠ 0 ∨ bitsN b 31 13 ≠ 0 ∨ (kind ≠ 1 ∧ bitsN b 12 8 ≠ 0) then .inr (bindInfo 6 port.toNat)
  else
    let c := s.cur.core
    let k := s.core c
    let k' := { k with ports := if kind = 0 then delK k.ports port.toNat else insK k.ports port.toNat (boundQueue b) }
    match k'.portsCause s c with
    | some cause => .inr (bindInfo cause port.toNat)
    | none => .inl (s.modCore c fun _ => k')
def execQbind (g : Guard) (port : BitVec 5) (a : Src) (s : State) : Host.Outcome State Fault Refusal :=
  .next (computeOnly s (bindOp s g { srcs := [{ pos := 0, src := a }] } (qbindBody port)))
def execQpop (g : Guard) (cnt : BitVec 3) (d : Operand) (port : Nat) (e : Bool) (s : State) : Host.Outcome State Fault Refusal :=
  let n := cnt.toNat + 1
  .next (computeOnly s (match prep s g { srcs := [{ pos := 0, src := { o := .port port, e }, n }], dst := some { o := d, n } } with
    | .stop s => s
    | .go _ s1 rows =>
      (rows.foldl (fun s p => match d with
        | .reg r => (s.newProd p.1 (.vals (p.2.getD 0 [])) ((List.range n).map (r + ·))).2
        | _ => s) s1).finish))
def execQpush (g : Guard) (cnt : BitVec 3) (port : Nat) (a : Src) (s : State) : Host.Outcome State Fault Refusal :=
  let n := cnt.toNat + 1
  .next (computeOnly s (pureOp s g { srcs := [{ pos := 0, src := a, n }], dst := some { o := .port port, n } } fun vs => (vs.getD 0 [], 0)))
/-- R220: the fault of an unbound port that `qlen` names. -/
def qlenOwn (s : State) (port : Nat) : Extra :=
  { own := fun _ _ _ => if ((s.core s.cur.core).portQueue port).isNone then some (0x0E, bindInfo 3 port, 0) else none }
def execQlen (g : Guard) (d : Operand) (port : Nat) (e : Bool) (s : State) : Host.Outcome State Fault Refusal :=
  .next (computeOnly s (match prep s g { dst := some { o := d } } false (qlenOwn s port) with
    | .stop s => s
    | .go s0 s1 rows =>
      match (s1.core s1.cur.core).portQueue port with
      | none => faultRows s0 rows 0x0E (bindInfo 3 port)
      | some q => (s1.writeDst { o := d } (rows.map fun p => (p.1, [BitVec.ofNat 32 ((s1.core s1.cur.core).queue q).length]))).finish))

end Sys2Proof.Machine
end

