-- ==== Sys2Proof/Machine/Lathe.lean ====
section
/-! DEFINITION. The lathe and accumulator memory (R226 to R253): bank instructions, `lmma`, drains, and the lathe's own
steps. -/

namespace Sys2Proof.Machine

/-! ## Banks (R228 to R233, R247) -/

def amemBand (cause bank : Nat) : Word := BitVec.ofNat 32 (bank % 16 + 16 * cause)
/-- A bank of an allocation that some wave may hold. -/
def Bank.live (b : Bank) : Bool := b.valid && !b.left
/-- R237: held by a wave as owner, with no grant. -/
def Bank.owned (b : Bank) (t : Nat) : Bool := b.live && b.owner == t && !b.granted
def Bank.report (b : Bank) : Bool := b.word.getLsbD 20
def Bank.origin (b : Bank) : Bool := b.word.getLsbD 21
def Core.modBanks (k : Core) (bs : List Nat) (f : Bank → Bank) : Core := bs.foldl (fun k b => k.modBank b f) k
/-- R247, R464: a lathe event; it starts the test of the bank, which is not returned to use before. -/
def State.latheEvent (s : State) (c kind bank : Nat) : State :=
  ((s.raise (clusterOf c) 1 kind [BitVec.ofNat 32 c, BitVec.ofNat 32 bank]).suspect (clusterOf c) 2 (c + 2 ^ 11 * bank)).modCore c fun k =>
    if k.toTest.contains bank then k else { k with toTest := k.toTest ++ [bank] }
/-- R245 to R247: a bank is poisoned, with the origin given. -/
def State.poisonBank (s : State) (c bank : Nat) (array : Bool) : State :=
  let s := s.modCore c fun k => k.modBank bank fun b => { ((b.set 19 19 1).set 20 20 1).set 21 21 (if array then 1 else 0) with bad := false }
  let s := s.crCount (clusterOf c) (nLERR (coreIndex c)) 23 12 1
  (if array then s.latheEvent c 2 bank else s).latheEvent c 1 bank
/-- R244: PEND goes down in a bank; one left by a retired wave is freed at 0 (R233). -/
def Core.lowerPend (k : Core) (b : Nat) : Core :=
  let x := (k.bank b).set 31 24 ((k.bank b).pend - 1)
  if x.left && x.pend == 0 then { k with banks := delK k.banks b } else { k with banks := insK k.banks b x }

/-- R229: the lowest run of `n` free banks. -/
def Core.freeRun (k : Core) (n : Nat) : Option Nat :=
  (List.range (17 - n)).find? fun b => (List.range n).all fun i => k.bankFree (b + i)
/-- R229: a number of banks that `aalloc` refuses. -/
def allocBad (v : Word) : Bool := v == 0 || decide (16 < v.toNat)
def allocOwn : Extra :=
  { own := fun all _ _ => all.first.bind fun vs => if allocBad (wordAt vs 0 0) then some (0x10, amemBand 4 0, 0) else none }
def execAalloc (g : Guard) (d : Operand) (a : Src) (s : State) : Host.Outcome State Fault Refusal :=
  .next (computeOnly s (match prep s g { srcs := [{ pos := 0, src := a }], dst := some { o := d }, once := true } false allocOwn with
    | .stop s => s
    | .go s0 s1 rows =>
      match rows with
      | [] => s1.finish
      | r :: _ =>
        let n := (wordAt r.2 0 0).toNat
        -- DESIGN CHOICE (LOG 18): no bank is concerned, and FINFO[3:0] is 0
        if allocBad (wordAt r.2 0 0) then faultRows s0 rows 0x10 (amemBand 4 0)
        else
          let c := s1.cur.core
          let res : Word × State := match (s1.core c).freeRun n with
            | none => (0xFFFFFFFF, s1)
            | some b => (BitVec.ofNat 32 b, s1.modCore c fun k => k.modBanks ((List.range n).map (b + ·)) fun _ =>
                { word := BitVec.ofNat 32 (1 + 2 * s1.cur.turn + 2 ^ 10 * b + 2 ^ 14 * n) })
          (res.2.writeDst { o := d } (rows.map fun (p : Nat × List (List Word)) => (p.1, [res.1]))).finish))

/-- R249: REPORT of the banks is cleared at the end of the issuing cycle. -/
def State.unreport (s : State) (c : Nat) (bs : List Nat) : State :=
  if bs.isEmpty then s else s.modCore c fun k => { k with cycle := { k.cycle with told := k.cycle.told ++ bs } }
/-- What an instruction that acts once on banks does: go on, fault (and report the poison of the banks `told`), or wait. -/
inductive Once where
  | done (s : State)
  | fault (code : Nat) (info : Word) (told : List Nat := [])
  | wait (w : Wait)
/-- R265: the AMEM-BAND or LATHE fault of an instruction that acts once, as a lane with a walker fault takes it: `pre` is one that the
words which can be read decide. -/
def bankOwn (s : State) (pre : List (List Word) → Option (Nat × Word)) (body : State → Mask → List (List Word) → Once) : Extra :=
  { own := fun all _ vs => match all.first with
      | some ws => (match body s (Mask.ofLanes (all.map (·.1))) ws with | .fault code info [] => some (code, info, 0) | _ => none)
      | none => (pre vs).map fun f => (f.1, f.2, 0) }
/-- The frame of such an instruction, with the words of the lowest-numbered active lane. -/
def bankOp (s : State) (g : Guard) (sp : Spec) (body : State → Mask → List (List Word) → Once)
    (pre : List (List Word) → Option (Nat × Word) := fun _ => none) : State :=
  match prep s g sp false (bankOwn s pre body) with
  | .stop s => s
  | .go s0 s1 rows =>
    match rows with
    | [] => s1.finish
    | r :: _ =>
      match body s1 (Mask.ofLanes (rows.map (·.1))) r.2 with
      | .done s => s.finish
      | .fault code info told => faultRows (s0.unreport s0.cur.core told) rows code info
      | .wait w => s0.block .blockedQueue w
def specWords (as : List Src) (once : Bool := false) : Spec := { srcs := (as.zip (List.range 3)).map fun p => { pos := p.2, src := p.1 }, once }

/-- R232: the banks of the allocation that begins at `b`. -/
def Core.allocation (k : Core) (b : Nat) : List Nat := (List.range 16).filter fun x => (k.bank x).valid && (k.bank x).abase == b
def afreeBody (s : State) (_ : Mask) (vs : List (List Word)) : Once :=
  let v := (wordAt vs 0 0).toNat
  let b := v % 16
  let k := s.core s.cur.core
  let x := k.bank b
  let banks := k.allocation b
  -- DESIGN CHOICE (LOG 18): FINFO[3:0] of cause 3 is S1[3:0], also where another bank of the allocation is the one granted; and a bank
  -- that a retired wave left VALID until its PEND is 0 counts as the OWNER field says
  if 16 ≤ v then .fault 0x10 (amemBand 4 b)
  else if !x.valid || x.abase != b || x.owner != s.cur.turn || banks.any (fun y => (k.bank y).granted) then .fault 0x10 (amemBand 3 b)
  else if banks.any fun y => (k.bank y).pend != 0 then .wait (.pend banks)
  else .done (s.modCore s.cur.core fun k => banks.foldl (fun k y => { k with banks := delK k.banks y }) k)
def execAfree (g : Guard) (a : Src) (s : State) : Host.Outcome State Fault Refusal :=
  .next (computeOnly s (bankOp s g (specWords [a] true) afreeBody))
/-- R230, R231: a range of banks; `top` is where the reserved bits begin. -/
def bandRange (v top : Nat) : Option (List Nat) :=
  let b := bitsN v 3 0
  let n := bitsN v 8 4
  if 2 ^ top ≤ v ∨ n = 0 ∨ 16 < n ∨ 16 < b + n then none else some ((List.range n).map (b + ·))
def abandBody (s : State) (_ : Mask) (vs : List (List Word)) : Once :=
  let v := (wordAt vs 0 0).toNat
  let k := s.core s.cur.core
  let t := bitsN v 12 9
  match bandRange v 13 with
  | none => .fault 0x10 (amemBand 4 v)
  | some banks =>
    match banks.find? fun b => !(k.bank b).owned s.cur.turn with
    | some b => .fault 0x10 (amemBand 1 b)
    | none =>
      -- DESIGN CHOICE (LOG 18): where TURN alone is at fault, FINFO[3:0] is BANK
      if t = s.cur.turn ∨ !(k.wave t).live ∨ (k.wave t).alive = 0 then .fault 0x10 (amemBand 1 v)
      else .done (s.modCore s.cur.core fun k => k.modBanks banks fun b => (b.set 5 5 1).set 9 6 t)
def execAband (g : Guard) (a : Src) (s : State) : Host.Outcome State Fault Refusal :=
  .next (computeOnly s (bankOp s g (specWords [a] true) abandBody))
def arelBody (s : State) (_ : Mask) (vs : List (List Word)) : Once :=
  let v := (wordAt vs 0 0).toNat
  let k := s.core s.cur.core
  match bandRange v 9 with
  | none => .fault 0x10 (amemBand 4 v)
  | some banks =>
    match banks.find? fun b => !((k.bank b).live && (k.bank b).granted && (k.bank b).grantee == s.cur.turn) with
    | some b => .fault 0x10 (amemBand 2 b)
    | none => .done (s.modCore s.cur.core fun k => k.modBanks banks fun b => b.set 5 5 0)
def execArel (g : Guard) (a : Src) (s : State) : Host.Outcome State Fault Refusal :=
  .next (computeOnly s (bankOp s g (specWords [a] true) arelBody))
def execAinfo (g : Guard) (d : Operand) (a : Src) (s : State) : Host.Outcome State Fault Refusal :=
  .next (computeOnly s (laneOp s g { srcs := [{ pos := 0, src := a }], dst := some { o := d } } fun s _ vs =>
    (s, [((s.core s.cur.core).bank ((wordAt vs 0 0).toNat % 16)).word], 0)))

/-! ## Drains (R248 to R252) -/

def nan32 : Word := 0x7FC00000
/-- R250: the elements at keys `ks` of a bank: NaN, with AMU, where it is unallocated or poisoned. -/
def Bank.read (b : Bank) (ks : List Nat) : List Word × Bool :=
  if !b.valid || b.poison then (ks.map fun _ => nan32, true) else (ks.map (getK 0 b.data), false)
def Bank.clear (b : Bank) (ks : List Nat) : Bank :=
  if !b.valid || b.poison then b else { b with data := ks.foldl (fun m k => putK 0 m k 0) b.data }
/-- R246: a drain finds an error of the array. DESIGN CHOICE (LOG 18): in a bank that is poisoned already it is found as in any
other: REPORT is set again, and the count and the events are made again. -/
def State.findBad (s : State) (c b : Nat) : State :=
  if ((s.core c).bank b).bad && ((s.core c).bank b).valid then
    -- the drain that finds the error takes no fault; REPORT stands for the next one
    s.poisonBank c b true
  else s
/-- R249: the fault that reports a poisoned bank. -/
def reportFault (b : Bank) (n : Nat) : Option (Nat × Word × DWord) :=
  if b.valid && b.poison && b.report then
    some (if b.origin then (0x11, BitVec.ofNat 32 n, 0) else (0x12, BitVec.ofNat 32 (3 + 16 * n), 0))
  else none

/-- R251: the registers a lane's region fills from D. DESIGN CHOICE (LOG 18): QUOTA is checked before cause 4, and of a malformed NCOL
it counts 1 register (for 0) or 32 (above 32). -/
def aldCount (v : Nat) : Nat := max 1 (min 32 (bitsN v 14 9))
/-- R251: the first register out of quota of the regions that the lanes' words name. -/
def State.aldOut (s : State) (base : Nat) (vs : List Nat) : Option Nat :=
  vs.findSome? fun v => firstOut (s.quotaOf s.cur.core s.cur.turn) (s.deadBelow s.cur.core s.cur.turn) [(base, aldCount v, 1)]
def aldOwn (s : State) (base : Nat) : Extra :=
  { own := fun all _ _ => (s.aldOut base ((all.filter fun p => !(p.2.getD 0 []).isEmpty).map fun p => (wordAt p.2 0 0).toNat)).map
      fun r => (2, BitVec.ofNat 32 r, 0) }
def execAld (g : Guard) (d : Operand) (a : Src) (s : State) : Host.Outcome State Fault Refusal :=
  let base := match d with | .reg r => r | _ => 0
  .next (computeOnly s (match prep s g { srcs := [{ pos := 0, src := a }], dst := some { o := d } } false (aldOwn s base) with
    | .stop s => s
    | .go s0 s1 rows =>
      let c := s.cur.core
      let t := s.cur.turn
      let rows : List (Nat × Nat) := rows.map fun p => (p.1, (wordAt p.2 0 0).toNat)
      match s.aldOut base (rows.map (·.2)) with
      | some r => (s0.takeFaults (Mask.ofLanes (rows.map fun p => p.1)) 2 (BitVec.ofNat 32 r)).finish
      | none =>
        let k := s1.core c
        let chk := splitFaults rows fun _ v =>
          let b := bitsN v 3 0
          let n := bitsN v 14 9
          if 2 ^ 16 ≤ v ∨ n = 0 ∨ 32 < n ∨ 32 < bitsN v 8 4 + n then some (0x10, amemBand 4 b, 0)
          else if (k.bank b).valid && !(k.bank b).heldBy t then some (0x10, amemBand 0 b, 0) else none
        let busy := (chk.2.map fun p => bitsN p.2 3 0).filter fun b => (k.bank b).valid && (k.bank b).pend != 0
        if !busy.isEmpty then s0.faultAndBlock chk.1 .blockedQueue (.pend busy)
        else
          let rep := splitFaults chk.2 fun _ v => reportFault (k.bank (bitsN v 3 0)) (bitsN v 3 0)
          let told := (chk.2.map fun p => bitsN p.2 3 0).filter fun b => (reportFault (k.bank b) b).isSome
          if rep.2.isEmpty then ((s0.takeEach (chk.1 ++ rep.1)).unreport c told).finish
          else
            let s := (s1.takeEach (chk.1 ++ rep.1)).unreport c told
            let s := rep.2.foldl (fun s p => s.findBad c (bitsN p.2 3 0)) s
            let s := rep.2.foldl (fun s p =>
              let b := bitsN p.2 3 0
              let n := bitsN p.2 14 9
              let ks := (List.range n).map fun j => 32 * p.1 + bitsN p.2 8 4 + j
              let r := ((s.core c).bank b).read ks
              let s := if p.2.testBit 15 then s.modCore c fun k => k.modBank b fun x => x.clear ks else s
              (if r.2 then s.curFlags Flags.amu else s).newProd p.1 (.vals r.1) ((List.range n).map (base + ·)) |>.2) s
            s.finish))

/-- R252: the malformed words of `ast`. -/
def astBad (v off : Nat) : Bool :=
  bitsN v 23 17 != 0 || bitsN v 14 9 == 0 || decide (32 < bitsN v 14 9) || decide (32 < bitsN v 8 4 + bitsN v 14 9) ||
  decide (bitsN v 31 24 < if v.testBit 16 then 1 else 2) || off % 64 != 0
/-- R252, R265: what S1 of an `ast` alone decides, where its offset cannot be read. -/
def State.astPre (s : State) (vs : List (List Word)) : Option (Nat × Word) :=
  let v := (wordAt vs 0 0).toNat
  let n := bitsN v 3 0
  let bk := (s.core s.cur.core).bank n
  if (vs.getD 0 []).isEmpty then none
  else if astBad v 0 then some (0x10, amemBand 4 n)
  else if bk.valid && !bk.heldBy s.cur.turn then some (0x10, amemBand 0 n)
  else none
def astBody (s : State) (act : Mask) (vs : List (List Word)) : Once :=
  let v := (wordAt vs 0 0).toNat
  let off := (wordAt vs 1 0).toNat
  let c := s.cur.core
  let n := bitsN v 3 0
  let bk := (s.core c).bank n
  let row0 := bitsN v 8 4
  let nrow := bitsN v 14 9
  let pitch := bitsN v 31 24
  let cols := if v.testBit 16 then 16 else 32
  if astBad v off then .fault 0x10 (amemBand 4 n)
  else if bk.valid && !bk.heldBy s.cur.turn then .fault 0x10 (amemBand 0 n)
  else if (List.range nrow).any fun i => !s.spOk c (off + 64 * pitch * i) (4 * cols) then .fault 0x12 2
  else if bk.valid && bk.pend != 0 then .wait (.pend [n])
  else match reportFault bk n with
  | some e => .fault e.1 e.2.1 [n]
  | none =>
    let s := s.findBad c n
    let bk := (s.core c).bank n
    let keys := fun i => (List.range cols).map fun j => 32 * (row0 + i) + j
    let rows := (List.range nrow).map fun i => (ownAddr c (off + 64 * pitch * i), bytesOfWords (bk.read (keys i)).1)
    let (id, s) := s.bump
    let s := s.modCore c fun k =>
      let k := if v.testBit 15 then k.modBank n fun x => (List.range nrow).foldl (fun x i => x.clear (keys i)) x else k
      { k with asts := k.asts ++ [{ op := id, turn := s.cur.turn, uid := (k.wave s.cur.turn).uid, rows,
                                    fl := if (bk.read []).2 then Flags.amu else 0 }] }
    .done (s.joinOp act 1 id)
def execAst (g : Guard) (a b : Src) (s : State) : Host.Outcome State Fault Refusal :=
  .next (computeOnly s (bankOp s g (specWords [a, b] true) astBody s.astPre))
/-- R252, R391: an `ast` writes its rows, with their tags, at the banks, and completes once the lease clock is after the
writes' visibility times. -/
def execAstWriteComplete (core id : Nat) (s : State) : Host.Outcome State Fault Refusal :=
  .next (match (s.core core).asts.find? fun a => a.op == id with
    | none => s
    | some a =>
      let rest := fun (f : AstOp → List AstOp) (s : State) => s.modCore core fun k =>
        { k with asts := k.asts.flatMap fun x => if x.op == id then f x else [x] }
      match a.vis with
      | none =>
        let v := a.rows.foldl (fun (v : Lease) r => Lease.later v (s.visSpan (.sram r.1) r.2.length)) s.lease
        let s := a.rows.foldl (fun s r =>
          let s := s.wrSram r.1 r.2
          (List.range (r.2.length / 64)).foldl (fun s i => s.setTag (.sram (r.1 + 64 * i)) 0x7F01) s) s
        rest (fun x => [{ x with vis := some v }]) s
      | some v =>
        if Lease.before v s.lease then
          let s := s.opFlags core a.uid a.fl
          rest (fun _ => []) (s.completeOp core id none)
        else s)

/-! ## Issuing a command (R234 to R237, R240, R242) -/

structure LatheCmd where
  mt : Nat
  nh : Nat
  kc : Nat
  dbank : Nat
  acc : Bool
  width : Nat
  ova : BitVec 8
  ovb : BitVec 8
  a : DWord
  b : DWord
  deriving DecidableEq, Repr
/-- R235: the fields of a parameter block. -/
def LatheCmd.ofWords (ws : List Word) : LatheCmd :=
  let shape := ws.getD 4 0
  let ctrl := ws.getD 5 0
  { mt := wBits shape 4 0, nh := wBits shape 10 5, kc := wBits shape 18 11, dbank := wBits ctrl 3 0, acc := ctrl.getLsbD 4,
    width := wBits ctrl 6 5, ova := ctrl.extractLsb' 8 8, ovb := ctrl.extractLsb' 16 8,
    a := pairOf (ws.getD 0 0) (ws.getD 1 0), b := pairOf (ws.getD 2 0) (ws.getD 3 0) }
def LatheCmd.ng (c : LatheCmd) : Nat := (c.nh + 1) / 2
def LatheCmd.banks (c : LatheCmd) : List Nat := (List.range (c.mt * c.ng)).map (c.dbank + ·)
/-- R239: element width in bits; R105: elements of a chunk. -/
def LatheCmd.ebits (c : LatheCmd) : Nat := match c.width with | 0 => 16 | 1 => 8 | _ => 4
def LatheCmd.chunk (c : LatheCmd) : Nat := 512 / c.ebits
/-- R239: the lathe formats of a width. -/
def latheFmt (w : Nat) (c : BitVec 8) : Option Fmt := (fmtOf c).bind fun f => if f.width = w then some f else none
def descSrc (d : DWord) : Nat := dwBits d 1 0
/-- R240: the registers a descriptor names. -/
def descRegs (kc : Nat) (d : DWord) : Option (Nat × Nat) := if descSrc d = 1 then some (dwBits d 11 2, 16 * kc) else none
/-- R237: is a descriptor malformed? `wide` says that its other dimension is above what registers allow. -/
def descBad (c : LatheCmd) (d : DWord) (ov : BitVec 8) (wide : Bool) : Bool :=
  (ov != 0 && (latheFmt c.ebits ov).isNone) ||
  (match descSrc d with
   | 0 => decide (6 ≤ dwBits d 4 2) || dwBit d 5
   | 1 => dwBits d 63 12 != 0 || ov == 0 || decide (4 < c.kc) || dwBits d 11 2 % 16 != 0 || wide
   | _ => true)
/-- R237: LATHE cause 0. -/
def latheBad (ws : List Word) : Bool :=
  let c := LatheCmd.ofWords ws
  wBits (ws.getD 4 0) 31 19 != 0 || (ws.getD 5 0).getLsbD 7 || wBits (ws.getD 5 0) 31 24 != 0 ||
  c.mt == 0 || decide (16 < c.mt) || c.nh == 0 || decide (32 < c.nh) || c.kc == 0 || c.width == 3 ||
  decide (16 < c.mt * c.ng) || decide (16 < c.dbank + c.mt * c.ng) ||
  descBad c c.a c.ova (decide (1 < c.mt)) || descBad c c.b c.ovb (decide (2 < c.nh))
/-- R238: the block that holds chunk `ch` of line `n`. -/
def descBlock (d : DWord) (n ch : Nat) : Nat :=
  let a := (dwBits d 47 6 * 64 + 64 * (n * dwBits d 55 48 + ch * dwBits d 63 56)) % 2 ^ 48
  let rot := dwBits d 4 2
  if rot = 0 then a else a ^^^ (n / 2 ^ (rot - 1) % 4 * 64)
/-- R237: LATHE cause 2. Blocks rise with the line and the chunk, and the rotation stays inside 256 bytes, so the first and
the last block decide. -/
def State.descOutside (s : State) (c kc lines : Nat) (d : DWord) : Bool :=
  if descSrc d ≠ 0 then false
  else
    let v := s.ccr c nSPALLOC
    let lo := ownAddr c (dwBits v 9 0 * 256)
    let hi := lo + dwBits v 25 16 * 256
    let first := dwBits d 47 6 * 64
    let last := first + 64 * ((lines - 1) * dwBits d 55 48 + (kc - 1) * dwBits d 63 56)
    !(decide (lo ≤ first) && decide (last + 64 ≤ hi))

/-- R234: what an `lmma` does with its block; `q` is the port of a queued one. -/
def lmmaOp (s : State) (g : Guard) (pb : Nat) (e : Bool) (q : Option Nat) : State :=
  match prep s g { srcs := [{ pos := 0, src := { o := .reg pb, e }, n := 6, al := 2 }], once := true } with
  | .stop s => s
  | .go s0 s1 rows =>
    match rows with
    | [] => s1.finish
    | r :: _ =>
      let c := s1.cur.core
      let t := s1.cur.turn
      let ws := r.2.getD 0 []
      let cmd := LatheCmd.ofWords ws
      let w := s1.wave c t
      let ranges := (descRegs cmd.kc cmd.a).toList ++ (descRegs cmd.kc cmd.b).toList
      match firstOut (s1.quotaOf c t) (s1.deadBelow c t) (ranges.map fun x => (x.1, x.2, 1)) with
      | some x => faultRows s0 rows 2 (BitVec.ofNat 32 x)
      | none =>
      let holes := ranges.flatMap fun x => (List.range 32).flatMap fun l =>
        (((List.range x.2).map (x.1 + ·)).filter (w.thread l).isEmpty).map fun y => (l, y)
      if !holes.isEmpty && !e then s0.block .blockedEmpty (.lanes holes)
      else match holes.map (·.2) with
      | h :: hs => faultRows s0 rows 3 (BitVec.ofNat 32 (hs.foldl Nat.min h))
      | [] =>
      let k := s1.core c
      match q.bind fun p => (match k.portQueue p with | none => some (3, p) | some x => if x = 32 then none else some (4, p)) with
      | some x => faultRows s0 rows 0x0E (bindInfo x.1 x.2)
      | none =>
      if latheBad ws then faultRows s0 rows 0x12 0
      else match cmd.banks.find? fun b => !(k.bank b).owned t with
      | some b => faultRows s0 rows 0x12 (BitVec.ofNat 32 (1 + 16 * b))
      | none =>
      if s1.descOutside c cmd.kc (32 * cmd.mt) cmd.a || s1.descOutside c cmd.kc (16 * cmd.nh) cmd.b then faultRows s0 rows 0x12 2
      else
      let cap := fun d => match descRegs cmd.kc d with
        | some x => (List.range 32).map fun l => (List.range x.2).map fun i => (w.thread l).reg (x.1 + i)
        | none => []
      let go := fun (put : Nat → Core → Core) =>
        let (id, s) := s1.bump
        ((s.modCore c fun k => (put id k).modBanks cmd.banks fun b => b.set 31 24 (b.pend + 1)).joinOp (Mask.ofLanes (rows.map (·.1))) 1 id).finish
      match q with
      | none =>
        if 4 ≤ k.lathe.length then s0.block .blockedQueue .latheRoom
        else go fun id k => { k with lathe := k.lathe ++ [{ turn := t, uid := w.uid, op := id, words := ws, regsA := cap cmd.a, regsB := cap cmd.b }] }
      | some p =>
        if !s1.pushOk c k 32 then s0.block .blockedQueue (.ports [] [(p, 1)])
        else go fun id k => k.setQueue 32 (k.queue 32 ++ [.cmd ws t w.uid id (cap cmd.a) (cap cmd.b)])
def execLmma (g : Guard) (pb : Nat) (e : Bool) (s : State) : Host.Outcome State Fault Refusal := .next (computeOnly s (lmmaOp s g pb e none))
def execLmmaQueued (g : Guard) (pb : Nat) (e : Bool) (port : BitVec 5) (s : State) : Host.Outcome State Fault Refusal :=
  .next (computeOnly s (lmmaOp s g pb e (some port.toNat)))

/-! ## The lathe (R239, R241 to R246) -/

/-- R242: the head of the lathe command queue is accepted when fewer than four commands are held. -/
def execLatheCommandAccept (core : Nat) (s : State) : Host.Outcome State Fault Refusal :=
  .next (match (s.core core).queue 32 with
    | .cmd ws t uid op ra rb :: rest =>
      if 4 ≤ (s.core core).lathe.length then s
      else s.modCore core fun k =>
        { k.setQueue 32 rest with lathe := k.lathe ++ [{ turn := t, uid, op, words := ws, regsA := ra, regsB := rb }] }
    | _ => s)

/-- R243: the key of what a step reads at a place. -/
def LatheRun.key (r : LatheRun) (a : Nat) : Nat := r.step * 2 ^ 48 + a
/-- R243: an 8-byte word of the own slice as the current step reads it, and a block's tag. -/
def State.latheWord (s : State) (r : LatheRun) (a : Nat) : Nat :=
  match findK r.ahead (r.key (a / 8)) with | some v => v.toNat | none => natOfBytes (s.rdSram a 8)
def State.latheTag (s : State) (r : LatheRun) (a : Nat) : Tag :=
  match findK r.aheadT (r.key (a / 64)) with | some t => t | none => s.tagAt (.sram a)
/-- R239: the elements of chunk `ch` of line `n` of an operand, and whether INV is set. A block whose tag is reserved is read as
raw (R94, R95; LOG 18). -/
def State.latheLine (s : State) (r : LatheRun) (w chunk : Nat) (d : DWord) (ov : BitVec 8) (regs : List (List Word)) (n ch : Nat) : List FVal × Bool :=
  let code := fun (v e : Nat) => v / 2 ^ (w * e) % 2 ^ w
  if descSrc d = 1 then
    let v := natOfWords (((regs.getD n []).drop (16 * ch)).take 16)
    match latheFmt w ov with
    | some f => ((List.range chunk).map fun e => decodeElem f 127 (code v e), false)
    | none => (List.replicate chunk (.nan false), true)
  else
    let a := descBlock d n ch
    let t := s.latheTag r a
    let v := (List.range 8).foldl (fun v i => v + s.latheWord r (a + 8 * i) * 2 ^ (64 * i)) 0
    let fmt := if ov = 0 then tagFmt t else ov
    let scl := if (fmtOf (tagFmt t)).isNone then 127 else tagScl t
    match latheFmt w fmt with
    | some f => ((List.range chunk).map fun e => decodeElem f scl (code v e), fmtReserved (tagFmt t))
    | none => (List.replicate chunk (.nan false), true)

/-- R241: one product step: the new elements of a bank, with the flags. -/
def State.latheProduct (s : State) (r : LatheRun) (c : LatheCmd) (bank : Bank) (mt g ch : Nat) : Sparse Word × Flags :=
  let cols := if 2 * g + 1 < c.nh then 32 else 16
  let la := (List.range 32).map fun i => s.latheLine r c.ebits c.chunk c.a c.ova r.regsA (32 * mt + i) ch
  let lb := (List.range cols).map fun j => s.latheLine r c.ebits c.chunk c.b c.ovb r.regsB (32 * g + j) ch
  let inv : Flags := if la.any (·.2) || lb.any (·.2) then Flags.inv else 0
  ((la.zip (List.range 32)).foldl (fun (m : Sparse Word × Flags) p =>
    (lb.zip (List.range cols)).foldl (fun m q =>
      let key := 32 * p.2 + q.2
      let sum := (p.1.1.zip q.1.1).foldl (fun (x : ChunkSum) e => x.add e.1 e.2) ChunkSum.zero
      let acc := if ch = 0 ∧ !c.acc then 0 else (getK 0 bank.data key).toNat
      let res := accumulate acc sum
      (putK 0 m.1 key (BitVec.ofNat 32 res.code), m.2 ||| res.fl)) m) (bank.data, inv))

/-- The bank, row group, column group and chunk of a command's step. -/
def LatheCmd.at_ (c : LatheCmd) (step : Nat) : Nat × Nat × Nat × Nat :=
  let ch := step % c.kc
  let g := step / c.kc % c.ng
  let mt := step / c.kc / c.ng
  (c.dbank + mt * c.ng + g, mt, g, ch)
def LatheCmd.steps (c : LatheCmd) : Nat := c.mt * c.ng * c.kc
def Core.setRun (k : Core) (r : LatheRun) : Core := { k with lathe := r :: k.lathe.drop 1 }

/-- R243: the scratchpad blocks that a step of a command reads. -/
def LatheRun.blocks (r : LatheRun) (step : Nat) : List Nat :=
  let c := LatheCmd.ofWords r.words
  let (_, mt, g, ch) := c.at_ step
  (if descSrc c.a = 0 then (List.range 32).map fun i => descBlock c.a (32 * mt + i) ch else []) ++
  (if descSrc c.b = 0 then (List.range (if 2 * g + 1 < c.nh then 32 else 16)).map fun j => descBlock c.b (32 * g + j) ch else [])
/-- R243: of the words and tags that a step to come will read, those that the bits of `n` pick are read now, once each. -/
def State.latheAhead (s : State) (r : LatheRun) (step n : Nat) : LatheRun :=
  let at_ := { r with step }
  ((r.blocks step).zip (List.range 64)).foldl (fun (x : LatheRun) p =>
    let x := if n.testBit (9 * p.2) && (findK x.aheadT (at_.key (p.1 / 64))).isNone then
      { x with aheadT := insK x.aheadT (at_.key (p.1 / 64)) (s.tagAt (.sram p.1)) } else x
    (List.range 8).foldl (fun (x : LatheRun) i =>
      let a := p.1 + 8 * i
      if n.testBit (9 * p.2 + 1 + i) && (findK x.ahead (at_.key (a / 8))).isNone then
        { x with ahead := insK x.ahead (at_.key (a / 8)) (BitVec.ofNat 64 (natOfBytes (s.rdSram a 8))) } else x) x) r
/-- R243: the lathe reads ahead for one of its commands; which, for which step, and what is open. -/
def latheReadAhead (core : Nat) (s : State) : Host.Outcome State Fault Refusal :=
  let (i, s) := s.openNat
  let (j, s) := s.openNat
  let (n, s) := s.openNat
  .next (s.modCore core fun k =>
    match k.lathe[i % 4]? with
    | some r =>
      let st := (LatheCmd.ofWords r.words).steps
      if r.step < st then { k with lathe := k.lathe.set (i % 4) (s.latheAhead r (r.step + j % (st - r.step)) n) } else k
    | none => k)
/-- R241, R245, R246: one step of the running command. -/
def execLatheStep (core : Nat) (err : LatheErr) (s : State) : Host.Outcome State Fault Refusal :=
  .next (match (s.core core).lathe with
    | [] => s
    | r :: _ =>
      let c := LatheCmd.ofWords r.words
      if c.steps ≤ r.step then s
      else
        let (b, mt, g, ch) := c.at_ r.step
        let bank := (s.core core).bank b
        let skip := fun (s : State) => s.modCore core fun k => k.setRun { r with step := r.step + 1 }
        let mism := fun (s : State) => (s.crCount (clusterOf core) (nLERR (coreIndex core)) 11 0 1).latheEvent core 0 b
        if bank.poison then skip s
        else if (ch ≠ 0 ∨ c.acc) ∧ (err = .array ∨ bank.bad) then skip (s.poisonBank core b true)
        else if err = .mismatchTwice then skip ((mism (mism s)).poisonBank core b false)
        else
          let s := if err = .mismatchOnce then mism s else s
          let p := s.latheProduct r c bank mt g ch
          s.modCore core fun k => (k.modBank b fun x =>
              { x with data := p.1, bad := x.bad && !(ch = 0 && !c.acc && decide (2 * g + 1 < c.nh)) }).setRun
            { r with step := r.step + 1, flags := r.flags ||| p.2 })
/-- R244: a command whose steps have ended completes. -/
def execLatheCommandComplete (core : Nat) (s : State) : Host.Outcome State Fault Refusal :=
  .next (match (s.core core).lathe with
    | [] => s
    | r :: rest =>
      let c := LatheCmd.ofWords r.words
      if r.step < c.steps then s
      else
        let s := s.modCore core fun k => { c.banks.foldl Core.lowerPend k with lathe := rest }
        let s := s.opFlags core r.uid r.flags
        s.completeOp core r.op none)

end Sys2Proof.Machine
end

