-- ==== Sys2Proof/Machine/Batch.lean ====
section
/-! DEFINITION. Batches: `seal`, `waitb` and `bstat` (R25, R26, R254 to R262). -/

namespace Sys2Proof.Machine

/-- R254: class codes. -/
def clsNo : EngClass → Nat
  | .copy => 0 | .lathe => 1 | .net => 2 | .wayside => 3 | .mcast => 4
/-- R258, R266: the failure fault of a class. -/
def failFault (cls cause : Nat) : Nat × Word := (if cls = 0 then 0x13 else 0x14, BitVec.ofNat 32 (cls + 16 * (cause % 16)))
/-- R256: the open batch is sealed. -/
def BatchCtr.seal (b : BatchCtr) : BatchCtr := BatchCtr.settle { openOps := 0, cur := {}, queue := b.queue ++ [b.cur] }
/-- R258: the failed batch is retired. -/
def BatchCtr.retire (b : BatchCtr) : BatchCtr := BatchCtr.settle { b with queue := b.queue.drop 1 }
/-- R258: lanes that take the failure fault have their failed batch retired. -/
def State.failLanes (s : State) (cls : Nat) (fs : List LaneFault) : State :=
  if fs.isEmpty then s else (s.takeEach fs).modThreads s.cur.core s.cur.turn (Mask.ofLanes (fs.map fun (e : LaneFault) => e.1)) fun _ t => t.modBatch cls BatchCtr.retire
/-- The lanes in which a condition on the counters fails and FAILED is 1. -/
def State.failedRows (s : State) (cls : Nat) (rows : List (Nat × List (List Word))) (met : BatchCtr → List (List Word) → Bool) :
    List LaneFault × List (Nat × List (List Word)) :=
  splitFaults rows fun l vs =>
    let b := (s.curThread l).batch cls
    if met b vs then none else b.failed.map fun c => ((failFault cls c).1, (failFault cls c).2, 0)

def execSeal (g : Guard) (c : EngClass) (s : State) : Host.Outcome State Fault Refusal :=
  let cls := clsNo c
  .next (match prep s g {} with
    | .stop s => s
    | .go s0 s1 rows =>
      let room := fun (b : BatchCtr) => decide (b.queue.length < 15)
      let f := s1.failedRows cls rows fun b _ => room b
      let full := (f.2.map fun (p : Nat × List (List Word)) => p.1).filter fun l => !room ((s1.curThread l).batch cls)
      if !full.isEmpty then
        ({ s0.failLanes cls f.1 with cur := { s0.cur with lanes := s0.cur.lanes &&& ~~~(Mask.ofLanes (f.1.map fun (e : LaneFault) => e.1)) } }).block
          .blockedQueue (.sealed cls full)
      else
        ((s1.failLanes cls f.1).modThreads s1.cur.core s1.cur.turn (Mask.ofLanes (f.2.map fun (p : Nat × List (List Word)) => p.1))
          fun _ t => t.modBatch cls BatchCtr.seal).finish)

/-- R259: a lane is satisfied when SEALED ≤ n. -/
def waitbMet (b : BatchCtr) (vs : List (List Word)) : Bool := decide (b.queue.length ≤ (wordAt vs 0 0).toNat)
def execWaitb (g : Guard) (c : EngClass) (a : Src) (s : State) : Host.Outcome State Fault Refusal :=
  let cls := clsNo c
  .next (match prep s g (specWords [a]) with
    | .stop s => s
    | .go s0 s1 rows =>
      let f := s1.failedRows cls rows waitbMet
      let unmet := f.2.filter fun p => !waitbMet ((s1.curThread p.1).batch cls) p.2
      if f.2.isEmpty then (s0.failLanes cls f.1).finish
      else if unmet.isEmpty then (s1.failLanes cls f.1).finish
      else
        ({ s0.failLanes cls f.1 with cur := { s0.cur with lanes := s0.cur.lanes &&& ~~~(Mask.ofLanes (f.1.map fun (e : LaneFault) => e.1)) } }).block
          .blockedQueue (.waitb cls (unmet.map fun (p : Nat × List (List Word)) => (p.1, (wordAt p.2 0 0).toNat))))
def execBstat (g : Guard) (c : EngClass) (d : Operand) (s : State) : Host.Outcome State Fault Refusal :=
  .next (laneOp s g { dst := some { o := d } } fun s l _ => (s, [((s.curThread l).batch (clsNo c)).word], 0))

end Sys2Proof.Machine
end

