-- ==== Sys2Proof/Machine/Engine.lean ====
section
/-! DEFINITION. What every engine shares: its translations and accesses at homes (R283, R289 to R291, R371, R391, R409), and
queues in memory (R279 to R283, R326, R485). -/

namespace Sys2Proof.Machine

/-! ## Values the spec leaves open -/

/-- An event whose cluster the spec does not give. -/
def State.raiseSome (s : State) (source kind : Nat) (pay : List Word) : State :=
  let (n, s) := s.openNat
  s.raise (n % 16) source kind pay

/-! ## Accesses at a home -/

/-- An engine reads bytes at a home; what another package holds is open, and is asked for block by block (R474). -/
def State.eRead (s : State) (p : Place) (n : Nat) : List Byte × State :=
  match p with
  | .far .. => ((blocksOf p n).foldl (fun (s : State) b => s.farAsk b.1 64) s).openBytes n
  | p => (s.rdHome p n, s.touchSpan p n none)
/-- An engine writes bytes at a home, with the visibility time the home returns: the latest of the lines they lie in. -/
def State.eWrite (s : State) (p : Place) (bs : List Byte) : Lease × State :=
  (s.visSpan p bs.length, (((s.wrHome p bs).touchSpan p bs.length none).farUsed p).farPut p (bs.map some))
/-- R288, R436, R488: an engine's write that fails: each byte is old or new. -/
def State.eMix (s : State) (p : Place) (bs : List Byte) : Lease × State :=
  match p with
  | .far .. => let (xs, s) := s.mixFar bs; (s.visTime p, (s.farUsed p).farPut p xs)
  | p => let (xs, s) := s.mixBytes (s.rdHome p bs.length) bs; s.eWrite p xs
/-- An engine writes the tag of a block at its home. -/
def State.eTag (s : State) (p : Place) (t : Tag) : State := (s.setTag p t).farTag p t
/-- An engine writes its part of a block, with the block's tag where it has one; a whole block and its tag replace an error (R402). With
`mixed`, each byte and the tag is old or new (R288, R436, R488). -/
def State.eBlock (s : State) (p : Place × Nat) (now : List Byte) (tag : Option Tag) (mixed : Bool := false) : Lease × State :=
  let (x, s) := if mixed then s.eMix p.1 now else s.eWrite p.1 now
  let (flip, s) := if mixed then s.openBit else (true, s)
  let s := match tag with | some t => if flip then s.eTag p.1 t else s | none => s
  (x, match p.1 with | .hbm d => if p.2 = 64 && tag.isSome && !mixed then s.clearBad d else s | _ => s)
def State.eRead64 (s : State) (p : Place) : DWord × State := let (b, s) := s.eRead p 8; (BitVec.ofNat 64 (natOfBytes b), s)
/-- A 64-bit atomic add at a home (R281, R289): the old value. -/
def State.eAdd64 (s : State) (p : Place) (v : Nat) : DWord × State :=
  let (o, _, s) := s.performAtom p 0 true (BitVec.ofNat 64 v) 0
  (BitVec.ofNat 64 o, (s.touchSpan p 8 none).farUsed p)
/-- May an engine's access to a place proceed now (R414, R417, R421)? -/
def State.eHeld (s : State) (p : Place) : Bool := s.heldPlace p

/-! ## Checks (R283, R407, R409) -/

/-- What an engine's check finds: something, the cause of a rejection, or a page held by ZBUSY. -/
inductive EChk (α : Type) where
  | ok (a : α)
  | bad (cause : Nat)
  | wait
  deriving Repr

/-- The cause that R288 gives a failed check of a buffer byte. -/
def causeOf (code : Nat) : Nat := if code = 8 then 5 else 2
/-- R409: an engine's access walks for itself. A page held by ZBUSY is waited for as a walk of the cluster, and fails with it;
a held home is waited for (R414, R417, R421). -/
def State.engineWalk (s : State) (cl bti page : Nat) : EChk (Nat × BitVec 512 × Nat) × State :=
  match findK (s.cl cl).walkFail (pageKey bti page) with
  | some w => (.ok (16 + w.toNat, s.tableEntry bti, 0), s.modCl cl fun k => { k with walkFail := delK k.walkFail (pageKey bti page) })
  | none =>
    if s.walkHeld bti page then (.wait, s)
    else
      let (r, e, f, s) := s.walkPage bti page
      if r ≠ 6 then (.ok (r, e, f), s)
      else if (s.cl cl).walks.any fun w => w.bti == bti && w.page == page then
        (.wait, s.modCl cl fun k => { k with walks := k.walks.map fun w => if w.bti = bti ∧ w.page = page then { w with eng := true } else w })
      else (.wait, s.modCl cl fun k => { k with walks := k.walks ++ [{ bti, page, busy := some s.lease, eng := true }] })
/-- R407: an engine's access in one page. `cause` names the cause of a fault code. -/
def State.engineChkBy (s : State) (cause : Nat → Nat) (cl : Nat) (part : BitVec 4) (bti off size right : Nat) :
    EChk (Place × BitVec 512) × State :=
  match s.engineWalk cl bti (off / 65536) with
  | (.ok (r, e, f), s) =>
    (match checkEntry part bti off size right r e f with
    | .ok p e => (.ok (p, e), s)
    | .bad code _ _ => (.bad (cause code), s)
    | .miss _ _ => (.wait, s))
  | (.bad c, s) => (.bad c, s)
  | (.wait, s) => (.wait, s)
def State.engineChk (s : State) (cl : Nat) (part : BitVec 4) (bti off size right : Nat) : EChk (Place × BitVec 512) × State :=
  s.engineChkBy causeOf cl part bti off size right

/-- The pages' parts of a run of buffer bytes: offset and length. -/
def pageParts (off n : Nat) : List (Nat × Nat) :=
  (List.range ((off % 65536 + n + 65535) / 65536)).map fun i =>
    let lo := Nat.max (65536 * (off / 65536 + i)) off
    let hi := Nat.min (65536 * (off / 65536 + i + 1)) (off + n)
    (lo, hi - lo)
/-- The walks of all pages of a run, in order. -/
def State.engineWalks (s : State) (cl bti : Nat) : List (Nat × Nat) → EChk (List (Nat × Nat × Nat × BitVec 512 × Nat)) × State
  | [] => (.ok [], s)
  | (off, n) :: rest =>
    match s.engineWalk cl bti (off / 65536) with
    | (.ok w, s) =>
      (match State.engineWalks s cl bti rest with
      | (.ok l, s) => (.ok ((off, n, w) :: l), s)
      | r => r)
    | (.bad c, s) => (.bad c, s)
    | (.wait, s) => (.wait, s)
/-- R407: an access that must still wait keeps what the walks that failed have found, from the state `s` before its walks. -/
def State.keepFails (u s : State) (cl : Nat) : State := u.modCl cl fun k => { k with walkFail := (s.cl cl).walkFail }
/-- R407: the code of the first step that the pages of a run of `n` bytes from `off` fail: steps 2 to 5 for the run as a whole,
then step 6 on every page, then step 7. -/
def runFault (part : BitVec 4) (bti off n right : Nat) (l : List (Nat × Nat × Nat × BitVec 512 × Nat)) : Option Nat :=
  match l with
  | [] => none
  | (_, _, r, e, _) :: _ =>
    match checkBuffer part bti off n right r e with
    | some (.bad code _ _) => some code
    | _ =>
      match l.findSome? (fun x => pageAbsent x.2.2.1) with
      | some code => some code
      | none => if l.any (fun x => x.2.2.1 == 4) then some 7 else none
/-- The places of buffer bytes, page by page, with the lease length of the buffer. -/
def State.bufSegsBy (s : State) (cause : Nat → Nat) (cl : Nat) (part : BitVec 4) (bti right : Nat) (parts : List (Nat × Nat)) :
    EChk (List (Place × Nat) × Nat) × State :=
  match s.engineWalks cl bti parts with
  | (.ok l, s) =>
    (match runFault part bti (parts.headD (0, 0)).1 (parts.map (·.2)).sum right l with
    | some code => (.bad (cause code), s)
    | none =>
      let segs := l.map fun x => (pagePlace bti x.1 x.2.2.2.1 x.2.2.2.2, x.2.1)
      (.ok (segs, match segs, l with | p :: _, x :: _ => s.leaseFor cl p.1 x.2.2.2.1 | _, _ => 0), s))
  | (.bad c, s) => (.bad c, s)
  | (.wait, u) => (.wait, u.keepFails s cl)
def State.bufSegs (s : State) (cl : Nat) (part : BitVec 4) (bti right : Nat) (parts : List (Nat × Nat)) :
    EChk (List (Place × Nat) × Nat) × State := s.bufSegsBy causeOf cl part bti right parts
/-- R272, R283: flat bytes that an engine may use lie in one slice of a cluster of the partition. -/
def State.flatOk (s : State) (part : BitVec 4) (a n : Nat) : Bool :=
  match flatName a, flatName (a + n - 1) with
  | .slice c _, .slice k _ => c == k && s.partOf c == part
  | _, _ => false
/-- The places of bytes of an address space (R285): 0 flat, 1 buffer, 2 the slice of `core` from its SPBASE. -/
def State.spaceSegs (s : State) (cl : Nat) (part : BitVec 4) (space core addr n right : Nat) : EChk (List (Place × Nat) × Nat) × State :=
  match space with
  | 0 => if s.flatOk part addr n then (.ok ([(.sram addr, n)], s.leaseFor cl (.sram addr) 0), s) else (.bad 2, s)
  | 1 => s.bufSegs cl part (addr / 2 ^ 48) right (pageParts (addr % 2 ^ 48) n)
  | _ =>
    let off := dwBits (s.ccr core nSPALLOC) 9 0 * 256 + addr
    if s.partOf core ≠ part ∨ (right = rREAD ∧ 196608 < off + n) then (.bad 2, s)
    -- a destination beyond the slice lies outside every allocation (cause 0 of R288): its place names nothing
    else
      let p := Place.sram (sliceAddr core (if 196608 < off + n then 196608 else off))
      (.ok ([(p, n)], s.leaseFor cl p 0), s)

/-! ## Reading through a cluster's cache slice -/

/-- The part of a run of places that begins at byte `off`. -/
def segsOf (segs : List (Place × Nat)) (off n : Nat) : List (Place × Nat) :=
  (segs.foldl (fun (a : List (Place × Nat) × Nat) p =>
    let lo := Nat.max off a.2
    let hi := Nat.min (off + n) (a.2 + p.2)
    (if lo < hi then a.1 ++ [(p.1.add (lo - a.2), hi - lo)] else a.1, a.2 + p.2)) ([], 0)).1
/-- R288, R402, R421: why a read of a block at its home fails, as a cause of R288. -/
def State.readCause (s : State) (p : Place) (n : Nat) : Option Nat :=
  match p with
  | .sram a => if s.badSram.any fun l => decide (a < l * 128 + 128) && decide (l * 128 < a + n) then some 4 else none
  | p => (s.homeDown p n).map fun d => if 32 ≤ d ∧ d < 48 then 4 else 5
/-- R402: why a write of part of a block fails; a write of a whole block and its tag replaces it. -/
def State.writeCause (s : State) (p : Place) (n : Nat) (whole : Bool) : Option Nat :=
  match s.homeDown p n with
  | some d => if 32 ≤ d ∧ d < 48 ∧ whole then none else some 5
  | none => none
/-- One block's part of a source, as an engine of a cluster reads it: a live copy, or the home. -/
def State.cacheRead (s : State) (cl : Nat) (p : Place) (n : Nat) : List Byte × State :=
  let s := s.scrub cl p
  match (if cacheable cl p then s.liveLine cl p else none) with
  | some c => ((c.data.drop (linePos p)).take n, s.useLine cl (lineBase p))
  | none => s.eRead p n
/-- The tag of the block of a place, as an engine of a cluster reads it. -/
def State.cacheTag (s : State) (cl : Nat) (p : Place) : Tag × State :=
  let s := s.scrub cl p
  match (if cacheable cl p then s.liveLine cl p else none) with
  | some c => (c.tags.getD (linePos p / 64) 0, s)
  | none => match p with
    | .far .. => let (v, s) := s.openNat; (BitVec.ofNat 16 v, s)
    | p => (s.tagAt p, s)
/-- R275 to R277: fill a line from its home for an engine of a cluster, when the line may be held and is not live; a live one is used. -/
def State.engineFill (s : State) (cl : Nat) (p : Place) (lease : Nat) : State :=
  if cacheable cl p && (s.liveLine cl p).isSome then s.useLine cl (lineBase p)
  else if lease = 0 ∨ !cacheable cl p ∨ s.lineBusy cl p ∨ (s.homeDown (lineBase p) 128).isSome then s
  else
    let b := lineBase p
    let (bytes, s) := s.eRead b 128
    let (t0, s) := s.cacheTag cl b
    let (t1, s) := s.cacheTag cl (b.add 64)
    s.fillLine cl b bytes [t0, t1] lease none

/-! ## Queues in memory (R279 to R282) -/

/-- A queue descriptor: copy queues and network queues have the layout of R279, task queues that of R326. -/
structure QDesc where
  base : Nat
  bti  : Nat
  asp  : Bool
  logn : Nat
  part : BitVec 4
  en   : Bool
  ridx : DWord
  deriving DecidableEq, Repr
/-- The three words of a descriptor from register number `n`. -/
def State.qdesc (s : State) (cl n : Nat) : QDesc :=
  let a := s.cr cl n
  let b := s.cr cl (n + 1)
  { base := dwBits a 47 0, bti := dwBits a 63 48, asp := dwBit b 0, logn := dwBits b 4 1, part := b.extractLsb' 5 4,
    en := dwBit b 9, ridx := s.cr cl (n + 2) }
def QDesc.slots (q : QDesc) : Nat := 2 ^ q.logn
def QDesc.size (q : QDesc) : Nat := 128 + 64 * q.slots
/-- R280: the offset of the slot of an index, and its expected sequence value. -/
def QDesc.slotOff (q : QDesc) (w : Nat) : Nat := 128 + 64 * (w % q.slots)
def QDesc.seq (q : QDesc) (w : Nat) : Nat := w / q.slots % 65535 + 1
/-- R283: does the queue's memory pass its checks as a use by PART? -/
def State.queueMem (s : State) (cl : Nat) (q : QDesc) : EChk Unit × State :=
  if q.asp then
    [rREAD, rWRITE, rATOM].foldl (fun (a : EChk Unit × State) r =>
      match a with
      | (.ok _, s) => (match s.bufSegs cl q.part q.bti r (pageParts q.base q.size) with
        | (.ok _, s) => (.ok (), s) | (.bad c, s) => (.bad c, s) | (.wait, s) => (.wait, s))
      | a => a) (.ok (), s)
  else if s.flatOk q.part q.base q.size then (.ok (), s) else (.bad 2, s)
/-- The place of byte `off` of a queue whose memory has passed its checks. -/
def State.queuePlace (s : State) (cl : Nat) (q : QDesc) (off : Nat) : Option Place × State :=
  if q.asp then
    match s.engineChk cl q.part q.bti (q.base + off) 8 rREAD with
    | (.ok (p, _), s) => (some p, s)
    | (_, s) => (none, s)
  else (some (.sram (q.base + off)), s)
/-- R283: LASTERR and ERRV of a descriptor. -/
def State.queueErr (s : State) (cl n cause : Nat) : State :=
  s.modCr cl (n + 1) fun v => dwSet (dwSet v 13 10 cause) 14 14 1
/-- R283: a queue whose memory fails its checks records 2. -/
def State.queueMemErr (s : State) (cl n : Nat) : State := s.queueErr cl n 2
/-- R282: the slot at RIDX of an enabled queue: its words when its SEQ is the expected value, and nothing where it is not, or where the
memory fails its checks, which LASTERR then says; or that it must wait for a held home, or that it cannot be read (R288 causes 4, 5). -/
def State.queueLook (s : State) (cl n : Nat) : EChk (Option (List Word)) × State :=
  let q := s.qdesc cl n
  if !q.en then (.ok none, s)
  else match s.queueMem cl q with
  | (.bad _, s) => (.ok none, s.queueMemErr cl n)
  | (.wait, s) => (.wait, s)
  | (.ok _, s) =>
    match s.queuePlace cl q (q.slotOff q.ridx.toNat), s.queuePlace cl q 64 with
    | (some p, s), (some m, _) =>
      if s.eHeld p ∨ s.eHeld m then (.wait, s)
      else match s.readCause p 64 with
      | some c => (.bad c, s.foundBad p 64)
      | none =>
        let (bs, s) := s.eRead p 64
        let ws := wordsOf 16 (natOfBytes bs)
        (.ok (if wBits (ws.getD 0 0) 15 0 = q.seq q.ridx.toNat then some ws else none), s)
    | (_, s), _ => (.wait, s)
/-- The slot that can be taken now. -/
def State.queueHead (s : State) (cl n : Nat) : Option (List Word) × State :=
  match s.queueLook cl n with
  | (.ok x, s) => (x, s)
  | (_, s) => (none, s)
/-- R282: RIDX moves on and its mirror is written, where it can be. -/
def State.queueAdvance (s : State) (cl n : Nat) : State :=
  let q := s.qdesc cl n
  let s := s.setCr cl (n + 2) (q.ridx + 1)
  match s.queuePlace cl q 64 with
  | (some p, s) => if (s.homeDown p 8).isSome then s.foundBad p 8 else (s.eWrite p (bytesOf 8 (q.ridx + 1).toNat)).2
  | (none, s) => s
/-- R281, R294, R402, R421: claim an index of a queue; where its home cannot serve the claim, the cause (4 or 5 of R288). -/
def State.queueClaim (s : State) (cl n : Nat) : EChk Nat × State :=
  match s.queuePlace cl (s.qdesc cl n) 0 with
  | (some p, s) =>
    if s.eHeld p then (.wait, s)
    else match s.readCause p 8 with
    | some c => (.bad c, s.foundBad p 8)
    | none => let (w, s) := s.eAdd64 p 1; (.ok w.toNat, s)
  | (none, s) => (.wait, s)
/-- R281, R294, R402: write the slot of a claimed index, once the index is below RIDX + 2^LOGN; the sequence value replaces the
low half of the first word. The write has no tag, so it does not replace a block with an error. -/
def State.queuePut (s : State) (cl n w : Nat) (ws : List Word) : EChk Unit × State :=
  let q := s.qdesc cl n
  if q.ridx.toNat + q.slots ≤ w then (.wait, s)
  else match s.queuePlace cl q (q.slotOff w) with
  | (some p, s) =>
    if s.eHeld p then (.wait, s)
    else match s.writeCause p 64 false with
    | some c => (.bad c, s.foundBad p 64)
    | none =>
      let first := BitVec.ofNat 32 (q.seq w + 65536 * wBits (ws.getD 0 0) 31 16)
      (.ok (), (s.eWrite p (bytesOfWords (first :: ws.drop 1))).2)
  | (none, s) => (.wait, s)

end Sys2Proof.Machine
end

