-- ==== Sys2Proof/Machine/Manifest.lean ====
section
/-! DEFINITION. The manifest (R336 to R339): its entries, insertion, and what clears them. -/

namespace Sys2Proof.Machine

/-! ## Entries (R336) -/

def mfValid (e : BitVec 128) : Bool := e.getLsbD 0
def mfTile (e : BitVec 128) : Nat := bitsN e.toNat 31 8
def mfHolder (e : BitVec 128) : Nat := bitsN e.toNat 47 40
def mfOffset (e : BitVec 128) : Nat := bitsN e.toNat 81 64
def mfBytes (e : BitVec 128) : Nat := bitsN e.toNat 117 96
/-- R336: an entry of its fields. -/
def mfEntry (tile gen holder off bytes : Nat) (soft : Bool) : BitVec 128 :=
  BitVec.ofNat 128 (1 + (if soft then 2 else 0) + tile % 2 ^ 24 * 2 ^ 8 + gen % 256 * 2 ^ 32 + holder % 256 * 2 ^ 40 +
    off % 2 ^ 18 * 2 ^ 64 + bytes % 2 ^ 22 * 2 ^ 96)
def Cluster.mf (k : Cluster) (n : Nat) : BitVec 128 := getK 0 k.manifest n
def Cluster.setMf (k : Cluster) (n : Nat) (e : BitVec 128) : Cluster := { k with manifest := putK 0 k.manifest n e }
/-- Clear every valid entry that `f` accepts. -/
def Cluster.clearMf (k : Cluster) (f : BitVec 128 → Bool) : Cluster :=
  { k with manifest := k.manifest.filter fun p => !(mfValid p.2 && f p.2) }
/-- The four ways of a tile's set. -/
def mfWays (tile : Nat) : List Nat := (List.range 4).map fun w => tile % 1024 * 4 + w

/-! ## Insertion (R337) -/

/-- R337: insert into one manifest; `stamp` numbers the writes. The entry written, and whether a valid entry of another tile
or holder was displaced. -/
def Cluster.mfInsert (k : Cluster) (stamp tile gen holder off bytes : Nat) (soft : Bool) : Cluster × Nat × Bool :=
  let k := if holder < 128 then
      k.clearMf fun e => mfHolder e == holder && mfTile e != tile && decide (Nat.max off (mfOffset e) < Nat.min (off + bytes) (mfOffset e + mfBytes e))
    else k
  let ways := mfWays tile
  let same := ways.find? fun n => mfValid (k.mf n) && mfTile (k.mf n) == tile && mfHolder (k.mf n) == holder
  let free := ways.find? fun n => !mfValid (k.mf n)
  let old := ways.foldl (fun m n => if getK 0 k.mfOrder n < getK 0 k.mfOrder m then n else m) (tile % 1024 * 4)
  let n := match same with | some n => n | none => free.getD old
  ({ k.setMf n (mfEntry tile gen holder off bytes soft) with mfOrder := insK k.mfOrder n stamp }, n, same.isNone && free.isNone)
/-- R335, R337, R339: an insertion, with the displaced entry counted and the summary told: the entry's number. -/
def State.manifestInsert (s : State) (cl tile gen holder off bytes : Nat) (soft : Bool) : Nat × State :=
  let r := (s.cl cl).mfInsert s.nextId tile gen holder off (bytes % 2 ^ 22) soft
  let s := ({ s with nextId := s.nextId + 1 } : State).modCl cl fun _ => r.1
  let s := { s with sumQ := s.sumQ ++ [(cl, tile)] }
  (r.2.1, if r.2.2 then s.crCount cl nTSTAT 31 16 1 else s)
/-- R338: the entries of a holder that do not lie wholly within a new allocation. -/
def Cluster.mfRealloc (k : Cluster) (holder lo hi : Nat) : Cluster :=
  k.clearMf fun e => mfHolder e == holder && !(decide (lo ≤ mfOffset e) && decide (mfOffset e + mfBytes e ≤ hi))

end Sys2Proof.Machine
end

