-- ==== Sys2Proof/Machine/Copy.lean ====
section
/-! DEFINITION. Copies (R279 to R294): submission, the copy issue unit, the engines, and completion. -/

namespace Sys2Proof.Machine

/-! ## Submission (R293) -/

/-- The lowest free entry of a core's copy tracking table (R294). -/
def Core.freeCopy (k : Core) : Option Nat := (List.range 64).find? fun i => !(k.copyTrk.any fun p => p.1 == i)
/-- R294: the operation of an image takes an entry; `op` also numbers the order of filling. -/
def State.fillCopy (s : State) (c e op : Nat) (words : List Word) : State :=
  let (o, s) := s.bump
  s.modCore c fun k => { k with copyTrk := insK k.copyTrk e { words, op, order := o } }
/-- R292, R293: a format-E submission to a unit: `room` says whether the unit can take the block now, and `take` gives it the
block, once the operation has joined its batches; `extra` is what is captured with it. DEDUCED (LOG 17): a PORT that names no queue
takes cause 3, which R220 gives any use of an unbound port, though R223 read alone gives cause 4. -/
def submit (s : State) (g : Guard) (pb n al : Nat) (e : Bool) (cls queue : Nat) (port : Option Nat) (full : Wait)
    (room : State → List Word → Bool) (take : State → Nat → List Word → State)
    (extra : State → List Word → List (List Word) := fun _ _ => []) : State :=
  match prep s g { srcs := [{ pos := 0, src := { o := .reg pb, e }, n, al }] } with
  | .stop s => s
  | .go s0 s1 rows =>
    match rows with
    | [] => s1.finish
    | r :: _ =>
      let c := s1.cur.core
      let k := s1.core c
      let ws := r.2.getD 0 []
      match port.bind fun p => (match k.portQueue p with | none => some (3, p) | some x => if x = queue then none else some (4, p)) with
      | some x => faultRows s0 rows 0x0E (bindInfo x.1 x.2)
      | none =>
        let (id, s) := s1.bump
        let join := fun (s : State) => s.joinOp (Mask.ofLanes (rows.map fun (p : Nat × List (List Word)) => p.1)) cls id
        match port with
        | none => if room s1 ws then (take (join s) id ws).finish else s0.block .blockedQueue full
        | some p =>
          if !s1.pushOk c k queue then s0.block .blockedQueue (.ports [] [(p, 1)])
          else ((join s).modCore c fun k =>
            k.setQueue queue (k.queue queue ++ [.cmd ws s1.cur.turn (s1.wave c s1.cur.turn).uid id (extra s1 ws) []])).finish
def cpyOp (s : State) (g : Guard) (pb : Nat) (e : Bool) (port : Option Nat) : State :=
  submit s g pb 16 16 e 0 33 port .copyEntry (fun s _ => (s.core s.cur.core).freeCopy.isSome)
    fun s id ws => s.fillCopy s.cur.core ((s.core s.cur.core).freeCopy.getD 0) id ws
def execCpy (g : Guard) (pb : Nat) (e : Bool) (s : State) : Host.Outcome State Fault Refusal := .next (computeOnly s (cpyOp s g pb e none))
def execCpyQueued (g : Guard) (pb : Nat) (e : Bool) (port : BitVec 5) (s : State) : Host.Outcome State Fault Refusal :=
  .next (computeOnly s (cpyOp s g pb e (some port.toNat)))

/-! ## The copy issue unit (R294) -/

/-- R288: a failure is recorded in a queue's descriptor and counted. -/
def State.copyReject (s : State) (cl q cause : Nat) : State := (s.queueErr cl (nCQ q 0) cause).crCount cl nCPSTAT 15 0 1
/-- R294: the entry's operation completes as failed and the entry is freed. -/
def State.copyFail (s : State) (c e : Nat) (t : CopyTrk) (cause : Nat) : State :=
  (s.completeOp c t.op (some cause)).modCore c fun k => { k with copyTrk := delK k.copyTrk e }
/-- R294: the slot that an image becomes, without its sequence value. -/
def copySlot (core e : Nat) (ws : List Word) : List Word :=
  let set := fun (i hi lo x : Nat) (ws : List Word) => ws.set i (wSet (ws.getD i 0) hi lo x)
  set 14 16 11 e (set 14 10 0 core (set 11 16 16 1 (set 1 26 16 core ws)))
/-- A slot without its sequence value. -/
def noSeq (ws : List Word) : List Word := ws.set 0 (wSet (ws.getD 0 0) 15 0 0)
/-- The entry that a serving unit serves next: the one filled first of those not yet written. -/
def firstTrk {α : Type} (order : α → Nat) (open_ : α → Bool) (m : Sparse α) : Option (Nat × α) :=
  (m.filter fun p => open_ p.2).foldl (fun (b : Option (Nat × α)) p =>
    match b with | some x => if order p.2 < order x.2 then some p else b | none => some p) none
/-- R294: one step of the unit: a queued image takes an entry, or the oldest entry is checked and claims its index, or its
slot is written. DEDUCED (LOG 19): an image that fails with cause 1 here is recorded in the descriptor that QSEL names, as R288 says of
every failure; R294 says only that nothing is claimed or written. An image whose claim or slot its home cannot serve fails with the
cause of R288 for it (DESIGN CHOICE, LOG 19). -/
def execCopyIssueUnitServe (core : Nat) (s : State) : Host.Outcome State Fault Refusal :=
  let cl := clusterOf core
  .next (match (s.core core).queue 33, (s.core core).freeCopy with
    | .cmd ws _ _ op _ _ :: rest, some e => (s.modCore core fun k => k.setQueue 33 rest).fillCopy core e op ws
    | _, _ =>
      match firstTrk (·.order) (fun t => decide (t.stage < 2)) (s.core core).copyTrk with
      | none => s
      | some (e, t) =>
        let put := fun (s : State) (t : CopyTrk) => s.modCore core fun k => { k with copyTrk := insK k.copyTrk e t }
        if t.stage = 0 then
          let q := wsBits t.words 5 0
          let d := s.qdesc cl (nCQ q 0)
          if wsBits t.words 15 6 ≠ 0 then (s.copyReject cl q 1).copyFail core e t 1
          else if !d.en ∨ d.part ≠ (s.cl cl).part then (s.copyReject cl q 6).copyFail core e t 6
          else match s.queueMem cl d with
            | (.bad _, s) => (s.copyReject cl q 6).copyFail core e t 6
            | (.wait, s) => s
            | (.ok _, s) =>
              match s.queueClaim cl (nCQ q 0) with
              | (.ok w, s) => put s { t with stage := 1, w, q }
              | (.bad c, s) => (s.copyReject cl q c).copyFail core e t c
              | (.wait, s) => s
        else
          match s.queuePut cl (nCQ t.q 0) t.w (copySlot core e t.words) with
          | (.ok _, s) => (put s { t with stage := 2 }).modCl cl fun k => { k with cpySlots := k.cpySlots ++ [(t.q, noSeq (copySlot core e t.words))] }
          | (.bad c, s) => (s.copyReject cl t.q c).copyFail core e t c
          | (.wait, s) => s)

/-! ## Taking a packet (R282, R288) -/

/-- R285, R286: the addresses of the rows of a source or destination: each row's offset from the first, computed exactly. -/
def rowAddrs (base pitch n : Nat) : List Nat := (List.range n).map fun r => base + r * pitch
/-- R288: of two causes, the one whose check comes first; cause 5 arises in the execution. -/
def earlier (a b : Nat) : Nat := if a = 5 then b else a
/-- R283, R285: the places of the rows, with the lease length of the last. -/
def State.rowSegs (s : State) (cl : Nat) (part : BitVec 4) (space core base len right : Nat) : List Nat → EChk (List (List (Place × Nat)) × Nat) × State
  | [] => (.ok ([], 0), s)
  | o :: rest =>
    let off := base % 2 ^ 48 + o
    if space = 1 ∧ 2 ^ 48 < off + len then (.bad 2, s)
    else
      match s.spaceSegs cl part space core (if space = 1 then base / 2 ^ 48 * 2 ^ 48 + off else off) len right with
      | (.ok (l, n), s) =>
        match State.rowSegs s cl part space core base len right rest with
        | (.ok (ls, m), s) => (.ok (l :: ls, Nat.max n m), s)
        | r => r
      | (.bad c, s) =>
        if c ≠ 5 then (.bad c, s)
        else match State.rowSegs s cl part space core base len right rest with
        | (.bad d, s) => (.bad (earlier c d), s)
        | (_, s) => (.bad c, s)
      | (.wait, s) => (.wait, s)

def pOp (ws : List Word) : Nat := wsBits ws 23 16
def pTagMode (ws : List Word) : Nat := wsBits ws 33 32
def pSasp (ws : List Word) : Nat := wsBits ws 43 40
def pDasp (ws : List Word) : Nat := wsBits ws 47 44
def pSaddr (ws : List Word) : Nat := wsBits ws 127 64
def pDaddr (ws : List Word) : Nat := wsBits ws 191 128
def pRowLen (ws : List Word) : Nat := wsBits ws 223 192
def pRows (ws : List Word) : Nat := wsBits ws 239 224
def pSpitch (ws : List Word) : Nat := wsBits ws 287 256
def pDpitch (ws : List Word) : Nat := wsBits ws 319 288
def pCaddr (ws : List Word) : Nat := wsBits ws 447 384
def pCasp (ws : List Word) : Nat := wsBits ws 371 370
/-- R285: the bits of an address field that its space reserves. -/
def addrClean (space a : Nat) : Bool :=
  match space with | 0 => a / 2 ^ 48 == 0 | 1 => true | 2 => a / 2 ^ 32 == 0 | _ => a == 0
/-- R288, cause 1: the form of the packet. -/
def packetMalformed (ws : List Word) : Bool :=
  wsBits ws 31 25 != 0 || wsBits ws 39 34 != 0 || wsBits ws 63 59 != 0 || wsBits ws 255 240 != 0 || wsBits ws 383 372 != 0 ||
  wsBits ws 511 465 != 0 || decide (2 < pOp ws) || pTagMode ws == 3 || pRowLen ws == 0 || pRows ws == 0 ||
  decide (2 ^ 32 < pRowLen ws * pRows ws) ||
  (match pOp ws with
   | 0 => decide (2 < pSasp ws) || decide (2 < pDasp ws) || !addrClean (pSasp ws) (pSaddr ws) || !addrClean (pDasp ws) (pDaddr ws)
   | 1 => pSasp ws != 0 || decide (2 < pDasp ws) || wsBits ws 127 96 != 0 || !addrClean (pDasp ws) (pDaddr ws)
   | _ => pSasp ws != 1 || pDasp ws != 3 || pDaddr ws != 0) ||
  (wsBit ws 369 && (decide (1 < pCasp ws) || pCaddr ws % 8 != 0 || !addrClean (pCasp ws) (pCaddr ws)))
/-- The token's entry, when it awaits a completion. One of another partition is none of the packet's (R13; LOG 19). -/
def State.tokenEntry (s : State) (part : BitVec 4) (ws : List Word) : Option CopyTrk :=
  match findK (s.core (wsBits ws 458 448)).copyTrk (wsBits ws 464 459) with
  | some t => if t.stage = 2 ∧ s.partOf (wsBits ws 458 448) = part then some t else none
  | none => none
/-- R288: did a `cpy` write the packet in a queue of a cluster? -/
def State.byCpy (s : State) (cl q : Nat) (ws : List Word) : Bool := (s.cl cl).cpySlots.contains (q, noSeq ws)
/-- R287: keep needs equal alignment. -/
def keepBroken (ws : List Word) : Bool :=
  pOp ws == 0 && pTagMode ws == 0 && (pSaddr ws % 64 != pDaddr ws % 64 || pSpitch ws % 64 != pDpitch ws % 64)
/-- R288, cause 0: a place outside the allocation of its core's slice. -/
def State.outsideAlloc (s : State) (p : Place × Nat) : Bool :=
  match p.1 with
  | .sram a => (match flatName a with | .slice c off => !s.spOk c off p.2 | _ => true)
  | _ => false
/-- R288: the checks of a packet, in order: its places, the place of its counter, or the first cause. -/
def State.packetCheck (s : State) (cl q : Nat) (part : BitVec 4) (ws : List Word) :
    EChk (List (List (Place × Nat)) × Nat × List (List (Place × Nat))) × List (Place × Nat) × State :=
  let core := wsBits ws 58 48
  let cnt : EChk (List (Place × Nat) × Nat) × State :=
    if !wsBit ws 369 ∨ decide (1 < pCasp ws) ∨ pCaddr ws % 8 ≠ 0 ∨ !addrClean (pCasp ws) (pCaddr ws) then (.ok ([], 0), s)
    else s.spaceSegs cl part (pCasp ws) core (pCaddr ws) 8 rATOM
  match cnt with
  | (.wait, s) => (.wait, [], s)
  | (c, s) =>
    let ctr := match c with | .ok l => l.1 | _ => []
    if packetMalformed ws || (wsBit ws 368 && !s.byCpy cl q ws && (s.tokenEntry part ws).isNone) then (.bad 1, ctr, s)
    else if keepBroken ws then (.bad 3, ctr, s)
    else
      let (src, s) := if pOp ws = 1 then (.ok ([], 0), s)
        else s.rowSegs cl part (pSasp ws) core (pSaddr ws) (pRowLen ws) rREAD (rowAddrs 0 (pSpitch ws) (pRows ws))
      let (dst, s) := if pOp ws = 2 then (.ok ([], 0), s)
        else s.rowSegs cl part (pDasp ws) core (pDaddr ws) (pRowLen ws) rWRITE (rowAddrs 0 (pDpitch ws) (pRows ws))
      let bad := fun (x : EChk (List (List (Place × Nat)) × Nat)) => match x with | .bad x => [x] | _ => []
      let causes := bad src ++ bad dst ++ (match c with | .bad x => [x] | _ => [])
      match src, dst with
      | .wait, _ | _, .wait => (.wait, ctr, s)
      | _, _ =>
        let outside := match dst with | .ok (dp, _) => dp.any fun r => r.any s.outsideAlloc | _ => false
        match causes.filter (· != 5) with
        | x :: _ => (.bad x, ctr, s)
        | [] =>
          if outside then (.bad 0, ctr, s)
          else match src, dst, causes with
          | .ok (sp, lease), .ok (dp, _), [] => (.ok (sp, lease, dp), ctr, s)
          | _, _, _ => (.bad 5, ctr, s)
/-- R5: the copy engines of a cluster. -/
def copyEngines : Nat := 8
/-- R282, R288: the engines look at the slot at RIDX of a queue, and a free one takes its packet when its SEQ matches. -/
def execCopyQueueSlotTake (cl q : Nat) (s : State) : Host.Outcome State Fault Refusal :=
  .next (
    if copyEngines ≤ (s.copies.filter fun p => p.2.cl == cl).length then s
    else match s.queueHead cl (nCQ q 0) with
    | (none, s) => s
    | (some ws, s) =>
      let part := (s.qdesc cl (nCQ q 0)).part
      let add := fun (s : State) (o : CopyOp) =>
        let (id, s) := (s.queueAdvance cl (nCQ q 0)).bump
        ({ s with copies := insK s.copies id o } : State).modCl cl fun k =>
          { k with rr := (q + 1) % 64, cpySlots := k.cpySlots.erase (q, noSeq ws) }
      match s.packetCheck cl q part ws with
      | (.wait, _, s) => s
      | (.bad c, ctr, s) => (add s { cl, q, words := ws, fail := some c, done := true, ctr, part, start := s.lease }).copyReject cl q c
      | (.ok (src, lease, dst), ctr, s) => add s { cl, q, words := ws, src, dst, lease, ctr, part, start := s.lease })

/-! ## Running a packet (R286, R287) -/

def segBlocks (l : List (Place × Nat)) : List (Place × Nat) := l.flatMap fun p => blocksOf p.1 p.2
/-- Does a part of a block cover it? -/
def wholeBlock (p : Place × Nat) : Bool := p.2 == 64
/-- The bytes of a run of places, as an engine of a cluster reads them. -/
def State.readSegs (s : State) (cl : Nat) : List (Place × Nat) → List Byte × State
  | [] => ([], s)
  | (p, n) :: rest =>
    let (b, s) := s.cacheRead cl p n
    let (bs, s) := State.readSegs s cl rest
    (b ++ bs, s)
/-- R287: the tag that a block of a row's destination takes; `n` counts the row's bytes before it. -/
def State.rowTag (s : State) (cl : Nat) (ws : List Word) (src : List (Place × Nat)) (p : Place × Nat) (n : Nat) : Option Tag × State :=
  match pTagMode ws with
  | 0 =>
    if pOp ws = 0 ∧ wholeBlock p then
      match (src.foldl (fun (a : Nat × Option Place) x => if a.1 = n then (a.1 + x.2, some x.1) else (a.1 + x.2, a.2)) (0, none)).2 with
      | some b => let (t, s) := s.cacheTag cl b; (some t, s)
      | none => (none, s)
    else (none, s)
  | 1 => (some (BitVec.ofNat 16 (wsBits ws 367 352)), s)
  | _ => (some 0, s)
/-- Write one row's bytes and tags, block by block, with the visibility time so far. With `mixed`, each byte and each tag is
old or new (R288). -/
def State.writeRow (s : State) (cl : Nat) (ws : List Word) (src : List (Place × Nat)) (mixed : Bool) :
    List (Place × Nat) → Nat → List Byte → Option Lease → Option Lease × State
  | [], _, _, v => (v, s)
  | p :: rest, n, bs, v =>
    let (t, s) := s.rowTag cl ws src p n
    let (x, s) := s.eBlock p (bs.take p.2) t mixed
    State.writeRow s cl ws src mixed rest (n + p.2) (bs.drop p.2) (some (match v with | some y => Lease.later y x | none => x))
/-- R287, R402: does a row's write of a block replace it, byte and tag? -/
def replaces (ws : List Word) (p : Place × Nat) : Bool := wholeBlock p && !(pOp ws == 1 && pTagMode ws == 0)
/-- The first failure among a packet's accesses. -/
def State.packetCause (s : State) (o : CopyOp) : Option Nat :=
  match (o.src.flatMap segBlocks).findSome? fun p => s.readCause p.1 p.2 with
  | some c => some c
  | none => (o.dst.flatMap segBlocks).findSome? fun p => s.writeCause p.1 p.2 (replaces o.words p)
/-- Must a packet's accesses wait: a blocked bank, or a line the cluster may not fetch yet (R276)? -/
def State.packetHeld (s : State) (o : CopyOp) : Bool :=
  ((o.src ++ o.dst).flatMap segBlocks).any (fun p => s.eHeld p.1) ||
  (o.src.flatMap segBlocks).any fun p => cacheable o.cl p.1 && s.lineBusy o.cl p.1
/-- R286: byte (i mod 4) of the pattern. -/
def fillBytes (ws : List Word) (n : Nat) : List Byte :=
  (List.range n).map fun i => BitVec.ofNat 8 (bitsN (pSaddr ws) (8 * (i % 4) + 7) (8 * (i % 4)))
/-- The place of byte `i` of a run of places. -/
def byteAt : List (Place × Nat) → Nat → Option Place
  | [], _ => none
  | (p, n) :: rest, i => if i < n then some (p.add i) else byteAt rest (i - n)
/-- R286: the bytes of a row, numbered from `k`, that are left to write: those read ahead keep their value, and those written ahead
their place's. -/
def State.rowLeft (s : State) (o : CopyOp) (dst : List (Place × Nat)) (k : Nat) (bs : List Byte) : List Byte :=
  (bs.zip (List.range bs.length)).map fun p =>
    if o.put.contains (k + p.2) then (match byteAt dst p.2 with | some q => (s.rdHome q 1).headD 0 | none => p.1)
    else getK p.1 o.got (k + p.2)
/-- R286: an engine reads one byte of a packet ahead of the rest, and may write it: which one is open. To another package bytes go in
their blocks (R474), none ahead. -/
def copyAhead (id : Nat) (s : State) : Host.Outcome State Fault Refusal :=
  .next (match findK s.copies id with
    | none => s
    | some o =>
      if o.done ∨ 2 ≤ pOp o.words ∨ s.packetHeld o ∨ (s.packetCause o).isSome then s
      else
        let (n, s) := s.openNat
        let (w, s) := s.openBit
        let k := n % (pRowLen o.words * pRows o.words)
        let r := k / pRowLen o.words
        let i := k % pRowLen o.words
        let (b, s) : Byte × State := match findK o.got k, byteAt (o.src.getD r []) i with
          | some b, _ => (b, s)
          | none, some p => let (bs, s) := s.cacheRead o.cl p 1; (bs.headD 0, s)
          | none, none => ((fillBytes o.words (pRowLen o.words)).getD i 0, s)
        match byteAt (o.dst.getD r []) i with
        | some p =>
          if w ∧ !p.isFar ∧ !o.put.contains k then
            let (v, s) := s.eWrite p [b]
            let vis := some (match o.vis with | some y => Lease.later y v | none => v)
            { s with copies := insK s.copies id { o with put := o.put ++ [k], vis } }
          else { s with copies := insK s.copies id { o with got := insK o.got k b } }
        | none => s)
/-- The rows of a copy or a fill, from byte `k` of the packet. -/
def State.runRows (s : State) (o : CopyOp) (mixed : Bool) :
    List (List (Place × Nat) × List (Place × Nat)) → Nat → Option Lease → Option Lease × State
  | [], _, v => (v, s)
  | (src, dst) :: rest, k, v =>
    let (bs, s) := if pOp o.words = 1 then (fillBytes o.words (pRowLen o.words), s) else s.readSegs o.cl (segBlocks src)
    let bs := s.rowLeft o dst k bs
    let s := if wsBit o.words 24 then s
      else (segBlocks src).foldl (fun s p => s.engineFill o.cl p.1 o.lease) s
    let (v, s) := s.writeRow o.cl o.words (segBlocks src) mixed (segBlocks dst) 0 bs v
    State.runRows s o mixed rest (k + pRowLen o.words) v
/-- R286 to R288: a packet of an operation runs: `run` is what it does when nothing fails. -/
def State.runPacket (s : State) (id op : Nat) (run : State → CopyOp → Bool → Option Lease × State) : State :=
  match findK s.copies id with
  | none => s
  | some o =>
    if o.done ∨ pOp o.words ≠ op ∨ s.packetHeld o then s
    else
      let fail := s.packetCause o
      let found := match fail with
        | some 4 => o.src.flatMap segBlocks
        | some _ => (o.dst.flatMap segBlocks).filter fun p => !replaces o.words p
        | none => []
      let s := found.foldl (fun s p => s.foundBad p.1 p.2) s
      let s := match fail with | some c => s.copyReject o.cl o.q c | none => s
      let (v, s) := run s o fail.isSome
      { s with copies := insK s.copies id { o with done := true, fail, vis := v } }
def copyRows (s : State) (o : CopyOp) (mixed : Bool) : Option Lease × State := s.runRows o mixed (o.src.zip o.dst) 0 o.vis
def fillRows (s : State) (o : CopyOp) (mixed : Bool) : Option Lease × State := s.runRows o mixed (o.dst.map fun d => ([], d)) 0 o.vis
/-- R288, R421, R482: a packet that has not run fails as one of its accesses completes with MEMORY-UNAVAILABLE: cause 5, and
each byte and tag of its destination is old or new. -/
def State.failCopy (s : State) (id : Nat) (o : CopyOp) : State :=
  let (v, s) : Option Lease × State := match pOp o.words with
    | 0 => copyRows s o true
    | 1 => fillRows s o true
    | _ => (none, s)
  { s.copyReject o.cl o.q 5 with copies := insK s.copies id { o with done := true, fail := some 5, vis := v } }
/-- R286: the lines of a warm copy, each once. -/
def CopyOp.lines (o : CopyOp) : List Place :=
  (o.src.flatMap segBlocks).foldl (fun l p => if l.any fun q => lineKey q == lineKey p.1 then l else l ++ [lineBase p.1]) []
def warmLines (s : State) (o : CopyOp) (failed : Bool) : Option Lease × State :=
  (none, if failed then s else o.lines.foldl (fun s b => s.engineFill o.cl b o.lease) s)
def execCopyPacketCopy (id : Nat) (s : State) : Host.Outcome State Fault Refusal := .next (s.runPacket id 0 copyRows)
def execCopyPacketFill (id : Nat) (s : State) : Host.Outcome State Fault Refusal := .next (s.runPacket id 1 fillRows)
def execCopyPacketWarm (id : Nat) (s : State) : Host.Outcome State Fault Refusal := .next (s.runPacket id 2 warmLines)

/-! ## Completion (R289) -/

/-- R338: what a successful packet records in a manifest. -/
def State.copyRecord (s : State) (o : CopyOp) : State :=
  let tile := wsBits o.words 343 320
  let gen := wsBits o.words 351 344
  if tile = 0 then s
  else if pOp o.words = 2 then
    let lines := o.lines.map lineKey
    let (n, s) := s.manifestInsert o.cl tile gen 128 0 (128 * lines.length) false
    s.modCl o.cl fun k => lines.foldl (fun k key =>
      match findK k.lines key with
      | some c =>
        let k := if c.mark = some n then k else k.unmark c.mark
        { k with lines := insK k.lines key { c with mark := some n } }
      | none => k) k
  else if pOp o.words = 0 then
    match o.dst.head?.bind (·.head?) with
    | some (.sram a, _) => (match flatName a with
      | .slice c off => (s.manifestInsert (clusterOf c) tile gen (coreIndex c) off (pRowLen o.words * pRows o.words) false).2
      | _ => s)
    | _ => s
  else s
/-- R289 step 2: the token completes its entry, or is counted as stray. -/
def State.tokenComplete (s : State) (o : CopyOp) : State :=
  if !wsBit o.words 368 then s
  else
    let c := wsBits o.words 458 448
    match s.tokenEntry o.part o.words with
    | some t => (s.completeOp c t.op o.fail).modCore c fun k => { k with copyTrk := delK k.copyTrk (wsBits o.words 464 459) }
    | none => s.crCount (clusterOf c) nCPSTAT 31 16 1
/-- R289: a packet whose writes are visible completes. -/
def execCopyPacketComplete (id : Nat) (s : State) : Host.Outcome State Fault Refusal :=
  .next (match findK s.copies id with
    | none => s
    | some o =>
      let passed := match o.vis with | some v => Lease.before v s.lease | none => true
      if !o.done ∨ !passed then s
      else
        let fin := fun (s : State) =>
          let s := if o.fail.isNone then s.copyRecord o else s
          ({ s.tokenComplete o with copies := delK (s.tokenComplete o).copies id } : State)
        match o.ctr with
        | [] => fin s
        | (p, _) :: _ =>
          if s.eHeld p then s
          else if (s.homeDown p 8).isSome then fin (s.foundBad p 8)
          else ((fin s).eAdd64 p (if o.fail.isNone then 1 else 2 ^ 32)).2)

end Sys2Proof.Machine
end

