-- ==== Sys2Proof/Machine/Mcast.lean ====
section
/-! DEFINITION. The multicast depot (R295 to R300). -/

namespace Sys2Proof.Machine

def Cluster.slot (k : Cluster) (i : Nat) : Slot := getK {} k.depot i
def Cluster.setSlot (k : Cluster) (i : Nat) (x : Slot) : Cluster := { k with depot := putK {} k.depot i x }
def State.modSlot (s : State) (cl i : Nat) (f : Slot → Slot) : State := s.modCl cl fun k => k.setSlot i (f (k.slot i))
/-- R296: a FULL slot that no receiver and no drain needs becomes FREE. -/
def Slot.settle (x : Slot) : Slot := if x.state = 2 ∧ x.npend = 0 ∧ x.ndrain = 0 then {} else x
/-- R295: the state word. -/
def Slot.word (x : Slot) : DWord :=
  BitVec.ofNat 64 (x.state + (if x.lost then 4 else 0) + x.sender * 2 ^ 4 + x.chan * 2 ^ 16 + x.nblk * 2 ^ 32 + x.npend * 2 ^ 40 + x.ndrain * 2 ^ 48)
def popCount (m : BitVec 128) : Nat := ((List.range 128).filter fun i => m.getLsbD i).length

/-! ## Sending (R297) -/

/-- R297: the failure of a block that breaks its limits. -/
def State.mcastBad (s : State) (c : Nat) (ws : List Word) : Option Nat :=
  let w1 := ws.getD 1 0
  let nblk := wBits w1 6 0
  let soff := (ws.getD 0 0).toNat
  if soff % 64 ≠ 0 ∨ nblk = 0 ∨ 64 < nblk ∨ wBits w1 15 7 ≠ 0 ∨ ws.getD 2 0 ≠ 0 ∨ ws.getD 3 0 ≠ 0 ∨ natOfWords (ws.drop 4) = 0 then some 1
  else if !s.spOk c soff (64 * nblk) then some 0
  else none
def Cluster.freeSlot (k : Cluster) : Option Nat := (List.range 64).find? fun i => (k.slot i).state == 0
def execCpymc (g : Guard) (pb : Nat) (e : Bool) (s : State) : Host.Outcome State Fault Refusal :=
  let cl := clusterOf s.cur.core
  .next (computeOnly s (submit s g pb 8 8 e 4 0 none .depotFree
    (fun s ws => (s.mcastBad s.cur.core ws).isSome || (s.cl cl).freeSlot.isSome)
    fun s id ws =>
      match s.mcastBad s.cur.core ws, (s.cl cl).freeSlot with
      | some c, _ => s.completeOp s.cur.core id (some c)
      | none, some i =>
        let mask := BitVec.ofNat 128 (natOfWords (ws.drop 4))
        let (o, s) := s.bump
        s.modSlot cl i fun _ => { state := 1, sender := coreIndex s.cur.core, chan := wBits (ws.getD 1 0) 31 16, nblk := wBits (ws.getD 1 0) 6 0,
                                  npend := popCount mask, mask, soff := (ws.getD 0 0).toNat, op := id, order := o }
      | none, none => s))
/-- R296: the last block and its tag are in the depot: the sender's operation completes. -/
def execDepotSlotFull (cl slot : Nat) (s : State) : Host.Outcome State Fault Refusal :=
  .next (
    let x := (s.cl cl).slot slot
    if x.state ≠ 1 then s
    else
      let core := cl * 128 + x.sender
      let a := sliceAddr core x.soff
      let tags := (List.range x.nblk).map fun i => s.tagAt (.sram (a + 64 * i))
      (s.modSlot cl slot fun x => Slot.settle { x with state := 2, data := s.rdSram a (64 * x.nblk), tags }).completeOp core x.op none)
/-- R296: an uncorrectable error in the data of a tile that is being filled. -/
def execDepotSlotLost (cl slot : Nat) (s : State) : Host.Outcome State Fault Refusal :=
  .next (if ((s.cl cl).slot slot).state = 1 then s.modSlot cl slot fun x => { x with lost := true } else s)

/-! ## Receiving (R298) -/

/-- R298: the slot accepted earliest among those of a channel that wait for a core. -/
def Cluster.matchSlot (k : Cluster) (chan idx : Nat) : Option (Nat × Slot) :=
  firstTrk (·.order) (fun x => (x.state == 1 || x.state == 2) && x.chan == chan && x.mask.getLsbD idx) k.depot
/-- R298: `mcdrain` and `mcdrop`: `claim` says what a match does after the mask bit is cleared. -/
def receiveOp (s : State) (g : Guard) (nb : Bool) (d : Operand) (srcs : List Src)
    (claim : State → Mask → Nat → Slot → List (List Word) → State) : State :=
  match prep s g { (specWords srcs) with dst := some { o := d } } with
  | .stop s => s
  | .go s0 s1 rows =>
    match rows with
    | [] => s1.finish
    | r :: _ =>
      let cl := clusterOf s1.cur.core
      let idx := coreIndex s1.cur.core
      let chan := wBits (wordAt r.2 0 0) 15 0
      let lanes := rows.map fun (p : Nat × List (List Word)) => p.1
      match (s1.cl cl).matchSlot chan idx with
      | none => if nb then (s1.writeDst { o := d } (lanes.map fun l => (l, [0]))).finish else s0.block .blockedQueue (.depotMatch chan)
      | some (i, x) =>
        let s := s1.modSlot cl i fun x => { x with mask := x.mask &&& ~~~(BitVec.twoPow 128 idx), npend := x.npend - 1 }
        let v := BitVec.ofNat 32 (i + 1 + x.nblk * 2 ^ 8 + x.sender * 2 ^ 16)
        ((claim s (Mask.ofLanes lanes) i x r.2).writeDst { o := d } (lanes.map fun l => (l, [v]))).finish
def execMcdrain (g : Guard) (nb : Bool) (d : Operand) (a b : Src) (s : State) : Host.Outcome State Fault Refusal :=
  .next (computeOnly s (receiveOp s g nb d [a, b] fun s act i x vs =>
    let c := s.cur.core
    let off := (wordAt vs 1 0).toNat
    let (id, s) := s.bump
    let bad := off % 64 != 0 || !s.spOk c off (64 * x.nblk)
    let s := { s with drains := insK s.drains id { cl := clusterOf c, core := c, slot := i, op := id, off, bad } }
    (s.modSlot (clusterOf c) i fun x => { x with ndrain := x.ndrain + 1 }).joinOp act 4 id))
def execMcdrop (g : Guard) (nb : Bool) (d : Operand) (a : Src) (s : State) : Host.Outcome State Fault Refusal :=
  .next (computeOnly s (receiveOp s g nb d [a] fun s _ i _ _ => s.modSlot (clusterOf s.cur.core) i Slot.settle))
/-- The drain ends. -/
def State.endDrain (s : State) (id : Nat) (d : Drain) (fail : Option Nat) : State :=
  (({ s with drains := delK s.drains id } : State).modSlot d.cl d.slot fun x => Slot.settle { x with ndrain := x.ndrain - 1 }).completeOp d.core d.op fail
/-- R298, R300: a claimed drain of a FULL slot writes the tile and its tags; it completes when they are visible. A drain that
fails writes nothing, and one of a LOST slot leaves each byte and each tag old or new. -/
def execMcdrainWritesDone (cl id : Nat) (s : State) : Host.Outcome State Fault Refusal :=
  .next (match findK s.drains id with
    | none => s
    | some d =>
      let x := (s.cl d.cl).slot d.slot
      let a := sliceAddr d.core d.off
      let vis := fun (_ : Unit) => (List.range x.nblk).foldl (fun v i => Lease.later v (s.visTime (.sram (a + 64 * i)))) s.lease
      if d.cl ≠ cl then s
      else match d.vis with
      | some v =>
        if !Lease.before v s.lease then s
        else if d.gone then ({ s with drains := delK s.drains id } : State).completeOp d.core d.op d.fail
        else s.endDrain id d d.fail
      | none =>
        if x.state ≠ 2 then s
        else if d.bad then s.endDrain id d (some 3)
        else if x.lost then
          let v := vis ()
          let (bs, s) := s.mixBytes (s.rdSram a (64 * x.nblk)) x.data
          let s := (List.range x.nblk).foldl (fun (s : State) i =>
            let (b, s) := s.openBit
            if b then s.setTag (.sram (a + 64 * i)) (x.tags.getD i 0) else s) (s.wrSram a bs)
          { s with drains := insK s.drains id { d with vis := some v, fail := some 2 } }
        else
          let s' := (List.range x.nblk).foldl (fun (s : State) i => s.setTag (.sram (a + 64 * i)) (x.tags.getD i 0)) (s.wrSram a x.data)
          { s' with drains := insK s'.drains id { d with vis := some (vis ()) } })
/-- R296: the serai releases a slot: the drains that have not finished fail, those that have written once that is visible (R391). -/
def execDepotSlotRelease (cl slot : Nat) (s : State) : Host.Outcome State Fault Refusal :=
  .next (
    let x := (s.cl cl).slot slot
    if x.state = 0 then s
    else
      let mine := s.drains.filter fun p => p.2.cl == cl && p.2.slot == slot && !p.2.gone
      let s := mine.foldl (fun (s : State) p =>
        if p.2.vis.isSome then { s with drains := insK s.drains p.1 { p.2 with fail := some 2, gone := true } }
        else ({ s with drains := delK s.drains p.1 } : State).completeOp p.2.core p.2.op (some 2)) s
      let s := if x.state = 1 then s.completeOp (cl * 128 + x.sender) x.op (some 2) else s
      s.modSlot cl slot fun _ => {})
/-- R299. -/
def execMcinfo (g : Guard) (d : Operand) (a : Src) (s : State) : Host.Outcome State Fault Refusal :=
  .next (computeOnly s (laneOp s g { srcs := [{ pos := 0, src := a }], dst := some { o := d, n := 2, al := 2 } } fun s _ vs =>
    (s, wordsOf 2 ((s.cl (clusterOf s.cur.core)).slot (wBits (wordAt vs 0 0) 5 0)).word.toNat, 0)))

end Sys2Proof.Machine
end

