-- ==== Sys2Proof/Machine/Serai.lean ====
section
/-! DEFINITION. The serai (R301, R302, R305 to R316): rings in its local SRAM, trap records, `trap`, `resume`, `kill`, `xres`,
`icinv`, `mcall` and `mret`. -/

namespace Sys2Proof.Machine

/-- R302: the fault of an operation that only monitor mode may make. -/
def State.privilegeFault (s : State) : State := (s.takeFault 0 0x15 (BitVec.ofNat 32 (curOpc s))).finish

/-! ## Rings (R304) -/

def ringHead (v : DWord) : Nat := dwBits v 31 0
def ringTail (v : DWord) : Nat := dwBits v 63 32
def ringUsed (v : DWord) : Nat := (ringTail v + 2 ^ 32 - ringHead v) % 2 ^ 32
def ringBump (v : DWord) : DWord := dwSet v 63 32 (ringTail v + 1)
/-- R304: the place of the next record of a ring of `size`-byte records, when it is enabled and not full. -/
def State.ringPlace (s : State) (cl ring ptr size : Nat) : Option Nat :=
  let r := s.cr cl ring
  let p := s.cr cl ptr
  let n := 2 ^ dwBits r 23 20
  if dwBit r 24 && ringUsed p != n then some (dwBits r 19 6 * 64 + size * (ringTail p % n)) else none
/-- R304: a record is written in full before TAIL passes it. -/
def State.ringWrite (s : State) (cl ptr off : Nat) (bs : List Byte) : State :=
  (s.wrSram (seraiAddr cl off) bs).modCr cl ptr ringBump
/-- Replace the SEQ halfword of a record. -/
def withSeq (bs : List Byte) (seq : BitVec 16) : List Byte := bs.take 2 ++ bytesOf 2 seq.toNat ++ bs.drop 4

/-! ## Exceptions and events (R313, R314) -/

/-- R313: an exception record without its SEQ. -/
def XRec.bytes (r : XRec) (core part : Nat) : List Byte :=
  bytesOf 4 (r.code % 256) ++ bytesOf 4 r.finfo.toNat ++ bytesOf 4 (core + r.turn * 2 ^ 11 + r.lane * 2 ^ 15 + part * 2 ^ 20) ++
  bytesOf 4 r.reps.toNat ++ bytesOf 8 r.pc.toNat ++ bytesOf 8 r.extra.toNat ++ bytesOf 8 r.time.toNat ++ bytesOf 8 r.word.toNat ++
  List.replicate 16 0
/-- R313: the oldest waiting record of a core is posted when the ring has room. -/
def execExceptionRecordPost (core : Nat) (s : State) : Host.Outcome State Fault Refusal :=
  let cl := clusterOf core
  .next (match (s.core core).xrecs, s.ringPlace cl nXRING nXPTR 64 with
    | r :: rest, some off =>
      let s := s.ringWrite cl nXPTR off (withSeq (r.bytes core (s.partOf core).toNat) (s.cl cl).xSeq)
      (s.modCore core fun k => { k with xrecs := rest }).modCl cl fun k => { k with xSeq := k.xSeq + 1 }
    | _, _ => s)
/-- R313, R304: a record joins its core's waiting records; one that the ring cannot take at once is counted. -/
def State.queueXrec (s : State) (core : Nat) (r : XRec) : State :=
  let ring := s.cr (clusterOf core) nXRING
  let room := (2 ^ dwBits ring 23 20 + 2 ^ 32 - ringUsed (s.cr (clusterOf core) nXPTR)) % 2 ^ 32
  let wait := !dwBit ring 24 || decide (room ≤ (s.core core).xrecs.length)
  let s := if wait then s.crCount (clusterOf core) nRSTAT 47 32 1 else s
  s.modCore core fun k => { k with xrecs := k.xrecs ++ [r] }
def State.postEvent (s : State) (cl off : Nat) (bs : List Byte) : State :=
  (s.ringWrite cl nEPTR off (withSeq bs (s.cl cl).eSeq)).modCl cl fun k => { k with eSeq := k.eSeq + 1 }
/-- R314: the oldest waiting event of a source is posted when the ring has room. -/
def execEventPost (cl source : Nat) (s : State) : Host.Outcome State Fault Refusal :=
  .next (match getK [] (s.cl cl).events source, s.ringPlace cl nERING nEPTR 64 with
    | e :: rest, some off => (s.postEvent cl off e).modCl cl fun k => { k with events := putK [] k.events source rest }
    | _, _ => s)
/-- R314: the count of a source's dropped events is posted after the events that waited. -/
def execEventDropCountPost (cl source : Nat) (s : State) : Host.Outcome State Fault Refusal :=
  let d := getK (0, 0) (s.cl cl).drops source
  .next (match getK [] (s.cl cl).events source, s.ringPlace cl nERING nEPTR 64 with
    | [], some off =>
      if d.1 = 0 then s
      else (s.postEvent cl off (eventRecord source 0xFF s.lease [BitVec.ofNat 32 d.1, BitVec.ofNat 32 (d.2 % 256)])).modCl cl fun k =>
        { k with drops := delK k.drops source }
    | _, _ => s)

/-! ## Trap records (R306 to R309) -/

/-- R306: the lanes' groups, in lane order: at most four. -/
def trapGroups (rows : List (Nat × List Word)) : List (List Word × Mask) :=
  rows.foldl (fun (gs : List (List Word × Mask)) p =>
    if gs.any fun g => g.1 == p.2 then gs.map fun g => if g.1 == p.2 then (g.1, g.2 ||| Mask.single p.1) else g
    else if gs.length < 4 then gs ++ [(p.2, Mask.single p.1)]
    else gs) []
/-- R307: a whole record, with zeros where no lane has a vector. -/
def TrapRec.bytes (r : TrapRec) (state : Nat) : List Byte :=
  r.head state ++ (List.range 32).flatMap (fun l => (bytesOfWords (getK [] r.vec l) ++ List.replicate 28 0).take 28) ++ List.replicate 64 0
/-- R307: a record read from a save area. -/
def TrapRec.ofBytes (bs : List Byte) : TrapRec :=
  let n := natOfBytes bs
  let at_ := fun (off hi lo : Nat) => bitsN n (8 * off + hi) (8 * off + lo)
  { turn := at_ 4 14 11, res := at_ 4 24 15, lanes := BitVec.ofNat 32 (at_ 8 31 0), pend := BitVec.ofNat 32 (at_ 12 31 0),
    gmask := (List.range (at_ 0x38 6 4)).map fun g => BitVec.ofNat 32 (at_ (16 + 4 * g) 31 0),
    pc := BitVec.ofNat 64 (at_ 0x20 63 0), time := BitVec.ofNat 48 (at_ 0x30 47 0), part := BitVec.ofNat 4 (at_ 0x38 3 0),
    vec := ((List.range 32).filter fun l => (at_ 8 31 0).testBit l).map fun l => (l, wordsOf 7 (at_ (0x40 + 28 * l) 223 0)),
    core := at_ 4 10 0, seq := BitVec.ofNat 16 (at_ 0 31 16) }
def Cluster.freeTrap (k : Cluster) : Option Nat := (List.range 256).find? fun i => !(k.traps.any fun p => p.1 == i)
/-- R308: the conditions of posting, but for the order of records: the slot. -/
def State.trapSlot (s : State) (cl : Nat) : Option Nat :=
  if dwBit (s.cr cl nTNOTE) 0 && ringUsed (s.cr cl nTNPTR) != 256 then (s.cl cl).freeTrap else none
/-- R307, R308: a record is posted: its slot, its notice, and the counts. -/
def State.postTrap (s : State) (cl slot : Nat) (r : TrapRec) : State :=
  let r := { r with seq := (s.cl cl).trapSeq, time := s.lease }
  let a := s.slotPlace cl slot
  let s := s.wrSram (a + 0x3C0) (List.replicate 64 0)
  let s := r.vec.foldl (fun (s : State) p => s.wrSram (a + 0x40 + 28 * p.1) (bytesOfWords p.2)) s
  let s := s.wrSram a (r.head 1)
  let s := s.modCl cl fun k => { k with traps := insK k.traps slot r, trapSeq := k.trapSeq + 1 }
  let n := dwBits (s.cr cl nTNOTE) 19 10 * 1024 + 4 * (ringTail (s.cr cl nTNPTR) % 256)
  (s.ringWrite cl nTNPTR n (bytesOf 4 (slot + r.seq.toNat * 2 ^ 16))).crCount cl nRSTAT 15 0 1
/-- The held and restored records of a core, by order. -/
def Core.heldRecs (k : Core) : List (Nat × TrapRec) := k.waves.filterMap fun p => p.2.held.map fun r => (p.1, r)
def Core.restoredRecs (k : Core) : List (Nat × TrapRec) := k.waves.flatMap fun p => p.2.restored.map fun r => (p.1, r)
def oldestRec (rs : List (Nat × TrapRec)) : Option (Nat × TrapRec) := firstTrk (·.order) (fun _ => true) rs

/-- R308, R309: where a new record goes: 0 posted, 1 stashed, 2 held; none where it finds no place. -/
def State.trapPlace (s : State) (c t : Nat) : Option Nat :=
  let k := s.core c
  if !(k.wave t).restored.isEmpty then none
  else if k.restoredRecs.isEmpty && k.heldRecs.isEmpty && k.stash.isEmpty && (s.trapSlot (clusterOf c)).isSome then some 0
  else if k.restoredRecs.isEmpty && k.heldRecs.isEmpty && decide (k.stash.length < 4) then some 1
  else if (k.wave t).held.isNone then some 2
  else none
/-- R306: the lanes of the path that trap or arrive at a barrier park with the PC at the next word; the rest advance. -/
def State.park (s : State) (m : Mask) (st : Status) (f : Nat → Thread → Thread) : State :=
  let next := s.cur.nextPc
  let s0 := s.moveLanes m false next
  let s1 := s0.modThreads s.cur.core s.cur.turn m fun l t =>
    f l { t with status := st, wait := .none, walked := [], pc := next, hdrW := if t.atEnd s.cur then 0 else t.hdrW }
  let rest := Mask.ofLanes ((s.cur.lanes &&& ~~~m).lanes.filter fun l => (s.curThread l).status == .ready)
  if rest = 0 then s1.issued else s1.issued.advance rest
/-- R305, R306. -/
def execTrap (g : Guard) (d : Operand) (a : Src) (s : State) : Host.Outcome State Fault Refusal :=
  .next (computeOnly s (match prep s g { srcs := [{ pos := 0, src := a, n := 7 }], dst := some { o := d, n := 2, al := 2 } } with
    | .stop s => s
    | .go s0 s1 rows =>
      let c := s1.cur.core
      let t := s1.cur.turn
      let m := Mask.ofLanes (rows.map fun (p : Nat × List (List Word)) => p.1)
      let unmet := m.lanes.filter fun l => !s1.fenceMet .domain c t l
      if !unmet.isEmpty then s0.block .blockedQueue (.fence .domain unmet)
      else match s1.trapPlace c t with
      | none => s0.block .blockedQueue .trapPlace
      | some place =>
        let res := match d with | .reg r => r | _ => 0
        let vec := rows.map fun (p : Nat × List (List Word)) => (p.1, p.2.getD 0 [])
        let (id, s) := s1.bump
        let r : TrapRec := { turn := t, res, lanes := m, pend := m, gmask := (trapGroups vec).map fun (g : List Word × Mask) => g.2, pc := s.cur.pc,
                             time := s.lease, part := s.partOf c, vec, core := c, order := id }
        let s := match place, s.trapSlot (clusterOf c) with
          | 0, some slot => s.postTrap (clusterOf c) slot r
          | 1, _ => s.modCore c fun k => { k with stash := k.stash ++ [r] }
          | _, _ => (s.modCurWave fun w => { w with held := some r }).crCount (clusterOf c) nRSTAT 31 16 1
        s.park m .parkedTrap fun _ th => th.markEmpty [res, res + 1] id))
/-- R308: the oldest stashed record of a core is posted when the posting conditions hold. -/
def execTrapRecordPost (core : Nat) (s : State) : Host.Outcome State Fault Refusal :=
  .next (match (s.core core).stash, s.trapSlot (clusterOf core) with
    | r :: rest, some slot => (s.modCore core fun k => { k with stash := rest }).postTrap (clusterOf core) slot r
    | _, _ => s)
/-- R308, R309: a restored record of the core, or else a held one, enters the stash, the oldest first. -/
def execTrapRecordStash (core : Nat) (s : State) : Host.Outcome State Fault Refusal :=
  let k := s.core core
  .next (
    if 4 ≤ k.stash.length then s
    else match oldestRec k.restoredRecs, oldestRec k.heldRecs with
      | some (t, r), _ => s.modCore core fun k =>
          { k.modWave t (fun w => { w with restored := w.restored.drop 1 }) with stash := k.stash ++ [{ r with turn := t }] }
      | none, some (t, r) => s.modCore core fun k =>
          { k.modWave t (fun w => { w with held := none }) with stash := k.stash ++ [{ r with turn := t }] }
      | none, none => s)

/-! ## Records and lanes of a wave (R311) -/

/-- R311: lanes leave PEND of a record that has not been posted; one with nothing left is discarded. -/
def dropPend (m : Mask) (rs : List TrapRec) : List TrapRec :=
  (rs.map fun r => { r with pend := r.pend &&& ~~~m }).filter fun r => r.pend != 0
/-- R311: lanes leave PEND of every record that the cluster and the core hold of a present wave. -/
def State.clearPend (s : State) (c t : Nat) (m : Mask) : State :=
  let cl := clusterOf c
  let s := ((s.cl cl).traps.filter fun p => p.2.core == c && p.2.turn == t && !p.2.absent && (p.2.pend &&& m) != 0).foldl
    (fun s p => s.setTrap cl p.1 { p.2 with pend := p.2.pend &&& ~~~m }) s
  s.modCore c fun k =>
    { k.modWave t (fun w => { w with held := (dropPend m w.held.toList).head?, restored := dropPend m w.restored }) with
      stash := k.stash.flatMap fun r => if r.turn = t then dropPend m [r] else [r] }
/-- R28, R131, R311, R361: threads of a present wave are killed. Their fault events are still decided (R349). -/
def State.killLanes (s : State) (c t : Nat) (m : Mask) : State :=
  let m := m &&& (s.wave c t).alive
  if m = 0 then s else (s.clearPend c t m).exitLanes c t m

/-! ## Save areas (R318, R320) -/

def areaSize : Nat := 0x28400
/-- The place of bytes of a save area, as a partition may use them now. -/
def State.areaPlace (s : State) (cl : Nat) (part : BitVec 4) (area : DWord) (off n right : Nat) : EChk (List (Place × Nat)) × State :=
  match s.bufSegs cl part (caBti area) right (pageParts (caOff area + off) n) with
  | (.ok (l, _), s) => if l.any fun p => (s.homeDown p.1 p.2).isSome then (.bad 5, l.foldl (fun (s : State) p => s.foundBad p.1 p.2) s) else (.ok l, s)
  | (.bad c, s) => (.bad c, s)
  | (.wait, s) => (.wait, s)
/-- Write bytes of an area, which its partition holds with the right given: the latest visibility time; none where they cannot
be written now. -/
def State.areaWrite (s : State) (cl : Nat) (part : BitVec 4) (area : DWord) (off : Nat) (bs : List Byte) (right : Nat := rWRITE) : Option Lease × State :=
  match s.areaPlace cl part area off bs.length right with
  | (.ok l, s) =>
    let r := l.foldl (fun (a : List Byte × Lease × State) p =>
      let w := a.2.2.eWrite p.1 (a.1.take p.2)
      (a.1.drop p.2, Lease.later a.2.1 w.1, w.2)) (bs, s.lease, s)
    (some r.2.1, r.2.2)
  | (_, s) => (none, s)
/-- Read bytes of an area at their homes, under the right that the area is held with. -/
def State.areaRead (s : State) (cl : Nat) (part : BitVec 4) (area : DWord) (off n : Nat) (right : Nat := rREAD) : Option (List Byte) × State :=
  match s.areaPlace cl part area off n right with
  | (.ok l, s) =>
    let r := l.foldl (fun (a : List Byte × State) p => let x := a.2.eRead p.1 p.2; (a.1 ++ x.1, x.2)) ([], s)
    (some r.1, r.2)
  | (_, s) => (none, s)
/-- The offset of a lane's thread section (R320). -/
def laneOff (l : Nat) : Nat := 0x2400 + 0xB00 * l
/-- R407, R417, R421: must an access to these bytes of an area wait, for ZBUSY or for a held bank or stack? -/
def State.areaWaits (s : State) (cl : Nat) (part : BitVec 4) (area : DWord) (l : List (Nat × Nat)) : Bool :=
  l.any fun p => match (s.areaPlace cl part area p.1 p.2 rWRITE).1 with
    | .ok ps => ps.any fun x => s.heldSpan x.1 x.2
    | .wait => true
    | .bad _ => false
/-- R323: is a save or restore of a present wave, or of an area, in progress? -/
def State.saving (s : State) (c t : Nat) (area : DWord) : Bool :=
  s.saves.any fun p => p.2.core == c && (p.2.turns.contains t ||
    (List.range p.2.turns.length).any fun k => area == BitVec.ofNat 64 (p.2.bti * 2 ^ 48 + p.2.off + k * areaSize))

/-! ## `resume`, `kill` and `xres` (R310 to R312, R323) -/

/-- R310: have the stores of the serai's thread been acknowledged, and, where `wh` says so, has the lease clock passed WH? -/
def State.storesMet (s : State) (c t l : Nat) (wh : Bool) : Bool :=
  (s.storesOf c t l).isEmpty && (!wh || Lease.before (s.thread c t l).wh s.lease)
/-- The frame of a serai instruction of lane 0, with the words of its sources. -/
def seraiOp (s : State) (g : Guard) (sp : Spec) (body : State → State → List (List Word) → State) : State :=
  privileged s (match prep s g sp with
    | .stop s => s
    | .go s0 s1 rows => match rows with | r :: _ => body s0 s1 r.2 | [] => s1.finish)
/-- R20: D of an instruction that is no long-latency producer, written at issue. -/
def State.putD (s : State) (d : Operand) (v : Word) : State := s.writeDst { o := d } [(0, [v])]
/-- D as a long-latency producer of a value already known. -/
def State.giveD (s : State) (d : Operand) (ws : List Word) : State :=
  match d with
  | .reg r => (s.newProd 0 (.vals ws) ((List.range ws.length).map (r + ·))).2
  | o => s.writeDst { o, n := ws.length } [(0, ws)]
/-- R323: what names the wave of a record to `State.saving`: its turn while it is present (no save is of turn 16), its area while it
is absent (no area begins at the last address). -/
def TrapRec.waveTurn (r : TrapRec) : Nat := if r.absent then 16 else r.turn
def TrapRec.area (r : TrapRec) : DWord := if r.absent then r.save else 0xFFFFFFFFFFFFFFFF
/-- R310: the words of a lane's result are written into a present thread, which becomes ready. -/
def State.resumeLane (s : State) (c t l res : Nat) (v : List Word) : State :=
  s.modThread c t l fun th => if th.status = .parkedTrap then { th.setRegs res v with status := .ready, wait := .none } else th
/-- R310: the same in a thread section of an area, for which write right is enough (R318); false where it cannot be written. -/
def State.resumeSaved (s : State) (cl : Nat) (part : BitVec 4) (area : DWord) (l res : Nat) (v : List Word) : Bool × State :=
  let o := laneOff l
  match s.areaRead cl part area (o + 0x80 + res / 8) 1 rWRITE with
  | (some [b], s) =>
    let full := b ||| BitVec.ofNat 8 (3 * 2 ^ (res % 8))
    match s.areaWrite cl part area (o + 0x80 + res / 8) [full] with
    | (some _, s) =>
      match s.areaWrite cl part area (o + 0x100 + 4 * res) (bytesOfWords v) with
      | (some _, s) => (match s.areaWrite cl part area (o + 8) [1] with | (some _, s) => (true, s) | (none, s) => (false, s))
      | (none, s) => (false, s)
    | (none, s) => (false, s)
  | (_, s) => (false, s)
/-- R310: the bytes of a thread section that a `resume` writes. -/
def savedParts (l res : Nat) : List (Nat × Nat) :=
  [(laneOff l + 0x80 + res / 8, 1), (laneOff l + 0x100 + 4 * res, 8), (laneOff l + 8, 1)]
/-- R310: the lanes of a record that are resumed, with what they receive. -/
def State.resumeMask (s : State) (cl : Nat) (r : TrapRec) (lanes : List Nat) (val : State → Nat → List Word) : Mask × State :=
  lanes.foldl (fun (x : Mask × State) l =>
    let v := val x.2 l
    if r.absent then
      let w := x.2.resumeSaved cl r.part r.save l r.res v
      (if w.1 then x.1 ||| Mask.single l else x.1, w.2)
    else (x.1 ||| Mask.single l, x.2.resumeLane r.core r.turn l r.res (if r.cut then [] else v))) (0, s)
/-- R310: `resume` and `resume.b`; `b` is the pair every lane receives, if any. -/
def resumeOp (s : State) (g : Guard) (d : Operand) (a m : Src) (b : Option Src) : State :=
  let srcs : List SrcReq := [{ pos := 0, src := a }, { pos := 1, src := m }] ++ (match b with | some x => [{ pos := 2, src := x, n := 2, al := 2 }] | none => [])
  seraiOp s g { srcs, dst := some { o := d } } fun s0 s1 vs =>
    let cl := clusterOf s1.cur.core
    let slot := wBits (wordAt vs 0 0) 7 0
    if !s1.storesMet s1.cur.core s1.cur.turn 0 true then s0.block .blockedQueue (.stores true)
    else match findK (s1.cl cl).traps slot with
    | none => (s1.giveD d [0]).finish
    | some r =>
      let lanes := Mask.lanes (wordAt vs 1 0 &&& r.pend)
      if s1.saving r.core r.waveTurn r.area then s0.block .blockedQueue (.saving r.core r.waveTurn r.area none)
      else if r.absent && s1.areaWaits cl r.part r.save (lanes.flatMap fun l => savedParts l r.res) then s0.block .blockedQueue .none
      else
        let val := fun (s : State) (l : Nat) => if b.isSome then vs.getD 2 [] else wordsOf 2 (natOfBytes (s.rdSram (s.slotPlace cl slot + 0x40 + 28 * l) 8))
        let res := s1.resumeMask cl r lanes val
        let s := if r.absent then res.2 else res.2.poke r.core
        ((s.setTrap cl slot { r with pend := r.pend &&& ~~~res.1 }).giveD d [res.1]).finish
def execResume (g : Guard) (d : Operand) (a b : Src) (s : State) : Host.Outcome State Fault Refusal := .next (resumeOp s g d a b none)
def execResumeB (g : Guard) (d : Operand) (a b c : Src) (s : State) : Host.Outcome State Fault Refusal := .next (resumeOp s g d a b (some c))

/-- R318: the core and the turns that S1 names: none where the core or its reserved bits are wrong. -/
def waveName (cl : Nat) (v : Word) : Option (Nat × List Nat) :=
  if wBits v 15 11 = 0 ∧ wBits v 10 0 / 128 = cl then some (wBits v 10 0, (List.range 16).filter fun t => v.getLsbD (16 + t)) else none
/-- R311: threads of an absent wave are killed in its save area, and their lanes leave the PEND of its records: the posted
ones, and those in the area. -/
def State.killSaved (s : State) (cl : Nat) (part : BitVec 4) (area : DWord) (m : Mask) : Mask × State :=
  let drop := fun (l : Nat) (v : SavedWave) =>
    if v.bti = caBti area ∧ v.off = caOff area then { v with alive := v.alive &&& ~~~(Mask.single l) } else v
  let gone := fun (l : Nat) (s : State) =>
    { s with cores := s.cores.map fun (k : Nat × Core) =>
        if clusterOf k.1 = cl then (k.1, { k.2 with saved := k.2.saved.map (drop l) }) else k }
  let r := m.lanes.foldl (fun (x : Mask × State) l =>
    match x.2.areaWrite cl part area (laneOff l + 8) [0] with
    | (some _, s) => (x.1 ||| Mask.single l, gone l s)
    | (none, s) => (x.1, s)) (0, s)
  let s := ((r.2.cl cl).traps.filter fun p => p.2.absent && p.2.save == area).foldl
    (fun s p => s.setTrap cl p.1 { p.2 with pend := p.2.pend &&& ~~~r.1 }) r.2
  let (n, s) := s.areaRead cl part area 0x28 4 rWRITE
  let cnt := Nat.min 5 (natOfBytes (n.getD []) % 8)
  (r.1, (List.range cnt).foldl (fun s j =>
    match s.areaRead cl part area (0x1000 + 0x400 * j + 12) 4 rWRITE with
    | (some bs, s) => (s.areaWrite cl part area (0x1000 + 0x400 * j + 12) (bytesOf 4 (BitVec.ofNat 32 (natOfBytes bs) &&& ~~~r.1).toNat)).2
    | (none, s) => s) s)
/-- R311: the bytes of an area that a kill of the lanes `m` reads and writes. -/
def killParts (m : Mask) : List (Nat × Nat) :=
  (0x28, 4) :: (List.range 5).map (fun j => (0x1000 + 0x400 * j + 12, 4)) ++ m.lanes.map fun l => (laneOff l + 8, 1)
/-- R311, R323: the lanes of an absent wave are killed in its save area, once its bytes can be reached. -/
def State.killAbsent (s1 s0 : State) (d : Operand) (cl : Nat) (part : BitVec 4) (area : DWord) (m : Mask) (wait : Wait := .none) : State :=
  if s1.areaWaits cl part area (killParts m) then s0.block .blockedQueue wait
  else
    let k := s1.killSaved cl part area m
    (k.2.putD d k.1).finish
/-- R323: the wave that a waiting `kill` of a turn named when it was accepted, if one was present then. -/
def State.awaited (s : State) (c : Nat) : Option Nat :=
  match (s.curThread 0).wait with
  | .saving c' _ _ uid => if c' = c then uid else none
  | _ => none
/-- R311, R323: the wave that a kill of a turn acts on: the turn in which it is present, or the saved one. It is the wave named when
the kill was accepted, which a restore may have brought into another turn; else the one present, else the one last saved from the
turn. -/
def State.killTarget (s : State) (c t : Nat) : Option Nat × Option SavedWave :=
  let k := s.core c
  match s.awaited c with
  | some u => (match k.waves.find? fun w => w.2.live && w.2.uid == u with
    | some w => (some w.1, none)
    | none => (none, k.saved.find? fun v => v.uid == u))
  | none => if (k.wave t).live then (some t, none) else (none, k.saved.reverse.find? fun v => v.turn == t)
/-- R311, R323. -/
def execKill (g : Guard) (rec : Bool) (d : Operand) (a b : Src) (s : State) : Host.Outcome State Fault Refusal :=
  .next (seraiOp s g { srcs := [{ pos := 0, src := a }, { pos := 1, src := b }], dst := some { o := d } } fun s0 s1 vs =>
    let cl := clusterOf s1.cur.core
    let m := wordAt vs 1 0
    if rec then
      match findK (s1.cl cl).traps (wBits (wordAt vs 0 0) 7 0) with
      | none => (s1.putD d 0).finish
      | some r =>
        if s1.saving r.core r.waveTurn r.area then s0.block .blockedQueue (.saving r.core r.waveTurn r.area none)
        else if r.absent then s1.killAbsent s0 d cl r.part r.save (m &&& r.pend)
        else (((s1.killLanes r.core r.turn (m &&& r.pend)).poke r.core).putD d (m &&& r.pend)).finish
    else
      match waveName cl (wordAt vs 0 0) with
      | some (c, [t]) =>
        if (s1.awaited c).isNone && s1.saving c t 0xFFFFFFFFFFFFFFFF then
          s0.block .blockedQueue (.saving c t 0xFFFFFFFFFFFFFFFF (if (s1.wave c t).live then some (s1.wave c t).uid else none))
        else match s1.killTarget c t with
        | (some u, _) =>
          if s1.saving c u 0xFFFFFFFFFFFFFFFF then s0.block .blockedQueue (.saving c u 0xFFFFFFFFFFFFFFFF (some (s1.wave c u).uid))
          else
            let k := m &&& (s1.wave c u).alive
            (((s1.killLanes c u k).poke c).putD d k).finish
        | (none, some v) =>
          let area := BitVec.ofNat 64 (v.bti * 2 ^ 48 + v.off)
          if s1.saving c 16 area then s0.block .blockedQueue (.saving c 16 area (some v.uid))
          else s1.killAbsent s0 d cl v.part area (m &&& v.alive) (.saving c 16 area (some v.uid))
        | (none, none) => (s1.putD d 0).finish
      | _ => (s1.putD d 0).finish)

/-- The word at a code address, as memory holds it now for a core's wave. -/
def State.peekCode (s : State) (c t : Nat) (pc : DWord) : Option DWord :=
  match s.codeLine c t pc with
  | some ln => some (ln.at pc)
  | none =>
    if s.localCode c t pc then some (s.rdDWord (seraiAddr (clusterOf c) pc.toNat))
    else match (s.checkEngine (s.partOf c) (caBti pc) (caOff pc / 8 * 8) 8 rEXEC).1 with
      | some (.ok p _) => some (BitVec.ofNat 64 (natOfBytes (s.rdHome p 8)))
      | _ => none
/-- R312: a faulting issue is treated as completed with no effect; the word is the one that faulted, or, for a thread whose
status software has written, the one at its PC. -/
def State.stepOver (s : State) (c t l : Nat) : State :=
  let th := s.thread c t l
  let w := match th.fword with | some w => w | none => (s.peekCode c t th.pc).getD 0
  let i : Issue := { core := c, turn := t, lanes := Mask.single l, pc := th.pc, word := w, words := if th.la2 || !hasExt w then 1 else 2 }
  { ({ s with cur := i } : State).advance (Mask.single l) with cur := s.cur }
/-- R312: lanes of a present wave that stand faulted become ready. -/
def execXres (g : Guard) (step : Bool) (d : Operand) (a b : Src) (s : State) : Host.Outcome State Fault Refusal :=
  .next (seraiOp s g { srcs := [{ pos := 0, src := a }, { pos := 1, src := b }], dst := some { o := d } } fun s0 s1 vs =>
    match waveName (clusterOf s1.cur.core) (wordAt vs 0 0) with
    | some (c, [t]) =>
      if s1.saving c t 0xFFFFFFFFFFFFFFFF then s0.block .blockedQueue (.saving c t 0xFFFFFFFFFFFFFFFF none)
      else
        let m := wordAt vs 1 0 &&& (if (s1.wave c t).live then (s1.wave c t).lanesWith (· == .faulted) else 0)
        let s := s1.modThreads c t m fun _ th => { th with status := .ready, wait := .none }
        let s := if step then (Mask.lanes m).foldl (fun s l => s.stepOver c t l) s else s
        ((s.poke c).putD d m).finish
    | _ => (s1.putD d 0).finish)

/-! ## Instruction caches and modes (R315, R316) -/

/-- R316: the lines of a cache that overlap a range go; length 0 means all of them. -/
def Core.invalidate (k : Core) (start len : Nat) : Core :=
  { k with icache := k.icache.filter fun p => !(len == 0 || (decide (p.1 * 64 < start + len) && decide (start < p.1 * 64 + 64))) }
def execIcinv (g : Guard) (d : Operand) (a b c : Src) (s : State) : Host.Outcome State Fault Refusal :=
  .next (seraiOp s g { srcs := [{ pos := 0, src := a }, { pos := 1, src := b, n := 2, al := 2 }, { pos := 2, src := c }], dst := some { o := d } } fun _ s1 vs =>
    let cl := clusterOf s1.cur.core
    let n := (wordAt vs 0 0).toNat
    let cores := if n = 0xFFFFFFFF then (List.range 128).map (128 * cl + ·) else if n / 128 = cl then [n] else []
    let s := cores.foldl (fun (s : State) k => s.modCore k fun x => (x.invalidate (pairAt vs 1).toNat (wordAt vs 2 0).toNat).poke) s1
    (s.giveD d [BitVec.ofNat 32 cores.length]).finish)
/-- R315, R50: lane 0 of a serai transfers in the mode that `s1` gives it; `s0` is the state before the instruction. -/
def State.seraiJump (s1 : State) (s0 before : State) (dest : DWord) : State :=
  let c := s1.cur.core
  let t := s1.cur.turn
  match s1.checkTarget c t 0 false dest with
  | .ok w la2 => (s1.goTo (Mask.single 0) false dest w la2).modThread c t 0 fun th => { th with wait := .none, walked := [] }
  | .wait => s0.unissued.modCore c fun k => { k with fills := ((s1.wantLine c t dest).core c).fills }
  | .miss b p => s0.blockPage b p
  | .bad code f x => ((if code = 8 then before.foundCode c t 0 dest else before).takeFault 0 code f x).finish
def execMcall (g : Guard) (a : Src) (s : State) : Host.Outcome State Fault Refusal :=
  .next (seraiOp s g { srcs := [{ pos := 0, src := a }] } fun s0 s1 vs =>
    let cl := clusterOf s1.cur.core
    let t := s1.cur.turn
    let s := (s1.setCrT cl (t + 1) nMEPC s1.cur.nextPc).setCrT cl (t + 1) nMINFO 0
    (s.setSmode cl t true (some (wBits (wordAt vs 0 0) 7 0))).seraiJump s0 s0 (s1.cr cl nMVEC))
def execMret (g : Guard) (s : State) : Host.Outcome State Fault Refusal :=
  .next (seraiOp s g {} fun s0 s1 _ =>
    let cl := clusterOf s1.cur.core
    let t := s1.cur.turn
    if !s1.isMonitor cl t then s0.privilegeFault
    else (s1.setSmode cl t false none).seraiJump s0 s1 (s1.crT cl (t + 1) nMEPC))

end Sys2Proof.Machine
end

