-- ==== Sys2Proof/Machine/Save.lean ====
section
/-! DEFINITION. Pre-emption (R317 to R323): `psave` and `prest`, the save area, and what a core keeps of a saved wave. -/

namespace Sys2Proof.Machine

/-! ## The save area (R320, R321) -/

/-- R174: the path state as a 64-bit word. -/
def Wave.pathWord (w : Wave) : DWord :=
  BitVec.ofNat 64 (w.qcnt % 1024 + w.rotLeft % 1024 * 2 ^ 10 + w.rotLane % 32 * 2 ^ 20 + (if w.rot then 2 ^ 25 else 0) + w.rotMask.toNat * 2 ^ 32)
/-- R37, R179: a reconvergence entry and its bound word. -/
def Recon.bytes (r : Recon) : List Byte :=
  bytesOf 8 (r.raddr.toNat / 8 * 8 + 1) ++ bytesOf 4 r.members.toNat ++ bytesOf 4 r.arrived.toNat ++ bytesOf 8 (r.rlo.toNat / 8 * 8)
def Recon.ofNat (n : Nat) : Option Recon :=
  if n.testBit 0 then
    some { raddr := BitVec.ofNat 64 (bitsN n 63 3 * 8), rlo := BitVec.ofNat 64 (bitsN n 191 131 * 8),
           members := BitVec.ofNat 32 (bitsN n 95 64), arrived := BitVec.ofNat 32 (bitsN n 127 96) }
  else none
/-- R209: a walker's descriptor and position. -/
def Walker.bytes (w : Walker) : List Byte :=
  bytesOf 32 w.desc.toNat ++ bytesOf 8 (w.i0 + w.i1 * 2 ^ 16 + w.i2 * 2 ^ 32 + (if w.e0 then 2 ^ 48 else 0) + (if w.e1 then 2 ^ 49 else 0) +
    (if w.e2 then 2 ^ 50 else 0) + (if w.bound then 2 ^ 51 else 0))
def Walker.ofNat (n : Nat) : Walker :=
  { desc := BitVec.ofNat 256 n, i0 := bitsN n 271 256, i1 := bitsN n 287 272, i2 := bitsN n 303 288,
    e0 := n.testBit 304, e1 := n.testBit 305, e2 := n.testBit 306, bound := n.testBit 307 }
/-- R27: the code of a status; running does not occur between steps. -/
def statusCode : Status → Nat
  | .exited => 0 | .ready => 1 | .running => 1 | .blockedEmpty => 3 | .blockedQueue => 4 | .parkedTrap => 5
  | .parkedBarrier => 6 | .parkedRecon => 7 | .faulted => 8
/-- R52, R320: the number of registers saved of a thread. -/
def State.liven (s : State) (c t l : Nat) : Nat :=
  let th := s.thread c t l
  let q := s.quotaOf c t
  if th.la2 then q
  else
    let h := if th.hdrW ≠ 0 then th.hdrW else (s.peekCode c t th.pc).getD 0
    let live := if isHeader h then Nat.min (Header.ofWord h).live q else q
    let res := (((s.wave c t).held.toList ++ (s.wave c t).restored ++ (s.core c).stash.filter (fun r => r.turn == t) ++
      (((s.cl (clusterOf c)).traps.filter fun p => p.2.core == c && p.2.turn == t && !p.2.absent).map (·.2))).filter
        fun r => r.pend.getLsbD l).map (·.res)
    if th.status = .parkedTrap then res.foldl (fun n r => Nat.max n (r + 2)) live else live
/-- R321: the records of a wave that have not been posted, in issue order. -/
def Core.recsOf (k : Core) (t : Nat) : List TrapRec :=
  (k.stash.filter (fun r => r.turn == t)) ++ (k.wave t).restored ++ (k.wave t).held.toList
/-- R321: the banks an area saves. -/
def Core.areaBanks (k : Core) (t : Nat) : List Nat := (List.range 16).filter fun b => let x := k.bank b; x.valid && !x.left && x.owner == t
/-- R320: the thread section of a lane, as (offset, bytes). -/
def State.threadPieces (s : State) (c t l : Nat) : List (Nat × List Byte) :=
  let th := s.thread c t l
  let o := laneOff l
  let n := s.liven c t l
  let st := if th.status = .blockedEmpty then 1 else statusCode th.status
  let x := ((s.core c).xrecs.filter fun r => r.turn == t && r.uid == (s.wave c t).uid && r.lane == l).head?
  let full := (List.range 80).map fun i => BitVec.ofNat 8 (((List.range 8).foldl (fun v j => if 8 * i + j < n ∧ !th.isEmpty (8 * i + j) then v + 2 ^ j else v) 0))
  [(o, bytesOf 8 th.pc.toNat), (o + 8, [BitVec.ofNat 8 st, th.preds ||| 1] ++ bytesOf 2 th.reps.toNat ++ bytesOf 2 n ++
      bytesOf 2 (match th.arrived with | some a => a.gen.toNat | none => 0)),
   (o + 0x10, bytesOf 8 th.wh.toNat),
   (o + 0x18, (List.range 5).flatMap (fun cls => bytesOf 4 (th.batch cls).word.toNat)),
   (o + 0x2C, bytesOf 4 (if x.isSome then 1 else 0))] ++
  (match x with | some r => [(o + 0x40, r.bytes c (s.partOf c).toNat)] | none => []) ++
  [(o + 0x80, full.take ((n + 7) / 8)), (o + 0x100, bytesOfWords ((List.range n).map th.reg))]
/-- R320: what the area of a wave receives; a wave with no thread left receives word 0 alone, with VALID 0 (R319). -/
def State.areaPieces (s : State) (c t : Nat) : List (Nat × List Byte) :=
  let k := s.core c
  let w := k.wave t
  let word0 := fun (valid : Nat) => (0, bytesOf 8 (1 + valid * 2 ^ 16 + t * 2 ^ 20 + c * 2 ^ 24))
  if w.alive = 0 then [word0 0]
  else
    let q := s.quota c t
    let recs := k.recsOf t
    let banks := k.areaBanks t
    [word0 1, (8, bytesOf 4 w.alive.toNat ++ bytesOf 4 (q.count + q.dead * 64) ++ bytesOf 4 w.tile ++ bytesOf 4 w.satfWord.toNat ++
        bytesOf 4 w.quant ++ bytesOf 4 w.rtovf ++ bytesOf 8 w.pathWord.toNat ++ bytesOf 4 (Nat.min 5 recs.length) ++
        bytesOf 2 (banks.foldl (fun m b => m + 2 ^ b) 0)),
     (0x40, (List.range 8).flatMap fun e => match findK w.recon e with | some r => r.bytes | none => List.replicate 24 0),
     (0x100, (List.range 8).flatMap fun n => (w.walker n).bytes),
     (0x240, bytesOfWords ((List.range 32).map w.srgAt))] ++
    banks.map (fun b => (0x2C0 + 4 * b, bytesOf 4 (k.bank b).word.toNat)) ++
    ((recs.take 5).zip (List.range 5)).map (fun p => (0x1000 + 0x400 * p.2, p.1.bytes 0)) ++
    w.alive.lanes.flatMap (s.threadPieces c t) ++
    banks.map (fun b => (0x18400 + 0x1000 * b,
      bytesOfWords ((List.range 1024).map fun i => if (k.bank b).poison then 0x7FC00000 else getK 0 (k.bank b).data i)))
/-- The area of the k-th wave of a save or restore (R318). -/
def SaveOp.area (o : SaveOp) (k : Nat) : DWord := BitVec.ofNat 64 (o.bti * 2 ^ 48 + (o.off + k * areaSize) % 2 ^ 48)
def SaveOp.parts (o : SaveOp) : List (Nat × DWord) := (o.turns.zip (List.range o.turns.length)).map fun p => (p.1, o.area p.2)

/-! ## Submission (R318, R322) -/

/-- R318, status 4: the offset, the owner, the length and the right of the area; what a page holds is found at the access. -/
def State.areaBad (s : State) (part : BitVec 4) (bti off n right : Nat) : Bool :=
  off % 4096 != 0 || decide (2 ^ 48 < off + n) ||
  (pageParts off n).any fun p => match (s.checkEngine part bti p.1 p.2 right).1 with
    | some (.bad 7 f _) => f.extractLsb' 0 4 != 5
    | _ => false
/-- R318, status 3: a grant joins a wave of the turns to one outside. -/
def Core.grantCrosses (k : Core) (turns : List Nat) : Bool :=
  (List.range 16).any fun b =>
    let x := k.bank b
    x.valid && !x.left && x.granted && (turns.contains x.owner != turns.contains x.grantee)
/-- R318, R322: the status that the checks of turns of a core give, or 0. -/
def State.saveStatus (s : State) (restore : Bool) (c : Nat) (turns : List Nat) (area : DWord) : Nat :=
  let k := s.core c
  if turns.isEmpty ∨ (turns.any fun t => (k.wave t).live == restore) then 2
  else if !restore && k.grantCrosses turns then 3
  else if s.areaBad (s.partOf c) (caBti area) (caOff area) (turns.length * areaSize) (if restore then rREAD else rWRITE) then 4
  else if turns.any fun t => (k.wave t).busy ∨ s.saving c t (BitVec.ofNat 64 (area.toNat)) then 5
  else 0
/-- R318, R322: the checks found before any effect: the core and turns, or a status. -/
def State.saveChecks (s : State) (restore : Bool) (cl : Nat) (v : Word) (area : DWord) : Except Nat (Nat × List Nat) :=
  match waveName cl v with
  | none => .error 1
  | some (c, turns) =>
    match s.saveStatus restore c turns area with
    | 0 => .ok (c, turns)
    | e => .error e
/-- R318, R322: a save or restore of turns of a core begins. -/
def State.beginSave (s : State) (restore : Bool) (c : Nat) (turns : List Nat) (area : DWord) (prod : Nat) : State :=
  let (id, s) := s.bump
  let o : SaveOp := { restore, core := c, turns, bti := caBti area, off := caOff area, prod, time := s.lease }
  let s := turns.foldl (fun s t => s.modWave c t fun w => { w with busy := true }) (s.poke c)
  { s with saves := insK s.saves id o }
/-- R318, R322: the result register waits until the save or restore ends. -/
def saveOp (s : State) (g : Guard) (restore : Bool) (d : Operand) (a b : Src) : State :=
  seraiOp s g { srcs := [{ pos := 0, src := a }, { pos := 1, src := b, n := 2, al := 2 }], dst := some { o := d } } fun s0 s1 vs =>
    if restore && !s1.storesMet s1.cur.core s1.cur.turn 0 false then s0.block .blockedQueue (.stores false)
    else match s1.saveChecks restore (clusterOf s1.cur.core) (wordAt vs 0 0) (pairAt vs 1) with
    | .error e => (s1.giveD d [BitVec.ofNat 32 e]).finish
    | .ok (c, turns) =>
      let (prod, s) := s1.newProd 0 .await (match d with | .reg r => [r] | _ => [])
      (s.beginSave restore c turns (pairAt vs 1) prod).finish
def execPsave (g : Guard) (d : Operand) (a b : Src) (s : State) : Host.Outcome State Fault Refusal := .next (saveOp s g false d a b)
def execPrest (g : Guard) (d : Operand) (a b : Src) (s : State) : Host.Outcome State Fault Refusal := .next (saveOp s g true d a b)

/-! ## The end of a save (R319) -/

/-- R319 step 2: has a wave drained? -/
def State.drained (s : State) (c t : Nat) : Bool :=
  let k := s.core c
  let w := k.wave t
  let cl := s.cl (clusterOf c)
  !(cl.faultEvs.any fun e => e.core == c && e.turn == t && e.uid == w.uid) &&
  !(match cl.decision with | some d => (match d.fault with | some e => e.core == c && e.turn == t && e.uid == w.uid | none => false) | none => false) &&
  !(s.prods.any fun p => p.2.core == c && p.2.turn == t && p.2.uid == w.uid) &&
  !(s.stores.any fun p => p.2.core == c && p.2.turn == t && p.2.uid == w.uid) &&
  !(k.lathe.any fun r => r.turn == t && r.uid == w.uid) &&
  !((k.queue 32).any fun e => match e with | .cmd _ u i _ _ _ => u == t && i == w.uid | _ => false) &&
  !(k.asts.any fun r => r.turn == t && r.uid == w.uid) &&
  !(k.spawns.any fun r => r.turn == t && r.uid == w.uid)
/-- R187, R318: a wave takes part again; one whose threads have all exited meanwhile retires. -/
def State.unbusy (s : State) (c t : Nat) : State :=
  let s := s.modWave c t fun w => { w with busy := false }
  if (s.wave c t).live && (s.wave c t).alive == 0 then s.retireWave c t else s
/-- The save or restore ends with a status. -/
def State.endSave (s : State) (id : Nat) (o : SaveOp) (status : Nat) : State :=
  let s := o.turns.foldl (fun s t => s.unbusy o.core t) s
  ({ s with saves := delK s.saves id } : State).completeProd o.prod [BitVec.ofNat 32 status]
/-- What the core keeps of a wave that leaves (R262, R319; LOG 6). -/
def State.savedOf (s : State) (c t : Nat) (area : DWord) : SavedWave :=
  let w := s.wave c t
  let per := fun {α : Type} (f : Thread → Option α) => w.alive.lanes.filterMap fun l => (f (w.thread l)).map fun x => (l, x)
  { turn := t, bti := caBti area, off := caOff area, uid := w.uid, alive := w.alive, part := w.part,
    batch := per fun t => some t.batches, bars := per (fun t => t.arrived.map fun a => { a with wh := t.wh }), hdrs := per fun t => some (t.hdr, t.hdrW), fwords := per (·.fword),
    whs := per fun t => some (t.wh, t.wh), defer := per fun t => if t.defer.isEmpty then none else some t.defer,
    la2 := Mask.ofLanes (w.alive.lanes.filter fun l => (w.thread l).la2), prio := w.prio, level := w.level }
/-- R308, R321: with the write of its area a wave's records leave the core, its posted records become ABSENT, and its waiting
exception records are not posted. -/
def State.leaveSaved (s : State) (c t : Nat) (area : DWord) : State :=
  let cl := clusterOf c
  let w := s.wave c t
  if w.alive = 0 then s
  else
    let s := ((s.cl cl).traps.filter fun p => p.2.core == c && p.2.turn == t && !p.2.absent).foldl
      (fun s p => s.setTrap cl p.1 { p.2 with absent := true, save := area }) s
    s.modCore c fun k =>
      { k.modWave t (fun w => { w with held := none, restored := [] }) with
        stash := k.stash.filter fun r => r.turn != t
        xrecs := k.xrecs.filter fun r => !(r.turn == t && r.uid == w.uid && w.alive.getLsbD r.lane) }
/-- R319 step 4: a saved wave's turn, quota, entries and banks are freed. `kept` is what stood when the areas were written, with
the flags that have come since (R101). -/
def State.freeSaved (s : State) (c t : Nat) (area : DWord) (accepted : Lease) (kept : List SavedWave) : State :=
  let now := s.savedOf c t area
  let saved := match kept.find? fun v => v.turn == t with
    | some v => { now with satf := v.satf, whs := v.whs }
    | none => now
  let banks := (s.core c).areaBanks t
  let s := s.modCore c fun k =>
    { k with waves := insK k.waves t { uid := (k.wave t).uid, freed := some accepted }
             quotas := delK k.quotas t
             admitted := k.admitted.filter (· != t)
             passOver := k.passOver.filter (· != t)
             banks := k.banks.filter fun b => !banks.contains b.1
             saved := k.saved.filter (fun v => !(v.bti == saved.bti && v.off == saved.off)) ++ [saved] }
  s.roomFreed (clusterOf c)
/-- R30, R319, R381: the threads of the waves that a deferred fault awaits take it before their areas are written: those that are
ready, or become so because every register has been filled. The others keep it (LOG 6). -/
def State.saveDeferred (s : State) (c : Nat) (turns : List Nat) : State :=
  turns.foldl (fun (s : State) t =>
    let due := Mask.ofLanes ((s.wave c t).alive.lanes.filter fun l =>
      let x := s.thread c t l
      !x.defer.isEmpty && (x.status == .ready || x.status == .blockedEmpty && x.empty.isEmpty))
    if due = 0 then s
    else
      let (n, s) := s.bump
      let s := s.modThreads c t due fun _ x => { x with status := .ready, wait := .none }
      { ({ s with cur := { core := c, turn := t, lanes := due, n } } : State).takeDeferred due with cur := s.cur }) s
/-- R319: the waves have drained: the areas are written; once the writes are visible, the turns are freed and the status is
written. A write that fails leaves the waves as they were (status 6). -/
def execPsaveDone (id : Nat) (s : State) : Host.Outcome State Fault Refusal :=
  .next (match findK s.saves id with
    | none => s
    | some o =>
      if o.restore then s
      else
        let cl := clusterOf o.core
        let part := s.partOf o.core
        match o.vis with
        | none =>
          let d := s.saveDeferred o.core o.turns
          if !(o.turns.all fun t => d.drained o.core t) then d
          else
            let pieces := o.parts.flatMap fun p => (s.areaPieces o.core p.1).map fun x => (p.2, x)
            let chk := pieces.foldl (fun (a : Nat × State) p =>
              match a.1 with
              | 0 => (match a.2.areaPlace cl part p.1 p.2.1 p.2.2.length rWRITE with
                | (.ok l, s) => (if l.any fun x => s.heldSpan x.1 x.2 then 1 else 0, s)
                | (.wait, s) => (1, s)
                | (.bad _, s) => (2, s))
              | _ => a) (0, d)
            match chk.1 with
            | 1 => chk.2
            | 2 => chk.2.endSave id o 6
            | _ =>
              let r := pieces.foldl (fun (a : Lease × State) p =>
                match a.2.areaWrite cl part p.1 p.2.1 p.2.2 with
                | (some v, s) => (Lease.later a.1 v, s)
                | (none, s) => (a.1, s)) (chk.2.lease, chk.2)
              let kept := o.parts.map fun p => r.2.savedOf o.core p.1 p.2
              let s := o.parts.foldl (fun (s : State) p => s.leaveSaved o.core p.1 p.2) r.2
              { s with saves := insK s.saves id { o with vis := some r.1, kept } }
        | some v =>
          if !Lease.before v s.lease then s
          else
            let s := o.parts.foldl (fun s p =>
              if (s.wave o.core p.1).alive = 0 then
                (s.retireWave o.core p.1).modWave o.core p.1 fun w => { w with freed := some o.time }
              else s.freeSaved o.core p.1 p.2 o.time o.kept) s
            s.endSave id o 0)

/-! ## The end of a restore (R322) -/

/-- R199: the lowest base at which `n` blocks are free, given the entries. -/
def firstFit (qs : Sparse Quota) (n : Nat) : Option Nat :=
  (List.range 49).find? fun b => decide (b + n ≤ 48) && (List.range n).all fun i => !(qs.any fun p => p.2.covers (b + i))
/-- R199: the quota entries of a restore, placed in order. -/
def placeQuotas : Sparse Quota → List (Nat × Nat × Nat) → Option (Sparse Quota)
  | qs, [] => some qs
  | qs, (t, n, dead) :: rest =>
    match firstFit qs n with
    | some b => placeQuotas (insK qs t { base := b, count := n, valid := true, dead }) rest
    | none => none
/-- R27, R30: the status a restored thread takes: its barrier may have released while it was away. One restored as blocked waits
for nothing but its next attempt (R29). -/
def restoredStatus (code : Nat) (released : Bool) : Status :=
  match code with
  | 1 | 2 => .ready
  | 3 => .blockedEmpty
  | 4 => .blockedQueue
  | 5 => .parkedTrap
  | 6 => if released then .ready else .parkedBarrier
  | 7 => .parkedRecon
  | 8 => .faulted
  | _ => .exited
/-- R25, R257: the counters of a class from its saved word alone, where the core holds no tracking of the wave: no operation of
its batches is pending, and the word does not hold the cause of a failure, which is a free value. -/
def BatchCtr.ofWord (v fresh : Nat) : BatchCtr :=
  let failed := if v.testBit 20 then some (Config.freeNat fresh % 16) else none
  BatchCtr.settle { openOps := bitsN v 15 0
                    queue := (List.range (bitsN v 19 16)).map fun i => { fail := if i = 0 then failed else none } }
/-- R320, R322: a thread from its section. `kept` is what the core kept of the wave, `fresh` numbers the producers of results
still to come, `free` its free values, and `bars` gives the releases of each barrier. -/
def restoreThread (n : Nat) (l q : Nat) (kept : Option SavedWave) (fresh free : Nat) (bars : Sparse Nat) : Thread :=
  let at_ := fun (off hi lo : Nat) => bitsN n (8 * off + hi) (8 * off + lo)
  let live := Nat.min (at_ 0xC 9 0) q
  let pc := BitVec.ofNat 64 (at_ 0 63 0)
  let hdr := (kept.bind fun k => findK k.hdrs l).getD (0, 0)
  let code := at_ 8 3 0
  let inBlock := hdr.2 ≠ 0 ∧ caBti pc = caBti hdr.1 ∧ caOff pc ≤ caOff hdr.1 + 8 * dwBits hdr.2 17 10 ∧
    (caOff hdr.1 < caOff pc ∨ code = 7 ∧ pc = hdr.1)
  let arrived := kept.bind fun k => findK k.bars l
  let released := match arrived with | some a => BitVec.ofNat 16 (getK 0 bars a.key) != BitVec.ofNat 16 (at_ 0xE 15 0) | none => true
  let st := restoredStatus code released
  { pc, hdr := if inBlock then hdr.1 else pc, hdrW := if inBlock then hdr.2 else 0,
    la2 := (match kept with | some k => k.la2.getLsbD l | none => false)
    regs := ((List.range live).filterMap fun i => let v := at_ (0x100 + 4 * i) 31 0; if v = 0 then none else some (i, BitVec.ofNat 32 v))
    empty := (List.range live).filterMap fun i => if (at_ (0x80 + i / 8) (i % 8) (i % 8)) = 0 then some (i, fresh) else none
    preds := BitVec.ofNat 8 (at_ 9 7 0) ||| 1
    repCnt := BitVec.ofNat 7 (at_ 0xA 6 0), repMask := BitVec.ofNat 4 (at_ 0xA 10 7), repStep := BitVec.ofNat 2 (at_ 0xA 12 11)
    -- R16: a WH that software left as it was saved has aged in the meantime
    wh := (let v : Lease := BitVec.ofNat 48 (at_ 0x10 47 0)
           match kept.bind fun k => findK k.whs l with | some p => if p.1 = v then p.2 else v | none => v)
    defer := (kept.bind fun k => findK k.defer l).getD []
    batches := (match kept.bind (fun k => findK k.batch l) with
      | some b => b
      | none => (List.range 5).map fun c => (c, BatchCtr.ofWord (at_ (0x18 + 4 * c) 31 0) (free + c)))
    status := st
    arrived := if st = .parkedBarrier then arrived else none
    fword := kept.bind fun k => findK k.fwords l }
/-- R313: an exception record read back from a thread section. -/
def XRec.ofNat (n : Nat) : XRec :=
  { code := bitsN n 7 0, finfo := BitVec.ofNat 32 (bitsN n 63 32), turn := bitsN n 78 75, lane := bitsN n 83 79,
    reps := BitVec.ofNat 13 (bitsN n 108 96), pc := BitVec.ofNat 64 (bitsN n 191 128), extra := BitVec.ofNat 64 (bitsN n 255 192),
    time := BitVec.ofNat 48 (bitsN n 303 256), word := BitVec.ofNat 64 (bitsN n 383 320) }
/-- A bank's state word with OWNER and GRANTEE renamed from source turns to new ones (R322). -/
def renameBank (v : Word) (turns : List (Nat × Nat)) : Word :=
  let dest := fun t => ((turns.find? fun p => p.1 == t).map (·.2)).getD t
  wSet (wSet v 4 1 (dest (wBits v 4 1))) 9 6 (dest (wBits v 9 6))
/-- R320, R322: a bank from an area. -/
def areaBank (n b : Nat) (turns : List (Nat × Nat)) : Bank :=
  let w := fun (off : Nat) => bitsN n (8 * off + 31) (8 * off)
  { word := renameBank (BitVec.ofNat 32 (w (0x2C0 + 4 * b))) turns
    data := (List.range 1024).filterMap fun i =>
      if w (0x18400 + 0x1000 * b + 4 * i) = 0 then none else some (i, BitVec.ofNat 32 (w (0x18400 + 0x1000 * b + 4 * i))) }
/-- R262, R319 (LOG 6): what the core kept of the wave that an area holds: the one saved there, or, where software has moved the
area, the only one saved from the source turn with those threads. -/
def Core.keptOf (k : Core) (bti off turn : Nat) (mask : Mask) : Option SavedWave :=
  match k.saved.find? fun v => v.bti == bti && v.off == off && v.turn == turn with
  | some v => some v
  | none => match k.saved.filter fun v => v.turn == turn && (v.alive &&& ~~~mask) == 0 with
    | [v] => some v
    | _ => none
/-- R322: one wave is loaded from its area, given as a number. -/
def State.loadWave (s : State) (c t n : Nat) (area : DWord) (turns : List (Nat × Nat)) (time : Lease) : State :=
  let cl := clusterOf c
  let at_ := fun (off hi lo : Nat) => bitsN n (8 * off + hi) (8 * off + lo)
  let sec := fun (off size : Nat) => at_ off (8 * size - 1) 0
  let mask := BitVec.ofNat 32 (at_ 8 31 0)
  let kept := (s.core c).keptOf (caBti area) (caOff area) (at_ 0 23 20) mask
  let q := 32 * at_ 0xC 5 0
  let (fresh, s) := s.bump
  let (new, s) := s.bump
  -- the wave goes on as the one it was, for the operations it left behind (R262)
  let uid := match kept with | some k => k.uid | none => new
  let lanes := Mask.lanes mask
  let path := at_ 0x20 63 0
  let w : Wave :=
    { live := true, uid
      threads := lanes.map fun l => (l, restoreThread (sec (laneOff l) 0xB00) l q kept fresh (s.fresh + 5 * l) s.bars)
      tile := at_ 0x10 2 0, satf := BitVec.ofNat 7 (at_ 0x14 6 0) ||| (match kept with | some k => k.satf | none => 0), arm := BitVec.ofNat 7 (at_ 0x14 14 8)
      quant := at_ 0x18 9 0, rtovf := at_ 0x1C 15 0
      qcnt := bitsN path 9 0, rotLeft := bitsN path 19 10, rotLane := bitsN path 24 20, rot := path.testBit 25, rotMask := BitVec.ofNat 32 (bitsN path 63 32)
      recon := (List.range 8).filterMap fun e => (Recon.ofNat (sec (0x40 + 24 * e) 24)).map fun r => (e, r)
      walkers := (List.range 8).map fun i => (i, Walker.ofNat (sec (0x100 + 40 * i) 40))
      srg := (List.range 32).map fun l => (l, BitVec.ofNat 32 (at_ (0x240 + 4 * l) 31 0))
      runStart := time, part := s.partOf c
      prio := (match kept with | some k => k.prio | none => 0)
      level := (match kept with | some k => k.level | none => 0) }
  let abanks := (List.range 16).filter fun b => (at_ 0x2C 15 0).testBit b
  let recs := ((List.range (Nat.min 5 (at_ 0x28 2 0))).map fun j => TrapRec.ofBytes (bytesOf 1024 (sec (0x1000 + 0x400 * j) 1024))).filter fun r => r.pend != 0
  let xs := (lanes.filter fun l => (at_ (laneOff l + 0x2C) 0 0) = 1).map fun l => { XRec.ofNat (sec (laneOff l + 0x40) 64) with turn := t, uid, lane := l }
  -- R31: a lane whose thread has exited, killed while its wave was saved, belongs to no entry
  let w := (List.range 32).foldl (fun (w : Wave) l => if (w.thread l).status = .exited then w.unrecon l else w) w
  let s := { s with fresh := s.fresh + 160 }
  let s := s.modCore c fun k =>
    { k with
      waves := insK k.waves t w
      banks := abanks.foldl (fun m b => insK m b (areaBank n b turns)) k.banks
      saved := k.saved.filter fun v => match kept with | some x => !(v.bti == x.bti && v.off == x.off) | none => true }
  -- R308, R309: saved records enter the stash in saved order, or wait beside their wave
  let s := recs.foldl (fun s r =>
    let (o, s) := s.bump
    let r := { r with turn := t, core := c, order := o }
    s.modCore c fun k =>
      if k.stash.length < 4 ∧ k.restoredRecs.isEmpty then { k with stash := k.stash ++ [r] }
      else k.modWave t fun w => { w with restored := w.restored ++ [r] }) s
  let s := ((s.cl cl).traps.filter fun p => p.2.absent && p.2.core == c && p.2.save == area).foldl
    (fun s p => s.setTrap cl p.1 { p.2 with absent := false, turn := t, save := 0 }) s
  xs.foldl (fun s x => s.queueXrec c x) s
/-- R323: a byte of the areas that a restore reads is read before the others. -/
def prestAhead (id : Nat) (s : State) : Host.Outcome State Fault Refusal :=
  .next (match findK s.saves id with
    | none => s
    | some o =>
      let n := o.turns.length * areaSize
      if !o.restore ∨ n = 0 then s
      else
        let (v, s) := s.openNat
        let i := v % n
        match s.areaRead (clusterOf o.core) (s.partOf o.core) (o.area (i / areaSize)) (i % areaSize) 1 with
        | (some [b], s) => { s with saves := insK s.saves id { o with got := insK o.got i b } }
        | (_, s) => s)
/-- R323: the bytes of a restore's k-th area, those read ahead as they were then. -/
def SaveOp.asRead (o : SaveOp) (k : Nat) (bs : List Byte) : List Byte :=
  (o.got.filter fun p => p.1 / areaSize == k).foldl (fun bs p => bs.set (p.1 % areaSize) p.2) bs
/-- R322: the areas are read in full, the last checks are made, and the waves are restored. -/
def execPrestDone (id : Nat) (s : State) : Host.Outcome State Fault Refusal :=
  .next (match findK s.saves id with
    | none => s
    | some o =>
      if !o.restore then s
      else
        let c := o.core
        let cl := clusterOf c
        let part := s.partOf c
        let chk := o.parts.foldl (fun (a : Nat × State) p =>
          match a.1 with
          | 0 => (match a.2.areaPlace cl part p.2 0 areaSize rREAD with
            | (.ok l, s) => (if l.any fun x => s.heldSpan x.1 x.2 then 1 else 0, s)
            | (.wait, s) => (1, s)
            | (.bad _, s) => (2, s))
          | _ => a) (0, s)
        match chk.1 with
        | 1 => chk.2
        | 2 => chk.2.endSave id o 6
        | _ =>
          let rd := o.parts.foldl (fun (a : List (Nat × DWord × Nat) × State) p =>
            let r := a.2.areaRead cl part p.2 0 areaSize
            (a.1 ++ [(p.1, p.2, natOfBytes (o.asRead a.1.length (r.1.getD [])))], r.2)) ([], chk.2)
          let s := rd.2
          let imgs := rd.1
          let at_ := fun (n off hi lo : Nat) => bitsN n (8 * off + hi) (8 * off + lo)
          if imgs.any fun (x : Nat × DWord × Nat) => at_ x.2.2 0 15 0 != 1 || at_ x.2.2 0 16 16 != 1 || at_ x.2.2 0 34 24 != c then s.endSave id o 7
          else match placeQuotas (s.core c).quotas (imgs.map fun (x : Nat × DWord × Nat) => (x.1, at_ x.2.2 0xC 5 0, at_ x.2.2 0xC 10 6)) with
          | none => s.endSave id o 8
          | some qs =>
            let banks := imgs.flatMap fun (x : Nat × DWord × Nat) => (List.range 16).filter fun b => (at_ x.2.2 0x2C 15 0).testBit b
            if banks.any (fun b => !(s.core c).bankFree b) || banks.eraseDups.length != banks.length then s.endSave id o 9
            else
              let turns := imgs.map fun (x : Nat × DWord × Nat) => (at_ x.2.2 0 23 20, x.1)
              let s := s.modCore c fun k => { k with quotas := qs }
              let s := imgs.foldl (fun s (x : Nat × DWord × Nat) =>
                ((s.loadWave c x.1 x.2.2 x.2.1 turns o.time).areaWrite cl part x.2.1 2 [BitVec.ofNat 8 (2 * at_ x.2.2 0 23 17)] rREAD).2) s
              s.endSave id o 0)

end Sys2Proof.Machine
end

