-- ==== Sys2Proof/Machine/Task.lean ====
section
/-! DEFINITION. Tasks (R324 to R344): records and queues, gathering and forwarding, wave start, the spawn unit, the summary
and the manifest's instructions. -/

namespace Sys2Proof.Machine

/-! ## Task records (R324, R325) -/

def tLevel (ws : List Word) : Nat := wsBits ws 17 16
def tPrio (ws : List Word) : Nat := wsBits ws 20 18
def tPart (ws : List Word) : BitVec 4 := BitVec.ofNat 4 (wsBits ws 25 22)
def tQuota (ws : List Word) : Nat := wsBits ws 30 26
def tCore (ws : List Word) : Nat := wsBits ws 42 32
def tEntry (ws : List Word) : DWord := BitVec.ofNat 64 (wsBits ws 127 64)
/-- R325: the waybill entries in use: tile and bytes. -/
def tWaybill (ws : List Word) : List (Nat × Nat) :=
  ((ws.drop 12).take 4).filterMap fun w => if w = 0 then none else some (wBits w 23 0, wBits w 31 24 * 1024)
/-- R327: the cause of rejection, if any. -/
def State.taskBad (s : State) (part : BitVec 4) (ws : List Word) : Option Nat :=
  if wsBit ws 21 ∨ wsBit ws 31 ∨ wsBits ws 63 43 ≠ 0 ∨ tQuota ws = 0 ∨ 20 < tQuota ws ∨ wsBits ws 127 64 % 8 ≠ 0 ∨
     (((ws.drop 12).take 4).any fun w => (wBits w 23 0 == 0) != (wBits w 31 24 == 0)) ∨ (tLevel ws ≠ 0 ∧ tCore ws ≠ 0) then some 1
  else if tPart ws ≠ part ∨ (tLevel ws = 0 ∧ s.partOf (tCore ws) ≠ tPart ws) then some 2
  else none
/-- R329: are two records compatible? -/
def tSame (a b : List Word) : Bool :=
  tEntry a == tEntry b && tQuota a == tQuota b && tLevel a == tLevel b && tPrio a == tPrio b && tCore a == tCore b && a.drop 12 == b.drop 12
/-- R466: does a cluster's dispatcher take records? -/
def State.draining (s : State) (cl : Nat) : Bool := dwBit (s.cr 16 nCDRAIN) cl

/-! ## Forwarding (R328, R335) -/

def tForward (cl : Nat) (ws : List Word) : Bool := (tLevel ws == 0 && tCore ws / 128 != cl) || decide (2 ≤ tLevel ws)
/-- R335: the score of a cluster. -/
def State.summaryScore (s : State) (cl : Nat) (ws : List Word) : Nat :=
  ((tWaybill ws).map fun (e : Nat × Nat) => match findK s.summary (e.1 % 16384) with
    | some (t, m) => if t = e.1 ∧ m.getLsbD cl then e.2 else 0
    | none => 0).sum
/-- R335, R466: the cluster a forwarded record goes to. -/
def State.forwardTo (s : State) (cl : Nat) (ws : List Word) : Option Nat :=
  if tLevel ws = 0 then (if s.draining (tCore ws / 128) then none else some (tCore ws / 128))
  else
    let elig := (List.range 16).filter fun c => (s.cl c).part == tPart ws && !s.draining c && (tLevel ws == 3 || c / 2 == cl / 2)
    let best := (elig.map fun c => s.summaryScore c ws).foldl Nat.max 0
    let top := elig.filter fun c => s.summaryScore c ws == best
    if top.contains cl then some cl else top.head?

/-! ## Taking records (R326 to R330) -/

/-- R326: the queues served now: task queues that are enabled and belong to the cluster's partition. -/
def State.taskServed (s : State) (cl q : Nat) : Bool := let d := s.qdesc cl (nTQ q 0); d.en && d.part == (s.cl cl).part
/-- The head record of a queue (0 to 3) or of the pool (4). -/
def State.taskHead (s : State) (cl q : Nat) : Option (List Word) × State :=
  if q = 4 then (((s.cl cl).pool.head?).map (·.2), s)
  else if s.taskServed cl q then s.queueHead cl (nTQ q 0)
  else (none, s)
/-- The key under which a record's first reading is kept. -/
def seenKey (q w : Nat) : Nat := w * 4 + q
def Cluster.see (k : Cluster) (key : Nat) (now : Lease) : Cluster :=
  if k.firstSeen.any fun p => p.1 == key then k else { k with firstSeen := insK k.firstSeen key now }
/-- R356: the dispatcher reads the head record of a queue, for the first time or again. -/
def State.taskSee (s : State) (cl q : Nat) : State :=
  if q = 4 then s else s.modCl cl fun k => k.see (seenKey q (s.qdesc cl (nTQ q 0)).ridx.toNat) s.lease
/-- R327: the head record is taken. -/
def State.taskAdvance (s : State) (cl q : Nat) : State :=
  if q = 4 then s.modCl cl fun k => { k with pool := k.pool.drop 1 }
  else
    let w := (s.qdesc cl (nTQ q 0)).ridx.toNat
    (s.queueAdvance cl (nTQ q 0)).modCl cl fun k => { k with firstSeen := delK k.firstSeen (seenKey q w) }
/-- R327: a record is taken and rejected. -/
def State.taskReject (s : State) (cl q cause : Nat) : State :=
  (((s.taskAdvance cl q).queueErr cl (nTQ q 0) cause).crCount cl nTSTAT 15 0 1)
/-- R329: keep taking compatible head records of a queue: at most `n` more. -/
def State.gatherMore (s : State) (cl q : Nat) (first : List Word) : Nat → List (List Word) → List (List Word) × State
  | 0, acc => (acc, s)
  | n + 1, acc =>
    match s.taskHead cl q with
    | (some ws, s) =>
      let s := s.taskSee cl q
      if q ≠ 4 ∧ (s.taskBad (s.qdesc cl (nTQ q 0)).part ws).isSome then
        (acc, s.taskReject cl q ((s.taskBad (s.qdesc cl (nTQ q 0)).part ws).getD 1))
      else if tSame first ws then State.gatherMore (s.taskAdvance cl q) cl q first n (acc ++ [ws])
      else (acc, s)
    | (none, s) => (acc, s)
/-- R328: the queue served: the highest PRIO, then the lowest number. -/
def bestHead (hs : List (Nat × List Word)) : Option (Nat × List Word) :=
  hs.foldl (fun (b : Option (Nat × List Word)) h => match b with | some x => if tPrio x.2 < tPrio h.2 then some h else b | none => some h) none
/-- R328: the head records of the four queues and of the pool, each with its queue's number. -/
def State.taskHeads (s : State) (cl : Nat) : List (Nat × List Word) × State :=
  (List.range 5).foldl (fun (a : List (Nat × List Word) × State) q =>
    match a.2.taskHead cl q with
    | (some ws, s) => (a.1 ++ [(q, ws)], s.taskSee cl q)
    | (none, s) => (a.1, s)) ([], s)
/-- R327: why the record at the head of a queue is rejected; the pool's have been checked. -/
def State.headBad (s : State) (cl q : Nat) (ws : List Word) : Option Nat :=
  if q = 4 then none else s.taskBad (s.qdesc cl (nTQ q 0)).part ws
/-- R335: a record to be forwarded whose target's pool is full, or that has no target now, is not taken. -/
def State.headWaits (s : State) (cl : Nat) (h : Nat × List Word) : Bool :=
  h.1 != 4 && (s.headBad cl h.1 h.2).isNone && tForward cl h.2 &&
    (match s.forwardTo cl h.2 with | some c => decide (64 ≤ (s.cl c).pool.length) | none => true)
/-- R335: the record at the head of a queue is forwarded, with the time of its first reading. -/
def State.taskForward (s : State) (cl q : Nat) (ws : List Word) : State :=
  let t := getK s.lease (s.cl cl).firstSeen (seenKey q (s.qdesc cl (nTQ q 0)).ridx.toNat)
  (s.taskAdvance cl q).modCl ((s.forwardTo cl ws).getD cl) fun k => { k with pool := k.pool ++ [(t, ws)] }
/-- R329: the record at the head of a queue begins a wave, with the compatible records behind it. -/
def State.taskGather (s : State) (cl q : Nat) (ws : List Word) : State :=
  let r := State.gatherMore (s.taskAdvance cl q) cl q ws 31 [ws]
  r.2.modCl cl fun k => { k with gather := some { recs := r.1, queue := q } }
/-- R327 to R330, R335: one record is taken and rejected, forwarded, or begins a wave. -/
def execTaskRecordTake (cl : Nat) (s : State) : Host.Outcome State Fault Refusal :=
  .next (
    if (s.cl cl).gather.isSome || s.draining cl then s
    else
      let heads := s.taskHeads cl
      let s := heads.2
      match bestHead (heads.1.filter fun h => !s.headWaits cl h) with
      | none => s
      | some (q, ws) =>
        match s.headBad cl q ws with
        | some cause => s.taskReject cl q cause
        | none => if q ≠ 4 ∧ tForward cl ws then s.taskForward cl q ws else s.taskGather cl q ws)
/-- R332, R339: the decision of a waiting wave is taken again. -/
def execDecisionRetake (cl : Nat) (s : State) : Host.Outcome State Fault Refusal :=
  .next (match (s.cl cl).gather with
    | some g =>
      if g.waiting && g.again then
        (s.modCl cl fun k => { k with gather := some { g with waiting := false, again := false, retakes := Nat.min 255 (g.retakes + 1) } }).crCount cl nTSTAT 47 32 1
      else s
    | none => s)

/-! ## Starting a wave (R186, R199, R330, R332) -/

/-- The turns in which a wave could start. -/
def Core.freeTurns (k : Core) : List Nat := (List.range 16).filter fun t => !(k.wave t).live && !(k.wave t).busy
/-- R331: can a core start a wave of `n` blocks? -/
def Core.canStart (k : Core) (n : Nat) : Bool := !k.freeTurns.isEmpty && (firstFit k.quotas n).isSome
/-- R17, R330: the thread of a lane as it starts at a lease time: its arguments, its write horizon, and the entry header still
to be entered as an indirect jump enters it (R332). -/
def startThread (now : Lease) (ws : List Word) : Thread :=
  { pc := tEntry ws, hdr := 1, status := .ready, wh := now - 1,
    regs := (((ws.drop 4).take 8).zip (List.range 8)).filterMap fun p => if p.1 = 0 then none else some (p.2, p.1) }
/-- R186, R317, R332: a wave of records starts on a core that can start it. -/
def State.startWave (s : State) (c : Nat) (recs : List (List Word)) : State :=
  let k := s.core c
  let first := recs.headD []
  match k.freeTurns, firstFit k.quotas (tQuota first) with
  | t :: _, some b =>
    let (uid, s) := s.bump
    let w : Wave := {
      live := true, uid, threads := (List.range recs.length).zip (recs.map (startThread s.lease))
      runStart := (k.wave t).freed.getD s.lease, prio := tPrio first, level := tLevel first, part := s.partOf c }
    let s := s.modCore c fun k => { k with
      waves := insK k.waves t w, quotas := insK k.quotas t { base := b, count := tQuota first, valid := true } }
    s.crCount (clusterOf c) nTCNT 63 48 1
  | _, _ => s

/-! ## The summary (R335) -/

/-- R335: does a cluster's manifest hold a valid entry of a tile? -/
def Cluster.holds (k : Cluster) (tile : Nat) : Bool := k.manifest.any fun p => mfValid p.2 && mfTile p.2 == tile
/-- R335: the summary follows one tile of one cluster's manifest: an insertion reaches it, or the last entry is gone. A tile that
an insertion could not record stays out until a later one. -/
def execSummaryUpdate (cl tile : Nat) (s : State) : Host.Outcome State Fault Refusal :=
  let held := (s.cl cl).holds tile
  let told := s.sumQ.contains (cl, tile)
  let bit := BitVec.twoPow 16 cl
  let s := { s with sumQ := s.sumQ.erase (cl, tile) }
  .next (match findK s.summary (tile % 16384) with
    | none => if held && told then { s with summary := insK s.summary (tile % 16384) (tile, bit) } else s
    | some (t, m) =>
      if t ≠ tile then s
      else
        let m := if held then (if told then m ||| bit else m) else m &&& ~~~bit
        if m = 0 then { s with summary := delK s.summary (tile % 16384) }
        else { s with summary := insK s.summary (tile % 16384) (t, m) })

/-! ## `spawn` (R341) -/

/-- A destination of every lane that issues. -/
def State.writeAll (s : State) (d : Operand) (rows : List (Nat × List (List Word))) (v : Word) : State :=
  s.writeDst { o := d } (rows.map fun (p : Nat × List (List Word)) => (p.1, [v]))
def execSpawn (g : Guard) (d : Operand) (a : Src) (s : State) : Host.Outcome State Fault Refusal :=
  .next (match prep s g { srcs := [{ pos := 0, src := a, n := 16, al := 16 }], dst := some { o := d } } with
    | .stop s => s
    | .go s0 s1 rows =>
      let c := s1.cur.core
      let cl := clusterOf c
      let ws := (rows.headD (0, [])).2.getD 0 []
      let q := s1.qdesc cl (nTQ (wsBits ws 1 0) 0)
      if wsBits ws 15 2 ≠ 0 ∨ !q.en ∨ q.part ≠ (s1.cl cl).part then (s1.writeAll d rows 0xFFFFFFFF).finish
      else if 8 ≤ (s1.core c).spawns.length then s0.block .blockedQueue .spawnRoom
      else
        let dsts := match d with | .reg r => [r] | _ => []
        let r := rows.foldl (fun (a : List Nat × State) p => let x := a.2.newProd p.1 .await dsts; (a.1 ++ [x.1], x.2)) ([], s1)
        let s := r.2
        let lanes := Mask.ofLanes (rows.map fun (p : Nat × List (List Word)) => p.1)
        let wh := lanes.lanes.foldl (fun v l => Lease.later v (s.curThread l).wh) (s.curThread (rows.headD (0, [])).1).wh
        let e : SpawnEnt := { words := ws, turn := s.cur.turn, lanes, uid := (s.wave c s.cur.turn).uid, prods := r.1, upTo := s.nextId, wh }
        (s.modCore c fun k => { k with spawns := k.spawns ++ [e] }).finish)
/-- R341: have the accesses before a `spawn` passed the fence of its level? -/
def State.spawnFence (s : State) (c : Nat) (e : SpawnEnt) : Bool :=
  let mine := fun (n core turn lane uid : Nat) => core == c && turn == e.turn && uid == e.uid && e.lanes.getLsbD lane && decide (n < e.upTo)
  s.stores.all (fun p => !mine p.1 p.2.core p.2.turn p.2.lane p.2.uid) &&
  s.prods.all (fun p => !(mine p.1 p.2.core p.2.turn p.2.lane p.2.uid && (match p.2.src with | .load _ => true | _ => false))) &&
  (decide (tLevel e.words ≤ 1) || Lease.before e.wh s.lease)
/-- R341: the entry leaves the unit and D fills. -/
def State.spawnEnd (s : State) (c : Nat) (e : SpawnEnt) (v : Word) : State :=
  e.prods.foldl (fun s id => s.completeProd id [v]) (s.modCore c fun k => { k with spawns := k.spawns.drop 1 })
/-- R341: the oldest image of a core's spawn unit claims an index, or its record is written. An index or a record that its home cannot
serve (R402, R421) fills D as queue memory that fails its checks does (DEDUCED, LOG 23). -/
def execSpawnRecordWrite (core : Nat) (s : State) : Host.Outcome State Fault Refusal :=
  let cl := clusterOf core
  .next (match (s.core core).spawns with
    | [] => s
    | e :: rest =>
      let n := nTQ (wsBits e.words 1 0) 0
      match e.claimed with
      | none =>
        if !s.spawnFence core e then s
        else match s.queueMem cl (s.qdesc cl n) with
        | (.bad _, s) => s.spawnEnd core e 0xFFFFFFFF
        | (.wait, s) => s
        | (.ok _, s) =>
          match s.queueClaim cl n with
          | (.ok w, s) => s.modCore core fun k => { k with spawns := { e with claimed := some w } :: rest }
          | (.bad _, s) => s.spawnEnd core e 0xFFFFFFFF
          | (.wait, s) => s
      | some w =>
        match s.queuePut cl n w e.words with
        | (.ok _, s) => s.spawnEnd core e (BitVec.ofNat 32 (w % 2 ^ 31))
        | (.bad _, s) => s.spawnEnd core e 0xFFFFFFFF
        | (.wait, s) => s)

/-! ## Manifest instructions (R342 to R344) -/

/-- R342: is an entry's image malformed? -/
def msetBad (ws : List Word) : Bool :=
  let e := BitVec.ofNat 128 (natOfWords ws)
  wsBits ws 7 2 != 0 || wsBits ws 63 48 != 0 || wsBits ws 95 82 != 0 || wsBits ws 127 118 != 0 || mfTile e == 0 ||
  decide (128 < mfHolder e) || (mfHolder e == 128 && mfOffset e != 0) || (decide (mfHolder e < 128) && decide (196608 < mfOffset e + mfBytes e))
/-- The frame of an instruction that acts once and gives every active lane one word. -/
def onceWord (s : State) (g : Guard) (srcs : List SrcReq) (d : Operand) (body : State → List (List Word) → State × Word) : State :=
  match prep s g { srcs, dst := some { o := d } } with
  | .stop s => s
  | .go _ s1 rows =>
    let r := body s1 ((rows.headD (0, [])).2)
    (r.1.writeAll d rows r.2).finish
def execMset (g : Guard) (d : Operand) (a : Src) (s : State) : Host.Outcome State Fault Refusal :=
  .next (onceWord s g [{ pos := 0, src := a, n := 4, al := 4 }] d fun s vs =>
    let ws := vs.getD 0 []
    let e := BitVec.ofNat 128 (natOfWords ws)
    if msetBad ws then (s, 0xFFFFFFFF)
    else
      let (n, s) := s.manifestInsert (clusterOf s.cur.core) (mfTile e) (bitsN e.toNat 39 32) (mfHolder e) (mfOffset e) (mfBytes e) true
      (s, BitVec.ofNat 32 n))
def execMget (g : Guard) (d : Operand) (a : Src) (s : State) : Host.Outcome State Fault Refusal :=
  .next (laneOp s g { srcs := [{ pos := 0, src := a }], dst := some { o := d, n := 4, al := 4 } } fun s _ vs =>
    (s, wordsOf 4 ((s.cl (clusterOf s.cur.core)).mf (wBits (wordAt vs 0 0) 11 0)).toNat, 0))
def execMdrop (g : Guard) (d : Operand) (a b : Src) (s : State) : Host.Outcome State Fault Refusal :=
  .next (onceWord s g [{ pos := 0, src := a }, { pos := 1, src := b }] d fun s vs =>
    let cl := clusterOf s.cur.core
    let tile := wBits (wordAt vs 0 0) 23 0
    let h := wBits (wordAt vs 1 0) 7 0
    let hit := fun (e : BitVec 128) => tile != 0 && mfTile e == tile && (h == 0xFF || (decide (h ≤ 128) && mfHolder e == h))
    let n := ((s.cl cl).manifest.filter fun p => mfValid p.2 && hit p.2).length
    (s.modCl cl fun k => k.clearMf hit, BitVec.ofNat 32 n))
def execMfind (g : Guard) (d : Operand) (a b : Src) (s : State) : Host.Outcome State Fault Refusal :=
  .next (pureOp s g { srcs := [{ pos := 0, src := a }, { pos := 1, src := b }], dst := some { o := d } } fun vs =>
    let k := s.cl (clusterOf s.cur.core)
    let tile := wBits (wordAt vs 0 0) 23 0
    let from_ := wBits (wordAt vs 1 0) 11 0
    match (mfWays tile).find? fun n => decide (from_ ≤ n) && mfValid (k.mf n) && mfTile (k.mf n) == tile with
    | some n => ([BitVec.ofNat 32 n], 0)
    | none => ([0xFFFFFFFF], 0))

end Sys2Proof.Machine
end

