-- ==== Sys2Proof/Machine/Tariff.lean ====
section
/-! DEFINITION. The tariff engine (R345 to R367): snapshots, its instructions, decisions, budget, log, loading and the swap. -/

namespace Sys2Proof.Machine

/-! ## Candidates (R331, R357, R358) -/

/-- The waves of a core that are active. -/
def Core.activeWaves (k : Core) : Nat := (k.waves.filter fun p => p.2.live && p.2.alive != 0).length
def Core.freeBlocks (k : Core) : List Nat := (List.range 48).filter fun b => !(k.quotas.any fun p => p.2.covers b)
/-- R357: the longest run of free blocks. -/
def Core.blockRun (k : Core) : Nat :=
  let free := k.freeBlocks
  ((List.range 48).foldl (fun (a : Nat × Nat) b => if free.contains b then (a.1 + 1, Nat.max a.2 (a.1 + 1)) else (0, a.2)) (0, 0)).2
/-- R331: the resident bytes of a core index for a waybill. -/
def Cluster.resident (k : Cluster) (h : Nat) (ws : List Word) : Nat :=
  ((tWaybill ws).map fun (e : Nat × Nat) =>
    if (mfWays e.1).any fun n => mfValid (k.mf n) && mfTile (k.mf n) == e.1 && mfHolder (k.mf n) == h then e.2 else 0).sum
/-- R357: the eight fields of a dispatch candidate. -/
def State.dispatchCand (s : State) (c : Nat) (ws : List Word) : List Word :=
  let k := s.core c
  [c, (s.cl (clusterOf c)).resident (coreIndex c) ws, k.activeWaves, k.freeBlocks.length, k.blockRun,
    ((List.range 16).filter k.bankFree).length, if k.canStart (tQuota ws) then 1 else 0, k.freeTurns.length].map (BitVec.ofNat 32)
/-- R331: the candidate list of a gathered wave. -/
def State.candCores (s : State) (cl : Nat) (ws : List Word) : List Nat :=
  if tLevel ws = 0 then [tCore ws]
  else
    let cores := (List.range 128).map (128 * cl + ·)
    let res := fun c => (s.cl cl).resident (coreIndex c) ws
    let act := fun c => (s.core c).activeWaves
    let holders := (cores.filter fun c => res c != 0).mergeSort fun a b =>
      decide (res b < res a) || (res a == res b && (decide (act a < act b) || (act a == act b && decide (a ≤ b))))
    let first := holders.take 16
    let others := (cores.filter fun c => res c == 0 && (s.core c).canStart (tQuota ws)).mergeSort fun a b =>
      decide (act a < act b) || (act a == act b && decide (a ≤ b))
    first ++ others.take (16 - first.length)
/-- R317: a wave's RUNT in µs. -/
def State.ran (s : State) (w : Wave) : Nat := (s.lease - w.runStart).toNat / 1000
/-- R357: RUNT as a candidate's field. -/
def State.runt (s : State) (w : Wave) : Nat := Nat.min 65535 (s.ran w)
def Core.banksHeld (k : Core) (t : Nat) : Nat := ((List.range 16).filter fun b => (k.bank b).heldBy t).length
/-- R357: no grant joins a wave to another. -/
def Core.unjoined (k : Core) (t : Nat) : Bool := !k.grantCrosses [t]
/-- R357, R358: a pre-empt candidate. -/
def State.preemptCand (s : State) (c t : Nat) : List Word :=
  let k := s.core c
  let w := k.wave t
  [c, t, w.prio, s.runt w, (s.quota c t).count, ((List.range 16).filter fun b => let x := k.bank b; x.valid && !x.left && x.owner == t).length,
    if k.unjoined t then 1 else 0, w.alive.lanes.length].map (BitVec.ofNat 32)
/-- The waves of a cluster, as (core, turn). -/
def State.clusterWaves (s : State) (cl : Nat) : List (Nat × Nat) :=
  (s.cores.filter fun p => !isSerai p.1 && clusterOf p.1 == cl).flatMap fun p =>
    (p.2.waves.filter fun w => w.2.live && w.2.alive != 0).map fun w => (p.1, w.1)
/-- R358: lowest PRIO, then largest RUNT, then lowest core, then lowest turn. -/
def State.preemptWaves (s : State) (cl : Nat) : List (Nat × Nat) :=
  let key := fun (p : Nat × Nat) => let w := s.wave p.1 p.2; (w.prio, 2 ^ 48 - s.ran w, p.1, p.2)
  (((s.clusterWaves cl).filter fun p => !(s.wave p.1 p.2).busy).mergeSort fun a b =>
    let x := key a
    let y := key b
    decide (x.1 < y.1) || (x.1 == y.1 && (decide (x.2.1 < y.2.1) || (x.2.1 == y.2.1 && (decide (x.2.2.1 < y.2.2.1) ||
      (x.2.2.1 == y.2.2.1 && decide (x.2.2.2 ≤ y.2.2.2))))))).take 16

/-! ## The snapshot (R350, R356) -/

/-- R265: is a fault retryable? -/
def retryable (code : Nat) (finfo : Word) : Bool :=
  code == 3 || (code == 8 && !finfo.getLsbD 3) || code == 0x11 || (code == 0x12 && finfo.extractLsb' 0 4 == 3)
/-- R356: the records counted in `depth`, as (priority, key of first sight or its time). -/
def State.queueRecords (s : State) (cl : Nat) : List (Nat × Nat) × State :=
  (List.range 4).foldl (fun a q =>
    let d := a.2.qdesc cl (nTQ q 0)
    if !d.en then a
    else
      match a.2.queueMem cl d with
      | (.ok _, s) =>
        (List.range 16).foldl (fun (a : List (Nat × Nat) × State) i =>
          let w := d.ridx.toNat + i
          if d.slots ≤ i then a
          else match a.2.queuePlace cl d (d.slotOff w) with
          | (some p, s) =>
            if (s.homeDown p 64).isSome then (a.1, s)
            else
              let (bs, s) := s.eRead p 4
              let v := natOfBytes bs
              if bitsN v 15 0 = d.seq w then
                (a.1 ++ [(bitsN v 20 18, seenKey q w)], s.modCl cl fun k => k.see (seenKey q w) s.lease)
              else (a.1, s)
          | (none, s) => (a.1, s)) (a.1, s)
      | (_, s) => (a.1, s)) ([], s)
/-- R356: `depth` and `age`. -/
def State.depthAge (s : State) (cl : Nat) : List Word × List Word × State :=
  let r := s.queueRecords cl
  let s := r.2
  let recs : List (Nat × Lease) := r.1.map (fun (p : Nat × Nat) => (p.1, getK s.lease (s.cl cl).firstSeen p.2)) ++
    (s.cl cl).pool.map fun (p : Lease × List Word) => (tPrio p.2, p.1)
  let of := fun (p : Nat) => recs.filter fun x => x.1 == p
  ((List.range 8).map fun p => BitVec.ofNat 32 (of p).length,
   (List.range 8).map fun p => BitVec.ofNat 32 (Nat.min 65535 (((of p).map fun x => (s.lease - x.2).toNat / 1000).foldl Nat.max 0)), s)
/-- R356: the scalars common to every event, and those of the dispatcher's wave. -/
def State.snapScalars (s : State) (cl ev ncand : Nat) : Sparse Word :=
  let w := BitVec.ofNat 32
  let ws := s.clusterWaves cl
  let lim := s.cr cl nTLIM
  let gen := dwBits (s.cr cl nTCTL) 63 32
  let wave : Sparse Word := match (s.cl cl).gather with
    | some g =>
      let r := g.recs.headD []
      if ev = 2 then [] else
      [(0x10, w (tPrio r)), (0x11, w g.recs.length), (0x12, w (tQuota r)), (0x13, w (tLevel r)),
       (0x14, w ((tWaybill r).map (·.2)).sum), (0x15, loOf (tEntry r)), (0x16, w g.queue), (0x17, w g.retakes)]
    | none => []
  [(0, w ev), (1, w gen), (2, s.lease.extractLsb' 0 32), (3, w ncand)] ++ wave ++
  [(0x60, w ws.length), (0x61, w ((ws.map fun (p : Nat × Nat) => (s.quota p.1 p.2).count).sum)),
   (0x62, w ((ws.map fun (p : Nat × Nat) => (s.core p.1).banksHeld p.2).sum)), (0x63, w (dwBits (s.cr cl nTCNT) 63 48)),
   (0x64, w (dwBits lim 11 0)), (0x65, w (dwBits lim 28 16)), (0x66, w (dwBits lim 43 32))]
/-- R356: the scalars of a fault event, which stand between the two groups; `rcnt` is its wave's RCNT. -/
def FaultEv.scalars (e : FaultEv) (rcnt : Nat) : Sparse Word :=
  let w := BitVec.ofNat 32
  [(0x30, w e.code), (0x31, e.finfo), (0x32, w e.core), (0x33, w e.turn), (0x34, e.lanes), (0x35, loOf e.pc),
   (0x36, if retryable e.code e.finfo then 1 else 0), (0x37, w rcnt)]
/-- R356, R361: the RCNT of an event's wave; open once the wave has left its turn. -/
def State.evRcnt (s : State) (e : FaultEv) : Nat × State :=
  if (s.wave e.core e.turn).uid = e.uid then ((s.wave e.core e.turn).rcnt, s) else let (v, s) := s.openNat; (v % 256, s)
/-- GEN of a cluster's active slot (R346). -/
def genOf (s : State) (cl : Nat) : Nat := dwBits (s.cr cl nTCTL) 63 32
/-- R350: a decision begins on an event: 0 dispatch, 1 pre-empt, 2 fault. -/
def State.snapshot (s : State) (cl ev : Nat) (fault : Option FaultEv) : Decision × State :=
  let cands := match ev with
    | 0 => (match (s.cl cl).gather with | some g => (s.candCores cl (g.recs.headD [])).map fun c => s.dispatchCand c (g.recs.headD []) | none => [])
    | 1 => (s.preemptWaves cl).map fun p => s.preemptCand p.1 p.2
    | _ => []
  let base := s.snapScalars cl ev cands.length
  let own : Sparse Word × State := match fault with | some e => let r := s.evRcnt e; (e.scalars r.1, r.2) | none => ([], s)
  let s := own.2
  let scal := own.1.foldl (fun (m : Sparse Word) (p : Nat × Word) => insK m p.1 p.2) base
  let r := s.depthAge cl
  ({ evkind := ev, fault, scal, depth := r.1, age := r.2.1, cands, t := List.replicate 12 0 ++ (s.cl cl).tvals, time := s.lease,
     gen := genOf s cl }, r.2.2)

/-! ## Effects of decisions (R332, R359 to R363, R366) -/

/-- R366: log records that were dropped are reported once the ring has room, whether or not TLOG.EN is 1. -/
def State.logSpace (s : State) (cl : Nat) : State :=
  if (s.cl cl).logDrops ≠ 0 ∧ ringUsed (s.cr cl nTLOGPTR) ≠ 2 ^ dwBits (s.cr cl nTLOG) 23 20 then
    (s.raise cl 2 4 [BitVec.ofNat 32 (s.cl cl).logDrops]).modCl cl fun k => { k with logDrops := 0 }
  else s
/-- R366: one record of the decision log. -/
def State.logDecision (s : State) (cl : Nat) (d : Decision) (kind : Nat) (fb ovr err : Bool) (oper : Word) : State :=
  if !dwBit (s.cr cl nTLOG) 24 then s
  else
    let s := s.logSpace cl
    match s.ringPlace cl nTLOG nTLOGPTR 16 with
    | none => s.modCl cl fun k => { k with logDrops := Nat.min 0xFFFFFFFF (k.logDrops + 1) }
    | some off =>
      let b := fun (x : Bool) (n : Nat) => if x then n else 0
      s.ringWrite cl nTLOGPTR off (bytesOf 4 (d.evkind + kind * 4 + b fb 32 + b ovr 64 + b err 128 + d.cycles * 256 + d.gen % 65536 * 65536) ++
        bytesOf 4 oper.toNat ++ bytesOf 8 d.time.toNat)
/-- R363, R366: the decision ends: it is counted and logged; `keep` says that t12 to t15 stand. -/
def State.endDecision (s : State) (cl : Nat) (d : Decision) (keep : Bool) (kind : Nat) (fb ovr err : Bool) (oper : Word) : State :=
  let s := s.modCl cl fun k => { k with decision := none, tvals := if keep then d.t.drop 12 else k.tvals }
  let s := s.modCr cl nTCNT fun v => dwSet v 47 32 (dwBits v 47 32 + 1)
  s.logDecision cl d kind fb ovr err oper
/-- R332: the gathered wave starts on a core, or waits. -/
def State.placeWave (s : State) (cl : Nat) (c : Option Nat) : Option Nat × State :=
  match (s.cl cl).gather with
  | none => (none, s)
  | some g =>
    match c with
    | some c => (some c, (s.startWave c g.recs).modCl cl fun k => { k with gather := none, preTick := none })
    | none => (none, s.modCl cl fun k =>
        { k with gather := some { g with waiting := true }, preTick := some (k.preTick.getD s.lease) })
/-- R332, R360: the first candidate that can start the wave now. -/
def State.defaultCore (s : State) (cl : Nat) (d : Decision) : Option Nat :=
  match (s.cl cl).gather with
  | none => none
  | some g => (d.cands.map fun c => (c.getD 0 0).toNat).find? fun c => (s.core c).canStart (tQuota (g.recs.headD []))
/-- The lanes of a fault event that still stand faulted with it. -/
def State.faultLanes (s : State) (e : FaultEv) : Mask :=
  if (s.wave e.core e.turn).uid = e.uid then
    Mask.ofLanes ((e.lanes &&& (s.wave e.core e.turn).lanesWith (· == .faulted)).lanes.filter fun l =>
      (s.thread e.core e.turn l).xrec.any fun r => r.iss == e.issue)
  else 0
/-- R361: the records of the event's lanes are posted. -/
def State.parkFault (s : State) (e : FaultEv) : State :=
  (s.faultLanes e).lanes.foldl (fun s l =>
    match (s.thread e.core e.turn l).xrec with
    | some r => (s.modThread e.core e.turn l fun t => { t with xrec := none }).queueXrec e.core r
    | none => s) s
/-- R361: the event's lanes issue again. -/
def State.retryFault (s : State) (e : FaultEv) : State :=
  let s := s.modThreads e.core e.turn (s.faultLanes e) fun _ t => { t with status := .ready, wait := .none, xrec := none }
  if (s.wave e.core e.turn).uid = e.uid then s.modWave e.core e.turn fun w => { w with rcnt := Nat.min 255 (w.rcnt + 1) } else s
/-- R361: every thread of the event's wave exits. -/
def State.killFault (s : State) (cl : Nat) (e : FaultEv) (gen : Nat) : State :=
  let s := if (s.wave e.core e.turn).uid = e.uid then s.killLanes e.core e.turn (s.wave e.core e.turn).alive else s
  s.raise cl 2 3 [BitVec.ofNat 32 (e.core + e.turn * 2 ^ 11), BitVec.ofNat 32 e.code, BitVec.ofNat 32 gen]
def FaultEv.oper (e : Option FaultEv) : Word := match e with | some e => e.lanes | none => 0
/-- R360: the default decision ends a decision. -/
def State.defaultDecision (s : State) (cl : Nat) (d : Decision) (keep ovr err : Bool) : State :=
  match d.evkind with
  | 0 =>
    let r := s.placeWave cl (s.defaultCore cl d)
    r.2.endDecision cl d keep (if r.1.isSome then 0 else 1) true ovr err (match r.1 with | some c => BitVec.ofNat 32 c | none => 0xFFFFFFFF)
  | 1 => let (v, s) := s.openNat; s.endDecision cl d keep 3 true ovr err (BitVec.ofNat 32 v)
  | _ => (match d.fault with | some e => s.parkFault e | none => s).endDecision cl d keep 5 true ovr err (FaultEv.oper d.fault)
/-- R363, R367: a program error at an instruction. -/
def State.tariffError (s : State) (cl : Nat) (d : Decision) (cause index : Nat) : State :=
  let s := (s.crCount cl nTCNT 31 16 1).raise cl 2 2 [BitVec.ofNat 32 (d.evkind + cause * 256), BitVec.ofNat 32 d.gen, BitVec.ofNat 32 index]
  s.defaultDecision cl d false false true

/-! ## Instructions (R351 to R359) -/

/-- R352, R353: one instruction of the decision in progress in the cluster of the issuing unit: the registers and the next
index it leaves. Running past the last instruction is a program error (R363), unless the budget has ended. -/
def tStep (s : State) (f : Decision → List Word × Nat) : Host.Outcome State Fault Refusal :=
  let cl := s.curCl
  .next (match (s.cl cl).decision with
    | none => s
    | some d =>
      let r := f d
      let d' := { d with t := r.1, idx := r.2, last := d.idx, cycles := d.cycles + 1 }
      if (s.cl cl).alen ≤ r.2 ∧ d'.cycles < 64 then s.tariffError cl d' 0 d.idx
      else s.modCl cl fun k => { k with decision := some d' })
def Decision.r (d : Decision) (a : BitVec 4) : Word := d.t.getD a.toNat 0
def Decision.put (d : Decision) (a : BitVec 4) (v : Word) : List Word × Nat := (d.t.set a.toNat v, d.idx + 1)
def tOp (s : State) (d a b : BitVec 4) (f : Word → Word → Word) : Host.Outcome State Fault Refusal :=
  tStep s fun x => x.put d (f (x.r a) (x.r b))
def tBranch (s : State) (i : BitVec 14) (c : Decision → Bool) : Host.Outcome State Fault Refusal :=
  tStep s fun x => (x.t, if c x then x.idx + i.toNat else x.idx + 1)
def execTAdd (d a b : BitVec 4) (s : State) : Host.Outcome State Fault Refusal := tOp s d a b (· + ·)
def execTSub (d a b : BitVec 4) (s : State) : Host.Outcome State Fault Refusal := tOp s d a b (· - ·)
def execTAnd (d a b : BitVec 4) (s : State) : Host.Outcome State Fault Refusal := tOp s d a b (· &&& ·)
def execTOr (d a b : BitVec 4) (s : State) : Host.Outcome State Fault Refusal := tOp s d a b (· ||| ·)
def execTXor (d a b : BitVec 4) (s : State) : Host.Outcome State Fault Refusal := tOp s d a b (· ^^^ ·)
def execTShl (d a b : BitVec 4) (s : State) : Host.Outcome State Fault Refusal := tOp s d a b fun x y => if 32 ≤ y.toNat then 0 else x <<< y.toNat
def execTShr (d a b : BitVec 4) (s : State) : Host.Outcome State Fault Refusal := tOp s d a b fun x y => if 32 ≤ y.toNat then 0 else x >>> y.toNat
def execTMin (d a b : BitVec 4) (s : State) : Host.Outcome State Fault Refusal := tOp s d a b fun x y => if x.toNat ≤ y.toNat then x else y
def execTMax (d a b : BitVec 4) (s : State) : Host.Outcome State Fault Refusal := tOp s d a b fun x y => if x.toNat ≤ y.toNat then y else x
def execTMul (d a b : BitVec 4) (s : State) : Host.Outcome State Fault Refusal := tOp s d a b (· * ·)
def execTSlt (d a b : BitVec 4) (s : State) : Host.Outcome State Fault Refusal := tOp s d a b fun x y => if x.toNat < y.toNat then 1 else 0
def execTAddi (d a : BitVec 4) (i : BitVec 14) (s : State) : Host.Outcome State Fault Refusal := tStep s fun x => x.put d (x.r a + i.signExtend 32)
def execTAndi (d a : BitVec 4) (i : BitVec 14) (s : State) : Host.Outcome State Fault Refusal := tStep s fun x => x.put d (x.r a &&& i.setWidth 32)
def execTShri (d a : BitVec 4) (i : BitVec 14) (s : State) : Host.Outcome State Fault Refusal := tStep s fun x => x.put d (x.r a >>> i.toNat)
def execTMovi (d : BitVec 4) (i : BitVec 22) (s : State) : Host.Outcome State Fault Refusal := tStep s fun x => x.put d (i.signExtend 32)
def execTMovhi (d : BitVec 4) (i : BitVec 16) (s : State) : Host.Outcome State Fault Refusal :=
  tStep s fun x => x.put d (i ++ (x.r d).extractLsb' 0 16)
def execTBeq (a b : BitVec 4) (i : BitVec 14) (s : State) : Host.Outcome State Fault Refusal := tBranch s i fun x => x.r a == x.r b
def execTBne (a b : BitVec 4) (i : BitVec 14) (s : State) : Host.Outcome State Fault Refusal := tBranch s i fun x => x.r a != x.r b
def execTBlt (a b : BitVec 4) (i : BitVec 14) (s : State) : Host.Outcome State Fault Refusal := tBranch s i fun x => decide ((x.r a).toNat < (x.r b).toNat)
def execTBge (a b : BitVec 4) (i : BitVec 14) (s : State) : Host.Outcome State Fault Refusal := tBranch s i fun x => decide ((x.r b).toNat ≤ (x.r a).toNat)
def execTBr (i : BitVec 14) (s : State) : Host.Outcome State Fault Refusal := tBranch s i fun _ => true
/-- R356: a scalar. -/
def execVget (d : BitVec 4) (sel : BitVec 10) (s : State) : Host.Outcome State Fault Refusal := tStep s fun x => x.put d (getK 0 x.scal sel.toNat)
/-- R356: an array element; one beyond the array reads 0. -/
def execVgetIndexed (d a : BitVec 4) (sel : BitVec 10) (s : State) : Host.Outcome State Fault Refusal :=
  tStep s fun x => x.put d ((if sel.toNat = 0x40 then x.depth else if sel.toNat = 0x48 then x.age else []).getD (x.r a).toNat 0)
/-- R357. -/
def execCget (d a : BitVec 4) (field : BitVec 3) (s : State) : Host.Outcome State Fault Refusal :=
  tStep s fun x => x.put d ((x.cands.getD (x.r a).toNat []).getD field.toNat 0)
/-- R355. -/
def execEach (d : BitVec 4) (i : BitVec 14) (s : State) : Host.Outcome State Fault Refusal :=
  tStep s fun x => (x.t.set d.toNat 0, if x.cands.isEmpty then x.idx + i.toNat else x.idx + 1)
def execNext (d : BitVec 4) (i : BitVec 14) (s : State) : Host.Outcome State Fault Refusal :=
  tStep s fun x =>
    let v := x.r d + 1
    (x.t.set d.toNat v, if v.toNat < x.cands.length then x.idx - i.toNat else x.idx + 1)

/-- R359: `emit` ends the decision; `body` is what it does for the event that accepts it. -/
def tEmit (s : State) (ev : Option Nat) (body : Nat → Decision → State) : Host.Outcome State Fault Refusal :=
  let cl := s.curCl
  .next (match (s.cl cl).decision with
    | none => s
    | some d =>
      let d := { d with last := d.idx, cycles := d.cycles + 1 }
      if (match ev with | some e => d.evkind != e | none => false) then s.tariffError cl d 1 d.idx else body cl d)
def execEmitDisp (a : BitVec 4) (s : State) : Host.Outcome State Fault Refusal :=
  tEmit s (some 0) fun cl d =>
    if d.cands.length ≤ (d.r a).toNat then s.tariffError cl d 2 d.idx
    else
      let c := ((d.cands.getD (d.r a).toNat []).getD 0 0).toNat
      let can := match (s.cl cl).gather with | some g => (s.core c).canStart (tQuota (g.recs.headD [])) | none => false
      if can then (s.placeWave cl (some c)).2.endDecision cl d true 0 false false false (BitVec.ofNat 32 c)
      else s.defaultDecision cl d true false false
def execEmitDefer (s : State) : Host.Outcome State Fault Refusal :=
  tEmit s (some 0) fun cl d => (s.placeWave cl none).2.endDecision cl d true 1 false false false 0xFFFFFFFF
def execEmitPreempt (a : BitVec 4) (s : State) : Host.Outcome State Fault Refusal :=
  tEmit s (some 1) fun cl d =>
    if d.cands.length ≤ (d.r a).toNat then s.tariffError cl d 2 d.idx
    else
      let c := d.cands.getD (d.r a).toNat []
      let victim := BitVec.ofNat 32 ((c.getD 0 0).toNat + (c.getD 1 0).toNat * 2 ^ 11)
      let s := s.raise cl 2 1 [victim, BitVec.ofNat 32 ((getK 0 d.scal 0x10).toNat + (getK 0 d.scal 0x11).toNat * 256), BitVec.ofNat 32 d.gen]
      s.endDecision cl d true 2 false false false victim
def execEmitNone (s : State) : Host.Outcome State Fault Refusal :=
  tEmit s (some 1) fun cl d => let (v, s) := s.openNat; s.endDecision cl d true 3 false false false (BitVec.ofNat 32 v)
def execEmitKill (s : State) : Host.Outcome State Fault Refusal :=
  tEmit s (some 2) fun cl d =>
    (match d.fault with | some e => s.killFault cl e d.gen | none => s).endDecision cl d true 4 false false false (FaultEv.oper d.fault)
def execEmitPark (s : State) : Host.Outcome State Fault Refusal :=
  tEmit s (some 2) fun cl d =>
    (match d.fault with | some e => s.parkFault e | none => s).endDecision cl d true 5 false false false (FaultEv.oper d.fault)
def execEmitRetry (s : State) : Host.Outcome State Fault Refusal :=
  tEmit s (some 2) fun cl d =>
    match d.fault with
    | some e =>
      if retryable e.code e.finfo then (s.retryFault e).endDecision cl d true 6 false false false e.lanes else s.tariffError cl d 3 d.idx
    | none => s
def execEmitFallback (s : State) : Host.Outcome State Fault Refusal := tEmit s none fun cl d => s.defaultDecision cl d true false false

/-! ## The engine's events (R345, R349, R350, R363) -/

/-- R345, R350: the engine takes the oldest fault event, then a pre-empt event, then the dispatch event. With no tariff loaded
the default decision is applied at once. -/
def execTariffDecisionBegin (cl : Nat) (s : State) : Host.Outcome State Fault Refusal :=
  let k := s.cl cl
  let start := fun (s : State) (ev : Nat) (e : Option FaultEv) =>
    let (d, s) := s.snapshot cl ev e
    if k.alen = 0 then s.defaultDecision cl d false false false else s.modCl cl fun k => { k with decision := some d }
  .next (
    if k.decision.isSome then s
    else match k.faultEvs with
    | e :: rest => start (s.modCl cl fun k => { k with faultEvs := rest }) 2 (some e)
    | [] =>
      if k.preEv ≠ 0 then start (s.modCl cl fun k => { k with preEv := k.preEv - 1 }) 1 none
      else match k.gather with
        | some g => if g.waiting then s else start s 0 none
        | none => s)
/-- R349: QUANT µs have passed since the wave began to wait or since the last tick. -/
def State.preDue (s : State) (cl : Nat) : Option Lease :=
  match (s.cl cl).gather, (s.cl cl).preTick with
  | some g, some t =>
    let q := dwBits (s.cr cl nTQUANT) 15 0 * 1000
    if g.waiting && q != 0 && decide (q ≤ (s.lease - t).toNat) then some (t + BitVec.ofNat 48 q) else none
  | _, _ => none
/-- R349: the pre-empt tick. -/
def execPreemptTick (cl : Nat) (s : State) : Host.Outcome State Fault Refusal :=
  .next (match s.preDue cl with
    | some t => s.modCl cl fun k => { k with preEv := k.preEv + 1, preTick := some t }
    | none => s)
/-- R363: a decision whose 64th instruction was not `emit` is cut off. -/
def execTariffOverrun (cl : Nat) (s : State) : Host.Outcome State Fault Refusal :=
  .next (match (s.cl cl).decision with
    | some d =>
      if d.cycles < 64 then s
      else
        let s := (s.crCount cl nTCNT 15 0 1).raise cl 2 0 [BitVec.ofNat 32 d.evkind, BitVec.ofNat 32 d.gen, BitVec.ofNat 32 d.last]
        s.defaultDecision cl d false true false
    | none => s)

/-! ## Loading (R364, R365) -/

/-- The shadow slot's instructions (R346). -/
def State.shadow (s : State) (cl : Nat) : List Word :=
  (List.range 128).flatMap fun n => let v := s.cr cl (nTPROG n); [loOf v, hiOf v]
/-- R352: does a word of this opcode write RD? -/
def tWrites (r : TRaw) : Bool := decide (1 ≤ r.op.toNat) && (decide (r.op.toNat ≤ 0x10) || (decide (0x16 ≤ r.op.toNat) && decide (r.op.toNat ≤ 0x19)))
/-- R353: is it a branch? -/
def tBranches (r : TRaw) : Bool := decide (0x11 ≤ r.op.toNat) && decide (r.op.toNat ≤ 0x15)
def isLoop (r : TRaw) : Bool := r.op == 0x18 || r.op == 0x19
/-- R355: the check of an `each` at index `i`: it reads the opcode, RD and IMM14 of the words up to its `next`, whatever
their other fields hold (DEDUCED). -/
def loopOk (ws : List Word) (i : Nat) (d : BitVec 4) (x : Nat) : Bool :=
  let at_ := fun n => TRaw.ofWord (ws.getD n 0)
  let j := i + x - 1
  decide (2 ≤ x) && decide (j < ws.length) && ((at_ j).op == 0x19 && (at_ j).rd == d && (at_ j).imm14.toNat + i + 1 == j) &&
  ((List.range (j - i - 1)).map (i + 1 + ·)).all fun n =>
    let v := at_ n
    !isLoop v && !(tWrites v && v.rd == d) && !(tBranches v && decide (j < n + v.imm14.toNat))
/-- R356: the selectors of scalars. -/
def scalarSel (n : Nat) : Bool :=
  decide (n ≤ 3) || (decide (0x10 ≤ n) && decide (n ≤ 0x17)) || (decide (0x30 ≤ n) && decide (n ≤ 0x37)) || (decide (0x60 ≤ n) && decide (n ≤ 0x66))
/-- R364: the first refusal of a program: its code and index. Words are checked by the decoder, which refuses with the code
of R352 or of R356, R357 and R359. -/
def loadCheck (ws : List Word) : Nat → List Word → Option (Nat × Nat)
  | _, [] => none
  | i, w :: rest =>
    let x := tDecode w
    let bad : Option Nat := match x with
      | .error c => if c = 2 then some 2 else none
      | .ok _ => none
    let br : Option Nat :=
      let o := (TRaw.ofWord w).imm14.toNat
      if tBranches (TRaw.ofWord w) ∧ (o = 0 ∨ ws.length ≤ i + o) then some 3 else none
    let lp : Option Nat := match x with
      | .ok (.each d o) => if loopOk ws i d o.toNat then none else some 4
      | .ok (.next d y) =>
        let e := i - y.toNat - 1
        let r := TRaw.ofWord (ws.getD e 0)
        if y.toNat + 1 ≤ i ∧ r.op = 0x18 ∧ r.rd = d ∧ loopOk ws e d r.imm14.toNat ∧ e + r.imm14.toNat = i + 1 then none else some 4
      | _ => none
    let sel : Option Nat := match x with
      | .error c => some c
      | .ok (.vget _ n) => if scalarSel n.toNat then none else some 5
      | .ok (.vgetIndexed _ _ n) => if n.toNat = 0x40 ∨ n.toNat = 0x48 then none else some 5
      | .ok _ => none
    match bad, br, lp, sel with
    | some c, _, _, _ => some (c, i)
    | none, some c, _, _ => some (c, i)
    | none, none, some c, _ => some (c, i)
    | none, none, none, some c => some (c, i)
    | none, none, none, none => loadCheck ws (i + 1) rest
def swst (v : DWord) : Nat := dwBits v 13 10
/-- R364: the checks of a requested load; the swap is made by the next step when they pass. -/
def execTariffSwapRequest (cl : Nat) (s : State) : Host.Outcome State Fault Refusal :=
  let v := s.cr cl nTCTL
  let len := dwBits v 8 0
  .next (
    if swst v ≠ 7 then s
    else if 256 < len then s.setCr cl nTCTL (dwSet v 13 10 6)
    else
      let prog := (s.shadow cl).take len
      match loadCheck prog 0 prog with
      | some (c, i) => s.setCr cl nTCTL (dwSet (dwSet v 13 10 c) 22 14 i)
      | none => s)
/-- R365: the swap, between two decisions. -/
def execTariffSwap (cl : Nat) (s : State) : Host.Outcome State Fault Refusal :=
  let v := s.cr cl nTCTL
  let len := dwBits v 8 0
  let prog := (s.shadow cl).take len
  .next (
    if swst v ≠ 7 ∨ 256 < len ∨ (loadCheck prog 0 prog).isSome ∨ (s.cl cl).decision.isSome then s
    else
      let k := s.cl cl
      let init := let a := s.cr cl (nTINIT 0); let b := s.cr cl (nTINIT 1); [loOf a, hiOf a, loOf b, hiOf b]
      let new := s.shadow cl
      let s := (List.range 128).foldl (fun (s : State) n => s.setCr cl (nTPROG n) (pairOf (k.active.getD (2 * n) 0) (k.active.getD (2 * n + 1) 0))) s
      let s := (s.setCr cl (nTINIT 0) (pairOf (k.ainit.getD 0 0) (k.ainit.getD 1 0))).setCr cl (nTINIT 1) (pairOf (k.ainit.getD 2 0) (k.ainit.getD 3 0))
      let s := s.setCr cl nTCTL (dwSet (dwSet (dwSet v 8 0 k.alen) 13 10 1) 63 32 (dwBits v 63 32 + 1))
      s.modCl cl fun k => { k with active := new, alen := len, ainit := init, tvals := init })
/-- R346: both slots are emptied. -/
def State.emptyTariff (s : State) (cl : Nat) : State :=
  let s := (List.range 130).foldl (fun (s : State) n => s.setCr cl (crNum 2 n) 0) s
  let s := s.modCr cl nTCTL fun v => dwSet v 22 0 0
  s.modCl cl fun k => { k with active := [], alen := 0, ainit := [0, 0, 0, 0], tvals := [0, 0, 0, 0] }
/-- R346: the serai assigns the cluster to a partition. -/
def execClusterPartitionAssign (cl : Nat) (part : BitVec 4) (s : State) : Host.Outcome State Fault Refusal :=
  .next (((s.emptyTariff cl).modCr cl nTCTL fun v => dwSet v 63 32 (dwBits v 63 32 + 1)).modCl cl fun k => { k with part })

end Sys2Proof.Machine
end

