-- ==== Sys2Proof/Machine/Mem.lean ====
section
/-! DEFINITION. Global memory, atomics, fences, barriers and tags (R371 to R396), the completion of producers (R20), and the
events of accesses in flight. -/

namespace Sys2Proof.Machine

/-! ## Issue (R381 to R387) -/

/-- The slot's index and the offset that an access names, where it names a buffer. -/
def State.slotOff (s : State) (m : MemOp) (idx : List Word) : Option (Nat × Nat) :=
  if m.mode = .slot then (s.slotIndex s.cur.core m.slot.toNat).map fun b => (b, effAddr m idx) else none
/-- R409: a used translation is the most recent. -/
def State.useTlb (s : State) (cl bti page : Nat) : State :=
  let (n, s) := s.bump
  s.modCl cl fun k => { k with tlb := k.tlb.map fun t => if t.1 = pageKey bti page then (t.1, { t.2 with used := n }) else t }
def State.useSlot (s : State) (m : MemOp) (idx : List Word) : State :=
  match s.slotOff m idx with | some (b, o) => s.useTlb s.curCl b (o / 65536) | none => s
/-- R381 steps 2 to 4 of the lanes that issue, the wait of a serai for a region under test (R464), then `body` for each lane whose check passes. -/
def memOp (s0 s1 : State) (m : MemOp) (size right : Nat) (rows : List (Nat × List (List Word)))
    (body : State → Nat → Place → BitVec 512 → List (List Word) → State) : State :=
  let c := s1.cur.core
  let res : List (Nat × Chk × List (List Word)) := rows.map fun p => (p.1, s1.checkMem c s1.cur.turn p.1 m (p.2.getD 0 []) size right, p.2)
  match res.findSome? (fun r => match r.2.1 with | .miss b p => some (b, p) | _ => none) with
  | some (b, p) => s0.blockPage b p
  | none =>
    if isSerai c && res.any (fun r => match r.2.1 with | .ok p _ => isOwn c p && s1.heldPlace p | _ => false) then s0.block .blockedQueue .none
    else
    let s := if res.all (fun r => match r.2.1 with | .ok .. => false | _ => true) then s0 else s1
    (res.foldl (fun s r => match r.2.1 with
      | .ok p e => body (s.useSlot m (r.2.2.getD 0 [])) r.1 p e r.2.2
      | .bad code f x => s.takeFault r.1 code f x
      | .miss _ _ => s) s).finish
/-- The registers a long-latency D names; `%zero` names none (R20). -/
def prodRegs (d : Operand) (n : Nat) : List Nat := match d with | .reg r => (List.range n).map (r + ·) | _ => []

/-- R265, R381: the fault of the access itself, for a lane whose data come from a walker that faults. -/
def State.memOwn (s : State) (m : MemOp) (size right : Nat) : Extra :=
  accessOwn fun l idx => s.checkMem s.cur.core s.cur.turn l m idx size right

/-- R382. -/
def loadOp (s : State) (g : Guard) (size : BitVec 3) (d : Operand) (m : MemOp) (kind : LoadKind) : State :=
  let n := sizeRegs size
  match prep s g { srcs := [idxSrc m], dst := some (loadDst d n) } with
  | .stop s => s
  | .go s0 s1 rows =>
    memOp s0 s1 m (sizeBytes size) rREAD rows fun s l p e vs =>
      s.issueLoad l p e size kind (s.slotOff m (vs.getD 0 [])) (prodRegs d n)
def execLd (g : Guard) (size : BitVec 3) (d : Operand) (m : MemOp) (s : State) : Host.Outcome State Fault Refusal :=
  .next (loadOp s g size d m .plain)
def execLdNa (g : Guard) (size : BitVec 3) (d : Operand) (m : MemOp) (s : State) : Host.Outcome State Fault Refusal :=
  .next (loadOp s g size d m .na)
def execLdAcq (g : Guard) (size : BitVec 3) (d : Operand) (m : MemOp) (s : State) : Host.Outcome State Fault Refusal :=
  .next (loadOp s g size d m .acq)

/-- R380: the scope of a release. -/
def scopeOf (sc : BitVec 2) : Scope := match sc.toNat with | 0 => .crew | 1 => .cohort | 2 => .span | _ => .domain
/-- The lanes that issue for which a fence is not met (R389). -/
def State.unfenced (s : State) (sc : Scope) (ls : List Nat) : List Nat :=
  ls.filter fun l => !s.fenceMet sc s.cur.core s.cur.turn l
/-- R384, R387: a release performs its fence before its access: the path blocks until the fence completes. -/
def releaseThen (rel : Option (BitVec 2)) (s0 s1 : State) (rows : List (Nat × List (List Word))) (go : State) : State :=
  match rel with
  | none => go
  | some sc =>
    let un := s1.unfenced (scopeOf sc) (rows.map (·.1))
    if un.isEmpty then go else s0.block .blockedQueue (.fence (scopeOf sc) un)

/-- R383, R384. -/
def storeOp (s : State) (g : Guard) (size : BitVec 3) (rel : Option (BitVec 2)) (d : Src) (m : MemOp) : State :=
  let n := sizeRegs size
  let k := sizeBytes size
  match prep s g { srcs := [idxSrc m, { pos := 3, src := d, n, al := n }] } false (s.memOwn m k rWRITE) with
  | .stop s => s
  | .go s0 s1 rows =>
    releaseThen rel s0 s1 rows (memOp s0 s1 m k rWRITE rows fun s l p _ vs =>
      s.issueStore l p k (natOfWords (vs.getD 1 []) % 2 ^ (8 * k)) .data false (s.slotOff m (vs.getD 0 [])))
def execSt (g : Guard) (size : BitVec 3) (d : Src) (m : MemOp) (s : State) : Host.Outcome State Fault Refusal :=
  .next (storeOp s g size none d m)
def execStRel (g : Guard) (size : BitVec 3) (sc : BitVec 2) (d : Src) (m : MemOp) (s : State) : Host.Outcome State Fault Refusal :=
  .next (storeOp s g size (some sc) d m)

/-- R386, R387. -/
def atomOp (s : State) (g : Guard) (rel : Option (BitVec 2)) (acq : Bool) (op : BitVec 4) (w64 : Bool) (d : Src) (m : MemOp) : State :=
  let n := atomRegs op w64
  let r := if w64 then 2 else 1
  match prep s g { srcs := [idxSrc m, { pos := 3, src := d, n, al := n }] } false (s.memOwn m (4 * r) rATOM) with
  | .stop s => s
  | .go s0 s1 rows =>
    releaseThen rel s0 s1 rows (memOp s0 s1 m (4 * r) rATOM rows fun s l p _ vs =>
      let o1 := BitVec.ofNat 64 (natOfWords ((vs.getD 1 []).take r))
      let o2 := BitVec.ofNat 64 (natOfWords ((vs.getD 1 []).drop r))
      let (id, s) := s.newProd l .await (prodRegs d.o r) true
      s.issueStore l p (4 * r) 0 (.atom op w64 o1 o2 id) acq (s.slotOff m (vs.getD 0 [])))
def execAtom (g : Guard) (op : BitVec 4) (w64 : Bool) (d : Src) (m : MemOp) (s : State) : Host.Outcome State Fault Refusal :=
  .next (atomOp s g none false op w64 d m)
def execAtomAcq (g : Guard) (op : BitVec 4) (w64 : Bool) (d : Src) (m : MemOp) (s : State) : Host.Outcome State Fault Refusal :=
  .next (atomOp s g none true op w64 d m)
def execAtomRel (g : Guard) (sc : BitVec 2) (op : BitVec 4) (w64 : Bool) (d : Src) (m : MemOp) (s : State) :
    Host.Outcome State Fault Refusal := .next (atomOp s g (some sc) false op w64 d m)
def execAtomAr (g : Guard) (sc : BitVec 2) (op : BitVec 4) (w64 : Bool) (d : Src) (m : MemOp) (s : State) :
    Host.Outcome State Fault Refusal := .next (atomOp s g (some sc) true op w64 d m)

/-- R385. -/
def execLdtag (g : Guard) (d : Operand) (m : MemOp) (s : State) : Host.Outcome State Fault Refusal :=
  .next (match prep s g { srcs := [idxSrc m], dst := some { o := d } } with
    | .stop s => s
    | .go s0 s1 rows => memOp s0 s1 m 1 rREAD rows fun s l p e vs =>
      s.issueLoad l p e 4 .tag (s.slotOff m (vs.getD 0 [])) (prodRegs d 1))
def execSttag (g : Guard) (d : Src) (m : MemOp) (s : State) : Host.Outcome State Fault Refusal :=
  .next (match prep s g { srcs := [idxSrc m, { pos := 3, src := d }] } false (s.memOwn m 1 rWRITE) with
    | .stop s => s
    | .go s0 s1 rows => memOp s0 s1 m 1 rWRITE rows fun s l p _ vs =>
      s.issueStore l p 1 ((wordAt vs 1 0).toNat % 65536) .tag false (s.slotOff m (vs.getD 0 [])))

/-! ## Fences and barriers (R389 to R396) -/

/-- R380: the scope of `fence.S`. -/
def fenceScope (sc : BitVec 3) : Scope :=
  match sc.toNat with | 0 => .crew | 1 => .cohort | 2 => .span | 3 => .domain | _ => .w
def execFence (g : Guard) (sc : BitVec 3) (s : State) : Host.Outcome State Fault Refusal :=
  .next (match prep s g {} with
    | .stop s => s
    | .go s0 s1 rows =>
      let un := s1.unfenced (fenceScope sc) (rows.map (·.1))
      if un.isEmpty then s1.finish else s0.block .blockedQueue (.fence (fenceScope sc) un))

/-- R392, R395: the barrier instance at which a thread of a core arrives. -/
def State.barKey (s : State) (c : Nat) (sc : Scope) : Nat :=
  let cl := clusterOf c
  match sc with
  | .crew => c
  | .cohort => 4096 + cl
  | .span => 8192 + (cl / 2) * 16 + (s.partOf c).toNat
  | _ =>
    let b := s.cr cl nBARCTL
    16384 + (if dwBit b 0 then dwBits b 31 16 else 65536 + cl)
/-- R36, R394: arrival in the active lanes: an ARITH fault, or the threads park with the count. A serai thread parks too; it never
takes part (R393) and becomes ready when the instance releases (DEDUCED, LOG 25). -/
def arriveOp (s : State) (g : Guard) (sc : Scope) (ss : Bool) : State :=
  match prep s g {} with
    | .stop s => s
    | .go _ s1 rows =>
      let m := Mask.ofLanes (rows.map (·.1))
      let w := s1.wave s1.cur.core s1.cur.turn
      if w.armed ≠ 0 then (s1.takeFaults m 0x0C (w.satf.setWidth 32)).finish
      else
        let key := s1.barKey s1.cur.core sc
        let gen := BitVec.ofNat 16 (getK 0 s1.bars key)
        s1.park m .parkedBarrier fun _ t =>
          { t with arrived := some { key, gen, ss := if ss then some (if sc = .cohort then .cohort else .domain) else none,
                                     ops := t.batches.flatMap fun b => b.2.queue.flatMap (·.ops) } }
def execBar (g : Guard) (sc : BitVec 2) (s : State) : Host.Outcome State Fault Refusal :=
  .next (arriveOp s g (scopeOf sc) false)
def execSs (g : Guard) (sc : BitVec 2) (s : State) : Host.Outcome State Fault Refusal :=
  .next (arriveOp s g (scopeOf sc) true)

/-- R393: the clusters of an instance. -/
def State.barClusters (s : State) (key : Nat) : List Nat :=
  (List.range 16).filter fun cl =>
    if key < 4096 then cl == key / 128
    else if key < 8192 then cl == key - 4096
    else if key < 16384 then cl / 2 == (key - 8192) / 16 && (s.cl cl).part.toNat == key % 16
    else if 16384 + 65536 ≤ key then cl == key - 16384 - 65536
    else let b := s.cr cl nBARCTL; dwBit b 0 && dwBits b 31 16 == key - 16384
/-- R393: what a participant of an instance has done: nothing for a thread elsewhere, else whether R396 holds for it. -/
def State.barThreads (s : State) (key cl : Nat) : List (Option Bool) :=
  (s.cores.filter fun k => k.1 < 2048 && clusterOf k.1 == cl && (4096 ≤ key || k.1 == key)).flatMap fun k =>
    ((k.2.waves.filter fun w => w.2.live).flatMap fun w => w.2.alive.lanes.map fun l =>
      let t := w.2.thread l
      match t.arrived with
      | some a =>
        if t.status = .parkedBarrier ∧ a.key = key then
          some (match a.ss with | none => true | some sc => s.fenceMet sc k.1 w.1 l && a.ops.isEmpty)
        else none
      | none => none) ++
    (k.2.saved.flatMap fun v => v.alive.lanes.map fun l =>
      match findK v.bars l with
      | some a =>
        if a.key = key then
          some (match a.ss with | none => true | some sc => (sc == .cohort || Lease.before a.wh s.lease) && a.ops.isEmpty)
        else none
      | none => none)
/-- R393, R396: the serai threads parked at an instance whose superstep conditions still hold it. -/
def State.barHeld (s : State) (key : Nat) : Bool :=
  (s.cores.filter fun k => isSerai k.1).any fun k => (k.2.waves.filter fun w => w.2.live).any fun w => w.2.alive.lanes.any fun l =>
    let t := w.2.thread l
    match t.arrived with
    | some a => t.status == .parkedBarrier && a.key == key &&
        (match a.ss with | none => false | some sc => !(s.fenceMet sc k.1 w.1 l && a.ops.isEmpty))
    | none => false
/-- R394, R395: may an instance release? A domain instance counts clusters; those of other packages are not seen here, so
where they decide, the answer is open. -/
def State.barReady (s : State) (key : Nat) : Bool × State :=
  let cls := s.barClusters key
  let parts := cls.map fun cl => s.barThreads key cl
  let all := parts.flatMap id
  if (!all.isEmpty && !all.any Option.isSome) ∨ all.any (· == some false) ∨ s.barHeld key then (false, s)
  else if key < 16384 ∨ 16384 + 65536 ≤ key then (all.all Option.isSome, s)
  else
    let arrived := (parts.filter fun (p : List (Option Bool)) => p.all Option.isSome).length
    let counts := cls.map fun cl => dwBits (s.cr cl nBARCTL) 39 32
    let least := counts.foldl Nat.min 255
    if least ≤ arrived then (if counts.all (· == least) then (true, s) else s.openBit)
    else if arrived = cls.length ∨ !counts.all (· == least) then s.openBit
    else (false, s)
def execBarrierRelease (key : Nat) (s : State) : Host.Outcome State Fault Refusal :=
  .next (match s.barReady key with
    | (false, s) => s
    | (true, s) =>
      let free := fun (t : Thread) =>
        match t.arrived with
        | some a => if t.status = .parkedBarrier ∧ a.key = key then { t with status := .ready, arrived := none } else t
        | none => t
      { s with
        bars := putK 0 s.bars key ((getK 0 s.bars key + 1) % 65536)
        cores := s.cores.map fun (k : Nat × Core) => (k.1, { k.2 with
          waves := k.2.waves.map fun w => (w.1, { w.2 with threads := w.2.threads.map fun t => (t.1, free t.2) })
          saved := k.2.saved.map fun v => { v with bars := v.bars.filter fun b => b.2.key != key } }) })

/-! ## Loads in flight (R275, R372, R375, R382) -/

/-- R381, R408: FINFO of a deferred MEMORY-UNAVAILABLE fault. -/
def deferInfo (d bti : Nat) (flat : Bool) : Word := BitVec.ofNat 32 (d + 8 + (if flat then 64 else 0) + 2 ^ 16 * (if flat then 0 else bti))
/-- Does a line serve a load from a live copy? -/
def State.fromCopy (s : State) (cl : Nat) (a : Access) (b : Place) : Bool :=
  a.kind != .acq && cacheable cl b && (s.liveLine cl b).isSome
/-- One byte of a load: of a live copy where the load is served by one, else of the home. -/
def State.loadByte (s : State) (cl : Nat) (a : Access) (p : Place) (remote : List Byte) : Byte :=
  match (if s.fromCopy cl a p then s.liveLine cl p else none) with
  | some c => c.data.getD (linePos p) 0
  | none => match p with
    | .far .. => remote.getD (linePos p) 0
    | p => (s.rdHome p 1).getD 0 0
/-- R275, R382, R385: the words a load delivers. -/
def State.loadWords (s : State) (cl : Nat) (a : Access) (remote : List Byte) : List Word × State :=
  if a.kind = .tag then
    let (t, s) := match (if s.fromCopy cl a a.place then s.liveLine cl a.place else none) with
      | some c => (c.tags.getD (linePos a.place / 64) 0, s)
      | none => match a.place with
        | .far .. => let (v, s) := s.openNat; (BitVec.ofNat 16 v, s)
        | p => (s.tagAt p, s)
    ([t.setWidth 32], s)
  else (extend a.size ((List.range (sizeBytes a.size)).map fun i => s.loadByte cl a (a.place.add i) remote), s)
/-- R381: a load completes with MEMORY-UNAVAILABLE: its destinations stay as they were, and the fault is deferred. -/
def State.failLoad (s : State) (id : Nat) (p : Prod) (a : Access) (d : Nat) : State :=
  let f : DefFault := { finfo := deferInfo d a.bti a.flat, pc := a.pc, extra := BitVec.ofNat 64 a.off, word := a.word }
  let s := { s with prods := delK s.prods id }
  if (s.wave p.core p.turn).uid = p.uid then
    s.modThread p.core p.turn p.lane fun t =>
      { t.fillOld id with defer := if t.status = .exited then [] else t.defer ++ [f] }
  else s
/-- The lines of a load that its home serves. -/
def State.homeLines (s : State) (cl : Nat) (a : Access) : List Place :=
  (linesOf a.place (if a.kind = .tag then 1 else sizeBytes a.size)).filter fun b => !s.fromCopy cl a b
/-- R439: the loads of one instruction that name a line share the access to its bank. -/
def State.markSeen (s : State) (iss : Nat) (b : Place) : State :=
  { s with prods := s.prods.map fun x => match x.2.src with
      | .load a => if a.iss = iss then (x.1, { x.2 with src := .load { a with seen := lineKey b :: a.seen } }) else x
      | _ => x }
/-- R416, R439: an instruction's access to a line at its home. -/
def State.touchLine (s : State) (core : Nat) (a : Access) (b : Place) : State :=
  if a.seen.contains (lineKey b) then s else (s.touchWhole b (some core)).markSeen a.iss b
/-- R478, R482: a load's request leaves on the port of its line. -/
def State.loadSend (s : State) (id : Nat) (a : Access) (b o : Nat) : State :=
  let x := s.farPort b o
  { s.farAsk a.place (if a.lease = 0 then 64 else 128) with
    prods := match findK s.prods id with
      | some p => (match p.src with
        | .load f => insK s.prods id { p with src := .load { f with sent := some (x.2.getD x.1, s.lease) } }
        | _ => s.prods)
      | none => s.prods }
/-- What comes of serving a load. -/
inductive Served where
  | wait
  | fail (d : Nat)
  | done (ws : List Word)
  deriving DecidableEq, Repr
/-- R371: a load, or one half of a 16-byte load, takes effect where it is served. Where another package serves it, its request leaves
first, and its response is taken within TMO (R474, R482). A line that a lane of the instruction has accessed holds none of them (R439). -/
def State.servePart (s : State) (id : Nat) (p : Prod) (a : Access) (remote : List Byte) : Served × State :=
  let cl := clusterOf p.core
  let n := if a.kind = .tag then 1 else sizeBytes a.size
  let s := if a.kind = .acq ∨ !cacheable cl a.place then s else s.scrub cl a.place
  let home := s.homeLines cl a
  if s.heldByEarlier id (p.who a) a.kind.isTag a.place n true home.isEmpty then (.wait, s)
  else if home.any (fun b => (a.sent.isNone && !a.seen.contains (lineKey b) && s.heldPlace b) || (cacheable cl b && s.lineBusy cl b)) then (.wait, s)
  else match (if home.isEmpty then none else s.homeDown a.place n) with
  | some d =>
    (.fail d, if 32 ≤ d ∧ d < 48 then (home.foldl (fun (s : State) b => s.touchLine p.core a b) s).reportBad a.place else s)
  | none =>
    match (if home.isEmpty then none else some a.place), a.sent with
    | some (.far b o ..), none => (.wait, s.loadSend id a b o)
    | some (.far ..), some (_, t) =>
      if s.farLate t ∨ remote.length < 128 then (.wait, s)
      else
        let (ws, s) := s.loadWords cl a remote
        (.done ws, home.foldl (fun (s : State) b => s.serveLine cl a b remote) s)
    | _, _ =>
      let s := home.foldl (fun (s : State) b => s.touchLine p.core a b) s
      let s := home.foldl (fun (s : State) b => s.serveLine cl a b remote) s
      let (ws, s) := s.loadWords cl a remote
      (.done ws, (linesOf a.place n).foldl (fun (s : State) b => if home.contains b then s else s.useLine cl b) s)
/-- R373: one 8-byte half of a 16-byte load. -/
def Access.part (a : Access) (h : Nat) : Access := { a with place := a.place.add (8 * h), size := 5 }
/-- A load takes effect and its result reaches the lane; a 16-byte load in two accesses, in either order (R373). -/
def State.loadServe (s : State) (id : Nat) (p : Prod) (a : Access) (remote : List Byte) : State :=
  if a.size ≠ 6 ∨ a.kind = .tag then
    match s.servePart id p a remote with
    | (.wait, s) => s
    | (.fail d, s) => s.failLoad id p a d
    | (.done ws, s) => s.completeProd id ws
  else match a.half with
  | none =>
    let (b, s) := s.openBit
    let h := if b then 1 else 0
    (match s.servePart id p (a.part h) remote with
    | (.wait, s) => s
    | (.fail d, s) => s.failLoad id p a d
    | (.done ws, s) =>
      let seen := match (findK s.prods id).map (·.src) with | some (.load f) => f.seen | _ => a.seen
      { s with prods := insK s.prods id { p with src := .load { a with half := some (h, ws), seen, sent := none } } })
  | some (h, ws) =>
    match s.servePart id p (a.part (1 - h)) remote with
    | (.wait, s) => s
    | (.fail d, s) => s.failLoad id p a d
    | (.done w, s) => s.completeProd id (if h = 0 then ws ++ w else w ++ ws)
/-- R20: a producer completes in a lane. -/
def execProducerComplete (id : Nat) (remote : List Byte) (s : State) : Host.Outcome State Fault Refusal :=
  .next (match findK s.prods id with
    | none => s
    | some p => match p.src with
      | .vals ws => s.completeProd id ws
      | .load a => s.loadServe id p a remote
      | .await => s)
/-- R275, R439: a miss of a plain load fills its line; from another package, with the response to its request (R474). -/
def execCacheLineFill (cl line : Nat) (s : State) : Host.Outcome State Fault Refusal :=
  .next (let want := s.prods.findSome? fun x => match x.2.src with
      | .load a => if clusterOf x.2.core = cl ∧ a.kind = .plain ∧ lineKey a.place = line ∧ a.lease ≠ 0 ∧ cacheable cl a.place ∧
          (a.place.isFar → a.sent.any fun t => !s.farLate t.2) then some (x.2, a) else none
      | _ => none
    match want with
    | some (p, a) =>
      let b := lineBase a.place
      if (s.liveLine cl b).isSome ∨ s.lineBusy cl b ∨ s.heldPlace b ∨ (s.homeDown b 128).isSome then s
      else
        let (bytes, s) := match b with | .far .. => s.openBytes 128 | _ => ([], s)
        let (x, s) := (s.touchLine p.core a b).lineBytes b bytes
        s.fillLine cl b x.1 x.2 a.lease none
    | none => s)
/-- R275: a lease has expired: the copy is not used again. The line leaves when it is replaced (R277). -/
def execLineLeaseExpire (cl line : Nat) (s : State) : Host.Outcome State Fault Refusal :=
  .next (match findK (s.cl cl).lines line with
    | some c => if Lease.before s.lease c.expiry then s
      else s.modCl cl fun k => { k with lines := insK k.lines line { c with data := List.replicate 128 0, tags := [0, 0] } }
    | none => s)

/-! ## Stores in flight (R374 to R377, R383, R387) -/

/-- R276, R374: a store is accepted at the cache slice: a live copy takes it, and an atomic drops the copy. -/
def State.storeCohort (s : State) (id : Nat) (x : PStore) : State :=
  let cl := clusterOf x.core
  if x.stage ≠ 0 ∨ !cacheable cl x.place ∨ s.heldByEarlier id x.who x.kind.isTag x.place x.size false true then s
  else
    let (n, s) := s.bump
    let key := lineKey x.place
    let s := s.modCl cl fun k =>
      match findK k.lines key with
      | none => k
      | some c =>
        match x.kind with
          | .atom .. => k.dropLine key
          | .data => if Lease.before s.lease c.expiry then { k with lines := insK k.lines key (c.store (linePos x.place) (bytesOf x.size x.data)) } else k
          | .tag => if Lease.before s.lease c.expiry then { k with lines := insK k.lines key { c with tags := c.tags.set (linePos x.place / 64) (BitVec.ofNat 16 x.data) } } else k
    { s with stores := insK s.stores id { x with stage := 1, ford := n } }
/-- R381, R402, R421: a store or atomic completes with MEMORY-UNAVAILABLE. -/
def State.failStore (s : State) (id : Nat) (x : PStore) (d : Nat) : State :=
  let s := s.modCl (clusterOf x.core) fun k => k.dropLine (lineKey x.place)
  { s with stores := insK s.stores id { x with stage := 2, vis := s.lease, fail := some (deferInfo d x.bti x.flat) } }
/-- R474, R478, R482: the request of a store or atomic whose home is another package or endpoint leaves on the port of its line. -/
def State.farStore (s : State) (id : Nat) (x : PStore) (b o : Nat) : State :=
  let p := s.farPort b o
  { (match x.kind with
      | .data => s.farPut x.place ((bytesOf x.size x.data).map some)
      | .tag => s.farTag x.place (BitVec.ofNat 16 x.data)
      | .atom op w64 o1 o2 _ => s.farOp x.place w64 op o1 o2) with
    stores := insK s.stores id { x with sent := some (p.2.getD p.1, s.lease) } }
/-- R371, R377, R387: a store or atomic performs at its home. At another package it performs between its request and the response,
which is taken within TMO (R482). -/
def State.storeHome (s : State) (id : Nat) (x : PStore) : State :=
  let cl := clusterOf x.core
  let before := fun (y : Nat × PStore) =>
    if cacheable cl x.place then clusterOf y.2.core == cl && y.2.stage == 1 && decide (y.2.ford < x.ford) &&
      sameBytes x.kind.isTag x.place x.size y.2.kind.isTag y.2.place y.2.size
    else false
  if x.stage ≠ (if cacheable cl x.place then 1 else 0) ∨ (x.sent.isNone ∧ s.heldPlace x.place) ∨ s.stores.any before then s
  else if !cacheable cl x.place ∧ s.heldByEarlier id x.who x.kind.isTag x.place x.size false false then s
  else match s.homeDown x.place (if x.kind.isTag then 1 else x.size) with
  | some d =>
    let s := if 32 ≤ d ∧ d < 48 then (s.touchPlace x.place (some x.core)).reportBad x.place else s
    s.failStore id x d
  | none =>
    let done := fun (s : State) (v : Lease) => ({ s with stores := insK s.stores id { x with stage := 2, vis := v } } : State)
    let fill := fun (s : State) (prod old : Nat) => ({ s with prods := match findK s.prods prod with
        | some q => insK s.prods prod { q with src := .vals (wordsOf 2 old) }
        | none => s.prods } : State)
    match x.place, x.sent with
    | .far b o .., none => s.farStore id x b o
    | .far .., some (_, t) =>
      if s.farLate t then s
      else
        let v := s.visTime x.place t
        let s := s.farUsed x.place
        (match x.kind with
        | .atom op w64 _ _ prod =>
          let (o, s) := s.openBytes (if w64 then 8 else 4)
          let (b, s) := s.openBit
          done (fill s prod (natOfBytes o)) (if b || op != 9 then v else s.lease + s.skew)
        | _ => done s v)
    | _, _ =>
      let v := s.visTime x.place
      let s := s.touchPlace x.place (some x.core)
      match x.kind with
      | .data => done (s.wrHome x.place (bytesOf x.size x.data)) v
      | .tag => done (s.setTag x.place (BitVec.ofNat 16 x.data)) v
      | .atom op w64 o1 o2 prod =>
        let (old, wrote, s) := s.performAtom x.place op w64 o1 o2
        done (fill s prod old) (if wrote then v else s.lease)
def execStorePerform (id : Nat) (stage : StoreStage) (s : State) : Host.Outcome State Fault Refusal :=
  .next (match findK s.stores id with
    | none => s
    | some x => match stage with
      | .cohort => s.storeCohort id x
      | .home => s.storeHome id x)
/-- R377: the visibility time of a store that has performed reaches its thread, and a captured spawn that waits for it (R341). -/
def State.ackStore (s : State) (id : Nat) (x : PStore) : State :=
  let s := s.modCore x.core fun k => { k with spawns := k.spawns.map fun (e : SpawnEnt) =>
    if e.turn = x.turn ∧ e.uid = x.uid ∧ e.lanes.getLsbD x.lane ∧ id < e.upTo then { e with wh := Lease.later e.wh x.vis } else e }
  if (s.wave x.core x.turn).uid = x.uid then s.modThread x.core x.turn x.lane fun t => t.horizon x.vis else s
/-- R381: a store or atomic that failed leaves a deferred fault, and an atomic's destinations as they were. -/
def State.ackFailed (s : State) (x : PStore) (info : Word) : State :=
  let f : DefFault := { finfo := info, pc := x.pc, extra := BitVec.ofNat 64 x.off, word := x.word }
  let mine := (s.wave x.core x.turn).uid = x.uid
  let s := if mine then s.modThread x.core x.turn x.lane fun t =>
      { t with defer := if t.status = .exited then [] else t.defer ++ [f] } else s
  match x.kind with
  | .atom _ _ _ _ prod =>
    let s := { s with prods := delK s.prods prod }
    if mine then s.modThread x.core x.turn x.lane fun t => t.fillOld prod else s
  | _ => s
/-- R373: the other half of a 16-byte store, when both have come to their end. -/
def State.mate (s : State) (x : PStore) : Option (Option PStore) :=
  match x.pair with
  | none => some none
  | some i => match findK s.stores i with
    | some y => if 2 ≤ y.stage then some (some y) else none
    | none => some none
/-- R373, R377, R381: a store or atomic is acknowledged, the halves of a 16-byte store together; one fault is left of them. -/
def execStoreAcknowledge (id : Nat) (s : State) : Host.Outcome State Fault Refusal :=
  .next (match findK s.stores id with
    | none => s
    | some x =>
      if x.stage < 2 then s
      else match s.mate x with
      | none => s
      | some y =>
        let s := { s with stores := delK (match x.pair with | some i => delK s.stores i | none => s.stores) id }
        let s := if x.fail = none then s.ackStore id x else s
        let s := match y with | some y => if y.fail = none then s.ackStore id y else s | none => s
        match x.fail, y.bind (·.fail) with
        | some info, _ => s.ackFailed x info
        | none, some info => s.ackFailed x info
        | none, none => s)
/-- R16: a write horizon about to fall out of range is set to a time that has passed. -/
def execWhAgeing (core turn lane : Nat) (s : State) : Host.Outcome State Fault Refusal :=
  .next (let t := s.thread core turn lane
    if (s.lease - t.wh).toNat < 2 ^ 47 - 1 ∨ Lease.before s.lease t.wh then s
    else s.modThread core turn lane fun t => { t with wh := s.lease - 1 })

end Sys2Proof.Machine
end

