-- ==== Sys2Proof/Machine/Package.lean ====
section
/-! DEFINITION. The package's memory: walks and TBINV (R407 to R411), hash versions and migration (R412 to R415), row counters
and throttling (R416 to R419), and the row-remap table (R420, R421). -/

namespace Sys2Proof.Machine

/-! ## Walks (R407, R409, R411) -/

/-- R409: install a translation; the least recently used of 8,192 leaves. -/
def Cluster.install (k : Cluster) (key : Nat) (t : Tlb) : Cluster :=
  let old := if k.tlb.length < 8192 ∨ (findK k.tlb key).isSome then none
    else k.tlb.foldl (fun (m : Option (Nat × Nat)) x =>
      match m with | some (_, u) => if x.2.used < u then some (x.1, x.2.used) else m | none => some (x.1, x.2.used)) none
  let tlb := match old with | some (x, _) => delK k.tlb x | none => k.tlb
  { k with tlb := insK tlb key t }
def Cluster.dropWalk (k : Cluster) (bti page : Nat) : Cluster :=
  { k with walks := k.walks.filter fun w => w.bti != bti || w.page != page }
/-- Every thread of a cluster. -/
def State.mapThreads (s : State) (cl : Nat) (f : Thread → Thread) : State :=
  let wave := fun (w : Wave) => { w with threads := w.threads.map fun t => (t.1, f t.2) }
  let core := fun (k : Nat × Core) =>
    if clusterOf k.1 = cl then (k.1, { k.2 with waves := k.2.waves.map fun w => (w.1, wave w.2) }) else k
  { s with cores := s.cores.map core }
/-- R409: what a walk that installs nothing has found reaches the threads of the cluster that wait for it. -/
def State.tellWalk (s : State) (cl : Nat) (r : WalkRes) : State :=
  let tell := fun (t : Thread) =>
    if t.wait = .page r.bti r.page ∧ t.status = .blockedEmpty then { t with walked := t.walked ++ [r] } else t
  s.mapThreads cl tell
/-- R407, R409: a walk in flight is made. -/
def execTranslationWalk (cl idx page : Nat) (s : State) : Host.Outcome State Fault Refusal :=
  .next (if !(((s.cl cl).walks.take 32).any fun w => w.bti == idx && w.page == page) ∨ s.walkHeld idx page then s
    else
      let (r, e, f, s) := s.walkPage idx page
      if r = 6 then
        s.modCl cl fun k => { k with walks := k.walks.map fun w =>
          if w.bti = idx ∧ w.page = page ∧ w.busy = none then { w with busy := some s.lease } else w }
      else if r = 0 then
        let (n, s) := s.bump
        s.modCl cl fun k => (k.install (pageKey idx page) { entry := e, frame := f, used := n }).dropWalk idx page
      else (s.tellWalk cl { bti := idx, page, entry := e, res := r }).modCl cl fun k => k.dropWalk idx page)
/-- R407: a walk that has found ZBUSY for 200 µs fails with cause 0. -/
def execZbusyWaitTimeout (cl idx page : Nat) (s : State) : Host.Outcome State Fault Refusal :=
  .next (match (s.cl cl).walks.find? fun w => w.bti == idx && w.page == page with
    | some w => match w.busy with
      | some t =>
        let (r, e, _, s1) := s.walkPage idx page
        if Lease.before s.lease (t + 200000) ∨ r ≠ 6 then s
        else
          let st := locStack (s.locate ((ebits e 166 128 + 8 * page) % 2 ^ 39))
          let s := (s1.tellWalk cl { bti := idx, page, entry := e, res := 16 + st }).modCl cl fun k => k.dropWalk idx page
          if w.eng then s.modCl cl fun k => { k with walkFail := insK k.walkFail (pageKey idx page) (BitVec.ofNat 32 st) } else s
      | none => s
    | none => s)
/-- R411: translations are removed, and the walks in flight for them are made again. -/
def State.tbinv (s : State) (cl : Nat) (v : DWord) : State :=
  if dwBits v 63 43 ≠ 0 then s
  else
    let named := fun (bti page : Nat) => dwBit v 41 || (bti == dwBits v 15 0 && (dwBit v 40 || page == dwBits v 39 16))
    let cls := if dwBit v 42 then List.range 16 else [cl]
    cls.foldl (fun (s : State) c =>
      let s := s.modCl c fun k =>
        { k with tlb := k.tlb.filter fun t => !named (t.1 / 2 ^ 32) (t.1 % 2 ^ 32)
                 walks := k.walks.map fun w => if named w.bti w.page then { w with busy := none } else w }
      s.mapThreads c fun t => { t with walked := t.walked.filter fun r => !named r.bti r.page }) s
def execTbinvWrite (cl : Nat) (v : DWord) (s : State) : Host.Outcome State Fault Refusal := .next (s.tbinv cl v)

/-! ## Hash versions and migration (R412 to R415) -/

/-- R414 step 1. -/
def State.startGroup (s : State) (g : Nat) : State :=
  s.modCr 16 (nHGSTATE g) fun v =>
    let old := dwBits v 15 0
    let k := s.lease.toNat % 65536 ||| 1
    let key := if k = old then k ^^^ 2 else k
    dwSet (dwSet (dwSet (dwSet (dwSet v 31 16 old) 15 0 key) 47 32 0) 48 48 1) 63 56 (dwBits v 63 56 + 1)
/-- R414, R422: every group is done. -/
def State.endVersion (s : State) (done : BitVec 32) : State :=
  let lowest := (List.range 32).find? fun g => done.getLsbD g
  let ver := match lowest with | some g => dwBits (s.cr 16 (nHGSTATE g)) 63 56 | none => 0
  { s with mig := none }.raise 0 4 3 [done, BitVec.ofNat 32 ver]
/-- R414: the next of the version's groups is migrated; one whose mode is no longer hashed never moves. -/
def State.nextGroup (s : State) (todo : List Nat) (done : BitVec 32) : State :=
  match todo.filter fun g => s.rgMode g == 0 with
  | [] => s.endVersion done
  | g :: gs => { s.startGroup g with mig := some { todo := g :: gs, done } }
/-- R412, R414: a new version begins, or is counted in IGN. -/
def State.beginVersion (s : State) : State :=
  if s.mig.isSome then s.crCount 16 nHMIG 47 32 1 else s.nextGroup (List.range 32) 0
def execHmigStart (s : State) : Host.Outcome State Fault Refusal := .next s.beginVersion
/-- R412: a 1 ms window has ended. -/
def State.hashWindow (s : State) : State :=
  if s.lease.toNat / 1000000 = s.hwin then s
  else
    let thr := dwBits (s.cr 16 nHMIG) 31 16
    let due := thr ≠ 0 ∧ (List.range 8).any fun k => decide (thr ≤ dwBits (s.cr 16 (nSTKSTAT k)) 23 0)
    let s := if due then s.beginVersion else s
    { (List.range 8).foldl (fun (s : State) k => s.modCr 16 (nSTKSTAT k) fun v => dwSet v 23 0 0) s with
      hwin := s.lease.toNat / 1000000 }
def execHashWindowEnd (s : State) : Host.Outcome State Fault Refusal := .next s.hashWindow

/-- The contents of two blocks change places: data, tag and error; the LX of their lines with the even blocks. -/
def State.swapBlocks (s : State) (a b : Nat) : State :=
  let da := getBytes s.hbm (a * 64) 64
  let db := getBytes s.hbm (b * 64) 64
  let ta := getK 0 s.hbmTag a
  let tb := getK 0 s.hbmTag b
  let ba := s.badHbm.contains a
  let bb := s.badHbm.contains b
  let bad := s.badHbm.filter fun x => x != a && x != b
  let bad := if ba then b :: bad else bad
  let soft := s.softHbm.map fun x => if x = a then b else if x = b then a else x
  let put := fun (m : Sparse Lease) (k : Nat) (v : Option Lease) => match v with | some x => insK m k x | none => delK m k
  let swap := fun (m : Sparse Lease) => let x := 2 ^ 40 + a / 2; let y := 2 ^ 40 + b / 2; put (put m x (findK m y)) y (findK m x)
  { s with
    hbm := putBytes (putBytes s.hbm (a * 64) db) (b * 64) da
    hbmTag := putK 0 (putK 0 s.hbmTag a tb) b ta
    badHbm := if bb then a :: bad else bad
    softHbm := soft
    lx := if a % 2 = 0 then swap s.lx else s.lx
    lxl := if a % 2 = 0 then swap s.lxl else s.lxl }
/-- R414: one unit of the group being migrated is moved. -/
def execMigrationUnitMove (group : Nat) (s : State) : Host.Outcome State Fault Refusal :=
  .next (match s.mig with
    | none => s
    | some m =>
      if m.todo.head? ≠ some group then s
      else
        let h := s.cr 16 (nHGSTATE group)
        let u := dwBits h 47 32
        let gOld := hashG u (dwBits h 31 16)
        let d := (gOld ^^^ hashG u (dwBits h 15 0)) * 2
        let loc := fun (x : Nat) => placeBlock 0 group (u * 8192 + x)
        let pairs := if d = 0 then [] else ((List.range 8192).filter fun x => decide (x < x ^^^ d)).map fun x => (loc x, loc (x ^^^ d))
        if pairs.any fun p => s.held p.1 || s.held p.2 then s
        else
          let s := pairs.foldl (fun (s : State) p => ((s.touch p.1 none true).touch p.2 none true).swapBlocks p.1 p.2) s
          let s := s.modCr 16 (nHGSTATE group) fun v => dwSet v 47 32 (u + 1)
          if u + 1 < 32768 then s
          else
            let s := s.modCr 16 (nHGSTATE group) fun v => dwSet v 48 48 0
            let done := m.done ||| BitVec.ofNat 32 (2 ^ group)
            s.nextGroup (m.todo.drop 1) done)

/-! ## Rows and banks (R416 to R419) -/

def State.modBank (s : State) (b : Nat) (f : HBank → HBank) : State := { s with hbanks := insK s.hbanks b (f (getK {} s.hbanks b)) }
/-- R417: the 280 ns of a block have passed. -/
def execBankBlockEnd (bank : Nat) (s : State) : Host.Outcome State Fault Refusal :=
  .next (match (getK {} s.hbanks bank).block with
    | some t => if Lease.before s.lease t then s else s.modBank bank fun b => { b with block := none }
    | none => s)
/-- R417: a bank that has been idle for 100 ns closes its row. -/
def execRowIdleClose (bank : Nat) (s : State) : Host.Outcome State Fault Refusal :=
  .next (let b := getK {} s.hbanks bank
    if b.row.isNone ∨ Lease.before s.lease (b.last + 100) then s else s.modBank bank fun b => { b with row := none })
/-- R416: a row's periodic refresh resets its counter. -/
def execPeriodicRowRefresh (bank row : Nat) (s : State) : Host.Outcome State Fault Refusal :=
  .next { s with rowCnt := putK 0 s.rowCnt (bank * 32768 + row % 32768) 0 }
/-- R418, R419: 10,000 ticks have passed since the latest alert that named the core. -/
def execThrottleEnd (core : Nat) (s : State) : Host.Outcome State Fault Refusal :=
  .next (match (s.core core).throttle with
    | some t =>
      if Lease.before s.lease t then s
      else (s.modCore core fun k => { k with throttle := none, admitted := [] }).modCr (clusterOf core) (nTHR (coreIndex core)) fun v => dwSet v 0 0 0
    | none => s)

/-! ## The row-remap table (R420, R421) -/

/-- R422: event KIND 4 of a stack. -/
def State.remapEvent (s : State) (k what : Nat) (us : Nat) : State :=
  s.raise (2 * k) 4 4 [BitVec.ofNat 32 k, BitVec.ofNat 32 what, BitVec.ofNat 32 us]
/-- How long a stack has been reloading, in ticks. -/
def State.reloadFor (s : State) (k : Nat) : Nat := (s.lease - getK s.lease s.reloadAt k).toNat
def execRemapTableError (stack : Nat) (s : State) : Host.Outcome State Fault Refusal :=
  .next (let s := s.crCount 16 (nSTKSTAT stack) 63 48 1
    if s.stkReload stack ∨ s.stkUnavail stack then s
    else
      let s := s.modCr 16 (nSTKSTAT stack) fun v => dwSet v 24 24 1
      { s with reloadAt := insK s.reloadAt stack s.lease }.remapEvent stack 0 0)
/-- R421, R465: a stack's part of the remap table is loaded from the hub's copy. -/
def State.loadRemap (s : State) (stack : Nat) : State :=
  let mine := fun (p : Nat × Nat) => p.1 / 16384 / 4096 == stack
  { s with reloadAt := delK s.reloadAt stack
           remap := (s.hub.filter mine).foldl (fun (m : Sparse Nat) (p : Nat × Nat) => insK m p.1 p.2) (s.remap.filter fun p => !mine p) }
def execRemapReloadDone (stack : Nat) (s : State) : Host.Outcome State Fault Refusal :=
  .next (if !s.stkReload stack then s
    else
      let us := s.reloadFor stack / 1000
      ((s.modCr 16 (nSTKSTAT stack) fun v => dwSet v 24 24 0).loadRemap stack).remapEvent stack 1 us)
def Place.onStack (s : State) (k : Nat) : Place → Bool
  | .hbm d => locStack (s.locate d) == k
  | _ => false
/-- R421: does a run of bytes have a block on a stack? -/
def Place.spanOn (s : State) (k : Nat) (p : Place × Nat) : Bool := (blocksOf p.1 p.2).any fun b => Place.onStack s k b.1
/-- R421: a held request completes with cause 0: a load, a store, an atomic or a copy. -/
def State.failHeld (s : State) (k id : Nat) : State :=
  match findK s.prods id with
  | some p => match p.src with
    | .load a => if Place.onStack s k a.place && !(s.homeLines (clusterOf p.core) a).isEmpty then s.failLoad id p a k else s
    | _ => s
  | none => match findK s.stores id with
    | some x => if x.stage < 2 && Place.onStack s k x.place then s.failStore id x k else s
    | none => match findK s.copies id with
      | some o =>
        if !o.done && o.fail.isNone && (o.src ++ o.dst).any (fun r => r.any fun p => Place.spanOn s k p) then s.failCopy id o else s
      | none => s
/-- R407, R409, R421: the walks that a stack holds complete with cause 0: at the buffer table, at the page map, or as they would clear
their frame. -/
def State.failHeldWalks (s : State) (stack : Nat) : State :=
  (List.range 16).foldl (fun (s : State) cl =>
    (s.cl cl).walks.foldl (fun (s : State) w =>
      let ea := (dwBits (s.cr 16 nBTBASE) 38 0 + 64 * w.bti) % 2 ^ 39
      let e := s.tableEntry w.bti
      let onEntry := Place.onStack s stack (.hbm ea)
      let pa := (ebits e 166 128 + 8 * w.page) % 2 ^ 39
      let v := natOfBytes (s.rdHbm pa 8)
      let onPage := !eFar e && (Place.onStack s stack (.hbm pa) ||
        (entryOk e && decide (w.page * 65536 < eLength e) && w.busy.isNone && v.testBit 0 && v.testBit 1 && !v.testBit 2 &&
          (frameBlocks (bitsN v 38 16)).any fun da => Place.onStack s stack (.hbm da)))
      if onEntry || onPage then
        (s.tellWalk cl { bti := w.bti, page := w.page, entry := if onEntry then 0 else e, res := 16 + stack }).modCl cl fun k => k.dropWalk w.bti w.page
      else s) s) s
/-- R402, R421: the instruction fetches of a core that a stack holds complete with cause 0, in the lanes they serve. -/
def State.failHeldFetches (s : State) (stack core : Nat) : State :=
  (s.core core).fills.foldl (fun (s : State) n =>
    let pc : DWord := BitVec.ofNat 64 (n * 64)
    match (if n < 2 ^ 60 then s.checkBuf (clusterOf core) [] (s.partOf core) (some (caBti pc)) (caOff pc) 8 rEXEC else .miss 0 0) with
    | .ok p e =>
      if !Place.onStack s stack p then s
      else
        let r : WalkRes := { bti := caBti pc, page := caOff pc / 65536, entry := e, res := 16 + stack }
        s.modCore core fun k =>
          { k with
            fills := k.fills.filter (· != n)
            waves := k.waves.map fun w => (w.1, { w.2 with threads := w.2.threads.map fun t =>
              if t.2.going && (t.2.pc.toNat / 64 == n || (t.2.pc.toNat + 8) / 64 == n) then (t.1, { t.2 with walked := t.2.walked ++ [r] })
              else t }) }
    | _ => s) s
/-- R421, R436: the accesses of a wayside command that a stack holds complete with cause 0. -/
def State.failHeldWays (s : State) (stack : Nat) : State :=
  { s with ways := s.ways.map fun w =>
      if w.2.cur.isSome && !w.2.ran && w.2.segs.any (fun r => r.any fun p => Place.spanOn s stack p) then (w.1, { w.2 with late := true }) else w }
/-- R421: what a stack holds besides the numbered requests. -/
def State.failHeldOthers (s : State) (stack : Nat) : State :=
  s.cores.foldl (fun (s : State) k => s.failHeldFetches stack k.1) ((s.failHeldWalks stack).failHeldWays stack)
/-- R421: a request that has been held for 200 µs; 0 stands for the walks, the fetches and the wayside accesses. -/
def execRemapHoldTimeout (stack id : Nat) (s : State) : Host.Outcome State Fault Refusal :=
  .next (if !s.stkReload stack ∨ s.reloadFor stack < 200000 then s
    else if id = 0 then s.failHeldOthers stack else s.failHeld stack id)
/-- R421: the stack has been reloading for 200 µs: it leaves service, and every held request completes with cause 0. -/
def execRemapStackTimeout (stack : Nat) (s : State) : Host.Outcome State Fault Refusal :=
  .next (if !s.stkReload stack ∨ s.reloadFor stack < 200000 then s
    else
      let us := s.reloadFor stack / 1000
      let s := (s.prods.map (·.1) ++ s.stores.map (·.1) ++ s.copies.map (·.1)).foldl (fun (s : State) id => s.failHeld stack id) s
      let s := (s.failHeldOthers stack).modCr 16 (nSTKSTAT stack) fun v => dwSet (dwSet v 24 24 0) 25 25 1
      { s with reloadAt := delK s.reloadAt stack }.remapEvent stack 2 us)

end Sys2Proof.Machine
end

