-- ==== Sys2Proof/Machine/Wayside.lean ====
section
/-! DEFINITION. Wayside units (R423 to R438): submission, the issue units, acceptance, the commands, and completion. -/

namespace Sys2Proof.Machine

/-! ## Submission (R427 to R429) -/

/-- R431: the fields of a packet that its 32-bit words hold. -/
structure WCmd where
  cmd   : Nat
  ctx   : Nat
  stack : Nat
  width : Nat
  acc   : Bool
  ofmt  : BitVec 8
  oscl  : Nat
  a0    : Nat
  v0    : Nat
  n     : Nat
  a1    : Nat
  kblk  : Nat
  pitch : Nat
  off0  : Nat
  slot0 : Nat
  off1  : Nat
  slot1 : Nat
  f0    : Word
  f1    : Word
  deriving DecidableEq, Repr
def WCmd.ofWords (ws : List Word) : WCmd :=
  let v := natOfWords ws
  let b := bitsN v
  { cmd := b 7 0, ctx := b 9 8, stack := b 12 10, width := b 14 13, acc := v.testBit 15, ofmt := BitVec.ofNat 8 (b 23 16),
    oscl := b 31 24, a0 := b 45 32, v0 := b 59 48, n := b 78 64, a1 := b 93 80, kblk := b 103 96, pitch := b 127 104,
    off0 := b 167 128, slot0 := b 173 168, off1 := b 231 192, slot1 := b 237 232,
    f0 := BitVec.ofNat 32 (b 287 256), f1 := BitVec.ofNat 32 (b 319 288) }
def fCtxStack : List (Nat × Nat) := [(7, 0), (9, 8), (12, 10)]
def fWidth := (14, 13)
def fA0 := (45, 32)
def fV0 := (59, 48)
def fN := (78, 64)
def fBuf0 : List (Nat × Nat) := [(167, 128), (173, 168)]
def fBuf1 : List (Nat × Nat) := [(231, 192), (237, 232)]
def fF0 := (287, 256)
/-- R432: the fields that each command uses; `none` where CMD is reserved. -/
def wFields (cmd : Nat) : Option (List (Nat × Nat)) :=
  (match cmd with
   | 1 => some []
   | 2 => some ([fWidth, fV0, fN] ++ fBuf0)
   | 3 => some [fV0, fN, fF0]
   | 4 => some [fV0, fN, fF0]
   | 5 => some [fA0, fN]
   | 6 => some ([fWidth, (15, 15), fA0, fV0, fN, (103, 96), (127, 104)] ++ fBuf0)
   | 7 => some [fA0, fN, fF0]
   | 8 => some ([fWidth, fA0, fN] ++ fBuf0)
   | 9 => some [fA0, (93, 80), fN]
   | 10 => some [fA0, fN, fF0, (319, 288)]
   | 11 => some [fA0, fV0, fN]
   | 12 => some ([(23, 16), (31, 24), fA0, fN] ++ fBuf1)
   | 13 => some fBuf1
   | _ => none).map (fCtxStack ++ ·)
def usesBuf0 (cmd : Nat) : Bool := cmd == 2 || cmd == 6 || cmd == 8
def usesBuf1 (cmd : Nat) : Bool := cmd == 12 || cmd == 13

/-- R428: the buffers that a command's slots name at capture, each as a word: 2^16 + index, or 0 where not valid. -/
def State.waySlots (s : State) (ws : List Word) : List (List Word) :=
  let c := WCmd.ofWords ws
  [c.slot0, c.slot1].map fun n => [match s.slotIndex s.cur.core n with | some b => BitVec.ofNat 32 (65536 + b) | none => 0]
def slotOf (ws : List (List Word)) (i : Nat) : Option Nat :=
  let v := ((ws.getD i []).getD 0 0).toNat
  if v < 65536 then none else some (v - 65536)
/-- R428: the issue unit takes a command. -/
def State.takeWay (s : State) (core turn uid op : Nat) (ws : List Word) (slots : List (List Word)) : State :=
  let e : WayEnt := { words := ws, b0 := slotOf slots 0, b1 := slotOf slots 1, core, turn, uid, op, part := s.partOf core }
  s.modCore core fun k => { k with ways := k.ways ++ [e] }
def wcmdOp (s : State) (g : Guard) (pb : Nat) (e : Bool) (port : Option Nat) : State :=
  submit s g pb 16 16 e 3 34 port .waysideRoom (fun s _ => decide ((s.core s.cur.core).ways.length < 8))
    (fun s id ws => s.takeWay s.cur.core s.cur.turn (s.wave s.cur.core s.cur.turn).uid id ws (s.waySlots ws)) State.waySlots
def execWcmd (g : Guard) (pb : Nat) (e : Bool) (s : State) : Host.Outcome State Fault Refusal := .next (wcmdOp s g pb e none)
def execWcmdQueued (g : Guard) (pb : Nat) (e : Bool) (port : BitVec 5) (s : State) : Host.Outcome State Fault Refusal :=
  .next (wcmdOp s g pb e (some port.toNat))

/-- R426: OWN and EN of a context of a stack. -/
def State.wctx (s : State) (k c : Nat) : Nat × Bool :=
  let v := s.cr 16 (nWCTX k)
  (dwBits v (8 * c + 3) (8 * c), dwBit v (8 * c + 4))
/-- R429. -/
def execWinfo (g : Guard) (d : Operand) (a : Src) (s : State) : Host.Outcome State Fault Refusal :=
  .next (laneOp s g { srcs := [{ pos := 0, src := a }], dst := some { o := d } } fun s _ vs =>
    let k := (wordAt vs 0 0).toNat % 8
    let bits := (List.range 4).foldl (fun (v : Nat) c =>
      let x := s.wctx k c
      if x.2 && x.1 == (s.partOf s.cur.core).toNat then v + 2 ^ (8 + c) else v) 0
    (s, [BitVec.ofNat 32 (dwBits (s.cr 16 (nWSTAT k)) 6 0 + bits)], 0))

/-- DEPTH follows the queue of a stack (R426). -/
def State.setWays (s : State) (k : Nat) (q : List WayEnt) : State :=
  (s.modWay k fun w => { w with queue := q }).modCr 16 (nWSTAT k) fun v => dwSet v 6 0 q.length
/-- R428: the head of the issue queue takes a place, or the first command goes to its stack's queue. -/
def execWaysideIssueSend (core : Nat) (s : State) : Host.Outcome State Fault Refusal :=
  .next (let k := s.core core
    match k.queue 34, decide (k.ways.length < 8) with
    | .cmd ws t uid op slots _ :: rest, true =>
      (s.modCore core fun k => k.setQueue 34 rest).takeWay core t uid op ws slots
    | _, _ =>
      match k.ways with
      | e :: rest =>
        let st := (WCmd.ofWords e.words).stack
        let q := (s.way st).queue
        if 64 ≤ q.length then s else (s.modCore core fun k => { k with ways := rest }).setWays st (q ++ [e])
      | [] => s)

/-! ## Acceptance (R430, R436) -/

/-- R433: the element width of a WIDTH code. -/
def wWidth (w : Nat) : Nat := match w with | 0 => 16 | 1 => 8 | _ => 32
/-- R434: the elements of a chunk. -/
def wChunk (w : Nat) : Nat := if w = 0 then 32 else 64
/-- R435: OFMT names f32, bf16, s8, z8 or a binary8 format. -/
def wStoreFmt (c : BitVec 8) : Option Fmt :=
  match fmtOf c with
  | some .f32 => if c = 1 then some .f32 else none
  | some f => if c = 2 ∨ c = 4 ∨ c = 5 ∨ c.extractLsb' 6 2 = 1 then some f else none
  | none => none
/-- R436 cause 1. -/
def wMalformed (ws : List Word) : Bool :=
  let c := WCmd.ofWords ws
  let v := natOfWords ws
  match wFields c.cmd with
  | none => true
  | some fs =>
    let used := fs.foldl (fun (m : Nat) f => m + (2 ^ (f.1 - f.2 + 1) - 1) * 2 ^ f.2) 0
    let has := fun f => fs.contains f
    v &&& used != v ||
    (has fWidth && c.width == 3) ||
    (has fN && (c.n == 0 || decide (16384 < c.n))) ||
    (has fV0 && c.cmd != 6 && decide (4096 < c.v0 + c.n)) ||
    (has fA0 && decide (16384 < c.a0 + c.n)) ||
    (c.cmd == 9 && decide (16384 < c.a1 + c.n)) ||
    (usesBuf0 c.cmd && c.off0 % 64 != 0) ||
    (c.cmd == 6 && (c.width == 2 || c.kblk == 0 || decide (128 < c.kblk) || decide (4096 < c.v0 + c.kblk * wChunk c.width))) ||
    (c.cmd == 12 && ((wStoreFmt c.ofmt).isNone || c.oscl == 255 || c.off1 % 64 != 0 ||
      (match wStoreFmt c.ofmt with | some f => c.n % (512 / f.width) != 0 | none => true))) ||
    (c.cmd == 13 && c.off1 % 8 != 0)
/-- R436: the cause of a fault code of R408. -/
def wCause (code : Nat) : Nat := if code = 6 then 3 else if code = 8 then 7 else 2
/-- The runs of buffer bytes that a command names, by row: buffer, offset and length, and the right it needs. -/
def WCmd.runs (c : WCmd) : Option (Bool × Nat × List (Nat × Nat)) :=
  match c.cmd with
  | 2 => some (true, rREAD, [(c.off0, c.n * wWidth c.width / 8)])
  | 8 => some (true, rREAD, [(c.off0, c.n * wWidth c.width / 8)])
  | 6 => some (true, rREAD, (List.range c.n).map fun r => (c.off0 + 64 * (c.pitch * r), 64 * c.kblk))
  | 12 => some (false, rWRITE, [(c.off1, match wStoreFmt c.ofmt with | some f => c.n * f.width / 8 | none => 0)])
  | 13 => some (false, rATOM, [(c.off1, 8)])
  | _ => none
/-- The check of one page's part of a run (R436 causes 2, 3, 4 and 7): what the entry alone refuses comes before the page. -/
def State.wayPart (s : State) (cl : Nat) (e : WayEnt) (c : WCmd) (bti right off n : Nat) : EChk (Place × Nat) × State :=
  match s.engineWalk cl bti (off / 65536) with
  | (.ok (r, b, f), s) =>
    if entryOk b ∧ (eFar b ∨ (c.cmd = 6 ∧ (eMode b ≠ 3 ∨ !eRight b rWAYS))) then (.bad 2, s)
    else (match checkEntry e.part bti off n right r b f with
    | .ok p _ =>
      if c.cmd == 6 && (match p with | .hbm d => locStack (s.locate d) != c.stack | _ => true) then (.bad 4, s) else (.ok (p, n), s)
    | .bad code _ _ => (.bad (wCause code), s)
    | .miss _ _ => (.wait, s))
  | (.bad x, s) => (.bad x, s)
  | (.wait, s) => (.wait, s)
/-- What the checks of a command find: the cause that applies first, the places by row, or a page that is held. -/
structure WayChk where
  causes : List Nat
  wait   : Bool
  segs   : List (List (Place × Nat))
/-- R436: the buffer checks of every row. -/
def State.wayBuffers (s : State) (e : WayEnt) (c : WCmd) : WayChk × State :=
  match c.runs with
  | none => ({ causes := [], wait := false, segs := [] }, s)
  | some (first, right, runs) =>
    match (if first then e.b0 else e.b1) with
    | none => ({ causes := [2], wait := false, segs := [] }, s)
    | some bti =>
      runs.foldl (fun (a : WayChk × State) run =>
        let parts := pageParts run.1 run.2
        let a := if c.cmd = 6 ∧ 1 < parts.length then ({ a.1 with causes := a.1.causes ++ [4] }, a.2) else a
        let r := parts.foldl (fun (b : WayChk × State × List (Place × Nat)) part =>
          match b.2.1.wayPart (2 * c.stack) e c bti right part.1 part.2 with
          | (.ok x, s) => (b.1, s, b.2.2 ++ [x])
          | (.bad x, s) => ({ b.1 with causes := b.1.causes ++ [x] }, s, b.2.2)
          | (.wait, s) => ({ b.1 with wait := true }, s, b.2.2)) (a.1, a.2, [])
        ({ r.1 with segs := r.1.segs ++ [r.2.2] }, r.2.1)) ({ causes := [], wait := false, segs := [] }, s)
/-- R436: the first cause that applies, in the order 1, 5, 2, 3, 4, and 7 for a home out of reach. -/
def firstCause (cs : List Nat) : Option Nat := [1, 5, 2, 3, 4, 7].find? fun c => cs.contains c
/-- R430, R436: a stack accepts the command at the head of its queue and checks it. -/
def execWaysideAccept (stack : Nat) (s : State) : Host.Outcome State Fault Refusal :=
  .next (match (s.way stack).cur, (s.way stack).queue with
    | none, e :: rest =>
      let c := WCmd.ofWords e.words
      let take := fun (s : State) (fail : Option Nat) (segs : List (List (Place × Nat))) =>
        (s.setWays stack rest).modWay stack fun w => { w with cur := some e, ran := fail.isSome, fail, flags := 0, vis := none, segs, late := false, ahead := [], aheadT := [] }
      let x := s.wctx stack c.ctx
      if wMalformed e.words then take s (some 1) []
      else if !x.2 ∨ x.1 ≠ e.part.toNat then take s (some 5) []
      else
        let was := s
        let (r, s) := s.wayBuffers e c
        match r.wait, firstCause r.causes with
        | true, _ => s.keepFails was (2 * c.stack)
        | false, some f => take s (some f) []
        | false, none => take s none r.segs
    | _, _ => s)

/-! ## The commands (R432 to R435) -/

def WayStack.vbAt (w : WayStack) (ctx i : Nat) : Word := getK 0 w.vb (4096 * ctx + i)
def WayStack.raAt (w : WayStack) (ctx i : Nat) : Word := getK 0 w.ra (16384 * ctx + i)
def WayStack.setVb (w : WayStack) (ctx i : Nat) (v : Word) : WayStack := { w with vb := putK 0 w.vb (4096 * ctx + i) v }
def WayStack.setRa (w : WayStack) (ctx i : Nat) (v : Word) : WayStack := { w with ra := putK 0 w.ra (16384 * ctx + i) v }
/-- A command runs: `body` is its effect when no access fails. -/
def State.wayRun (s : State) (stack cmd : Nat) (body : State → WCmd → WayEnt → State) : State :=
  match (s.way stack).cur with
  | none => s
  | some e =>
    let c := WCmd.ofWords e.words
    if (s.way stack).ran ∨ c.cmd ≠ cmd then s
    else (body s c e).modWay stack fun w => { w with ran := true }
/-- The command waits while an access of its is held (R414, R417, R421), but for one that has been held for too long. -/
def State.wayHeld (s : State) (stack : Nat) : Bool :=
  !(s.way stack).late && (s.way stack).segs.any fun r => (segBlocks r).any fun p => s.eHeld p.1
def State.wayFlags (s : State) (stack : Nat) (fl : Flags) : State := s.modWay stack fun w => { w with flags := w.flags ||| fl }
/-- A command of arrays alone: for each i, in order, the new value and flags. -/
def State.wayEach (s : State) (stack : Nat) (n : Nat) (f : WayStack → Nat → WayStack × Flags) : State :=
  s.modWay stack fun w => (List.range n).foldl (fun w i =>
    let r := f w i
    { r.1 with flags := w.flags ||| r.2 }) w
/-- R436: causes 6 and 7 of the blocks a command reads. -/
def State.wayReadCause (s : State) (ps : List (Place × Nat)) : Option Nat :=
  ps.findSome? fun p => (s.homeDown p.1 p.2).map fun d => if 32 ≤ d ∧ d < 48 then 6 else 7
/-- R421, R436: why a command's accesses fail. -/
def State.wayCause (s : State) (stack : Nat) (ps : List (Place × Nat)) : Option Nat :=
  if (s.way stack).late then some 7 else s.wayReadCause ps
def State.reportAll (s : State) (ps : List (Place × Nat)) : State :=
  ps.foldl (fun (s : State) p => match s.homeDown p.1 p.2 with | some d => if 32 ≤ d ∧ d < 48 then s.reportBad p.1 else s | none => s) s
/-- R436: after cause 6 or 7, each array element is old or new. -/
def State.mixArray (s : State) (old : Sparse Word) (new : Sparse Word) : Sparse Word × State :=
  ((new.map (·.1) ++ old.map (·.1)).eraseDups).foldl (fun (a : Sparse Word × State) k =>
    let (b, s) := a.2.openBit
    (if b then putK 0 a.1 k (getK 0 new k) else a.1, s)) (old, s)
/-- A command that reads memory: its effect, or after a failed read the old or new value of each element. -/
def State.wayReading (s : State) (stack : Nat) (body : State → State) : State :=
  let ps := (s.way stack).segs.flatMap segBlocks
  let w := s.way stack
  let r := ps.foldl (fun (s : State) p => s.touchPlace p.1 none) (body s)
  match s.wayCause stack ps with
  | none => r
  | some c =>
    let s := r.reportAll ps
    let (vb, s) := s.mixArray w.vb (s.way stack).vb
    let (ra, s) := s.mixArray w.ra (s.way stack).ra
    s.modWay stack fun w => { w with vb, ra, fail := some c }

/-- R437: the number of a place's byte, by which what has been read ahead is known. -/
def wayByte : Place → Nat | .hbm d => d | _ => 0
/-- R437: the bytes of a block that a command uses, and its tag: as they were read ahead, else as they are. -/
def State.wayBlock (s : State) (x : WayStack) (p : Place) (n : Nat) : List Byte × Tag :=
  (((List.range ((n + 7) / 8)).flatMap fun i => match findK x.ahead (wayByte p / 8 + i) with
      | some v => bytesOf 8 v.toNat
      | none => s.rdHome (p.add (8 * i)) 8).take n,
    (findK x.aheadT (wayByte p / 64)).getD (s.tagAt p))
/-- R437: of a block's tag and words, those that the bits of `m` pick are read now, once each. -/
def State.wayAhead (s : State) (p : Place) (m : Nat) (x : WayStack) : WayStack :=
  let b := wayByte p / 64
  let x := if m.testBit 0 && (findK x.aheadT b).isNone then { x with aheadT := insK x.aheadT b (s.tagAt p) } else x
  (List.range 8).foldl (fun (x : WayStack) i =>
    if m.testBit (i + 1) && (findK x.ahead (8 * b + i)).isNone then
      { x with ahead := insK x.ahead (8 * b + i) (BitVec.ofNat 64 (natOfBytes (s.rdHome (.hbm (64 * b + 8 * i)) 8))) }
    else x) x
/-- R437: a command in progress reads some of its sources; which is open. -/
def wayReadAhead (stack : Nat) (s : State) : Host.Outcome State Fault Refusal :=
  let (i, s) := s.openNat
  let (m, s) := s.openNat
  .next (
    let w := s.way stack
    let ps := w.segs.flatMap segBlocks
    match ps[i % ps.length]? with
    | some (p, n) =>
      if w.cur.isNone ∨ w.ran ∨ w.late ∨ s.eHeld p ∨ (s.homeDown p n).isSome then s else s.modWay stack fun w => s.wayAhead p m w
    | none => s)
/-- R433: the source elements of a run of blocks: values and flags. -/
def State.wayElems (s : State) (x : WayStack) (w : Nat) (ps : List (Place × Nat)) (gemv : Bool) : List (FVal × Flags) :=
  (ps.flatMap fun p => blocksOf p.1 p.2).flatMap fun p =>
    let rd := s.wayBlock x p.1 p.2
    let t := rd.2
    let v := natOfBytes rd.1
    let code := fun i => v / 2 ^ (w * i) % 2 ^ w
    let cnt := 8 * p.2 / w
    let nan : List (FVal × Flags) := List.replicate cnt (.nan false, Flags.inv)
    match fmtOf (tagFmt t) with
    | some f =>
      if f.width ≠ w ∨ (gemv && f == .f32) then nan
      else (List.range cnt).map fun i => (decodeElem f (tagScl t) (code i), 0)
    | none =>
      if w = 32 ∧ !gemv then
        (List.range cnt).map fun i => (decodeElem .f32 127 (code i), if fmtReserved (tagFmt t) then Flags.inv else 0)
      else nan
def f32Val (w : Word) : FVal := Fmt.f32.decode w.toNat
def resWord (r : Res) : Word := BitVec.ofNat 32 r.code

def execWnop (stack : Nat) (s : State) : Host.Outcome State Fault Refusal := .next (s.wayRun stack 1 fun s _ _ => s)
def execVload (stack : Nat) (s : State) : Host.Outcome State Fault Refusal :=
  .next (if s.wayHeld stack then s else s.wayRun stack 2 fun s c _ => s.wayReading stack fun s =>
    let es := s.wayElems (s.way stack) (wWidth c.width) ((s.way stack).segs.flatMap id) false
    s.wayEach stack c.n fun w i =>
      let e := es.getD i (.nan false, 0)
      let r := Fmt.f32.conv Rnd.rne e.1
      (w.setVb c.ctx (c.v0 + i) (resWord r), e.2 ||| r.fl))
def execVfill (stack : Nat) (s : State) : Host.Outcome State Fault Refusal :=
  .next (s.wayRun stack 3 fun s c _ => s.wayEach stack c.n fun w i => (w.setVb c.ctx (c.v0 + i) c.f0, 0))
def execVscale (stack : Nat) (s : State) : Host.Outcome State Fault Refusal :=
  .next (s.wayRun stack 4 fun s c _ => s.wayEach stack c.n fun w i =>
    let r := mulF .f32 Rnd.rne (f32Val (w.vbAt c.ctx (c.v0 + i))) (f32Val c.f0)
    (w.setVb c.ctx (c.v0 + i) (resWord r), r.fl))
def execRzero (stack : Nat) (s : State) : Host.Outcome State Fault Refusal :=
  .next (s.wayRun stack 5 fun s c _ => s.wayEach stack c.n fun w i => (w.setRa c.ctx (c.a0 + i) 0, 0))
/-- R434. -/
def State.gemvRow (s : State) (stack : Nat) (c : WCmd) (r : Nat) (row : List (Place × Nat)) : State :=
  let n := wChunk c.width
  let es := s.wayElems (s.way stack) (wWidth c.width) row true
  s.wayEach stack c.kblk fun w b =>
    let terms := (List.range n).map fun i => (es.getD (b * n + i) (.nan false, 0), f32Val (w.vbAt c.ctx (c.v0 + b * n + i)))
    let sum := terms.foldl (fun (x : ChunkSum) t => x.add t.1.1 t.2) ChunkSum.zero
    let fl := terms.foldl (fun (f : Flags) t => f ||| t.1.2) 0
    let acc := if b = 0 ∧ !c.acc then 0 else (w.raAt c.ctx (c.a0 + r)).toNat
    let res := accumulate acc sum
    (w.setRa c.ctx (c.a0 + r) (resWord res), fl ||| res.fl)
def execGemv (stack : Nat) (s : State) : Host.Outcome State Fault Refusal :=
  .next (if s.wayHeld stack then s else s.wayRun stack 6 fun s c _ => s.wayReading stack fun s =>
    let rows := (s.way stack).segs
    (rows.zip (List.range rows.length)).foldl (fun (s : State) r => s.gemvRow stack c r.2 r.1) s)
def execRscale (stack : Nat) (s : State) : Host.Outcome State Fault Refusal :=
  .next (s.wayRun stack 7 fun s c _ => s.wayEach stack c.n fun w i =>
    let r := mulF .f32 Rnd.rne (f32Val (w.raAt c.ctx (c.a0 + i))) (f32Val c.f0)
    (w.setRa c.ctx (c.a0 + i) (resWord r), r.fl))
def execRbias (stack : Nat) (s : State) : Host.Outcome State Fault Refusal :=
  .next (if s.wayHeld stack then s else s.wayRun stack 8 fun s c _ => s.wayReading stack fun s =>
    let es := s.wayElems (s.way stack) (wWidth c.width) ((s.way stack).segs.flatMap id) false
    s.wayEach stack c.n fun w i =>
      let e := es.getD i (.nan false, 0)
      let r := addF .f32 Rnd.rne (f32Val (w.raAt c.ctx (c.a0 + i))) e.1
      (w.setRa c.ctx (c.a0 + i) (resWord r), e.2 ||| r.fl))
def execRadd (stack : Nat) (s : State) : Host.Outcome State Fault Refusal :=
  .next (s.wayRun stack 9 fun s c _ => s.wayEach stack c.n fun w i =>
    let r := addF .f32 Rnd.rne (f32Val (w.raAt c.ctx (c.a0 + i))) (f32Val (w.raAt c.ctx (c.a1 + i)))
    (w.setRa c.ctx (c.a0 + i) (resWord r), r.fl))
def execRclamp (stack : Nat) (s : State) : Host.Outcome State Fault Refusal :=
  .next (s.wayRun stack 10 fun s c _ => s.wayEach stack c.n fun w i =>
    let m := minMaxF .f32 true false (w.raAt c.ctx (c.a0 + i)).toNat c.f0.toNat
    let r := minMaxF .f32 false false m.code c.f1.toNat
    (w.setRa c.ctx (c.a0 + i) (resWord r), m.fl ||| r.fl))
def execRtovec (stack : Nat) (s : State) : Host.Outcome State Fault Refusal :=
  .next (s.wayRun stack 11 fun s c _ => s.wayEach stack c.n fun w i => (w.setVb c.ctx (c.v0 + i) (w.raAt c.ctx (c.a0 + i)), 0))
/-- R435: the bytes of the result, with the flags. -/
def State.rstoreBytes (s : State) (stack : Nat) (c : WCmd) (f : Fmt) : List Byte × Flags :=
  let w := s.way stack
  let r := (List.range c.n).map fun i =>
    f.conv Rnd.rne ((f32Val (w.raAt c.ctx (c.a0 + i))).mapFin (·.scale (127 - (c.oscl : Int))))
  let bits := f.width
  let v := r.foldr (fun (x : Res) (a : Nat) => x.code % 2 ^ bits + 2 ^ bits * a) 0
  (bytesOf (c.n * bits / 8) v, r.foldl (fun (a : Flags) x => a ||| x.fl) 0)
/-- Whole blocks with their tag are written in order; after a failure each byte and tag is old or new (R436). -/
def State.rstoreBlocks (s : State) (tag : Tag) (mixed : Bool) : List (Place × Nat) → List Byte → Lease → Lease × State
  | [], _, v => (v, s)
  | p :: rest, bs, v =>
    let (x, s) := s.eBlock p (bs.take p.2) (some tag) mixed
    State.rstoreBlocks s tag mixed rest (bs.drop p.2) (Lease.later v x)
def execRstore (stack : Nat) (s : State) : Host.Outcome State Fault Refusal :=
  .next (if s.wayHeld stack then s else s.wayRun stack 12 fun s c _ =>
    match wStoreFmt c.ofmt with
    | none => s
    | some f =>
      let ps := (s.way stack).segs.flatMap segBlocks
      let down := (s.way stack).late || ps.any fun p => (s.homeDown p.1 0).isSome
      let (bs, fl) := s.rstoreBytes stack c f
      let tag : Tag := BitVec.ofNat 16 (c.ofmt.toNat + 256 * c.oscl)
      let (v, s) := s.rstoreBlocks tag down ps bs s.lease
      (s.wayFlags stack fl).modWay stack fun w => { w with vis := some v, fail := if down then some 7 else none })
/-- R432, R438: the counter's add. -/
def execWcount (stack : Nat) (s : State) : Host.Outcome State Fault Refusal :=
  .next (if s.wayHeld stack then s else s.wayRun stack 13 fun s _ _ =>
    match ((s.way stack).segs.flatMap id).head? with
    | some (p, _) =>
      (match s.wayCause stack [(p, 8)] with
       | some c => (s.reportAll [(p, 8)]).modWay stack fun w => { w with fail := some c }
       | none =>
         let v := s.visTime p
         ((s.eAdd64 p 1).2).modWay stack fun w => { w with vis := some v })
    | none => s)
/-- R424, R436, R438: the command completes: its flags, its batch, and what a failure posts. -/
def execWaysideCommandComplete (stack : Nat) (s : State) : Host.Outcome State Fault Refusal :=
  .next (let w := s.way stack
    match w.cur with
    | none => s
    | some e =>
      let passed := match w.vis with | some v => Lease.before v s.lease | none => true
      if !w.ran ∨ !passed then s
      else
        let c := WCmd.ofWords e.words
        let s := s.modWay stack fun w => { w with cur := none, ran := false, fail := none, flags := 0, vis := none, segs := [], late := false, ahead := [], aheadT := [] }
        let s := s.opFlags e.core e.uid w.flags
        let s := s.completeOp e.core e.op w.fail
        match w.fail with
        | none => s
        | some f => (s.crCount 16 (nWSTAT stack) 31 16 1).raise (clusterOf e.core) 4 5
            [BitVec.ofNat 32 stack, BitVec.ofNat 32 (c.ctx + 16 * f), BitVec.ofNat 32 e.core])

/-! ## WCTX (R426) -/

/-- The contexts whose OWN or EN a value changes. -/
def State.wctxChanges (s : State) (k : Nat) (v : DWord) : List Nat :=
  let old := s.cr 16 (nWCTX k)
  (List.range 4).filter fun c => dwBits old (8 * c + 4) (8 * c) != dwBits v (8 * c + 4) (8 * c)
/-- R426: a write waits for the accepted command of a context it changes. -/
def State.wctxWaits (s : State) (k : Nat) (v : DWord) : Bool :=
  match (s.way k).cur with
  | some e => (s.wctxChanges k v).contains (WCmd.ofWords e.words).ctx
  | none => false
/-- R426: the write takes effect, and the arrays of a changed context become +0. -/
def State.setWctx (s : State) (k : Nat) (v : DWord) : State :=
  let ch := s.wctxChanges k v
  (s.modCr 16 (nWCTX k) fun old => crWrite (nWCTX k) old v).modWay k fun w =>
    { w with vb := w.vb.filter fun p => !ch.contains (p.1 / 4096), ra := w.ra.filter fun p => !ch.contains (p.1 / 16384) }
def execWctxWrite (stack : Nat) (v : DWord) (s : State) : Host.Outcome State Fault Refusal :=
  .next (if s.wctxWaits stack v then s else s.setWctx stack v)

end Sys2Proof.Machine
end

