-- ==== Sys2Proof/Machine/Caravan.lean ====
section
/-! DEFINITION. Caravan (R441 to R457, R471, R472): mailboxes, messages between shards, service calls, MMIO, and the drives'
accesses. A row that is a message is the shard's step that sends it; an answer is taken by its receiver when it is written
(LOG 12). -/

namespace Sys2Proof.Machine

/-! ## Mailboxes (R444 to R449) -/

def State.mailBase (s : State) (r : Nat) : Nat := dwBits (s.cr r nMBOX) 19 10 * 1024
/-- R447: does shard r accept messages? -/
def State.accepts (s : State) (r : Nat) : Bool := decide (r ≤ 15) && s.running.getLsbD r && dwBit (s.cr r nMBOX) 0
def Cluster.mailUsed (k : Cluster) (from_ : Nat) : Nat := getK 0 k.mailTail from_ - getK 0 k.mailHead from_
/-- R444: the place of the slot of a ring. -/
def State.mailSlot (s : State) (r from_ n : Nat) : Nat := seraiAddr r (s.mailBase r + 1024 * from_ + 64 * (n % 16))
/-- R445, R447: a message is written into the next slot, with its sender. -/
def State.putMail (s : State) (from_ dest : Nat) (ws : List Word) : State :=
  let n := getK 0 (s.cl dest).mailTail from_
  let msg := ws.set 0 (wSet (ws.getD 0 0) 3 0 from_)
  (s.wrSram (s.mailSlot dest from_ n) (bytesOfWords msg)).modCl dest fun k => { k with mailTail := insK k.mailTail from_ (n + 1) }
/-- R448: the oldest message of a ring, as its slot holds it. -/
def State.headMail (s : State) (r from_ : Nat) : Option (List Word) :=
  if (s.cl r).mailUsed from_ = 0 then none
  else some (wordsOf 16 (natOfBytes (s.rdSram (s.mailSlot r from_ (getK 0 (s.cl r).mailHead from_)) 64)))
/-- R448: the message is removed, and RRP names its sender. -/
def State.dropMail (s : State) (r from_ : Nat) : State :=
  s.modCl r fun k => { k with mailHead := insK k.mailHead from_ (getK 0 k.mailHead from_ + 1), rrp := from_ }
/-- R448: the first sender after RRP, with wrap, among the rings of a mask that hold a message. -/
def Cluster.nextSender (k : Cluster) (mask : Nat) : Option Nat :=
  ((List.range 16).map fun i => (k.rrp + 1 + i) % 16).find? fun i => mask.testBit i && decide (k.mailUsed i ≠ 0)

def execMsend (g : Guard) (nb : Bool) (d : Operand) (a b : Src) (s : State) : Host.Outcome State Fault Refusal :=
  .next (seraiOp s g { srcs := [{ pos := 0, src := a, n := 16, al := 16 }, { pos := 1, src := b }], dst := some { o := d } } fun s0 s1 vs =>
    let cl := clusterOf s1.cur.core
    let r := (wordAt vs 1 0).toNat
    let give := fun (s : State) (v : Word) => (s.writeDst { o := d } [(0, [v])]).finish
    if !s1.fenceMet .domain s1.cur.core s1.cur.turn 0 then s0.block .blockedQueue (.fence .domain [0])
    else if !s1.accepts r then give s1 2
    else if wBits (wordAt vs 0 0) 31 28 ≠ 0 then give s1 3
    else if 16 ≤ (s1.cl r).mailUsed cl then
      if nb then give s1 1 else s0.block .blockedQueue (.mailRoom r cl)
    else give (s1.putMail cl r (vs.getD 0 [])) 0)
def execMrecv (g : Guard) (nb : Bool) (d : Operand) (a : Src) (s : State) : Host.Outcome State Fault Refusal :=
  .next (seraiOp s g { srcs := [{ pos := 0, src := a }], dst := some { o := d, n := 16, al := 16 } } fun s0 s1 vs =>
    let cl := clusterOf s1.cur.core
    let mask := wBits (wordAt vs 0 0) 15 0
    match (s1.cl cl).nextSender mask with
    | some f =>
      let slot := s1.mailSlot cl f (getK 0 (s1.cl cl).mailHead f)
      if s1.regionHeld slot then s0.block .blockedQueue .none
      else if s1.badSram.contains (slot / 128) then (s0.takeFault 0 8 32 (BitVec.ofNat 64 (slot % 2 ^ 20))).finish
      else ((s1.dropMail cl f).writeDst { o := d, n := 16 } [(0, (s1.headMail cl f).getD [])]).finish
    | none =>
      if nb then (s1.writeDst { o := d } [(0, [0xFFFFFFFF])]).finish else s0.block .blockedQueue (.mail mask))

/-! ## MMIO (R454, R455) -/

/-- R455: does an MMIO access reach an endpoint, which answers it? -/
def State.mmioOk (s : State) (p : DWord) : Bool × State :=
  if dwBits p 63 33 ≠ 0 ∨ !s.drives.getLsbD (dwBits p 32 32) then (false, s)
  else let (b, s) := s.openBit; (b, s)
/-- R455: the checks of an access: alignment, then the mode. -/
def mmioOp (s0 s1 : State) (p : DWord) (go : State) : State :=
  let off := dwBits p 31 0
  if off % 4 ≠ 0 then (s0.takeFault 0 4 1 (BitVec.ofNat 64 off)).finish
  else if off < 0x1000 ∧ !s1.isMonitor (clusterOf s1.cur.core) s1.cur.turn then s0.privilegeFault
  else go
def execMmiow (g : Guard) (a b : Src) (s : State) : Host.Outcome State Fault Refusal :=
  .next (seraiOp s g { srcs := [{ pos := 0, src := a, n := 2, al := 2 }, { pos := 1, src := b }] } fun s0 s1 vs =>
    let p := pairAt vs 0
    mmioOp s0 s1 p (if !s1.storesMet s1.cur.core s1.cur.turn 0 false then s0.block .blockedQueue (.stores false)
      else
        let (ok, s) := s1.mmioOk p
        if ok then (s.emit (.mmio (dwBits p 32 32) (dwBits p 31 0) (some (wordAt vs 1 0)))).finish
        else (s.raiseOpen (clusterOf s1.cur.core) 6 2).finish))
def execMmior (g : Guard) (d : Operand) (a : Src) (s : State) : Host.Outcome State Fault Refusal :=
  .next (seraiOp s g { srcs := [{ pos := 0, src := a, n := 2, al := 2 }], dst := some { o := d } } fun s0 s1 vs =>
    let p := pairAt vs 0
    mmioOp s0 s1 p (
      let (ok, s) := s1.mmioOk p
      if ok then
        let (v, s) := s.openNat
        ((s.emit (.mmio (dwBits p 32 32) (dwBits p 31 0) none)).giveD d [BitVec.ofNat 32 v]).finish
      else ((s.raiseOpen (clusterOf s1.cur.core) 6 2).giveD d [0xFFFFFFFF]).finish))

/-! ## Messages between shards (R442, R443, R450, R453, R466) -/

/-- R450: a message of a type, with its XID and payload. -/
def message (ty : Nat) (xid : BitVec 16) (pay : List Word) : List Word :=
  (BitVec.ofNat 32 (16 * ty + 4096 * xid.toNat) :: pay ++ List.replicate 15 0).take 16
def msgType (ws : List Word) : Nat := wBits (ws.getD 0 0) 11 4
def msgXid (ws : List Word) : BitVec 16 := BitVec.ofNat 16 (wBits (ws.getD 0 0) 27 12)
/-- A shard sends a message that waits for its receiver. -/
def State.sendMsg (s : State) (from_ dest : Nat) (ws : List Word) : Option State :=
  if s.running.getLsbD from_ && s.accepts dest && decide ((s.cl dest).mailUsed from_ < 16) then some (s.putMail from_ dest ws) else none
/-- A shard sends an answer, which its receiver takes: the ring holds nothing older (R449). -/
def State.sendAnswer (s : State) (from_ dest : Nat) (ws : List Word) : Option State :=
  if s.running.getLsbD from_ && s.accepts dest && decide ((s.cl dest).mailUsed from_ = 0) then some ((s.putMail from_ dest ws).dropMail dest from_) else none
/-- A shard takes the oldest message of a ring when it is of a type, with an XID and a second word. -/
def State.takeMsg (s : State) (r from_ ty : Nat) (xid : BitVec 16) (w1 : Word) : Option (List Word × State) :=
  match s.headMail r from_ with
  | some ws => if msgType ws = ty ∧ msgXid ws = xid ∧ ws.getD 1 0 = w1 then some (ws, s.dropMail r from_) else none
  | none => none

/-- R442: the bucket of an object ID. -/
def bucketOf (id : Nat) : Nat := id * 0x9E3779B97F4A7C15 % 2 ^ 64 / 2 ^ 60
/-- R442: OWNMAP of a shard; at boot, OWNMAP[h] = h. -/
def Shard.owner (k : Shard) (id : Nat) : Nat := getK (bucketOf id) k.ownmap (bucketOf id)
/-- R442: the object ID of a buffer. DESIGN CHOICE (LOG 12): its index in the buffer table, above the IDs of files (R471). -/
def bufferId (bti : Nat) : Nat := 2 ^ 32 + bti
def State.file (s : State) (id : Nat) : Option FileObj := s.files.find? fun f => f.id == id
/-- R453: the extent of a file that holds an offset. -/
def FileObj.extentAt (f : FileObj) (off : Nat) : Option Extent := f.exts.find? fun e => decide (e.foff ≤ off) && decide (off < e.foff + e.len)
/-- R451: the file of an open handle. -/
def State.handleFile (s : State) (handle : Nat) : Option FileObj := (findK s.handles handle).bind fun x => s.file x.file
def Shard.cached (k : Shard) (handle off : Nat) : Bool :=
  k.cache.any fun p => p.1 == handle && decide (p.2.foff ≤ off) && decide (off < p.2.foff + p.2.len)

/-- R453: a shard that has no cached extent asks the file's owner. -/
def execExtreq (self peer : Nat) (xid : BitVec 16) (handle : Word) (off : DWord) (len : Word) (s : State) :
    Host.Outcome State Fault Refusal :=
  .next (let k := s.shard self
    if k.owner handle.toNat ≠ peer ∨ self = peer ∨ k.cached handle.toNat off.toNat then s
    else match s.sendMsg self peer (message 1 xid [handle, 0, loOf off, hiOf off, len]) with
      | some s => s.modShard self fun k => { k with asked := k.asked ++ [(xid, handle.toNat)] }
      | none => s)
/-- R450, R453: what EXTREP says of a handle: the blocks of an extent from the one that holds the offset asked for to the last asked for,
or none where the offset lies in no extent of the file; nothing where the handle is not open. -/
def State.extentFor (s : State) (handle off len : Nat) : Option Extent :=
  (s.handleFile handle).map fun f =>
    match f.extentAt off with
    | none => { foff := off, len := 0, drive := 0, lba := 0, ver := f.ver }
    | some e =>
      let lo := e.foff + (off - e.foff) / 512 * 512
      { foff := lo, len := (Nat.min (off + len) (e.foff + e.len) - lo + 511) / 512 * 512, drive := e.drive, lba := e.lba + (off - e.foff) / 512, ver := e.ver }
/-- R450, R451: the payload of EXTREP. -/
def extrepWords : Option Extent → List Word
  | some e => [0, BitVec.ofNat 32 e.drive, BitVec.ofNat 32 e.lba, BitVec.ofNat 32 (e.lba / 2 ^ 32), BitVec.ofNat 32 (e.len / 512),
      BitVec.ofNat 32 e.ver, BitVec.ofNat 32 (e.ver / 2 ^ 32)]
  | none => [BitVec.ofInt 32 (-9)]
/-- R453: the owner sends EXTREP, and the shard that asked caches what it says. -/
def State.giveExtent (s : State) (self peer : Nat) (xid : BitVec 16) (handle off len : Nat) : Option State :=
  let ext := s.extentFor handle off len
  (s.sendAnswer self peer (message 2 xid (extrepWords ext))).map fun s => s.modShard peer fun k =>
    { k with asked := k.asked.filter fun a => a.1 != xid
             cache := match ext with | some e => k.cache ++ [(handle, e)] | none => k.cache
             bad := if ext.isSome then k.bad else k.bad ++ [handle] }
/-- R453: the owner answers with the extent, which the asking shard caches. A handle that is not open is an error (R451). A shard that is
no longer the owner sends the request on as FWD. -/
def execExtrep (self peer : Nat) (xid : BitVec 16) (handle : Word) (off : DWord) (len : Word) (s : State) :
    Host.Outcome State Fault Refusal :=
  .next (if (s.shard self).owner handle.toNat ≠ self then s
    else match s.takeMsg self peer 1 xid handle with
    | none => s
    | some (_, s') => (s'.giveExtent self peer xid handle.toNat off.toNat len.toNat).getD s)
/-- R453: an owner that is to change a file's extents tells a shard. -/
def execExtinv (self peer : Nat) (xid : BitVec 16) (handle : Word) (s : State) : Host.Outcome State Fault Refusal :=
  .next (if (s.shard self).owner handle.toNat ≠ self then s
    else match s.sendMsg self peer (message 3 xid [handle, 0]) with
    | none => s
    | some s => s.modShard self fun k =>
        let old := ((k.inval.find? fun p => p.1 == handle.toNat).map (·.2)).getD ([], [])
        { k with inval := (k.inval.filter fun p => p.1 != handle.toNat) ++ [(handle.toNat, old.1 ++ [peer], old.2 ++ [peer])] })
/-- R453: the shard has no read left that uses the old extents, forgets them, and answers. -/
def execExtack (self peer : Nat) (xid : BitVec 16) (handle : Word) (s : State) : Host.Outcome State Fault Refusal :=
  .next (match s.takeMsg self peer 3 xid handle with
    | none => s
    | some (_, s') =>
      if !(s.shard self).svc.isEmpty ∨ !(s.shard self).bufs.isEmpty then s
      else match s'.sendAnswer self peer (message 4 xid [handle, 0]) with
      | none => s
      | some s =>
        let s := s.modShard self fun k => { k with cache := k.cache.filter fun p => p.1 != handle.toNat }
        s.modShard peer fun k => { k with inval := k.inval.map fun p =>
          if p.1 = handle.toNat then (p.1, p.2.1, p.2.2.filter (· != self)) else p })
/-- R443: the running shards, in ascending order. -/
def State.runningShards (s : State) : List Nat := (List.range 16).filter fun i => s.running.getLsbD i
/-- R450: the payload of UPD and UPDACK: the version, and the update. -/
def updWords (ver what value : Nat) : List Word := [BitVec.ofNat 32 ver, BitVec.ofNat 32 (ver / 2 ^ 32), BitVec.ofNat 32 what, BitVec.ofNat 32 value]
/-- R443: shard 0 starts an update of a replicated table, when no other is in progress. -/
def State.startUpdate (s : State) (bucket owner : Nat) : State :=
  let dest := s.runningShards
  if s.update.isSome ∨ !s.running.getLsbD 0 ∨ dest.any (fun i => !s.accepts i || decide (16 ≤ (s.cl i).mailUsed 0)) then s
  else
    let ver := (s.shard 0).ver + 1
    { dest.foldl (fun (s : State) i => s.putMail 0 i (message 7 (BitVec.ofNat 16 ver) (updWords ver bucket owner))) s with update := some (ver, bucket, owner, dest) }
def execUpd (bucket owner : Nat) (s : State) : Host.Outcome State Fault Refusal := .next (s.startUpdate (bucket % 16) (owner % 16))
/-- R443: what an update changes in a shard's tables. -/
def Shard.apply (k : Shard) (what value : Nat) : Shard :=
  if what < 16 then { k with ownmap := insK k.ownmap what value }
  else if what < 32 then { k with parts := insK k.parts (what - 16) value }
  else { k with mounts := insK k.mounts (what - 32) value }
/-- R443: a shard applies the update in version order and answers; the update completes when every running shard has. -/
def execUpdack (shard : Nat) (s : State) : Host.Outcome State Fault Refusal :=
  .next (match s.update with
    | none => s
    | some (ver, bucket, owner, left) =>
      match s.takeMsg shard 0 7 (BitVec.ofNat 16 ver) (BitVec.ofNat 32 ver) with
      | none => s
      | some (_, s') =>
        match s'.sendAnswer shard 0 (message 8 (BitVec.ofNat 16 ver) (updWords ver bucket owner)) with
        | none => s
        | some s =>
          let s := s.modShard shard fun k => { k.apply bucket owner with ver }
          let left := left.filter fun i => i != shard && s.running.getLsbD i
          { s with update := if left.isEmpty then none else some (ver, bucket, owner, left) })
/-- R443, R346: the next cluster whose partition shard 0's map does not hold yet is updated. -/
def mapUpdate (s : State) : Host.Outcome State Fault Refusal :=
  .next (match (List.range 16).find? fun c => getK 0 (s.shard 0).parts c != (s.cl c).part.toNat with
    | some c => s.startUpdate (16 + c) (s.cl c).part.toNat
    | none => s)
/-- R466: a part of an object's state goes to its new owner. What the state is, is the shard's own. -/
def State.migrate (s : State) (self peer : Nat) (obj : DWord) : State :=
  let part := (List.range 13).map fun i => Config.freeWord (s.fresh + i)
  match s.sendAnswer self peer (message 9 0 ([loOf obj, hiOf obj] ++ part)) with
  | none => s
  | some s =>
    let s := { s with fresh := s.fresh + 13 }
    let s := s.modShard self fun k => { k with objs := k.objs.filter (· != obj.toNat) }
    s.modShard peer fun k => { k with objs := k.objs ++ [obj.toNat] }
def execMigrate (self peer : Nat) (obj : DWord) (s : State) : Host.Outcome State Fault Refusal := .next (s.migrate self peer obj)

/-! ## Service calls (R451, R452, R471, R472) -/

/-- R451: the lanes of a group of a record; from 32 on, a lane that is in no coalescing group, served by itself. -/
def TrapRec.groupLanes (r : TrapRec) (group : Nat) : Mask :=
  if group < 32 then r.gmask.getD group 0
  else if r.gmask.any fun m => m.getLsbD (group - 32) then 0 else Mask.single (group - 32)
/-- R451: the group of a record that waits for its call: its lanes, and its words. While its wave is being saved or restored, or a place of
its area must be waited for, it is not served (R323, R472). -/
def State.svcGroup (s : State) (cl slot group : Nat) : Option (TrapRec × Mask × List Word) :=
  match findK (s.cl cl).traps slot with
  | none => none
  | some r =>
    let m := r.groupLanes group &&& r.pend
    if m = 0 ∨ !s.running.getLsbD cl ∨ s.saving r.core r.waveTurn r.area ∨
      (r.absent && s.areaWaits cl r.part r.save (m.lanes.flatMap fun l => savedParts l r.res)) then none
    else some (r, m, getK [] r.vec ((Mask.lanes m).headD 0))
/-- R310, R451: the lanes of a group receive their result pair. -/
def State.svcGive (s : State) (cl slot : Nat) (r : TrapRec) (m : Mask) (v : Word) : State :=
  let res := s.resumeMask cl r (Mask.lanes m) fun _ _ => [v, 0]
  res.2.setTrap cl slot { r with pend := r.pend &&& ~~~res.1 }
def errWord (n : Nat) : Word := BitVec.ofInt 32 (-(n : Int))
/-- An error whose number the spec does not give. -/
def State.openError (s : State) : Word × State := let (n, s) := s.openNat; (BitVec.ofNat 32 n ||| 0x80000000, s)
/-- What a call gives: nothing while it must wait, a step on the way, or its result and the visibility time its resumption waits
for. -/
inductive SvcRes where
  | wait
  | later (s : State)
  | give (v : Word) (vis : Option Lease) (s : State)
def svcCalls : List Nat := [0x10, 0x11, 0x12, 0x13, 0x30, 0x31]
/-- R452, R472: a call of a record that has been served, if it has. -/
def Shard.served (k : Shard) (slot group : Nat) (r : TrapRec) : Option SvcDone :=
  k.svc.find? fun p => p.slot == slot && p.group == group && p.order == r.order
/-- R442: has a call been sent on to its owner? -/
def Shard.sentOn (k : Shard) (slot group : Nat) (r : TrapRec) : Bool := k.fwds.any fun p => p.from_ == some (slot, group, r.order)
/-- R452, R472: lanes whose call has been served resume once what it wrote is visible; what is kept for a record that is gone is
dropped. -/
def svcResume (cl slot group : Nat) (s : State) : Host.Outcome State Fault Refusal :=
  .next (match (s.shard cl).svc.find? fun p => p.slot == slot && p.group == group with
    | none => s
    | some p =>
      let drop := s.modShard cl fun k => { k with svc := k.svc.filter fun q => q != p }
      match s.svcGroup cl slot group with
      | none => if (findK (s.cl cl).traps slot).any fun r => r.order == p.order then s else drop
      | some (r, m, _) => if r.order ≠ p.order then drop else if Lease.before p.vis s.lease then drop.svcGive cl slot r m p.res else s)
/-- R451: a shard serves a group once; a call sent on to its owner is not served here. -/
def svcOp (s : State) (cl slot group call : Nat) (body : TrapRec → List Word → SvcRes) : State :=
  match s.svcGroup cl slot group with
  | none => s
  | some (r, m, ws) =>
    if (s.shard cl).sentOn slot group r then s
    else match (s.shard cl).served slot group r with
    | some p =>
      if Lease.before p.vis s.lease then
        (s.modShard cl fun k => { k with svc := k.svc.filter fun q => q != p }).svcGive cl slot r m p.res
      else s
    | none =>
      let n := (ws.getD 0 0).toNat
      if n = call then
        match body r ws with
        | .wait => s
        | .later s => s
        | .give v none s => s.svcGive cl slot r m v
        | .give v (some t) s => s.modShard cl fun k => { k with svc := k.svc ++ [{ slot, group, order := r.order, vis := t, res := v }] }
      else if svcCalls.contains n then s
      else s.svcGive cl slot r m (errWord 38)
def callArg (ws : List Word) (i : Nat) : Nat := (ws.getD (i + 1) 0).toNat

/-- The bytes of a path up to its zero byte; or the error that its buffer gives (R451), or a wait for a held page or home (R407, R417, R421). -/
def State.readPath (s : State) (cl : Nat) (part : BitVec 4) (bti off : Nat) : Nat → EChk (List Byte) × State
  | 0 => (.ok [], s)
  | n + 1 =>
    match s.engineChk cl part bti off 1 rREAD with
    | (.wait, s) => (.wait, s)
    | (.bad _, s) => (.bad 14, s)
    | (.ok (p, _), s) =>
      if s.eHeld p then (.wait, s)
      else if (s.homeDown p 1).isSome then (.bad 5, s.foundBad p 1)
      else
        let (b, s) := s.eRead p 1
        if b.getD 0 0 = 0 then (.ok [], s)
        else match State.readPath s cl part bti (off + 1) n with
          | (.ok bs, s) => (.ok (b ++ bs), s)
          | r => r
/-- R442, R451: `open` at the shard that owns the file; a path that names no file has no owner. -/
def svcOpenAt (s : State) (cl at_ : Nat) (r : TrapRec) (ws : List Word) : SvcRes :=
  match s.slotIndex r.core (callArg ws 0 % 64) with
  | none => .give (errWord 14) none s
  | some bti =>
    match s.readPath cl r.part bti (callArg ws 1) 4096 with
    | (.wait, _) => .wait
    | (.bad e, s) => .give (errWord e) none s
    | (.ok path, s) =>
      match s.files.find? fun f => f.path == path with
      | some f =>
        let h := f.id % 2 ^ 32
        if (s.shard at_).owner f.id ≠ at_ then .wait
        else .give (BitVec.ofNat 32 h) none ({ s with handles := insK s.handles h { file := f.id, part := r.part, write := (callArg ws 2).testBit 0 } })
      | none => let (e, s) := s.openError; .give e none s
/-- R442, R451: `close` at the owner. -/
def svcCloseAt (s : State) (at_ : Nat) (ws : List Word) : SvcRes :=
  if (s.shard at_).owner (callArg ws 0) ≠ at_ then .wait
  else match findK s.handles (callArg ws 0) with
  | some _ => .give 0 none ({ s with handles := delK s.handles (callArg ws 0) })
  | none => .give (errWord 9) none s
def execSvcOpen (cl slot group : Nat) (s : State) : Host.Outcome State Fault Refusal :=
  .next (svcOp s cl slot group 0x10 fun r ws => svcOpenAt s cl cl r ws)
def execSvcClose (cl slot group : Nat) (s : State) : Host.Outcome State Fault Refusal :=
  .next (svcOp s cl slot group 0x11 fun _ ws => svcCloseAt s cl ws)

/-- The place of a page-map entry of a buffer (R405). -/
def State.pageEntry (s : State) (bti page : Nat) : Place := .hbm ((ebits (s.tableEntry bti) 166 128 + 8 * page) % 2 ^ 39)
/-- Is a frame in use: has a shard given it to a page that has not been unmapped since? -/
def State.frameUsed (s : State) (f : Nat) : Bool := (List.range 16).any fun i => (s.shard i).frames.contains f
/-- R407, R451: pages of a buffer get entries with frames of the shard's choice (LOG 12), to be cleared at their first use; or there is no
memory for one of them, or its entry cannot be written (error 5), or must be waited for. -/
def State.mapPages (s : State) (cl bti : Nat) : List Nat → EChk Unit × State
  | [] => (.ok (), s)
  | page :: rest =>
    let p := s.pageEntry bti page
    if s.eHeld p then (.wait, s)
    else if (s.homeDown p 8).isSome then (.bad 5, s.foundBad p 8)
    else
      let (n, s) := s.openNat
      let f := n % 2 ^ 23
      if s.frameUsed f ∨ s.rgMode (f / 2 ^ 18) ≠ eMode (s.tableEntry bti) then (.bad 12, s)
      else
        let s := (s.eWrite p (bytesOf 8 (3 + 2 ^ 16 * f))).2
        State.mapPages (s.modShard cl fun k => { k with frames := k.frames ++ [f] }) cl bti rest
/-- R451: the entries of pages of a buffer are cleared, and their frames are free again; or one cannot be written, or must be waited for. -/
def State.unmapPages (s : State) (bti : Nat) : List Nat → EChk Unit × State
  | [] => (.ok (), s)
  | page :: rest =>
    let p := s.pageEntry bti page
    if s.eHeld p then (.wait, s)
    else if (s.homeDown p 8).isSome then (.bad 5, s.foundBad p 8)
    else
      let f := bitsN (natOfBytes (s.rdHome p 8)) 38 16
      let s := (s.eWrite p (bytesOf 8 0)).2
      State.unmapPages ((List.range 16).foldl (fun (s : State) i =>
        if (s.shard i).frames.contains f then s.modShard i fun k => { k with frames := k.frames.filter (· != f) } else s) s) bti rest
/-- R410, R411: the translations of pages of a buffer are removed in every cluster. -/
def State.dropPages (s : State) (bti : Nat) (pages : List Nat) : State :=
  (List.range 16).foldl (fun (s : State) c => s.modCl c fun k =>
    { k with tlb := k.tlb.filter fun t => !(pages.any fun p => t.1 == pageKey bti p) }) s
/-- R407, R451: the places of a buffer range for a call, checked as a whole; a destination's absent pages are mapped first. -/
def State.svcSegs (s : State) (cl : Nat) (part : BitVec 4) (bti right : Nat) (parts : List (Nat × Nat)) : EChk (List (Place × Nat)) × State :=
  let check := fun (s : State) => match s.bufSegsBy id cl part bti right parts with
    | (.ok l, s) => (EChk.ok l.1, s)
    | (.bad _, s) => (.bad 14, s)
    | (.wait, s) => (.wait, s)
  match s.bufSegsBy id cl part bti right parts with
  | (.bad 6, s) =>
    if right ≠ rWRITE then (.bad 14, s)
    else
      let absent := parts.filter fun p => match (s.engineChkBy id cl part bti p.1 p.2 right).1 with | .bad 6 => true | _ => false
      (match s.mapPages cl bti (absent.map fun p => p.1 / 65536) with
       | (.ok _, s) => check s
       | (.bad e, s) => (.bad e, s)
       | (.wait, s) => (.wait, s))
  | _ => check s
/-- R451: the source or destination of a read or write: its places, or why there are none. -/
def State.svcPlace (s : State) (cl : Nat) (r : TrapRec) (ws : List Word) (right : Nat) (n : Nat) : Option (List (Place × Nat) ⊕ Word) × State :=
  let kind := callArg ws 4
  let off := callArg ws 5
  if 128 ≤ kind then (some (.inr (errWord 22)), s)
  else if kind % 2 = 0 then
    if kind ≠ 0 then (some (.inr (errWord 22)), s)
    else if s.spOk r.core off n then (some (.inl [(.sram (sliceAddr r.core off), n)]), s) else (some (.inr (errWord 14)), s)
  else match s.slotIndex r.core (kind / 2) with
    | none => (some (.inr (errWord 14)), s)
    | some bti =>
      match s.svcSegs cl r.part bti right (pageParts off n) with
      | (.wait, s) => (none, s)
      | (.ok l, s) => (some (.inl l), s)
      | (.bad e, s) => (some (.inr (errWord e)), s)
/-- R457: inbound bytes, block by block, each block's tag 0x0000. A part of a block with an uncorrectable error is not
written (R402). -/
def State.driveBlocks (s : State) : List (Place × Nat) → List Byte → Lease → Lease × State
  | [], _, v => (v, s)
  | p :: rest, bs, v =>
    if (s.writeCause p.1 p.2 (p.2 == 64)).isSome then State.driveBlocks (s.foundBad p.1 p.2) rest (bs.drop p.2) v
    else
      let (x, s) := s.eBlock p (bs.take p.2) (some 0)
      State.driveBlocks s rest (bs.drop p.2) (Lease.later v x)
/-- R452: the tags of a sidecar are applied with `sttag`, block by block: a block that begins at a block of the file takes its tag. -/
def State.svcTags (s : State) (ts : List Tag) (off : Nat) : List (Place × Nat) → Lease → Lease × State
  | [], v => (v, s)
  | p :: rest, v =>
    let (t, s) : Tag × State :=
      if (off + 64 - blockPos p.1) % 64 = 0 then (ts.getD (off / 64) 0, s) else let (n, s) := s.openNat; (BitVec.ofNat 16 n, s)
    let x := s.visTime p.1
    State.svcTags (s.eTag p.1 t) ts (off + p.2) rest (Lease.later v x)
/-- R453: the extents that a run of bytes lies in. -/
def extentsIn (exts : List Extent) (off len : Nat) : List Extent :=
  exts.filter fun e => decide (e.foff < off + len) && decide (off < e.foff + e.len)
/-- R453, R454: is an extent of a run of bytes on a drive that is absent? -/
def State.driveGone (s : State) (exts : List Extent) (off len : Nat) : Bool := (extentsIn exts off len).any fun e => !s.drives.getLsbD e.drive
/-- R453: do extents hold every byte of a run, up to its end or the end of the file, which an extent of no bytes marks? -/
def covered (exts : List Extent) (stop : Nat) : Nat → Nat → Bool
  | 0, off => decide (stop ≤ off)
  | n + 1, off =>
    decide (stop ≤ off) ||
    (match exts.find? fun e => decide (e.foff ≤ off) && decide (off < e.foff + e.len) with
     | some e => covered exts stop n (e.foff + e.len)
     | none => exts.any fun e => e.len == 0 && e.foff == off)
/-- R453: the extents by which a shard reads a handle: the owner the file's, another shard those of the answers it has had. -/
def State.extentsOf (s : State) (cl handle : Nat) : List Extent :=
  if (s.shard cl).owner handle == cl then ((s.handleFile handle).map (·.exts)).getD []
  else ((s.shard cl).cache.filter fun p => p.1 == handle).map (·.2)
/-- R453: may the shard read the bytes now: it owns the file, or has had answers for all of them? -/
def State.hasExtents (s : State) (cl handle off len : Nat) : Bool :=
  (s.shard cl).owner handle == cl ||
  (let exts := s.extentsOf cl handle
   covered exts (off + len) (exts.length + 1) off)
/-- R451: what a shard knows of a handle: the file whose bytes the drives hold, or that the handle is bad; the owner from its own table,
another shard from the owner's answers. -/
def State.readFile (s : State) (cl handle : Nat) : Option FileObj :=
  if (s.shard cl).owner handle == cl then s.handleFile handle
  else if (s.shard cl).bad.contains handle then none else s.file handle
/-- R456: the bus address of a place. -/
def busOf : Place → DWord
  | .hbm d => BitVec.ofNat 64 d
  | .sram a => BitVec.ofNat 64 (2 ^ 46 + a)
  | .far .. => 0
/-- R453, R454, R456: the drive commands of a run of bytes, from the shard's own queue pair: of the extents it lies in, those parts, each with
the addresses of its places. -/
def State.drive (s : State) (cl opc : Nat) (exts : List Extent) (off len : Nat) (segs : List (Place × Nat)) : State :=
  (extentsIn exts off len).foldl (fun (s : State) e =>
    let lo := Nat.max off e.foff
    let hi := Nat.min (off + len) (e.foff + e.len)
    s.emit (.nvme e.drive (cl + 1) opc ((segsOf segs (lo - off) (hi - lo)).map fun p => busOf p.1) (BitVec.ofNat 64 (e.lba + (lo - e.foff) / 512))
      ((hi - e.foff + 511) / 512 - (lo - e.foff) / 512 - 1))) s
/-- R452: is a read direct: the drive writes the data straight to its destination? -/
def svcDirect (ws : List Word) : Bool := callArg ws 1 % 512 == 0 && callArg ws 3 % 512 == 0 && callArg ws 5 % 512 == 0
/-- The first n bytes of a run of places, block by block. -/
def firstBlocks (segs : List (Place × Nat)) (n : Nat) : List (Place × Nat) := (segsOf segs 0 n).flatMap fun p => blocksOf p.1 p.2
/-- R452: a place in the shard's SRAM for bytes; which one is open. -/
def State.svcRoom (s : State) (cl n : Nat) : Nat × State :=
  let (v, s) := s.openNat
  (seraiAddr cl (v % (2 ^ 20 - n + 1) / 64 * 64), s)
/-- R452, R457: the drive serves a read: the bytes go straight to their destination, or into the shard's SRAM, and the tags of a sidecar
into the shard's SRAM too. -/
def State.svcFetch (s : State) (cl : Nat) (f : FileObj) (exts : List Extent) (off : Nat) (direct : Bool) (segs : List (Place × Nat))
    (slot group order : Nat) : State :=
  let n := (f.data.drop off).length
  let (at_, s) : Option Nat × State := if direct then (none, s) else let (a, s) := s.svcRoom cl (Nat.min n (segs.map (·.2)).sum); (some a, s)
  let data := (f.data.drop off).take (segs.map (·.2)).sum
  let dst := match at_ with | some a => [(Place.sram a, data.length)] | none => segs
  let s := s.drive cl 2 exts off data.length dst
  let (v, s) := s.driveBlocks (firstBlocks dst data.length) data s.lease
  let (side, s) : Option Nat × State := match f.side with
    | none => (none, s)
    | some ts =>
      let bs := (ts.take ((off + data.length + 63) / 64)).flatMap fun t => bytesOf 2 t.toNat
      let (a, s) := s.svcRoom cl bs.length
      (some a, (s.driveBlocks (blocksOf (.sram a) bs.length) bs s.lease).2)
  s.modShard cl fun k => { k with bufs := (k.bufs.filter fun p => !(p.slot == slot && p.group == group)) ++
    [{ slot, group, order, at_, side, n := data.length, vis := v }] }
/-- R452: what the drive has served reaches its destination: bytes in the shard's SRAM are moved by a copy packet whose TAGMODE is raw,
and the sidecar's tags are applied. -/
def State.svcMove (s : State) (b : SvcBuf) (off : Nat) (segs : List (Place × Nat)) : Lease × State :=
  let bl := firstBlocks segs b.n
  let (v, s) := match b.at_ with
    | some a => let (bs, s) := s.eRead (.sram a) b.n; s.driveBlocks bl bs b.vis
    | none => (b.vis, s)
  match b.side with
  | some a =>
    let (bs, s) := s.eRead (.sram a) (2 * ((off + b.n + 63) / 64))
    s.svcTags ((List.range ((off + b.n + 63) / 64)).map fun i => BitVec.ofNat 16 (natOfBytes ((bs.drop (2 * i)).take 2))) off bl v
  | none => (v, s)
/-- R452, R453: a read by a shard, in two steps: the drive serves it, and then what it brought is moved. -/
def execSvcRead (cl slot group : Nat) (s : State) : Host.Outcome State Fault Refusal :=
  .next (svcOp s cl slot group 0x12 fun r ws =>
    let h := callArg ws 0
    let off := callArg ws 1 + 2 ^ 32 * callArg ws 2
    let len := callArg ws 3
    match s.readFile cl h with
    | none =>
      if (s.shard cl).owner h = cl then .give (errWord 9) none s
      else if (s.shard cl).bad.contains h then .give (errWord 9) none (s.modShard cl fun k => { k with bad := k.bad.filter (· != h) })
      else .wait
    | some f =>
      if len = 0 ∨ 1048576 < len then .give (errWord 22) none s
      else if !s.hasExtents cl h off len then .wait
      else
        match s.svcPlace cl r ws rWRITE len with
        | (none, _) => .wait
        | (some (.inr e), s) => .give e none s
        | (some (.inl segs), s) =>
          let held := (s.shard cl).bufs.find? fun p => p.slot == slot && p.group == group && p.order == r.order
          let bl := firstBlocks segs (match held with | some b => b.n | none => Nat.min len (f.data.length - off))
          let lost := fun (s : State) => SvcRes.give (errWord 5) none (s.modShard cl fun k =>
            { k with bufs := k.bufs.filter fun p => !(p.slot == slot && p.group == group) })
          if held.isNone ∧ s.driveGone (s.extentsOf cl h) off len then .give (errWord 5) none s
          else if bl.any fun p => s.eHeld p.1 then .wait
          else if bl.any fun p => (s.writeCause p.1 p.2 (p.2 == 64)).isSome then
            lost (bl.foldl (fun (s : State) p => if p.2 = 64 then s else s.foundBad p.1 p.2) s)
          else match held with
          | none => .later (s.svcFetch cl f (s.extentsOf cl h) off (svcDirect ws) segs slot group r.order)
          | some b =>
            let src := [b.at_, b.side].filterMap id
            if src.any fun a => s.regionHeld a then .wait
            else if (b.at_.any fun a => (s.readCause (.sram a) b.n).isSome) ∨ b.side.any (fun a => (s.readCause (.sram a) (2 * ((off + b.n + 63) / 64))).isSome) then lost s
            else
              let (v, s) := s.svcMove b off segs
              .give (BitVec.ofNat 32 b.n) (some v) (s.modShard cl fun k => { k with bufs := k.bufs.filter fun p => !(p.slot == slot && p.group == group) }))
/-- R451: the bytes of a source. -/
def State.svcReadBlocks (s : State) : List (Place × Nat) → List Byte × State
  | [] => ([], s)
  | p :: rest =>
    let (b, s) := s.eRead p.1 p.2
    let (bs, s) := State.svcReadBlocks s rest
    (b ++ bs, s)
/-- R453: have the other running shards given up what they hold of a file's extents? -/
def State.invalidated (s : State) (at_ handle : Nat) : Bool :=
  match (s.shard at_).inval.find? fun p => p.1 == handle with
  | some (_, told, left) => left.isEmpty && s.runningShards.all fun i => i == at_ || told.contains i
  | none => s.runningShards.all fun i => i == at_
/-- R453: does a write change the extents of a file? -/
def FileObj.grows (f : FileObj) (off len : Nat) : Bool := !(f.exts.any fun e => decide (e.foff ≤ off) && decide (off + len ≤ e.foff + e.len))
/-- R442, R451, R453: `write` at the owner. One that changes the file's extents waits until every shard has answered EXTINV; the
new extent's place is the owner's choice. -/
def svcWriteAt (s : State) (cl at_ : Nat) (r : TrapRec) (ws : List Word) : SvcRes :=
  let h := callArg ws 0
  let off := callArg ws 1 + 2 ^ 32 * callArg ws 2
  let len := callArg ws 3
  if (s.shard at_).owner h ≠ at_ then .wait
  else match findK s.handles h, s.handleFile h with
  | some x, some f =>
    if len = 0 ∨ 1048576 < len then .give (errWord 22) none s
    else if !x.write then let (e, s) := s.openError; .give e none s
    else if f.grows off len ∧ !s.invalidated at_ h then .wait
    else
      match s.svcPlace cl r ws rREAD len with
      | (none, _) => .wait
      | (some (.inr e), s) => .give e none s
      | (some (.inl segs), s) =>
        let bl := segs.flatMap fun p => blocksOf p.1 p.2
        if s.driveGone f.exts off len then .give (errWord 5) none s
        else if bl.any fun p => s.eHeld p.1 then .wait
        else if bl.any fun p => (s.homeDown p.1 p.2).isSome then .give (errWord 5) none (bl.foldl (fun (s : State) p => s.foundBad p.1 p.2) s)
        else
          let (bs, s) := s.svcReadBlocks bl
          let (gap, s) := s.openBytes (off - f.data.length)
          let (d, s) := s.openNat
          let (lba, s) := s.openNat
          let new : FileObj := { f with data := (f.data ++ gap).take off ++ bs ++ f.data.drop (off + len) }
          let lo := off / 512 * 512
          let new := if f.grows off len then
              { new with ver := f.ver + 1
                         exts := (f.exts.filter fun e => e.foff + e.len ≤ lo || decide (off + len ≤ e.foff)) ++
                           [{ foff := lo, len := (off + len - lo + 511) / 512 * 512, drive := d % 2, lba, ver := f.ver + 1 }] } else new
          let s := s.drive at_ 1 new.exts off len segs
          let s := s.modShard at_ fun k => { k with inval := k.inval.filter fun p => p.1 != h }
          .give (BitVec.ofNat 32 len) none { s with files := s.files.map fun g => if g.id = f.id then new else g }
  | _, _ => .give (errWord 9) none s
def execSvcWrite (cl slot group : Nat) (s : State) : Host.Outcome State Fault Refusal :=
  .next (svcOp s cl slot group 0x13 fun r ws => svcWriteAt s cl cl r ws)

/-! ## Calls sent on to an owner (R442, R450, R453) -/

/-- R451: the pages of a range of a buffer, if the range is one. -/
def State.svcPages (s : State) (r : TrapRec) (ws : List Word) : (Nat × List Nat) ⊕ Word :=
  match s.slotIndex r.core (callArg ws 0 % 64) with
  | none => .inr (errWord 14)
  | some bti =>
    let e := s.tableEntry bti
    let off := callArg ws 1
    if 64 ≤ callArg ws 0 ∨ off % 65536 ≠ 0 then .inr (errWord 22)
    else if !entryOk e ∨ eFar e ∨ eOwner e ≠ r.part ∨ eLength e < off + callArg ws 2 then .inr (errWord 14)
    else .inl (bti, (List.range ((callArg ws 2 + 65535) / 65536)).map fun i => off / 65536 + i)
/-- R442, R451: `pmap` at the shard that owns the buffer. Pages mapped before one fails stay mapped. -/
def svcPmapAt (s : State) (at_ : Nat) (r : TrapRec) (ws : List Word) : SvcRes :=
  match s.svcPages r ws with
  | .inr e => .give e none s
  | .inl (bti, pages) =>
    if (s.shard at_).owner (bufferId bti) ≠ at_ then .wait
    else match s.mapPages at_ bti pages with
      | (.wait, _) => .wait
      | (.bad e, s) => .give (errWord e) none (s.dropPages bti pages)
      | (.ok _, s) => .give 0 none (s.dropPages bti pages)
/-- R410, R442, R451: `punmap` at the owner: the entries are cleared, and their translations removed. -/
def svcPunmapAt (s : State) (at_ : Nat) (r : TrapRec) (ws : List Word) : SvcRes :=
  match s.svcPages r ws with
  | .inr e => .give e none s
  | .inl (bti, pages) =>
    if (s.shard at_).owner (bufferId bti) ≠ at_ then .wait
    else match s.unmapPages bti pages with
      | (.wait, _) => .wait
      | (.bad e, s) => .give (errWord e) none (s.dropPages bti pages)
      | (.ok _, s) => .give 0 none (s.dropPages bti pages)
def execSvcPmap (cl slot group : Nat) (s : State) : Host.Outcome State Fault Refusal :=
  .next (svcOp s cl slot group 0x30 fun r ws => svcPmapAt s cl r ws)
def execSvcPunmap (cl slot group : Nat) (s : State) : Host.Outcome State Fault Refusal :=
  .next (svcOp s cl slot group 0x31 fun r ws => svcPunmapAt s cl r ws)

/-! ## Calls sent on to an owner (R442, R450, R453) -/
/-- R442: the owner of the object that a call names, as a shard's table has it; none where it names none. -/
def State.callOwner (s : State) (cl : Nat) (r : TrapRec) (ws : List Word) : Option Nat :=
  let n := (ws.getD 0 0).toNat
  if n = 0x10 then
    match s.slotIndex r.core (callArg ws 0 % 64) with
    | none => none
    | some bti => match s.readPath cl r.part bti (callArg ws 1) 4096 with
      | (.ok path, _) => (s.files.find? fun f => f.path == path).map fun f => (s.shard cl).owner f.id
      | _ => none
  else if n = 0x11 ∨ n = 0x13 then some ((s.shard cl).owner (callArg ws 0))
  else if n = 0x30 ∨ n = 0x31 then (match s.svcPages r ws with | .inl (bti, _) => some ((s.shard cl).owner (bufferId bti)) | .inr _ => none)
  else none
/-- R450: the group of a record of a cluster whose call a FWD carries, with its partition and cluster. -/
def State.fwdOf (s : State) (self peer : Nat) (call : List Word) : Option (Nat × Nat × Nat) :=
  (s.cl self).traps.findSome? fun t => ((List.range 4) ++ (List.range 32).map (32 + ·)).findSome? fun g =>
    match s.svcGroup self t.1 g with
    | some (r, _, ws) =>
      if ws.take 7 = call.take 7 ∧ call.getD 7 0 = BitVec.ofNat 32 r.part.toNat ∧ call.getD 8 0 = BitVec.ofNat 32 self ∧
         peer ≠ self ∧ s.callOwner self r ws = some peer ∧ !(s.shard self).sentOn t.1 g r then some (t.1, g, r.order) else none
    | none => none
/-- R453: the request that a shard which is no longer the owner sends on: an EXTREQ as the read it stands for. -/
def State.fwdExt (s : State) (self : Nat) (xid : BitVec 16) (call : List Word) : Option (Nat × Nat) :=
  (List.range 16).findSome? fun from_ =>
    match s.headMail self from_ with
    | some ws =>
      let h := (ws.getD 1 0).toNat
      let o := (s.shard self).owner h
      if msgType ws = 1 ∧ msgXid ws = xid ∧ o ≠ self ∧ call.getD 0 0 = 0x12 ∧ (call.drop 1).take 4 = [ws.getD 1 0, ws.getD 3 0, ws.getD 4 0, ws.getD 5 0] ∧
         call.getD 8 0 = BitVec.ofNat 32 from_ then some (from_, o) else none
    | none => none
/-- R450: where a FWD that reached a shard began: the cluster, and the slot, group and record; a FWD that was sent on is followed back. -/
def State.fwdRoot (s : State) (xid : BitVec 16) : Nat → Nat → Option (Nat × Nat × Nat × Nat)
  | 0, _ => none
  | n + 1, peer =>
    match (s.shard peer).fwds.find? fun p => p.xid == xid with
    | some { from_ := some f, .. } => some (peer, f)
    | some { via := some v, .. } => State.fwdRoot s xid n v
    | _ => none
/-- R453: the shard whose FWD has come to a shard that is no longer the owner: its call goes on to the new owner. -/
def State.fwdOn (s : State) (self peer : Nat) (xid : BitVec 16) (call : List Word) : Option Nat :=
  (List.range 16).find? fun from_ =>
    match s.headMail self from_ with
    | some ws =>
      msgType ws == 5 && msgXid ws == xid && (ws.drop 1).take 9 == (call ++ List.replicate 9 0).take 9 && peer != self &&
      (match s.fwdRoot xid 16 from_ with
       | some (root, slot, group, order) =>
         (match s.svcGroup root slot group with
          | some (r, _, ws) => r.order == order && s.callOwner self r ws == some peer
          | none => false)
       | none => false)
    | none => false
/-- R442, R450, R453: a trap call goes on to the object's owner, or a request or a call to the new one. -/
def execFwd (self peer : Nat) (xid : BitVec 16) (call : MsgWords) (s : State) : Host.Outcome State Fault Refusal :=
  let note := fun (s : State) (f : Fwd) => s.modShard self fun k => { k with fwds := k.fwds ++ [f] }
  .next (match s.fwdOf self peer call with
    | some f => ((s.sendMsg self peer (message 5 xid call)).map fun s => note s { xid, peer, from_ := some f }).getD s
    | none => match s.fwdExt self xid call with
      | some (asker, o) =>
        if o ≠ peer then s
        else (((s.dropMail self asker).sendMsg self peer (message 5 xid call)).map fun s => note s { xid, peer, asker := some asker }).getD s
      | none => match s.fwdOn self peer xid call with
        | some via => (((s.dropMail self via).sendMsg self peer (message 5 xid call)).map fun s => note s { xid, peer, via := some via }).getD s
        | none => s)
/-- R442, R451: a call at the owner, for a record of the cluster it came from. The FWD names no core, which the owner takes from the
record (LOG 12). -/
def svcAt (s : State) (cl at_ : Nat) (r : TrapRec) (ws : List Word) : SvcRes :=
  match (ws.getD 0 0).toNat with
  | 0x10 => svcOpenAt s cl at_ r ws
  | 0x11 => svcCloseAt s at_ ws
  | 0x30 => svcPmapAt s at_ r ws
  | 0x31 => svcPunmapAt s at_ r ws
  | _ => svcWriteAt s cl at_ r ws
/-- R450: FWDREP goes to the shard that sent the FWD, and back to the one whose FWD that shard sent on. -/
def State.answerFwd (s : State) (xid : BitVec 16) (pay : List Word) : Nat → Nat → Nat → Option State
  | 0, _, _ => none
  | n + 1, self, peer =>
    let via := ((s.shard peer).fwds.find? fun p => p.xid == xid).bind (·.via)
    match s.sendAnswer self peer (message 6 xid pay) with
    | none => none
    | some s =>
      let s := s.modShard peer fun k => { k with fwds := k.fwds.filter fun p => p.xid != xid }
      match via with
      | none => some s
      | some v => State.answerFwd s xid pay n peer v
/-- R450, R453: the owner serves a call sent on to it and returns the result pair, with which the lanes resume; of an EXTREQ sent on it also
sends the extent to the shard that asked. A call whose record is gone is only answered. -/
def execFwdrep (self peer : Nat) (xid : BitVec 16) (res0 res1 : Word) (s : State) : Host.Outcome State Fault Refusal :=
  .next (match s.headMail self peer with
    | none => s
    | some ws =>
      if msgType ws ≠ 5 ∨ msgXid ws ≠ xid then s
      else
        let answer := fun (s : State) => (s.dropMail self peer).answerFwd xid [res0, res1] 16 self peer
        match ((s.shard peer).fwds.find? fun p => p.xid == xid).bind (·.asker) with
        | some asker =>
          let h := (ws.getD 2 0).toNat
          if (s.shard self).owner h ≠ self ∨ res1 ≠ 0 ∨ res0 ≠ (if (s.handleFile h).isSome then 0 else errWord 9) then s
          else ((answer s).bind fun u => u.giveExtent self asker xid h ((ws.getD 3 0).toNat + 2 ^ 32 * (ws.getD 4 0).toNat) (ws.getD 5 0).toNat).getD s
        | none =>
          match s.fwdRoot xid 16 peer with
          | none => (answer s).getD s
          | some (root, slot, group, order) =>
            match s.svcGroup root slot group with
            | none => (answer s).getD s
            | some (r, m, call) =>
              if r.order ≠ order then (answer s).getD s
              else match svcAt s root self r call with
                | .give v _ u => if res0 = v ∧ res1 = 0 then (match answer u with | some u => u.svcGive root slot r m v | none => s) else s
                | _ => s)

/-! ## The drives (R456, R457) -/

/-- R456: what a drive's bus address names. -/
inductive Bus where
  | mem (p : Place)
  | msix
  | refused
  deriving DecidableEq, Repr
def State.busByte (s : State) (a : DWord) : Bus :=
  if dwBits a 63 48 ≠ 0 then .refused
  else match dwBits a 47 46 with
  | 0 => if dwBits a 45 39 = 0 ∧ s.hbmNamed (dwBits a 38 0) then .mem (.hbm (dwBits a 38 0)) else .refused
  | 1 => if dwBits a 45 30 = 0 ∧ flatName (dwBits a 29 0) ≠ .nothing then .mem (.sram (dwBits a 29 0)) else .refused
  | 3 => .msix
  | _ => .refused
/-- R456: an access is decoded block by block: one that leaves what its first byte names is refused. -/
def State.busAddr (s : State) (a : DWord) (n : Nat) : Bus :=
  let b := s.busByte a
  match b with
  | .mem p =>
    if (List.range ((dwBits a 5 0 + Nat.max 1 n + 63) / 64)).all fun i => i == 0 ||
        s.busByte (BitVec.ofNat 64 ((a.toNat / 64 + i) * 64)) == .mem ((blockStart p).add (64 * i)) then b else .refused
  | _ => b
/-- R457: must an inbound access of a drive wait: for the visibility of the port's last write, or for a held block? -/
def State.busHeld (s : State) (port : Nat) (a : DWord) (n : Nat) : Bool :=
  (match findK s.pcieVis port with | some v => !Lease.before v s.lease | none => false) ||
  (match s.busAddr a n with | .mem p => s.heldSpan p n | _ => false)
def State.driveEvent (s : State) (kind : Nat) (pay : Option (List Word)) : State :=
  match pay with | some p => s.raiseSome 6 kind p | none => (let (n, s) := s.openNat; s.raiseOpen (n % 16) 6 kind)
/-- R457: a port's next write waits until the last one is visible. -/
def State.portWaits (s : State) (port : Nat) : Bool :=
  match findK s.pcieVis port with | some v => !Lease.before v s.lease | none => false
def msixEvent (s : State) (port : Nat) (data : Word) : State := s.driveEvent 1 (some [BitVec.ofNat 32 port, data])
def execDriveInboundWrite (port : Nat) (addr : DWord) (data : List Byte) (s : State) : Host.Outcome State Fault Refusal :=
  .next (if s.portWaits port then s
    else match s.busAddr addr data.length with
    | .refused => s.driveEvent 2 none
    | .msix => if data.length = 4 then msixEvent s port (BitVec.ofNat 32 (natOfBytes data)) else s.driveEvent 2 none
    | .mem p =>
      let bl := blocksOf p data.length
      if bl.any fun b => s.eHeld b.1 then s
      else
        let (v, s) := s.driveBlocks bl data s.lease
        { s with pcieVis := insK s.pcieVis port v })
def execDriveInboundRead (port : Nat) (addr : DWord) (len : Nat) (s : State) : Host.Outcome State Fault Refusal :=
  .next (match s.busAddr addr len with
    | .mem p => if s.heldSpan p len then s else if (s.homeDown p len).isSome then s.foundBad p len else s.touchSpan p len none
    | _ => s.driveEvent 2 none)
def execMsixMessage (port : Nat) (data : Word) (s : State) : Host.Outcome State Fault Refusal :=
  .next (if s.portWaits port then s else msixEvent s port data)
def execUnsupportedRequest (port : Nat) (addr : DWord) (s : State) : Host.Outcome State Fault Refusal :=
  .next (match s.busAddr addr 1 with | .refused => s.driveEvent 2 none | _ => s)

end Sys2Proof.Machine
end

