-- ==== Sys2Proof/Machine/Fabric.lean ====
section
/-! DEFINITION. The load-store fabric (R474 to R482): ports, clock synchronisation, inbound requests, recalls and timeouts. -/

namespace Sys2Proof.Machine

/-! ## Ports (R474, R497) -/

/-- R497: the width of a load-store port changes. -/
def State.setWidth (s : State) (port width : Nat) : State :=
  if dwBits (s.cr 16 (nPORTSTAT port)) 1 0 = width then s
  else (s.modCr 16 (nPORTSTAT port) fun v => dwSet v 1 0 width).raiseSome 3 4 [BitVec.ofNat 32 port, BitVec.ofNat 32 width]
def execPortWidthChange (port : Nat) (width : BitVec 2) (s : State) : Host.Outcome State Fault Refusal :=
  .next (if 8 ≤ port then s else s.setWidth port width.toNat)
/-- The first place of another package among a run's: its port now and its endpoint. -/
def State.farSeg (s : State) (ps : List (Place × Nat)) : Option (Nat × Nat) :=
  ps.findSome? fun p => match p.1 with | .far b o d _ => let x := s.farPort b o; some (x.2.getD x.1, d) | _ => none
/-- R482, R497: a request passes its limit at a port. -/
def State.timedOut (s : State) (port dst : Nat) : State :=
  (s.crCount 16 (nPORTSTAT port) 31 16 1).raiseSome 3 5 [BitVec.ofNat 32 port, BitVec.ofNat 32 dst]
def Place.dst : Place → Nat | .far _ _ d _ => d | _ => 0
/-- R482: a fabric request has no response within TMO: it completes with cause 3. The requests of a copy and of a work request count from
when it was taken (LOG 3). -/
def execFabricRequestTimeout (id : Nat) (s : State) : Host.Outcome State Fault Refusal :=
  .next (match findK s.prods id with
    | some p => (match p.src with
      | .load a => (match a.sent with
        | some (port, t) => if s.farLate t then (s.timedOut port a.place.dst).failLoad id p a (48 + port) else s
        | none => s)
      | _ => s)
    | none => match findK s.stores id with
      | some x => (match x.sent with
        | some (port, t) => if s.farLate t ∧ x.stage < 2 then (s.timedOut port x.place.dst).failStore id x (48 + port) else s
        | none => s)
      | none => match findK s.copies id with
        | some o =>
          (match (o.src ++ o.dst).findSome? s.farSeg with
           | some (port, d) => if o.done ∨ !s.farLate o.start then s else (s.timedOut port d).failCopy id o
           | none => s)
        | none => match findK s.netOps id with
          | some o =>
            (match s.farSeg o.segs with
             | some (port, d) =>
               if o.fail.isSome ∨ o.report ∨ !s.farLate o.start then s
               else { s.timedOut port d with netOps := insK s.netOps id { o with fail := some 8, sent := o.total } }
             | none => s)
          | none => s)

/-! ## Clock synchronisation (R476) -/

def State.isLeader (s : State) : Bool := dwBit (s.cr 16 nFABCTL) 34
def State.synced (s : State) : Bool := dwBit (s.cr 16 nFABCTL) 33
/-- R476, R497: SYNC changes. -/
def State.setSync (s : State) (b : Bool) : State :=
  if s.synced = b then s
  else (s.modCr 16 nFABCTL fun v => dwSet v 33 33 (if b then 1 else 0)).raiseSome 3 6 [if b then 1 else 0]
/-- The signed difference of two instants. -/
def leaseDiff (a b : Lease) : Int := (a - b).toInt
/-- R476: a follower's next exchange is due: 100 µs after the latest one began, while a port is up. -/
def State.syncDue (s : State) : Bool :=
  !s.isLeader && (List.range 8).any s.portUp && (match s.syncAt with | some t => decide (100000 ≤ (s.lease - t).toNat) | none => true)
/-- R476: a follower sends its request to the leader, through the lowest-numbered port that is up, and records t1. Every port that is up
reaches LEADID (LOG 30). -/
def clockAsk (s : State) : Host.Outcome State Fault Refusal :=
  .next (match (List.range 8).find? s.portUp with
    | some p =>
      if !s.syncDue then s
      else State.emit { s with syncAt := some s.lease, syncT1 := some s.lease } (.clockAsk p (dwBits (s.cr 16 nFABCTL) 57 48) s.lease)
    | none => s)
/-- R476: the leader's reply to the latest request comes. t1 is what this package recorded as it sent that, and t4 its lease clock now; with
other times there is no such exchange, and nothing happens. The offset is stepped forward while SYNC
is 0; other corrections change only how fast the clock runs, which the model leaves to the time that passes between steps (LOG 3). -/
def execClockSyncExchange (t1 t2 t3 t4 : Lease) (s : State) : Host.Outcome State Fault Refusal :=
  .next (
    if s.isLeader ∨ s.syncT1 ≠ some t1 ∨ t4 ≠ s.lease then s
    else
      let o2 := leaseDiff t2 t1 + leaseDiff t3 t4
      let e2 := leaseDiff t4 t1 - leaseDiff t3 t2 + 20
      let good := decide ((o2.natAbs : Int) + e2 ≤ (dwBits (s.cr 16 nFABCTL) 31 16 : Nat))
      let s := { s with syncT1 := none, syncLast := t4, syncGood := if good then Nat.min 8 (s.syncGood + 1) else 0 }
      let s := if !s.synced && decide (0 < o2) then ({ s with lease := t4 + BitVec.ofInt 48 (o2 / 2), syncLast := t4 + BitVec.ofInt 48 (o2 / 2) } : State).aged t4 else s
      if !good then s.setSync false else if 8 ≤ s.syncGood then s.setSync true else s)
/-- R476: no exchange has completed for 1 ms. -/
def execSyncLossTimeout (s : State) : Host.Outcome State Fault Refusal :=
  .next (if s.isLeader ∨ !s.synced ∨ (s.lease - s.syncLast).toNat < 1000000 then s else { s with syncGood := 0 }.setSync false)
/-- R476: the leader answers a follower: t2 at arrival and t3 at the reply. -/
def execClockSyncRequest (follower : BitVec 10) (t1 : Lease) (s : State) : Host.Outcome State Fault Refusal :=
  .next (if s.isLeader then s.emit (.clock follower s.lease s.lease) else s)

/-! ## Inbound requests (R474, R479 to R481) -/

/-- R481: the lowest-numbered window that admits a request, as its buffer and offset. -/
def State.inWindow (s : State) (src : BitVec 10) (a : Nat) : Option (Nat × Nat) :=
  ((List.range 16).find? fun n =>
    let w0 := s.cr 16 (nINWIN n 0)
    let w1 := s.cr 16 (nINWIN n 1)
    dwBit w1 24 && decide (dwBits w0 47 0 ≤ a) && decide (a < dwBits w0 47 0 + 65536 * dwBits w1 23 0) &&
      (dwBit w1 35 || dwBits w1 34 25 == src.toNat)).map fun n =>
    (dwBits (s.cr 16 (nINWIN n 0)) 63 48, a - dwBits (s.cr 16 (nINWIN n 0)) 47 0)
/-- R481: a refused request. -/
def State.inRefuse (s : State) (port : Nat) (src : BitVec 10) : State :=
  (s.crCount 16 (nPORTSTAT port) 47 32 1).emit (.fabric port src.toNat false [] 0)
/-- R481: an inbound access: the window, the checks of R407 with the buffer's owner, and its home, which may be another package's
(R477). -/
def inboundOp (s : State) (port : Nat) (src : BitVec 10) (addr : DWord) (len right : Nat) (ok : Bool)
    (body : State → Place → BitVec 512 → State) : State :=
  if !ok ∨ !s.synced then s.inRefuse port src
  else match s.inWindow src addr.toNat with
  | none => s.inRefuse port src
  | some (bti, off) =>
    match s.engineChk (port % 16) (eOwner (s.tableEntry bti)) bti off len right with
    | (.wait, s) => s
    | (.bad _, s) => s.inRefuse port src
    | (.ok (p, e), s) =>
      if s.heldSpan p len then s
      else if ((blocksOf p len).any fun b => (s.homeDown b.1 b.2).isSome) then
        (s.foundBad p len).emit (.fabric port src.toNat false [] 0)
      else body s p e
/-- R407, R414, R417, R421: must an inbound request wait? -/
def State.inWaits (s : State) (port : Nat) (src : BitVec 10) (addr : DWord) (len right : Nat) : Bool :=
  s.synced && (match s.inWindow src addr.toNat with
    | some (bti, off) => (match (s.engineChk (port % 16) (eOwner (s.tableEntry bti)) bti off len right).1 with
      | .wait => true
      | .bad _ => false
      | .ok (p, _) => s.heldSpan p len)
    | none => false)
/-- R474: 1 to 256 bytes within one aligned 256-byte range. -/
def inRange (addr : DWord) (len : Nat) : Bool := decide (1 ≤ len) && decide (len ≤ 256) && decide (addr.toNat % 256 + len ≤ 256)
/-- R377, R479: the visibility time that a home returns over the fabric for a store of bytes of one line or two. -/
def State.farVis (s : State) (p : Place) (n : Nat) : Lease := s.visSpan p n + s.skew
/-- R376, R479: the lines that a request of another package reads are leased to it when it asks for it: the lease counts at its expiry
plus SKEW, and the requester receives the expiry; where none is granted it has passed. Another package's lines are not this one's to
lease. -/
def State.leaseOut (s : State) (p : Place) (n : Nat) (e : BitVec 512) : Lease × State :=
  let (b, s) := s.openBit
  if !b ∨ eLease e = 0 ∨ p.isFar then (s.lease, s)
  else
    let x := s.lease + BitVec.ofNat 48 (eLease e)
    (x, (linesOf p n).foldl (fun (s : State) q =>
      { s with lx := insK s.lx (s.lxKey q) (match findK s.lx (s.lxKey q) with | some y => Lease.later y (x + s.skew) | none => x + s.skew) }) s)
def execInboundRead (port : Nat) (src : BitVec 10) (addr : DWord) (len : Nat) (s : State) : Host.Outcome State Fault Refusal :=
  .next (inboundOp s port src addr len rREAD (inRange addr len) fun s p e =>
    let (bs, s) := s.eRead p len
    let (x, s) := s.leaseOut p len e
    s.emit (.fabric port src.toNat true bs x))
/-- R480: may the leases of the lines of a store be recalled: can the switch be asked, and does another package hold a lease? -/
def State.mayRecall (s : State) (port : Nat) (p : Place) (n : Nat) : Bool :=
  s.dirUsed port && !p.isFar && (linesOf p n).any fun q => match findK s.lx (s.lxKey q) with
    | some x => Lease.before s.lease x && (match findK s.lxl (s.lxKey q) with | some y => Lease.before y x | none => true)
    | none => false
/-- R479, R480: the response to a store of another package, with its visibility time; or, where the lines' fabric leases are all
registered (which the switch knows), the switch is asked to recall them, and it waits for their holders' answers. -/
def State.storeAnswer (s : State) (port : Nat) (src : BitVec 10) (addr : DWord) (p : Place) (n : Nat) (data : List Byte) (v : Lease) : State :=
  let (b, s) := if s.mayRecall port p n then s.openBit else (false, s)
  if b then
    let (id, s) := s.bump
    let early := (linesOf p n).foldl (fun v q => match findK s.lxl (s.lxKey q) with | some y => Lease.later v y | none => v) s.lease
    (linesOf p n).foldl (fun (s : State) q => s.emit (.recall port (addr.toNat / 128 * 128 + (if lineKey q = lineKey p then 0 else 128))))
      { s with recalls := insK s.recalls id { store := id, line := s.lxKey p, start := s.lease, port, dst := src.toNat, data, vis := v, early } }
  else s.emit (.fabric port src.toNat true data v)
def execInboundWrite (port : Nat) (src : BitVec 10) (addr : DWord) (data : List Byte) (s : State) : Host.Outcome State Fault Refusal :=
  .next (inboundOp s port src addr data.length rWRITE (inRange addr data.length) fun s p _ =>
    ((s.eWrite p data).2).storeAnswer port src addr p data.length [] (s.farVis p data.length))
def execInboundAtomic (port : Nat) (src : BitVec 10) (addr : DWord) (op : BitVec 4) (w64 : Bool) (o1 o2 : DWord) (s : State) :
    Host.Outcome State Fault Refusal :=
  .next (let n := if w64 then 8 else 4
    inboundOp s port src addr n rATOM (addr.toNat % n == 0 && decide (op.toNat ≤ 9)) fun s p _ =>
      let v := s.farVis p n
      let (old, wrote, s) := s.performAtom p op w64 o1 o2
      let s := (s.touchPlace p none).farUsed p
      if wrote then s.storeAnswer port src addr p n (bytesOf n old) v
      else s.emit (.fabric port src.toNat true (bytesOf n old) (s.lease + s.skew)))
/-- The response that waited for a recall leaves with a visibility time. -/
def State.endRecall (s : State) (id : Nat) (r : Recall) (v : Lease) : State :=
  { s with recalls := delK s.recalls id }.emit (.fabric r.port r.dst true r.data v)
/-- R480: a recall that has not been answered within 2 µs is given up: the store's response has the value of R479. -/
def execRecallTimeout (id : Nat) (s : State) : Host.Outcome State Fault Refusal :=
  .next (match findK s.recalls id with
    | some r => if (s.lease - r.start).toNat < 2000 then s else s.endRecall id r r.vis
    | none => s)
/-- R480: every holder has answered: the response has the earlier time, if it is earlier. -/
def recallAnswered (id : Nat) (s : State) : Host.Outcome State Fault Refusal :=
  .next (match findK s.recalls id with
    | some r =>
      let v := Lease.later r.early s.lease + s.skew
      if (s.lease - r.start).toNat < 2000 then s.endRecall id r (if Lease.before v r.vis then v else r.vis) else s
    | none => s)
/-- R480: a holder of a fabric lease drops its copy of the line and answers. -/
def execLeaseRecall (port line : Nat) (s : State) : Host.Outcome State Fault Refusal :=
  .next (if line < 2 ^ 60 then s
    else ((List.range 16).foldl (fun (s : State) cl => if (findK (s.cl cl).lines line).isSome then s.modCl cl fun k => k.dropLine line else s) s).emit
      (.fabric port 0 true [] 0))

/-! ## Ethernet ports (R490, R497) -/

/-- R487, R490: a packet leaves on a port for the cluster of the peer's entry, with the epoch and its first PSN. -/
def State.putPkt (s : State) (peer port : Nat) (k : NetPkt) : State :=
  let q := s.peer peer
  s.emit (.packet peer port (dwBits (s.cr 16 (nPEER peer 0)) 13 10) q.epoch (q.first.getD k.psn) k.psn k.words k.msg k.index k.data k.tags)

def execEthernetPortChange (port : Nat) (up : Bool) (s : State) : Host.Outcome State Fault Refusal :=
  .next (if 4 ≤ port ∨ s.ethUp.getLsbD port = up then s
    else
      let bit : BitVec 4 := BitVec.ofNat 4 (2 ^ port)
      let s := { s with ethUp := if up then s.ethUp ||| bit else s.ethUp &&& ~~~bit }.raiseSome 3 0 [BitVec.ofNat 32 port, if up then 1 else 0]
      if !up then s
      else s.peers.foldl (fun (s : State) p =>
        if !dwBit (s.cr 16 (nPEER p.1 0)) (6 + port) then s
        else
          let s := (p.2.unack.filter (·.due)).foldl (fun (s : State) k => s.putPkt p.1 port k) s
          s.modPeer p.1 fun q => { q with unack := q.unack.map fun k => { k with due := false } }) s)

end Sys2Proof.Machine
end

