-- ==== Sys2Proof/Machine/Net.lean ====
section
/-! DEFINITION. The network engine (R483 to R501): submission, work requests, packets and acknowledgements, completion at
both ends, peers, registrations and counters. -/

namespace Sys2Proof.Machine

/-! ## Submission (R498, R499) -/

def Core.freeNet (k : Core) : Option Nat := (List.range 32).find? fun i => !(k.netTrk.any fun p => p.1 == i)
/-- R499: an image takes an entry of the tracking table, with the KIND of its opcode. -/
def State.fillNet (s : State) (c e op kind : Nat) (words : List Word) : State :=
  let (o, s) := s.bump
  s.modCore c fun k => { k with netTrk := insK k.netTrk e { words, kind, op, order := o } }
def netSubmit (s : State) (g : Guard) (pb : Nat) (e : Bool) (kind : Nat) : State :=
  submit s g pb 16 16 e 2 0 none .netEntry (fun s _ => (s.core s.cur.core).freeNet.isSome)
    fun s id ws => s.fillNet s.cur.core ((s.core s.cur.core).freeNet.getD 0) id kind ws
def execNsend (g : Guard) (pb : Nat) (e : Bool) (s : State) : Host.Outcome State Fault Refusal := .next (netSubmit s g pb e 1)
def execNput (g : Guard) (pb : Nat) (e : Bool) (s : State) : Host.Outcome State Fault Refusal := .next (netSubmit s g pb e 2)
def execNget (g : Guard) (pb : Nat) (e : Bool) (s : State) : Host.Outcome State Fault Refusal := .next (netSubmit s g pb e 3)
def execNatom (g : Guard) (pb : Nat) (e : Bool) (s : State) : Host.Outcome State Fault Refusal := .next (netSubmit s g pb e 4)
def execNpost (g : Guard) (pb : Nat) (e : Bool) (s : State) : Host.Outcome State Fault Refusal := .next (netSubmit s g pb e 5)

/-- R499, R294: the slot that an image becomes, without its sequence value. -/
def netSlot (core e kind : Nat) (ws : List Word) : List Word :=
  let set := fun (i hi lo x : Nat) (ws : List Word) => ws.set i (wSet (ws.getD i 0) hi lo x)
  set 14 17 17 1 (set 14 16 11 e (set 14 10 0 core (set 0 19 16 kind ws)))
/-- The entry's operation completes and the entry is freed. -/
def State.endNet (s : State) (c e : Nat) (t : NetTrk) (fail : Option Nat) : State :=
  (s.completeOp c t.op fail).modCore c fun k => { k with netTrk := delK k.netTrk e }
/-- R499: one step of a core's network issue unit. -/
def execNetIssueUnitServe (core : Nat) (s : State) : Host.Outcome State Fault Refusal :=
  let cl := clusterOf core
  .next (match firstTrk (·.order) (fun t => decide (t.stage < 2)) (s.core core).netTrk with
    | none => s
    | some (e, t) =>
      let put := fun (s : State) (t : NetTrk) => s.modCore core fun k => { k with netTrk := insK k.netTrk e t }
      if t.stage = 0 then
        let q := wsBits t.words 4 0
        let d := s.qdesc cl (nNQ q 0)
        if wsBits t.words 15 5 ≠ 0 ∨ wsBits t.words 19 16 ≠ 0 then s.endNet core e t (some 1)
        else if !d.en ∨ d.part ≠ (s.cl cl).part then (s.queueErr cl (nNQ q 0) 9).endNet core e t (some 9)
        else match s.queueMem cl d with
          | (.bad _, s) => (s.queueErr cl (nNQ q 0) 9).endNet core e t (some 9)
          | (.wait, s) => s
          | (.ok _, s) =>
            match s.queueClaim cl (nNQ q 0) with
            | (.ok w, s) => put s { t with stage := 1, w, q }
            | (.bad _, s) => s.endNet core e t (some 8)
            | (.wait, s) => s
      else
        match s.queuePut cl (nNQ t.q 0) t.w (netSlot core e t.kind t.words) with
        | (.ok _, s) => if t.kind = 5 then s.endNet core e t none else put s { t with stage := 2 }
        | (.bad _, s) => s.endNet core e t (some 8)
        | (.wait, s) => s)

/-! ## Counters (R493, R500, R501) -/

def State.ctrAdd (s : State) (cl c : Nat) (v : DWord) : State := s.modCr cl (nNCTR c) (· + v)
/-- R491: success adds 1, failure 2^32. -/
def State.ctrEnd (s : State) (cl c : Nat) (fail : Bool) : State := s.ctrAdd cl c (if fail then 0x100000000 else 1)
/-- R500: is a lane satisfied? -/
def nctrMet (v want : DWord) : Bool := decide (want.toNat ≤ dwBits v 31 0) || decide (dwBits v 63 32 ≠ 0)
def execNwait (g : Guard) (d : Operand) (a b : Src) (s : State) : Host.Outcome State Fault Refusal :=
  .next (match prep s g { srcs := [{ pos := 0, src := a }, { pos := 1, src := b }], dst := some { o := d } } with
    | .stop s => s
    | .go s0 s1 rows =>
      let cl := s1.curCl
      let want := rows.map fun (p : Nat × List (List Word)) => (p.1, wBits (wordAt p.2 0 0) 7 0, (wordAt p.2 1 0).setWidth 64)
      let unmet := want.filter fun (p : Nat × Nat × DWord) => !nctrMet (s1.cr cl (nNCTR p.2.1)) p.2.2
      if !unmet.isEmpty then s0.block .blockedQueue (.nctr unmet)
      else (s1.writeDst { o := d } (want.map fun (p : Nat × Nat × DWord) => (p.1, [hiOf (s1.cr cl (nNCTR p.2.1))]))).finish)
def execNctr (g : Guard) (d : Operand) (a : Src) (s : State) : Host.Outcome State Fault Refusal :=
  .next (laneOp s g { srcs := [{ pos := 0, src := a }], dst := some { o := d, n := 2, al := 2 } } fun s _ vs =>
    let v := s.cr s.curCl (nNCTR (wBits (wordAt vs 0 0) 7 0))
    (s, [loOf v, hiOf v], 0))
def execNset (g : Guard) (a b : Src) (s : State) : Host.Outcome State Fault Refusal :=
  .next (onceOp s g { srcs := [{ pos := 0, src := a }, { pos := 1, src := b, n := 2, al := 2 }] } fun s _ vs =>
    s.setCr s.curCl (nNCTR (wBits (wordAt vs 0 0) 7 0)) (pairAt vs 1))

/-! ## Work requests (R486 to R488) -/

def nKind (ws : List Word) : Nat := wsBits ws 19 16
def nGated (ws : List Word) : Bool := wsBit ws 20
def nLasp (ws : List Word) : Nat := wsBits ws 22 21
def nKeep (ws : List Word) : Bool := wsBits ws 30 29 == 0
def nPeerNo (ws : List Word) : Nat := wsBits ws 43 32
def nRkey (ws : List Word) : Nat := wsBits ws 63 48
def nLaddr (ws : List Word) : Nat := wsBits ws 127 64
def nRoff (ws : List Word) : Nat := wsBits ws 191 128
def nLen (ws : List Word) : Nat := wsBits ws 223 192
def nOpnd1 (ws : List Word) : Nat := wsBits ws 351 288
/-- R386: the width of an atomic. -/
def nWidth (ws : List Word) : Nat := if wsBit ws 28 then 8 else 4
/-- R488 cause 1; `recv` says that the queue is a receive queue and `wen` that gating is enabled. -/
def nMalformed (ws : List Word) (recv wen : Bool) : Bool :=
  let k := nKind ws
  k == 0 || decide (5 < k) || wsBit ws 23 || wsBit ws 31 || wsBits ws 47 44 != 0 || wsBits ws 255 233 != 0 || wsBits ws 447 416 != 0 ||
  wsBits ws 511 466 != 0 || decide (1 < nLasp ws) || decide (wsBits ws 30 29 = 1 ∨ wsBits ws 30 29 = 3) ||
  (if k = 4 then nLen ws != 0 else nLen ws == 0 || decide (2 ^ 24 < nLen ws)) ||
  (k == 4 && (decide (9 < wsBits ws 27 24) || nRoff ws % nWidth ws != 0 || nLaddr ws % nWidth ws != 0)) ||
  ((k == 2 || k == 3) && nKeep ws && nLaddr ws % 64 != nRoff ws % 64) ||
  (k == 5) != recv || (nGated ws && !wen) || !addrClean (nLasp ws) (nLaddr ws) ||
  (k == 5 && (nPeerNo ws != 0 || nRkey ws != 0 || nRoff ws != 0 || wsBits ws 27 24 != 0 || wsBits ws 415 352 != 0 ||
    nOpnd1 ws % 8 != 0 || !addrClean (nLasp ws) (nOpnd1 ws)))
/-- R13, R488, R491: the core whose tracking entry the token of an entry of a queue names, when it awaits a completion and its cluster is
of the queue's partition. TKCORE has 11 bits, which do not tell core `cl` of cluster 0 from the serai of cluster `cl` (DEDUCED, LOG 31):
the entry whose unit wrote the slot is preferred. -/
def State.netToken (s : State) (cl q : Nat) (ws : List Word) : Option Nat :=
  let d := s.qdesc cl (nNQ q 0)
  if !wsBit ws 465 ∨ d.part ≠ (s.cl cl).part then none
  else
    let found := [wsBits ws 458 448, seraiOf cl].filterMap fun c =>
      match findK (s.core c).netTrk (wsBits ws 464 459) with
      | some t => if t.stage = 2 ∧ clusterOf c = cl then some (c, decide (t.q = q ∧ t.w = d.ridx.toNat)) else none
      | none => none
    ((found.find? (·.2)).or found.head?).map (·.1)
/-- R484: a peer entry. -/
def State.peerValid (s : State) (p : Nat) (part : BitVec 4) : Bool :=
  let v := s.cr 16 (nPEER p 0)
  dwBit v 0 && v.extractLsb' 2 4 == part
/-- A port of a peer's PORTS is up. -/
def State.peerUp (s : State) (p : Nat) : Bool := (s.cr 16 (nPEER p 0)).extractLsb' 6 4 &&& s.ethUp != 0
/-- R488 cause 2: the places of a run of local bytes. -/
def State.netSegs (s : State) (cl : Nat) (part : BitVec 4) (space addr n right : Nat) : EChk (List (Place × Nat)) × State :=
  if space = 1 ∧ 2 ^ 48 < addr % 2 ^ 48 + n then (.bad 2, s)
  else match s.spaceSegs cl part space 0 addr n right with
    | (.ok (l, _), s) => (.ok l, s)
    | (.bad c, s) => (.bad c, s)
    | (.wait, s) => (.wait, s)
/-- The bytes and the right that a work request needs at LADDR. -/
def nLocal (ws : List Word) : Nat × Nat :=
  match nKind ws with
  | 1 | 2 => (nLen ws, rREAD)
  | 4 => (nWidth ws, rWRITE)
  | _ => (nLen ws, rWRITE)
/-- R489: the packets of a message. -/
def packets (len : Nat) : Nat := (len + 2047) / 2048
/-- R494: does the gate of a queue's entry hold? -/
def State.gateMet (s : State) (cl q : Nat) (ws : List Word) : Bool :=
  decide (wsBits ws 287 256 ≤ dwBits (s.cr cl (nNCTR (dwBits (s.cr cl (nNQ q 1)) 23 16))) 31 0)
/-- R282, R488: an entry is taken: it is checked, and its failure or its start is kept. -/
def State.netStart (s : State) (cl q : Nat) (ws : List Word) : State :=
  let d := s.qdesc cl (nNQ q 0)
  let tok := s.netToken cl q ws
  let add := fun (s : State) (o : NetOp) =>
    let o := { o with start := s.lease, tok }
    let (id, s) := (s.queueAdvance cl (nNQ q 0)).bump
    ({ s with netOps := insK s.netOps id o } : State).modCl cl fun k => { k with nrr := (q + 1) % 32 }
  let bad := fun (s : State) (c : Nat) => add (s.queueErr cl (nNQ q 0) c) { cl, q, words := ws, fail := some c }
  if nMalformed ws false (dwBit (s.cr cl (nNQ q 1)) 24) || (wsBit ws 465 && tok.isNone) then bad s 1
  else
    let (n, right) := nLocal ws
    match s.netSegs cl d.part (nLasp ws) (nLaddr ws) n right with
    | (.wait, s) => s
    | (.bad c, s) => if c = 5 then bad s 8 else bad s 2
    | (.ok segs, s) =>
      if !s.peerValid (nPeerNo ws) d.part ∨ !s.peerUp (nPeerNo ws) then bad s 3
      else add s { cl, q, words := ws, total := if nKind ws ≤ 2 then packets (nLen ws) else 1, segs }
/-- The entry at RIDX of an enabled initiator queue. -/
def State.initiatorHead (s : State) (cl q : Nat) : Option (List Word) × State :=
  if dwBit (s.cr cl (nNQ q 1)) 15 then (none, s) else s.queueHead cl (nNQ q 0)
def execNetWrTake (cl q : Nat) (s : State) : Host.Outcome State Fault Refusal :=
  .next (match s.initiatorHead cl q with
    | (none, s) => s
    | (some ws, s) =>
      if nGated ws && dwBit (s.cr cl (nNQ q 1)) 24 && !s.gateMet cl q ws then s else s.netStart cl q ws)
/-- R494: a gated entry starts once its gate holds. -/
def execNetGateOpen (cl q : Nat) (s : State) : Host.Outcome State Fault Refusal :=
  .next (match s.initiatorHead cl q with
    | (none, s) => s
    | (some ws, s) => if nGated ws && s.gateMet cl q ws then s.netStart cl q ws else s)

/-! ## Packets (R489, R490) -/

/-- R497: RTO in ticks, and RETRY. -/
def State.rto (s : State) : Nat := 1000 * dwBits (s.cr 16 nNETCTL) 15 0
def State.retry (s : State) : Nat := dwBits (s.cr 16 nNETCTL) 19 16
/-- The blocks' parts of bytes of a message, each with the number of its first byte. -/
def partsFrom : Nat → List (Place × Nat) → List (Place × Nat × Nat)
  | _, [] => []
  | x, p :: rest => (p.1, p.2, x) :: partsFrom (x + p.2) rest
def msgParts (segs : List (Place × Nat)) (off n : Nat) : List (Place × Nat × Nat) :=
  partsFrom off ((segsOf segs off n).flatMap fun p => blocksOf p.1 p.2)
/-- R489: the bytes and tags of parts of a message, those read ahead as they were. -/
def State.readParts (s : State) (o : NetOp) : List (Place × Nat × Nat) → (List Byte × List Tag) × State
  | [] => (([], []), s)
  | p :: rest =>
    let (b, s) := s.eRead p.1 p.2.1
    let b := (b.zip (List.range b.length)).map fun y => (findK o.ahead (p.2.2 + y.2)).getD y.1
    let t := (findK o.aheadT p.2.2).getD (s.tagAt p.1)
    let (r, s) := s.readParts o rest
    ((b ++ r.1, t :: r.2), s)
/-- R490: the up ports that may carry a peer's packets. -/
def State.upPorts (s : State) (peer : Nat) : List Nat :=
  (List.range 4).filter fun i => dwBit (s.cr 16 (nPEER peer 0)) (6 + i) && s.ethUp.getLsbD i
/-- R489, R490: a packet's transmission, on any port that is up; with none it counts as made and is due. -/
def State.transmit (s : State) (peer : Nat) (k : NetPkt) : NetPkt × State :=
  if (s.upPorts peer).isEmpty then ({ k with due := true }, s)
  else
    let (n, s) := s.openNat
    let ps := s.upPorts peer
    let k := { k with due := false }
    (k, s.putPkt peer (ps.getD (n % ps.length) 0) k)
/-- R487: the words of a response to a peer, of KIND 6. -/
def respWords (peer : Nat) : List Word := 0x60000 :: BitVec.ofNat 32 peer :: List.replicate 14 0
/-- R489: the bytes of the next packet of a request that are read at home. -/
def NetOp.nextParts (o : NetOp) : List (Place × Nat × Nat) :=
  if nKind o.words ≤ 2 then msgParts o.segs (2048 * o.sent) (Nat.min 2048 (nLen o.words - 2048 * o.sent)) else []
/-- R489: what the next packet carries. -/
def State.packetData (s : State) (o : NetOp) : (List Byte × List Tag) × State :=
  if nKind o.words = 6 then
    let d := (o.out.drop (2048 * o.sent)).take 2048
    let lo := (o.pos + 2048 * o.sent) / 64
    ((d, (o.outT.drop lo).take ((o.pos + 2048 * o.sent + d.length + 63) / 64 - lo)), s)
  else s.readParts o o.nextParts
/-- R502: have the requests of its queue for its peer that were taken before it sent all their packets? -/
def State.inTurn (s : State) (id : Nat) (o : NetOp) : Bool :=
  nKind o.words == 6 || !s.netOps.any fun x =>
    decide (x.1 < id) && nKind x.2.words != 6 && x.2.cl == o.cl && x.2.q == o.q && nPeerNo x.2.words == nPeerNo o.words &&
      x.2.fail.isNone && decide (x.2.sent < x.2.total)
/-- R489, R490: the first transmission of an operation's next packet. A source that cannot be read fails the request. -/
def netTransmit (s : State) (id kind : Nat) : State :=
  match findK s.netOps id with
  | none => s
  | some o =>
    let peer := nPeerNo o.words
    if nKind o.words ≠ kind ∨ o.fail.isSome ∨ o.total ≤ o.sent ∨ 1024 ≤ (s.peer peer).unack.length ∨ !s.inTurn id o then s
    else if o.nextParts.any fun p => s.eHeld p.1 then s
    else if o.nextParts.any fun p => (s.homeDown p.1 p.2.1).isSome then
      { o.nextParts.foldl (fun (s : State) p => s.foundBad p.1 p.2.1) s with netOps := insK s.netOps id { o with fail := some 8, sent := o.total } }
    else
      let (data, s) := s.packetData o
      let (first, s) : Word × State := match (s.peer peer).first with
        | some f => (f, s)
        | none => let (n, s) := s.openNat; (BitVec.ofNat 32 n, s)
      let psn := if (s.peer peer).first.isSome then (s.peer peer).psn else first
      let k : NetPkt := { psn, op := id, index := o.sent, data := data.1, tags := data.2, words := o.words, msg := o.msg.getD id,
                          at_ := s.lease + BitVec.ofNat 48 s.rto, rto := s.rto }
      let (k, s) := s.transmit peer k
      let s := s.modPeer peer fun p => { p with first := some first, psn := psn + 1, unack := p.unack ++ [k] }
      { s with netOps := insK s.netOps id { o with sent := o.sent + 1 } }
/-- R489: a byte of a request, and a tag, may be read at any time between its take and its transmission. -/
def netReadAhead (id : Nat) (s : State) : Host.Outcome State Fault Refusal :=
  let (n, s) := s.openNat
  let (w, s) := s.openBit
  .next (match findK s.netOps id with
    | none => s
    | some o =>
      let k := 2048 * o.sent + n % (nLen o.words - 2048 * o.sent)
      if 2 < nKind o.words ∨ o.fail.isSome ∨ nLen o.words ≤ k then s
      else match byteAt o.segs k with
        | some (.far ..) | none => s
        | some p =>
          if s.eHeld p ∨ (s.homeDown p 1).isSome then s
          else
            let x := Nat.max (k - blockPos p) (k / 2048 * 2048)
            let o := if (findK o.ahead k).isSome then o else { o with ahead := insK o.ahead k ((s.rdHome p 1).headD 0) }
            let o := if w && (findK o.aheadT x).isNone then { o with aheadT := insK o.aheadT x (s.tagAt p) } else o
            { s with netOps := insK s.netOps id o })
def execNetSend (id : Nat) (s : State) : Host.Outcome State Fault Refusal := .next (netTransmit s id 1)
def execNetPut (id : Nat) (s : State) : Host.Outcome State Fault Refusal := .next (netTransmit s id 2)
def execNetGet (id : Nat) (s : State) : Host.Outcome State Fault Refusal := .next (netTransmit s id 3)
def execNetAtomic (id : Nat) (s : State) : Host.Outcome State Fault Refusal := .next (netTransmit s id 4)
/-- R487, R490: a response to a get or an atomic goes to the peer in packets of its own. -/
def netSendResponse (id : Nat) (s : State) : Host.Outcome State Fault Refusal := .next (netTransmit s id 6)

/-- R484, R490: a peer's sequence state is reset and its epoch increases; its requests that are not complete fail. -/
def State.resetPeer (s : State) (peer cause : Nat) : Nat × State :=
  let hit := fun (o : Nat × NetOp) => nPeerNo o.2.words == peer && o.2.fail.isNone
  let ops := s.netOps.map fun (o : Nat × NetOp) => if hit o then (o.1, { o.2 with fail := some cause, sent := o.2.total }) else o
  let msgs := s.netMsgs.filter fun (m : Nat × NetMsg) => m.2.peer != peer
  let mine := s.netOps.filter fun o => hit o && nKind o.2.words != 6
  let s := { s with netOps := ops, netMsgs := msgs }
  (mine.length, s.modPeer peer fun p => { epoch := p.epoch + 1 })
/-- R490: a retransmission: it counts, and doubles and restarts the timeout. -/
def State.resend (s : State) (peer : Nat) (k : NetPkt) (shown : List Word) : State :=
  let (k, s) := s.transmit peer { k with tries := k.tries + 1, rto := 2 * k.rto, at_ := s.lease + BitVec.ofNat 48 (2 * k.rto), shown }
  s.modPeer peer fun p => { p with unack := p.unack.map fun x => if x.psn = k.psn then k else x }
def execNetRetransmitTimeout (peer : Nat) (psn : Word) (s : State) : Host.Outcome State Fault Refusal :=
  .next (match (s.peer peer).unack.find? fun k => k.psn == psn with
    | none => s
    | some k =>
      if Lease.before s.lease k.at_ then s
      else if s.retry ≤ k.tries then
        let (n, s) := s.resetPeer peer 7
        s.raiseSome 3 1 [BitVec.ofNat 32 peer, BitVec.ofNat 32 n]
      else s.resend peer k [])

/-! ## Arrivals (R484, R489, R490, R492, R495, R496) -/

/-- R484: the lowest valid entry whose ADDR and JOBID match a source. -/
def State.peerOf (s : State) (addr : BitVec 128) (v6 : Bool) (job : Word) : Option Nat :=
  (s.crs.filterMap fun p =>
      let num := p.1 % 2 ^ 24
      if p.1 / 2 ^ 32 = 16 ∧ crNum 6 0 ≤ num ∧ num < crNum 6 0x4000 ∧ num % 4 = 0 then some ((num - crNum 6 0) / 4) else none).find? fun n =>
    let w := s.cr 16 (nPEER n 0)
    let a := s.cr 16 (nPEER n 2) ++ s.cr 16 (nPEER n 1)
    dwBit w 0 && dwBit w 1 == v6 && hiOf w == job && (if v6 then a == addr else a.extractLsb' 0 32 == addr.extractLsb' 0 32)
/-- R490: is a PSN at or below another? -/
def psnLe (a b : Word) : Bool := decide ((b - a).toNat < 2 ^ 31)
/-- R490: what the receiver keeps after a PSN has arrived: CACK passes every PSN that follows. -/
def PeerSeq.take (p : PeerSeq) (psn : Word) : PeerSeq :=
  let bits := psn :: p.bits
  let r := (List.range 1025).foldl (fun (a : Word × List Word) _ =>
    if a.2.contains (a.1 + 1) then (a.1 + 1, a.2.filter (· != a.1 + 1)) else a) (p.cack, bits)
  { p with cack := r.1, bits := r.2 }
/-- R490: the epoch of an arriving packet: the first one accepted, or a later one, starts the sequence; an older one is
dropped. -/
def PeerSeq.enter (p : PeerSeq) (epoch : BitVec 8) (first : Word) : Option (PeerSeq × Bool) :=
  match p.rEpoch with
  | none => some ({ p with rEpoch := some epoch, cack := first - 1, bits := [] }, true)
  | some e =>
    if e = epoch then some (p, false)
    else if (epoch - e).toNat < 128 then some ({ p with rEpoch := some epoch, cack := first - 1, bits := [] }, true)
    else none

/-- R495: the registration of a cluster. -/
structure Reg where
  state : Nat
  put   : Bool
  get   : Bool
  atom  : Bool
  part  : BitVec 4
  ctr   : Nat
  cen   : Bool
  bti   : Nat
  base  : Nat
  len   : Nat
  deriving DecidableEq, Repr
def State.regOf (s : State) (cl r : Nat) : Reg :=
  let a := s.cr cl (nREG r 0)
  let b := s.cr cl (nREG r 1)
  { state := dwBits a 1 0, put := dwBit a 2, get := dwBit a 3, atom := dwBit a 4, part := a.extractLsb' 5 4, ctr := dwBits a 16 9,
    cen := dwBit a 17, bti := dwBits a 47 32, base := dwBits b 39 0, len := 64 * dwBits b 63 40 }
/-- R488, R495, R496: the places that a request reaches through a registration, or the cause of its refusal. -/
def State.regCheck (s : State) (cl r : Nat) (part : BitVec 4) (kind roff n : Nat) : EChk (List (Place × Nat)) × State :=
  let g := s.regOf cl r
  let right := match kind with | 2 => (g.put, rWRITE) | 3 => (g.get, rREAD) | _ => (g.atom, rATOM)
  if 256 ≤ r ∨ g.state = 0 then (.bad 4, s)
  else if g.state ≠ 1 then (.bad 5, s)
  else if !right.1 ∨ g.part ≠ part ∨ g.len < roff + n then (.bad 4, s)
  else match s.bufSegs cl g.part g.bti right.2 (pageParts (g.base + roff) n) with
    | (.ok (l, _), s) => (.ok l, s)
    | (.bad c, s) => (.bad (if c = 5 then 8 else 4), s)
    | (.wait, s) => (.wait, s)

/-- R489: packet data reach their places: with keep, a block that the message of `len` bytes writes wholly takes the source block's
tag; with raw, every block touched takes 0x0000. With `mixed`, each byte and each tag is old or new (R488). -/
def State.placeParts (s : State) (keep : Bool) (len : Nat) (mixed : Bool) : List (Place × Nat × Nat) → List Tag → List Byte → Lease → Lease × State
  | [], _, _, v => (v, s)
  | (p, n, x) :: rest, ts, bs, v =>
    let whole := blockPos p ≤ x ∧ x - blockPos p + 64 ≤ len
    let (y, s) := s.eBlock (p, n) (bs.take n) (if !keep then some 0 else if whole then some (ts.headD 0) else none) mixed
    State.placeParts s keep len mixed rest (ts.drop 1) (bs.drop n) (Lease.later v y)
/-- R402: why data cannot be placed. -/
def State.placeBad (s : State) (ps : List (Place × Nat × Nat)) : Bool :=
  ps.any fun p => (s.writeCause p.1 p.2.1 (p.2.1 == 64)).isSome
/-- R490: answer a packet: the selective acknowledgement, and what it reports of the message. -/
def State.netAnswer (s : State) (peer msg : Nat) (complete : Bool) (cause : Option Nat) : State :=
  let q := s.peer peer
  s.emit (.answer peer (q.rEpoch.getD 0) q.cack q.bits msg complete cause)
/-- R490, R492: a message ends at the target: what its acknowledgement reports, it reports again for a duplicate. -/
def State.endMsg (s : State) (peer id msg : Nat) (cause : Option Nat) : State :=
  (({ s with netMsgs := delK s.netMsgs id } : State).modPeer peer fun q => { q with ended := q.ended ++ [(msg, cause)] }).netAnswer peer msg
    cause.isNone cause
/-- R490: a duplicate is acknowledged again, with what its message has come to. -/
def State.answerAgain (s : State) (peer msg : Nat) : State :=
  match (s.peer peer).ended.find? fun e => e.1 == msg with
  | some e => s.netAnswer peer msg e.2.isNone e.2
  | none => s.netAnswer peer msg false none
/-- R487, R490: the response to a peer's request, which begins `pos` bytes into a block. -/
def State.netReply (s : State) (peer cl msg pos : Nat) (data : List Byte) (tags : List Tag) : State :=
  let (id, s) := s.bump
  let o : NetOp := { cl, q := 0, words := respWords peer, total := packets (Nat.max 1 data.length), report := true, msg := some msg, out := data, outT := tags, pos }
  { s with netOps := insK s.netOps id o }

/-- R487, R488: the oldest posted receive of a queue, if there is one. It is waited for while its memory is held or its pages are
busy, and while an entry that fails its checks is still to be removed (`execNetPostReceive`). -/
def State.postedHead (s : State) (cl q : Nat) : EChk (Option (List Word × List (Place × Nat))) × State :=
  match s.queueLook cl (nNQ q 0) with
  | (.wait, s) => (.wait, s)
  | (.bad c, s) => (.bad c, s)
  | (.ok none, s) => (.ok none, s)
  | (.ok (some ws), s) =>
    if nMalformed ws true (dwBit (s.cr cl (nNQ q 1)) 24) then (.wait, s)
    else
      let part := (s.qdesc cl (nNQ q 0)).part
      match s.netSegs cl part (nLasp ws) (nLaddr ws) (nLen ws) rWRITE with
      | (.ok segs, s) =>
        (match s.netSegs cl part (nLasp ws) (nOpnd1 ws) 8 rWRITE with
         | (.ok _, s) => (.ok (some (ws, segs)), s)
         | (_, s) => (.wait, s))
      | (_, s) => (.wait, s)
/-- R487, R488: a posted entry that fails its checks is removed, with its cause, and its counter counts the failure. -/
def execNetPostReceive (cl q : Nat) (s : State) : Host.Outcome State Fault Refusal :=
  .next (if !dwBit (s.cr cl (nNQ q 1)) 15 then s
    else match s.queueHead cl (nNQ q 0) with
    | (none, s) => s
    | (some ws, s) =>
      let drop := fun (s : State) (c : Nat) =>
        let s := (s.queueErr cl (nNQ q 0) c).queueAdvance cl (nNQ q 0)
        if wsBit ws 232 then s.ctrEnd cl (wsBits ws 231 224) true else s
      if nMalformed ws true (dwBit (s.cr cl (nNQ q 1)) 24) then drop s 1
      else
        let part := (s.qdesc cl (nNQ q 0)).part
        match s.netSegs cl part (nLasp ws) (nLaddr ws) (nLen ws) rWRITE with
        | (.wait, s) => s
        | (.bad _, s) => drop s 2
        | (.ok _, s) => match s.netSegs cl part (nLasp ws) (nOpnd1 ws) 8 rWRITE with
          | (.bad _, s) => drop s 2
          | (_, s) => s)

/-- The message of a packet as the target keeps it: the one already there, or a new one, matched or refused (R487, R495). -/
def State.openMsg (s : State) (peer : Nat) (p : NetPacket) : Option (Nat × NetMsg) × State :=
  match s.netMsgs.find? fun m => m.2.peer == peer && m.2.msg == p.msg with
  | some m => (some m, s)
  | none =>
    let cl := p.clus.toNat
    let part := (s.cr 16 (nPEER peer 0)).extractLsb' 2 4
    let n := if p.kind = 4 then (if p.aw64 then 8 else 4) else p.total
    let m : NetMsg := { peer, msg := p.msg, kind := p.kind, clus := cl, key := p.rkey.toNat, len := n, part }
    let (id, s) := s.bump
    let add := fun (s : State) (m : NetMsg) => (some (id, m), ({ s with netMsgs := insK s.netMsgs id m } : State))
    if p.kind = 1 then
      let q := p.rkey.toNat
      let d := s.qdesc cl (nNQ q 0)
      if 32 ≤ q ∨ !d.en ∨ !dwBit (s.cr cl (nNQ q 1)) 15 ∨ d.part ≠ part then add s { m with fail := some 4 }
      else match s.postedHead cl q with
        | (.wait, s) => (none, s)
        | (.bad _, s) => add s { m with fail := some 8 }
        | (.ok none, s) => add s { m with fail := some 6 }
        | (.ok (some (ws, segs)), s) =>
          if nLen ws < n then add s { m with fail := some 6 }
          else add (s.queueAdvance cl (nNQ q 0)) { m with recv := some ws, segs := segsOf segs 0 n }
    else match s.regCheck cl p.rkey.toNat part p.kind p.roff.toNat n with
      | (.ok segs, s) => add s { m with segs }
      | (.bad c, s) => add s { m with fail := some c }
      | (.wait, s) => (none, s)
/-- R496: a packet of a message that arrives after the revoke mark is refused, and the message fails. -/
def State.revoked (s : State) (m : NetMsg) : Bool := m.kind != 1 && (s.regOf m.clus m.key).state != 1
/-- R489, R490, R495: a validated packet takes effect. -/
def State.netPlace (s : State) (peer : Nat) (p : NetPacket) (id : Nat) (m : NetMsg) : State :=
  let put := fun (s : State) (m : NetMsg) => { s with netMsgs := insK s.netMsgs id m }
  let last := fun (m : NetMsg) => m.kind == 3 || decide (packets (Nat.max 1 m.len) ≤ m.placed.length)
  let m := { m with placed := m.placed ++ [p.index] }
  let m := if m.fail.isNone ∧ s.revoked m then { m with fail := some 5 } else m
  let refuse := fun (s : State) (m : NetMsg) =>
    if last m then s.endMsg peer id p.msg m.fail else put (s.netAnswer peer p.msg false m.fail) m
  if m.fail.isSome then refuse s m
  else match p.kind with
  | 3 =>
    let ps := msgParts m.segs 0 m.len
    let gone := ({ s with netMsgs := delK s.netMsgs id } : State)
    if ps.any fun b => (s.homeDown b.1 b.2.1).isSome then
      (ps.foldl (fun (s : State) b => s.foundBad b.1 b.2.1) s).endMsg peer id p.msg (some 8)
    else
      let (d, s) := gone.readParts { cl := m.clus, q := 0, words := [] } ps
      (s.netReply peer m.clus p.msg ((ps.head?.map fun b => blockPos b.1).getD 0) d.1 d.2).netAnswer peer p.msg false none
  | 4 =>
    match m.segs.head? with
    | none => refuse s { m with fail := some 4 }
    | some (pl, _) =>
      if (s.homeDown pl m.len).isSome then refuse (s.foundBad pl m.len) { m with fail := some 8 }
      else
        let v := s.visTime pl
        let (old, wrote, s) := s.performAtom pl p.aop p.aw64 p.opnd1 p.opnd2
        ((put ((s.touchPlace pl none).farUsed pl) { m with vis := some (if wrote then v else s.lease) }).netReply peer m.clus p.msg 0
          (bytesOf m.len old) [0]).netAnswer peer p.msg false none
  | _ =>
    let ps := msgParts m.segs (2048 * p.index) (Nat.min 2048 (m.len - 2048 * p.index))
    let keep := p.keep && (p.kind != 1 || (p.skew == 0 && (match m.recv with | some ws => nLaddr ws % 64 == 0 && nKeep ws | none => true)))
    if s.placeBad ps then refuse (s.placeParts keep m.len true ps p.tags p.data s.lease).2 { m with fail := some 8 }
    else
      let (v, s) := s.placeParts keep m.len false ps p.tags p.data s.lease
      (put s { m with vis := some (match m.vis with | some x => Lease.later x v | none => v) }).netAnswer peer p.msg false none
/-- R487, R489, R491: a packet of a response is placed at LADDR, once. -/
def State.netRespond (s : State) (peer : Nat) (p : NetPacket) (o : NetOp) : State :=
  let n := (nLocal o.words).1
  let ps := msgParts o.segs (2048 * p.index) (Nat.min 2048 (n - 2048 * p.index))
  let keep := nKind o.words == 4 || nKeep o.words
  let put := fun (s : State) (o : NetOp) => ({ s with netOps := insK s.netOps p.msg o } : State).netAnswer peer p.msg false none
  if s.placeBad ps then put (s.placeParts keep n true ps p.tags p.data s.lease).2 { o with fail := some 8 }
  else
    let (v, s) := s.placeParts keep n false ps p.tags p.data s.lease
    let got := p.index :: o.got
    put s { o with got, report := decide (packets n ≤ got.length), vis := some (match o.vis with | some x => Lease.later x v | none => v) }
/-- R491: the request that a packet of a response answers, where it still awaits that packet. -/
def State.awaits (s : State) (peer : Nat) (p : NetPacket) : Option NetOp :=
  match findK s.netOps p.msg with
  | some o =>
    if nPeerNo o.words = peer ∧ (nKind o.words = 3 ∨ nKind o.words = 4) ∧ o.fail.isNone ∧ p.index < packets (nLocal o.words).1 ∧ !o.got.contains p.index
    then some o else none
  | none => none
/-- R489, R490: must a validated packet wait for its place, or for what it is checked against? -/
def State.packetWaits (s : State) (p : NetPacket) : Bool :=
  match s.peerOf p.addr p.v6 p.job with
  | none => false
  | some peer =>
    match (s.peer peer).enter p.epoch p.first with
    | none => false
    | some (q, fresh) =>
      let s := s.modPeer peer fun _ => q
      let s := if fresh then { s with netMsgs := s.netMsgs.filter fun m => m.2.peer != peer } else s
      if !p.valid ∨ p.kind = 0 ∨ p.kind = 5 ∨ 6 < p.kind ∨ psnLe p.psn q.cack ∨ q.bits.contains p.psn ∨ 1024 < (p.psn - q.cack).toNat then false
      else if p.kind = 6 then (s.awaits peer p).any fun o => (msgParts o.segs (2048 * p.index) 2048).any fun b => s.eHeld b.1
      else match s.openMsg peer p with
        | (none, _) => true
        | (some (_, m), s) => (if p.kind = 3 then msgParts m.segs 0 m.len else msgParts m.segs (2048 * p.index) 2048).any fun b => s.eHeld b.1
/-- R490: an arriving packet; one that must wait stays in the inbox (`State.inputWaits`). -/
def execNetPacketArrive (p : NetPacket) (s : State) : Host.Outcome State Fault Refusal :=
  .next (if !p.valid ∨ p.kind = 0 ∨ p.kind = 5 ∨ 6 < p.kind then s
    else match s.peerOf p.addr p.v6 p.job with
    | none => s
    | some peer =>
      match (s.peer peer).enter p.epoch p.first with
      | none => s
      | some (q, fresh) =>
        let s1 := s.modPeer peer fun _ => q
        let s1 := if fresh then { s1 with netMsgs := s1.netMsgs.filter fun m => m.2.peer != peer } else s1
        if psnLe p.psn q.cack ∨ q.bits.contains p.psn then s1.answerAgain peer p.msg
        else if 1024 < (p.psn - q.cack).toNat then s1
        else if p.kind = 6 then
          let took := fun (s : State) => s.modPeer peer fun q => q.take p.psn
          match s1.awaits peer p with
          | none => (took s1).netAnswer peer p.msg false none
          | some o => if (msgParts o.segs (2048 * p.index) 2048).any fun b => s1.eHeld b.1 then s1 else (took s1).netRespond peer p o
        else
          match s1.openMsg peer p with
          | (none, s2) => s2
          | (some (id, m), s2) =>
            if (if p.kind = 3 then msgParts m.segs 0 m.len else msgParts m.segs (2048 * p.index) 2048).any fun b => s2.eHeld b.1 then s2
            else (s2.modPeer peer fun q => q.take p.psn).netPlace peer p id m)

/-- R490 to R492, R496: an acknowledgement of the current epoch. DEDUCED (LOG 31): after a retransmission that an acknowledgement caused,
one that shows no higher PSN more than it "shows the same", and one that shows more is the first after the latest transmission. -/
def execNetAckArrive (a : NetAck) (s : State) : Host.Outcome State Fault Refusal :=
  .next (match s.peerOf a.addr a.v6 a.job with
    | none => s
    | some peer =>
      if (s.peer peer).epoch ≠ a.epoch then s
      else
        let got := fun (k : NetPkt) => psnLe k.psn a.cack || a.sack.contains k.psn
        let s := s.modPeer peer fun p => { p with unack := p.unack.filter fun k => !got k }
        let above := fun (k : NetPkt) => a.sack.filter fun x => !psnLe x k.psn
        let behind := (s.peer peer).unack.filter fun k =>
          decide (k.tries < s.retry) && decide (3 ≤ (above k).length) && (above k).any fun x => !k.shown.contains x
        let s := behind.foldl (fun (s : State) k => s.resend peer k (above k)) s
        let s := a.refused.foldl (fun (s : State) r =>
          match findK s.netOps r.1 with
          | some o =>
            if nPeerNo o.words ≠ peer ∨ o.fail.isSome then s
            else
              let s := { s with netOps := insK s.netOps r.1 { o with fail := some r.2, sent := o.total } }
              if r.2 = 5 then s.raise o.cl 3 2 [BitVec.ofNat 32 o.q, BitVec.ofNat 32 peer, BitVec.ofNat 32 (nRkey o.words)] else s
          | none => s) s
        a.complete.foldl (fun (s : State) id =>
          match findK s.netOps id with
          | some o =>
            if nPeerNo o.words = peer ∧ nKind o.words ≤ 2 then { s with netOps := insK s.netOps id { o with report := true } } else s
          | none => s) s)

/-! ## Completion (R491, R492) -/

/-- R488, R492: at the target. A send whose completion word cannot be written fails, with its posted receive. -/
def execNetTargetComplete (id : Nat) (s : State) : Host.Outcome State Fault Refusal :=
  .next (match findK s.netMsgs id with
    | none => s
    | some m =>
      let passed := match m.vis with | some v => Lease.before v s.lease | none => true
      if m.fail.isSome ∨ m.placed.length < packets (Nat.max 1 m.len) ∨ !passed then s
      else
        let fin := fun (s : State) => s.endMsg m.peer id m.msg none
        match m.recv with
        | none =>
          let g := s.regOf m.clus m.key
          fin (if g.cen then s.ctrAdd m.clus g.ctr 1 else s)
        | some ws =>
          let count := fun (s : State) (fail : Bool) => if wsBit ws 232 then s.ctrEnd m.clus (wsBits ws 231 224) fail else s
          if m.done then fin (count s false)
          else match s.netSegs m.clus m.part (nLasp ws) (nOpnd1 ws) 8 rWRITE with
            | (.wait, s) => s
            | (.bad c, s) => (count s true).endMsg m.peer id m.msg (some (if c = 5 then 8 else 2))
            | (.ok segs, s) =>
              match segs.head? with
              | none => s
              | some (p, _) =>
                if s.eHeld p then s
                else if (s.homeDown p 8).isSome then (count (s.foundBad p 8) true).endMsg m.peer id m.msg (some 8)
                else
                  let (v, s) := s.eWrite p (bytesOf 8 (m.len + 2 ^ 32 * m.peer))
                  { s with netMsgs := insK s.netMsgs id { m with done := true, vis := some v } })
/-- R391, R491: at the initiator, once what has been placed is visible: the token, then the counter. -/
def execNetInitiatorComplete (id : Nat) (s : State) : Host.Outcome State Fault Refusal :=
  .next (match findK s.netOps id with
    | none => s
    | some o =>
      let kind := nKind o.words
      let passed := match o.vis with | some v => Lease.before v s.lease | none => true
      let acked := !((s.peer (nPeerNo o.words)).unack.any fun k => k.op == id)
      let ok := o.report && (if kind ≤ 2 ∨ kind = 6 then decide (o.total ≤ o.sent) && acked else passed)
      if if o.fail.isNone then !ok else !passed then s
      else
        let s := { s with netOps := delK s.netOps id }
        let s := match o.tok.bind fun c => ((findK (s.core c).netTrk (wsBits o.words 464 459)).filter (·.stage == 2)).map fun t => (c, t) with
          | some (c, t) => s.endNet c (wsBits o.words 464 459) t o.fail
          | none => s
        if wsBit o.words 232 then s.ctrEnd o.cl (wsBits o.words 231 224) o.fail.isSome else s)

/-! ## Peers and registrations (R484, R495, R496) -/

/-- R484: a write of a word of a peer entry. -/
def State.setPeer (s : State) (entry word : Nat) (v : DWord) : State :=
  let num := nPEER entry word
  let old := s.cr 16 num
  let new := crWrite num old v
  let resets := if word = 0 then (old &&& 0xFFFFFFFF00000003) != (new &&& 0xFFFFFFFF00000003) else word ≠ 3 && old != new
  let s := s.setCr 16 num new
  if resets then (s.resetPeer entry 3).2 else s
def execPeerTableWrite (entry : Nat) (word : BitVec 2) (v : DWord) (s : State) : Host.Outcome State Fault Refusal :=
  .next (if 4096 ≤ entry then s else s.setPeer entry word.toNat v)
/-- R495: ACT is accepted only from FREE. -/
def State.activateReg (s : State) (cl r : Nat) : State :=
  s.modCr cl (nREG r 0) fun v => if dwBits v 1 0 = 0 then dwSet v 1 0 1 else v
/-- R496: REV is accepted only from ACTIVE: the revoke mark. -/
def State.revokeReg (s : State) (cl r : Nat) : State :=
  s.modCr cl (nREG r 0) fun v => if dwBits v 1 0 = 1 then dwSet v 1 0 2 else v
def execRegActivate (cl r : Nat) (s : State) : Host.Outcome State Fault Refusal := .next (if 256 ≤ r then s else s.activateReg cl r)
def execRegRevoke (cl r : Nat) (s : State) : Host.Outcome State Fault Refusal := .next (if 256 ≤ r then s else s.revokeReg cl r)
/-- R496: no message with a packet validated before the mark is left. -/
def execRevocationComplete (cl r : Nat) (s : State) : Host.Outcome State Fault Refusal :=
  .next (if (s.regOf cl r).state ≠ 2 ∨ s.netMsgs.any (fun m => m.2.kind != 1 && m.2.clus == cl && m.2.key == r && m.2.fail.isNone) then s
    else (s.modCr cl (nREG r 0) fun v => dwSet v 1 0 0).raise cl 3 3 [BitVec.ofNat 32 r])
/-- R495, R496: a write of a registration. One of word 0 with ACT is accepted only from FREE, and one with REV only from ACTIVE; the
other fields change only while it is FREE. -/
def State.setReg (s : State) (cl r word : Nat) (v : DWord) : State :=
  let st := dwBits (s.cr cl (nREG r 0)) 1 0
  let act := word = 0 ∧ dwBit v 30
  let rev := word = 0 ∧ dwBit v 31
  if (act ∧ st ≠ 0) ∨ (rev ∧ st ≠ 1) then s
  else
    let s := if st = 0 then s.modCr cl (nREG r word) fun old => crWrite (nREG r word) old v else s
    if act then s.activateReg cl r else if rev then s.revokeReg cl r else s

end Sys2Proof.Machine
end

