-- ==== Sys2Proof/Machine/Ras.lean ====
section
/-! DEFINITION. Boot, reset, self-test, repair and attestation (R458 to R466, R469). -/

namespace Sys2Proof.Machine

/-! ## Boot (R458 to R461) -/

def imgNum (off n : Nat) : Nat := natOfBytes ((Config.bootImage.drop off).take n)
def imgLen : Nat := Nat.min 786432 (imgNum 8 4)
def imgBody : List Byte := (Config.bootImage.drop 192).take imgLen
/-- R459, R461: the ERR of the checks of PHASE 1, or 0. -/
def imgError : Nat :=
  if Config.sm3 ((Config.bootImage.drop 64).take 64) ≠ Config.fusedKeyDigest then 2
  else if imgNum 4 4 < Config.fusedFloor.toNat then 3
  else if !Config.sm2Verify ((Config.bootImage.drop 64).take 128) (Config.sm3 (Config.bootImage.take 128 ++ imgBody)) then 1
  else 0
def State.phase (s : State) : Nat := dwBits (s.cr 16 nBOOTSTAT) 3 0
/-- R444, R461: the rings of a serai and the rings to it are emptied. -/
def State.emptyMail (s : State) (cl : Nat) : State :=
  let s := s.modCl cl fun k => { k with mailHead := [], mailTail := [] }
  (List.range 16).foldl (fun (s : State) i => s.modCl i fun k =>
    { k with mailHead := delK k.mailHead cl, mailTail := delK k.mailTail cl }) s
/-- R302, R459, R461: a serai restarts: all its threads exit and turn 0 starts in monitor mode at local offset 0. -/
def State.startSerai (s : State) (cl : Nat) : State :=
  let c := seraiOf cl
  let s := (List.range 8).foldl (fun (s : State) t => s.exitLanes c t 1) s
  let s := s.emptyMail cl
  let (uid, s) := s.bump
  let w : Wave := { live := true, uid := uid, runStart := s.lease, threads := [(0, { status := .ready, hdr := 2, wh := s.lease - 1 })] }
  let s := s.modCore c fun k => { k with waves := insK (k.waves.filter fun w => w.2.busy) 0 w }
  let s := s.setSmode cl 0 true none
  let s := { s with running := s.running ||| BitVec.twoPow 16 cl }
  s.modCr 16 nBOOTSTAT fun v => dwSet v 31 16 s.running.toNat
/-- R459: the boot core's part of the boot sequence, up to the start of serai 0. Whether its test of itself passes is open, and so is
the ERR of one that fails, which R461 does not number. DESIGN CHOICE (LOG 13): an identity key that cannot be unsealed gives ERR 5 and the
boot goes on, since attestation then answers that the key is unavailable (R461, R462). -/
def State.bootSequence (s : State) : State :=
  let (bad, s) := s.openBit
  let (n, s) := s.openNat
  if bad then s.setCr 16 nBOOTSTAT (BitVec.ofNat 64 (15 + 16 * (n % 256)))
  else if imgError ≠ 0 then s.setCr 16 nBOOTSTAT (BitVec.ofNat 64 (15 + 16 * imgError))
  else
    let s := { s with meas := insK [] 0 (Config.sm3 (Config.bootImage.take (192 + imgLen))) }
    let s := (s.wrSram (seraiAddr 0 0) imgBody).setCr 0 nMVEC 0
    let s := s.setCr 16 nBOOTSTAT (BitVec.ofNat 64 (2 + (if Config.identityUnsealed then 0 else 5 * 16) + 2 ^ 32 * imgNum 4 4))
    s.startSerai 0
/-- R459: a cold reset. What lies outside the package's volatile state stays: the drives and their files, the ports' links,
and the spare mappings. -/
def execColdReset (s : State) : Host.Outcome State Fault Refusal :=
  .next { State.reset with
    files := s.files, drives := s.drives, ethUp := s.ethUp, inbox := s.inbox, out := s.out, fresh := s.fresh, nextId := s.nextId
    remap := s.remap, hub := s.hub, spares := s.spares, moved := s.moved }.bootSequence
/-- R459, R461: SRUN. When every serai has been started, PHASE is 4. -/
def State.srun (s : State) (mask : BitVec 16) : State :=
  let s := ((List.range 16).filter fun i => mask.getLsbD i).foldl (fun (s : State) i => s.startSerai i) s
  if s.running = 0xFFFF ∧ s.phase = 3 then s.modCr 16 nBOOTSTAT fun v => dwSet v 3 0 4 else s
/-- R459: what follows PHASE 2: shard 0 trains the HBM, which may fail; it copies the body to the serais that do not run yet and starts
them; once every serai has been started, the package runs. -/
def bootGoesOn (s : State) : Host.Outcome State Fault Refusal :=
  let setPhase := fun (s : State) (n : Nat) => s.modCr 16 nBOOTSTAT fun v => dwSet v 3 0 n
  .next (
    if s.phase = 2 ∧ s.running.getLsbD 0 then
      let (bad, s) := s.openBit
      if bad then (setPhase s 15).modCr 16 nBOOTSTAT fun v => dwSet v 11 4 4 else setPhase s 3
    else if s.phase = 3 then
      if s.running = 0xFFFF then setPhase s 4
      else
        (((List.range 16).filter fun i => !s.running.getLsbD i).foldl (fun (s : State) i => s.wrSram (seraiAddr i 0) imgBody) s).srun (~~~s.running)
    else if s.phase = 4 then setPhase s 5
    else s)
def execSrunStart (mask : BitVec 16) (s : State) : Host.Outcome State Fault Refusal := .next (s.srun mask)

/-! ## Warm reset (R463) -/

/-- R463: WARM is written. -/
def State.beginWarm (s : State) (retain : Bool) : State :=
  let s := s.modCr 16 nRSTCTL fun v => dwSet v 1 1 (if retain then 1 else 0)
  if s.warm = .run then { s with warm := .quiesce } else s
def execRstctlWarm (retain : Bool) (s : State) : Host.Outcome State Fault Refusal := .next (s.beginWarm retain)
/-- R463: every accepted HBM request has completed: those of loads, stores, copies, saves that have written, wayside commands in
progress, code fetches and walks. What is under way in SRAM alone is not waited for. -/
def State.quiet (s : State) : Bool :=
  !(s.stores.any fun x => x.2.place.isHbm) && !(s.copies.any fun x => (x.2.src ++ x.2.dst).any fun r => r.any fun p => p.1.isHbm) &&
  !(s.saves.any fun x => x.2.vis.isSome) &&
  !(s.prods.any fun p => match p.2.src with | .load a => a.place.isHbm | _ => false) && !(s.ways.any fun w => w.2.cur.isSome) &&
  s.cores.all (fun k => k.2.fills.all fun n => decide (2 ^ 60 ≤ n)) && s.cls.all (fun k => k.2.walks.isEmpty)
/-- R463: control registers that survive a warm reset. -/
def crSurvives (key : Nat) : Bool :=
  let n := key % 2 ^ 24
  key / 2 ^ 32 == 16 && (n == nRSTCTL || (decide (nRGMODE 0 ≤ n) && decide (n < nRGMODE 32)) || (decide (nHGSTATE 0 ≤ n) && decide (n < nHGSTATE 32)))
/-- R463: from QUIESCE through SELFREF and RESET to RETRAIN: cores and serais reset, SRAM and its tags cleared. What
repairs have mapped stays. -/
def execWarmResetQuiesced (s : State) : Host.Outcome State Fault Refusal :=
  .next (if s.warm ≠ .quiesce ∨ !s.quiet then s
    else { State.reset with
      warm := .retrain
      crs := s.crs.filter fun p => crSurvives p.1
      hbm := s.hbm, hbmTag := s.hbmTag, badHbm := s.badHbm, softHbm := s.softHbm, lx := s.lx.filter fun p => decide (2 ^ 40 ≤ p.1)
      remap := s.remap, hub := s.hub, rowCnt := s.rowCnt, mig := s.mig, lease := s.lease
      spares := s.spares, moved := s.moved
      cores := s.cores.filterMap fun p => if p.2.mapped.isEmpty then none else some (p.1, { mapped := p.2.mapped })
      cls := s.cls.filterMap fun p => if p.2.waysOut.isEmpty then none else some (p.1, { waysOut := p.2.waysOut })
      files := s.files, drives := s.drives, ethUp := s.ethUp, inbox := s.inbox, out := s.out, fresh := s.fresh, nextId := s.nextId })
/-- R463: a stack that fails to train becomes UNAVAILABLE. -/
def execWarmResetRetrained (failed : BitVec 8) (s : State) : Host.Outcome State Fault Refusal :=
  .next (if s.warm ≠ .retrain then s
    else { (List.range 8).foldl (fun (s : State) k =>
      if failed.getLsbD k then s.modCr 16 (nSTKSTAT k) fun v => dwSet v 25 25 1 else s) s with warm := .check })
/-- R463: without RETAIN every block holds 0 with tag 0; the boot sequence follows. -/
def execWarmResetChecked (s : State) : Host.Outcome State Fault Refusal :=
  .next (if s.warm ≠ .check then s
    else
      let s := if dwBit (s.cr 16 nRSTCTL) 1 then s else { s with hbm := [], hbmTag := [], badHbm := [], softHbm := [] }
      { s with warm := .run, remap := s.hub }.bootSequence)

/-! ## Self-test (R464) -/

/-- R464: the test that runs, when it has the kind and target given and has not ended. -/
def State.testing (s : State) (cl kind : Nat) (target : BitVec 40) : Bool :=
  match s.selfTest with
  | some t => t.cl == cl && t.kind == kind && t.target == target && t.res.isNone
  | none => false
def State.testEnds (s : State) (res : Nat) (mapped : Bool) (event : Nat) : State :=
  { s with selfTest := s.selfTest.map fun t => { t with res := some (res, mapped, event) } }
def execSelfTestHbmRow (cl : Nat) (target : BitVec 40) (pass : Bool) (s : State) : Host.Outcome State Fault Refusal :=
  .next (if !s.testing cl 0 target then s
    else
      let b := bankOfWord (bitsN target.toNat 14 0)
      let row := bitsN target.toNat 28 15
      let (n, s) := s.openNat
      let s := s.modBank b fun k => { k with block := some (s.lease + BitVec.ofNat 48 (n % 20001)) }
      if pass then s.testEnds 0 false 8
      else
        let (spare, s) := s.openBit
        if spare then
          let used := (s.remap.filter fun p => p.1 / 16384 == b).foldl (fun m p => Nat.max m (p.2 - 16383)) 0
          { s with remap := insK s.remap (b * 16384 + row) (16384 + used), hub := insK s.hub (b * 16384 + row) (16384 + used) }.testEnds 1 true 10
        else s.testEnds 1 false 11)
def execSelfTestCore (cl : Nat) (target : BitVec 40) (pass : Bool) (s : State) : Host.Outcome State Fault Refusal :=
  .next (if !s.testing cl 1 target then s
    else if (s.core (bitsN target.toNat 10 0)).waves.any fun w => w.2.alive != 0 then s.testEnds 2 false 0
    else if pass then s.testEnds 0 false 8 else s.testEnds 1 false 9)
def execSelfTestAmemBank (cl : Nat) (target : BitVec 40) (pass : Bool) (s : State) : Host.Outcome State Fault Refusal :=
  .next (if !s.testing cl 2 target then s
    else
      let c := bitsN target.toNat 10 0
      let b := bitsN target.toNat 14 11
      let tested := fun (f : Core → Core) => s.modCore c fun k => f { k with toTest := k.toTest.filter (· != b) }
      if !(s.core c).bankIdle b then s.testEnds 2 false 0
      else if pass then (tested id).testEnds 0 false 8
      else (tested fun k => { k with mapped := k.mapped ++ [b] }).testEnds 1 false 9)
def execSelfTestCacheSet (cl : Nat) (target : BitVec 40) (pass : Bool) (s : State) : Host.Outcome State Fault Refusal :=
  .next (if !s.testing cl 3 target then s
    else
      let c := bitsN target.toNat 3 0
      let set := bitsN target.toNat 14 4
      let s := s.modCl c fun k => (k.lines.filter fun p => Config.cacheSet p.1 % 1536 == set).foldl (fun k p => k.dropLine p.1) k
      if pass then s.testEnds 0 false 8
      else (s.modCl c fun k => { k with waysOut := insK k.waysOut set (Nat.min 16 (getK 0 k.waysOut set + 1)) }).testEnds 1 false 9)
def execSelfTestFabricLane (cl : Nat) (target : BitVec 40) (pass : Bool) (s : State) : Host.Outcome State Fault Refusal :=
  .next (if !s.testing cl 4 target then s
    else
      let p := bitsN target.toNat 2 0
      if pass then s.testEnds 0 false 8 else (s.setWidth p (dwBits (s.cr 16 (nPORTSTAT p)) 1 0 - 1)).testEnds 1 false 9)
def execSelfTestSeraiSram (cl : Nat) (target : BitVec 40) (pass : Bool) (s : State) : Host.Outcome State Fault Refusal :=
  .next (if !s.testing cl 5 target then s
    else if pass then s.testEnds 0 false 8
    else
      let lo := seraiAddr (bitsN target.toNat 3 0) (65536 * bitsN target.toNat 7 4) / 128
      let (spare, s) := s.openBit
      if spare then { s with badSram := s.badSram.filter fun l => decide (l < lo) || decide (lo + 512 ≤ l) }.testEnds 1 true 10
      else s.testEnds 1 false 11)
/-- R461, R464: the test ends: RESULT and MAPPED are set, and the event goes to the cluster that asked (R504). -/
def execSelfTestDone (s : State) : Host.Outcome State Fault Refusal :=
  .next (match s.selfTest with
    | some { cl, kind, target, res := some (r, m, e) } =>
      let s := { s with selfTest := none }.setCr 16 nSTSTAT (BitVec.ofNat 64 (2 * r + if m then 8 else 0))
      if e = 0 then s
      else s.raise cl 4 e [BitVec.ofNat 32 kind, target.extractLsb' 0 32, (target.extractLsb' 32 8).setWidth 32]
    | _ => s)

/-! ## Repair (R465, R466) -/

def State.repairEnds (s : State) (status : Nat) : State :=
  { s with repair := none }.modCr 16 nREPSTAT fun v => dwSet v 3 0 (2 * status)
/-- R465: a core is replaced by a spare, which takes what the rule names. -/
def execRepairCoreToSpare (core : Nat) (s : State) : Host.Outcome State Fault Refusal :=
  .next (if s.repair ≠ some (0, core) then s
    else
      let k := s.core core
      let cl := clusterOf core
      let used := getK 0 s.spares cl
      let left := fun (s : State) (n : Nat) => s.modCr 16 nREPSTAT fun v => dwSet v 11 8 n
      if (k.waves.any fun w => w.2.alive != 0) ∨ !k.copyTrk.isEmpty ∨ !k.spawns.isEmpty ∨ !k.ways.isEmpty then left (s.repairEnds 2) (4 - used)
      else if 4 ≤ used then left (s.repairEnds 1) 0
      else
        let s := s.modCore core fun k =>
          { ports := k.ports, queues := k.queues, banks := k.banks, saved := k.saved, xrecs := k.xrecs, cyc := k.cyc, netTrk := k.netTrk
            waves := k.waves.map fun w => (w.1, { uid := w.2.uid, busy := w.2.busy, freed := w.2.freed }) }
        let s := (s.setCr cl (nLERR (coreIndex core)) 0).setCr cl (nTHR (coreIndex core)) 0
        left ({ s with spares := insK s.spares cl (used + 1), moved := insK s.moved core (getK 0 s.moved core + 1) }.repairEnds 0) (3 - used))
/-- R465: a stack is retrained and its remap table reloaded. -/
def execRepairStackToService (stack : Nat) (ok : Bool) (s : State) : Host.Outcome State Fault Refusal :=
  .next (if s.repair ≠ some (1, stack) then s
    else if ok then
      ((s.modCr 16 (nSTKSTAT (stack % 8)) fun v => dwSet v 25 24 0).loadRemap (stack % 8)).repairEnds 0
    else s.repairEnds 3)
/-- R466: the objects of a bucket that have not been sent to a shard: files, by their IDs (a buffer's state is its entry and its page
map, which are no state of a shard). -/
def State.unsent (s : State) (bucket shard : Nat) : List Nat :=
  ((s.files.map fun f => f.id).eraseDups).filter fun o => bucketOf o == bucket && !(s.shard shard).objs.contains o
/-- R466: a wave of the cluster is saved, as `psave` does; which one, and the area, are open. -/
def State.repairSave (s : State) (cl : Nat) : State :=
  let (n, s) := s.openNat
  let (a, s) := s.openNat
  let area := BitVec.ofNat 64 a
  let c := cl * 128 + n % 128
  let t := n / 128 % 16
  if s.saveStatus false c [t] area ≠ 0 then s
  else
    let (prod, s) := s.bump
    { s.beginSave false c [t] area prod with rsaved := s.rsaved ++ [(c, t, area)] }
/-- R466: the next wave that the repair of a cluster has saved is restored, as `prest` does; one that cannot be is left to software. -/
def State.repairRestore (s : State) (cl : Nat) : State :=
  match s.rsaved.find? fun x => clusterOf x.1 == cl with
  | none => s
  | some (c, t, area) =>
    let s := { s with rsaved := s.rsaved.filter (· != (c, t, area)) }
    if s.saveStatus true c [t] area ≠ 0 then s else let (prod, s) := s.bump; s.beginSave true c [t] area prod
/-- R466: the repair of a cluster in service, step by step: drained, its waves saved or waited for; its bucket moved by UPD, and each
owned object's state sent; tested and repaired, which other steps do; moved back in the same way; taken out of draining, and the waves
that it saved restored. -/
def execClusterRepair (cl : Nat) (s : State) : Host.Outcome State Fault Refusal :=
  .next (let phase := getK 0 s.crepair cl
    let set := fun (s : State) (n : Nat) => { s with crepair := putK 0 s.crepair cl n }
    let busy := (List.range 128).any fun i => (s.core (cl * 128 + i)).waves.any fun w => w.2.live
    let drain := fun (s : State) (b : Nat) => s.modCr 16 nCDRAIN fun v => dwSet v cl cl b
    let other := cl ^^^ 1
    -- the bucket's next object goes from one shard to the other; all have gone when there is none
    let send := fun (src dst : Nat) (done : Nat) => match s.unsent cl dst with
      | o :: _ => s.migrate src dst (BitVec.ofNat 64 o)
      | [] => set s done
    if 16 ≤ cl then s
    else if phase = 0 then if s.running.getLsbD 0 then set (drain s 1) 1 else s
    else if s.update.isSome then s
    else if phase = 1 then
      if busy then let (b, s) := s.openBit; if b then s.repairSave cl else s
      else let s' := s.startUpdate cl other; if s'.update.isSome then set s' 2 else s
    else if phase = 2 then send cl other 3
    else if phase = 3 then
      if s.selfTest.isSome ∨ s.repair.isSome ∨ (s.suspects.any fun x => x.1 == cl) then s
      else let s' := s.startUpdate cl cl; if s'.update.isSome then set s' 4 else s
    else if phase = 4 then send other cl 5
    else if phase = 5 then set (drain s 0) 6
    else if s.rsaved.any fun x => clusterOf x.1 == cl then s.repairRestore cl
    else set s 0)

/-! ## Attestation (R462) -/

def State.measBytes (s : State) (i : Nat) : List Byte := bytesOf 32 (getK 0 s.meas i).toNat
def State.attestEnds (s : State) (result : Nat) : State :=
  { s with attest := none }.setCr 16 nATTSTAT (BitVec.ofNat 64 (2 * result))
/-- R462: a request is served by the step of its OP; any other OP or INDEX is malformed. -/
def attestOp (s : State) (cl : Nat) (off : BitVec 20) (op : Nat) (body : List Byte → State) : State :=
  if s.attest ≠ some (cl, off.toNat) then s
  else
    let req := s.rdSram (seraiAddr cl off.toNat) 64
    let o := (req.getD 32 0).toNat
    let i := (req.getD 33 0).toNat
    if 2 < o ∨ (o = 1 ∧ (i < 4 ∨ 7 < i)) then s.attestEnds 1
    else if o ≠ op then s
    else body req
/-- R462: a report is written at OFF + 64, as far as the local SRAM reaches. -/
def State.attestWrite (s : State) (cl off : Nat) (bs : List Byte) : State :=
  s.wrSram (seraiAddr cl (off + 64)) (bs.take (2 ^ 20 - (off + 64)))
def execAttestQuote (cl : Nat) (off : BitVec 20) (s : State) : Host.Outcome State Fault Refusal :=
  .next (attestOp s cl off 0 fun req =>
    if !Config.identityUnsealed then s.attestEnds 2
    else
      let text := req.take 32 ++ (List.range 8).flatMap s.measBytes ++ bytesOf 4 (dwBits (s.cr 16 nBOOTSTAT) 63 32) ++ List.replicate 28 0
      let sig := (Config.sm2Sign Config.identityKey (bytesOf 32 (Config.sm3 text).toNat) ++ List.replicate 64 0).take 64
      (s.attestWrite cl off.toNat (text ++ sig)).attestEnds 0)
def execAttestExtend (cl : Nat) (off : BitVec 20) (s : State) : Host.Outcome State Fault Refusal :=
  .next (attestOp s cl off 1 fun req =>
    let i := (req.getD 33 0).toNat
    { s with meas := insK s.meas i (Config.sm3 (s.measBytes i ++ req.take 32)) }.attestEnds 0)
def execAttestPubkey (cl : Nat) (off : BitVec 20) (s : State) : Host.Outcome State Fault Refusal :=
  .next (attestOp s cl off 2 fun _ =>
    if !Config.identityUnsealed then s.attestEnds 2
    else (s.attestWrite cl off.toNat ((Config.sm2PublicKey Config.identityKey ++ List.replicate 64 0).take 64)).attestEnds 0)

/-! ## The restart of a shard (R469) -/

/-- The save area of a saved wave. -/
def SavedWave.area (v : SavedWave) : DWord := BitVec.ofNat 64 (v.bti * 2 ^ 48 + v.off)
/-- R311, R468, R469: every wave of a partition in the clusters that `f` takes is killed, the saved ones in their areas. -/
def State.killPartIn (s : State) (p : BitVec 4) (f : Nat → Bool) : State :=
  (s.cores.filter fun k => decide (k.1 < 2048) && f (k.1 / 128)).foldl (fun (s : State) k =>
    let s := if (s.cl (k.1 / 128)).part = p then k.2.waves.foldl (fun (s : State) w => s.killLanes k.1 w.1 w.2.alive) s else s
    (k.2.saved.filter fun v => v.part == p).foldl (fun (s : State) v => (s.killSaved (k.1 / 128) p v.area v.alive).2) s) s
/-- R469: a partition is terminated: its waves are killed in every cluster. -/
def State.killPart (s : State) (p : BitVec 4) : State := s.killPartIn p fun _ => true
/-- R469: the partitions of lanes parked in traps of a cluster: of records it holds, of its waves, and of its saved waves. -/
def State.trapParts (s : State) (cl : Nat) : List (BitVec 4) :=
  (((s.cl cl).traps.filter fun t => t.2.pend != 0).map fun t => t.2.part) ++
  (s.cores.filter fun k => decide (k.1 < 2048) && k.1 / 128 == cl).flatMap fun k =>
    (if k.2.waves.any fun w => w.2.live && w.2.lanesWith (· == .parkedTrap) != 0 then [s.partOf k.1] else []) ++
    ((k.2.saved.filter fun v => v.alive.lanes.any fun l =>
      match (s.areaRead cl v.part v.area (laneOff l + 8) 1 rWRITE).1 with
      | some bs => natOfBytes bs % 16 == 5
      | none => false).map (·.part))
/-- R442, R469: the partitions of the buffers that a shard owns. -/
def State.bufferParts (s : State) (shard actor : Nat) : List (BitVec 4) :=
  ((List.range (dwBits (s.cr 16 nBTLEN) 16 0)).filter fun i => entryOk (s.tableEntry i) && (s.shard actor).owner (bufferId i) == shard).map fun i =>
    eOwner (s.tableEntry i)
/-- R469: the partitions tied to a shard: of objects it owns, and of lanes parked in traps of its cluster. -/
def State.tiedParts (s : State) (shard actor : Nat) : List (BitVec 4) :=
  (s.handles.filter fun h => (s.shard actor).owner h.2.file == shard).map (·.2.part) ++ s.bufferParts shard actor ++ s.trapParts shard
/-- R469: what a restarted shard owned alone is lost, its open files among it, and it reloads the replicated state. -/
def State.reloadShard (s : State) (shard actor : Nat) : State :=
  let k := s.shard actor
  { s with
    shards := insK s.shards shard { ownmap := k.ownmap, parts := k.parts, mounts := k.mounts, ver := k.ver }
    handles := s.handles.filter fun h => k.owner h.2.file != shard
    restarts := s.restarts.filter (· != shard) }
def execShardRestart (shard : Nat) (s : State) : Host.Outcome State Fault Refusal :=
  .next (let actor := if shard = 0 then 1 else 0
    if 16 ≤ shard ∨ !s.running.getLsbD actor then s
    else
      let s := (s.tiedParts shard actor).foldl State.killPart s
      let s := (s.startSerai shard).reloadShard shard actor
      match s.update with
      | some (v, b, o, left) =>
        let s := s.modShard shard fun k => { k.apply b o with ver := v }
        let left := left.filter fun i => i != shard
        { s with update := if left.isEmpty then none else some (v, b, o, left) }
      | none => s)

/-! ## Serai SRAM errors (R468) -/

/-- R468: Caravan acts on a line of a serai's SRAM that is lost, by the class of its region. -/
def seraiLoss (line : Nat) (s : State) : Host.Outcome State Fault Refusal :=
  match flatName (line * 128) with
  | .serai cl off =>
    let cls := dwBits (s.cr cl (nSRCLS (off / 65536))) 4 0
    let s := { s with lostSram := s.lostSram.filter (· != line) }
    let put := fun (s : State) (bs : List Byte) =>
      ({ s with badSram := s.badSram.filter (· != line) } : State).wrSram (line * 128) bs
    if cls < 16 then
      let (bs, s) := (s.killPartIn (BitVec.ofNat 4 cls) fun c => c == cl).openBytes 128
      .next (put s bs)
    else if cls = 16 then .next (put s (s.rdSram (seraiAddr (cl ^^^ 1) off) 128))
    else if cls = 17 then
      let (bs, s) := s.openBytes 128
      execShardRestart cl ((put s bs).toRestart cl)
    else .next (put s (List.replicate 128 0))
  | _ => .next s

end Sys2Proof.Machine
end

