-- ==== Sys2Proof/Machine/Control.lean ====
section
/-! DEFINITION. `crget`, `crset` and the effects of writes of control registers (R11, R12, R303, R304, R315 and the rules
that give each register). -/

namespace Sys2Proof.Machine

/-! ## Writes -/

/-- R204, R205, R338: a core's allocation changes, and manifest entries outside it are cleared. -/
def State.writeSpalloc (s : State) (cl i : Nat) (v : DWord) : State :=
  let base := dwBits v 9 0
  let len := dwBits v 25 16
  if 768 < base + len then s
  else (s.modCr cl (nSPALLOC i) fun old => crWrite (nSPALLOC i) old v).modCl cl fun k => k.mfRealloc i (256 * base) (256 * (base + len))
/-- R216: a write of QLIM that would break one of its conditions is ignored in whole. -/
def State.writeQlim (s : State) (cl i q : Nat) (v : DWord) : State :=
  let c := cl * 128 + i
  let new := s.modCr cl (nQLIM i q) fun old => crWrite (nQLIM i q) old v
  let k := s.core c
  let bound := boundQueues k.ports
  let cap := dwBits v 15 8
  if cap = 0 ∨ 128 < cap ∨ cap < dwBits v 6 0 then s
  else if bound.contains q && decide (128 < (bound.map fun p => dwBits (new.qlim c p) 6 0).sum) then s
  else if bound.contains q && decide (k.freeEntries < (bound.map (new.reservation c k)).sum) then s
  else new
/-- R304, R366: a ring's register: LOGN from 4 to 14, and the ring inside 1 MiB. -/
def ringOk (v : DWord) (size : Nat) : Bool :=
  let n := dwBits v 23 20
  decide (4 ≤ n) && decide (n ≤ 14) && decide (dwBits v 19 6 * 64 + 2 ^ n * size ≤ 2 ^ 20)
/-- R364: a write of TCTL: LEN, and with SWAP a request to load. -/
def State.writeTctl (s : State) (cl : Nat) (v : DWord) : State :=
  if swst (s.cr cl nTCTL) = 7 then s
  else s.modCr cl nTCTL fun old =>
    let new := crWrite nTCTL old v
    if dwBit v 9 then dwSet new 13 10 7 else new
/-- R464: a write of STCMD starts a test. -/
def State.writeStcmd (s : State) (cl : Nat) (v : DWord) : State :=
  if dwBit (s.cr 16 nSTSTAT) 0 then s
  else if 5 < dwBits v 3 0 then s.setCr 16 nSTSTAT 4
  else { s with selfTest := some { cl, kind := dwBits v 3 0, target := v.extractLsb' 8 40 } }.modCr 16 nSTSTAT fun x => dwSet x 0 0 1
/-- R464: can Caravan test a unit that an error event has named? An AMEM bank is tested when it is no longer allocated, before it is
allocated again (DEDUCED, LOG 13). -/
def State.testable (s : State) (x : Nat × Nat × BitVec 40) : Bool :=
  s.running.getLsbD x.1 && (x.2.1 != 2 || !((s.core (bitsN x.2.2.toNat 10 0)).bank (bitsN x.2.2.toNat 14 11)).valid)
/-- R464: Caravan tests the oldest unit that an error event has named and that can be tested. -/
def testSuspect (s : State) : Host.Outcome State Fault Refusal :=
  .next (if dwBit (s.cr 16 nSTSTAT) 0 then s
    else match s.suspects.find? s.testable with
    | some x => { s with suspects := s.suspects.filter (· != x) }.writeStcmd x.1 (BitVec.ofNat 64 (x.2.1 + 256 * x.2.2.toNat))
    | none => s)
/-- R465: a write of REPCMD starts a repair. -/
def State.writeRepcmd (s : State) (v : DWord) : State :=
  if s.repair.isSome ∨ 1 < dwBits v 3 0 then s
  else { s with repair := some (dwBits v 3 0, dwBits v 14 4) }.modCr 16 nREPSTAT fun x => dwSet x 0 0 1
/-- R462: a write of ATTREQ starts a request; an offset that is no multiple of 64 is malformed. -/
def State.writeAttreq (s : State) (cl : Nat) (v : DWord) : State :=
  if s.attest.isSome then s
  else if dwBits v 5 0 ≠ 0 then s.setCr 16 nATTSTAT 2
  else { s with attest := some (cl, dwBits v 19 0) }.modCr 16 nATTSTAT fun x => dwSet x 0 0 1
/-- R475, R476: a write of FABCTL. The leader's SYNC is 1; a follower begins without it. -/
def State.writeFabctl (s : State) (v : DWord) : State :=
  if dwBits v 47 40 = 0 then s
  else
    let was := s.isLeader
    let s := s.modCr 16 nFABCTL fun old => crWrite nFABCTL old v
    if s.isLeader then s.setSync true
    else if was then { s with syncGood := 0, syncAt := none, syncT1 := none }.setSync false
    else s
/-- R356: a write of a task queue's descriptor, from the state `s` before it. The readings of its records are forgotten where its memory
or size changes or RIDX goes back, so that a later record of the same index begins anew; RIDX moved on keeps them (DEDUCED, LOG 24). -/
def State.reread (u s : State) (cl num : Nat) : State :=
  let q := (num % 65536 - 0x200) / 4
  let new := u.qdesc cl (nTQ q 0)
  let old := s.qdesc cl (nTQ q 0)
  if new = { old with en := new.en, part := new.part, ridx := new.ridx } && decide (old.ridx.toNat ≤ new.ridx.toNat) then u
  else u.modCl cl fun k => { k with firstSeen := k.firstSeen.filter fun p => p.1 % 4 != q }
/-- R349: a write of TQUANT begins the count of QUANT µs again for a wave that waits (DESIGN CHOICE, LOG 24). -/
def State.requant (s : State) (cl : Nat) : State := s.modCl cl fun k => { k with preTick := k.preTick.map fun _ => s.lease }
/-- A write of a control register by a thread of a serai, with all its effects; writes that a rule ignores leave the state. -/
def State.writeCr (s : State) (cl turn num : Nat) (v : DWord) : State :=
  let u := num / 65536
  let w := num % 65536
  let plain := s.modCr cl num fun old => crWrite num old v
  if u = 0 then
    if num = nMEPC then if s.isMonitor cl turn then s.setCrT cl (turn + 1) nMEPC v else s
    else if num = nTSLOTS then if 1024 < dwBits v 19 10 + 256 then s else plain
    else if num = nXRING ∨ num = nERING then if ringOk v 64 then plain else s
    else if num = nMBOX then
      let old := s.cr cl nMBOX
      if 1008 < dwBits v 19 10 ∨ (dwBit old 0 ∧ dwBits old 19 10 ≠ dwBits v 19 10) then s else plain
    else if nSRCLS 0 ≤ num ∧ num ≤ nSRCLS 15 then if 18 < dwBits v 4 0 then s else plain
    else plain
  else if u = 1 then
    if (0x100 ≤ w ∧ w < 0x210 ∨ 0x300 ≤ w ∧ w < 0x380) ∧ w % 4 = 1 then
      if dwBits v 4 1 < 4 ∨ 12 < dwBits v 4 1 then s
      else if 0x200 ≤ w ∧ w < 0x210 then plain.reread s cl num
      else plain
    else if 0x200 ≤ w ∧ w < 0x210 then plain.reread s cl num
    else if 0x500 ≤ w ∧ w < 0x700 then s.setReg cl ((w - 0x500) / 2) (w % 2) v
    else plain
  else if u = 2 then
    if num = nTCTL then s.writeTctl cl v
    else if w < 0x82 then if swst (s.cr cl nTCTL) = 7 then s else plain
    else if num = nTLOG then if ringOk v 16 then plain.logSpace cl else s
    else if num = nTLOGPTR then plain.logSpace cl
    else if num = nTQUANT then plain.requant cl
    else plain
  else if u = 3 then if num = nTBINV then s.tbinv cl v else plain
  else if u = 4 then
    if num = nBTLEN then if 65536 < dwBits v 16 0 then s else plain
    else if num = nHMIG then if dwBit v 0 then plain.beginVersion else plain
    else if 0x10 ≤ w ∧ w < 0x30 then
      if 4 < dwBits v 2 0 ∨ dwBit (s.cr 16 (nHGSTATE (w - 0x10))) 48 then s else plain
    else if 0xC0 ≤ w ∧ w < 0xC8 then s.setWctx (w - 0xC0) v
    else plain
  else if u = 5 then if num = nFABCTL then s.writeFabctl v else plain
  else if u = 6 then
    if w < 0x4000 then s.setPeer (w / 4) (w % 4) v
    else if num = nNETCTL then if dwBits v 15 0 = 0 then s else plain
    else plain
  else if u = 7 then
    if num = nSRUN then s.srun (v.extractLsb' 0 16)
    else if num = nRSTCTL then if dwBit v 0 then s.beginWarm (dwBit v 1) else plain
    else if num = nSTCMD then s.writeStcmd cl v
    else if num = nREPCMD then s.writeRepcmd v
    else if num = nATTREQ then s.writeAttreq cl v
    else plain
  else if 0x80 ≤ u ∧ u < 0x100 then
    if w = 0 then s.writeSpalloc cl (u - 0x80) v
    else if 0x10 ≤ w ∧ w ≤ 0x32 then s.writeQlim cl (u - 0x80) (w - 0x10) v
    else plain
  else s
/-- R302, R461: may the thread write the register? -/
def State.crAllowed (s : State) (cl turn num : Nat) : Bool :=
  if crMonitor num then s.isMonitor cl turn
  else if crSerai0 num then cl == 0 && s.isMonitor cl turn
  else true
/-- R303, R426, R461: a write of a register, made by turn 0 of a cluster's serai in the mode it is in. A write that only another
mode or shard may make is not made, and one of WCTX waits for the command in progress. -/
def execRegisterWrite (cl : Nat) (num : BitVec 24) (v : DWord) (s : State) : Host.Outcome State Fault Refusal :=
  .next (let n := num.toNat
    if 16 ≤ cl ∨ !s.crAllowed cl 0 n then s
    else if nWCTX 0 ≤ n ∧ n ≤ nWCTX 7 ∧ s.wctxWaits (n - nWCTX 0) v then s
    else s.writeCr cl 0 n v)

/-! ## Reads -/

/-- R470: the capability list: eight records of two words, the storage record last (LOG 13). -/
def State.capability (s : State) (w : Nat) : DWord :=
  let mask := fun (n : Nat) (f : Nat → Bool) => ((List.range n).map fun i => if f i then 2 ^ i else 0).sum
  let ids := [1, 2, 3, 4, 5, 7, 8, 6]
  let id := ids.getD (w / 2) 0
  if 16 ≤ w then 0
  else if w % 2 = 0 then BitVec.ofNat 64 (id + 256 + 65536 * (if w = 14 then 0 else w + 2))
  else BitVec.ofNat 64 (
    if id = 1 then 16 + 256 * 128 + 65536 * mask 16 (fun c => decide (4 ≤ getK 0 s.spares c))
    else if id = 2 then mask 8 fun k => !s.stkUnavail k
    else if id = 3 then mask 8 fun k => decide ((s.cr 16 (nWCTX k) &&& 0x10101010) ≠ 0)
    else if id = 4 then mask 8 s.portUp + 256 * ((List.range 8).map fun p => dwBits (s.cr 16 (nPORTSTAT p)) 1 0 * 4 ^ p).sum
    else if id = 5 then s.ethUp.toNat
    else if id = 6 then s.drives.toNat
    else if id = 8 then 8
    else 0)
/-- The value a read of a control register gives. -/
def State.readCr (s : State) (cl turn num : Nat) : DWord :=
  let u := num / 65536
  let w := num % 65536
  if crPerThread num then s.crT cl (turn + 1) num
  else if u = 8 then s.capability w
  else if 0x80 ≤ u ∧ u < 0x100 ∧ 0x10 ≤ w ∧ w ≤ 0x32 then
    dwSet (s.cr cl num) 22 16 (((s.core (cl * 128 + (u - 0x80))).queue (w - 0x10)).length)
  else s.cr cl num

/-! ## The instructions (R315) -/

def execCrget (g : Guard) (d : Operand) (a : Src) (s : State) : Host.Outcome State Fault Refusal :=
  .next (seraiOp s g { srcs := [{ pos := 0, src := a }], dst := some { o := d, n := 2, al := 2 } } fun _ s1 vs =>
    let v := s1.readCr (clusterOf s1.cur.core) s1.cur.turn (wBits (wordAt vs 0 0) 23 0)
    (s1.writeDst { o := d, n := 2, al := 2 } [(0, [loOf v, hiOf v])]).finish)
/-- R365: a `crset` that set SWAP has written TCTL; its thread goes on when SWST has left 7. -/
def State.holdSwap (s : State) : State :=
  s.modLane 0 fun t => if t.going then { t with status := .blockedQueue, wait := .swap } else t
/-- R188: a write of a register of a core acts on that core. -/
def State.pokeUnit (s : State) (cl num : Nat) : State :=
  if 0x80 ≤ num / 65536 then s.poke (cl * 128 + (num / 65536 - 0x80)) else s
/-- R315: the write. A write of WCTX waits for the command in progress (R426). -/
def execCrset (g : Guard) (a b : Src) (s : State) : Host.Outcome State Fault Refusal :=
  .next (seraiOp s g { srcs := [{ pos := 0, src := a }, { pos := 1, src := b, n := 2, al := 2 }] } fun s0 s1 vs =>
    let cl := clusterOf s1.cur.core
    let t := s1.cur.turn
    let num := wBits (wordAt vs 0 0) 23 0
    let v := pairAt vs 1
    if !s1.crAllowed cl t num then s0.privilegeFault
    else if nWCTX 0 ≤ num ∧ num ≤ nWCTX 7 ∧ s1.wctxWaits (num - nWCTX 0) v then s0.block .blockedQueue (.wctx (num - nWCTX 0) v)
    else if num = nTCTL ∧ dwBit v 9 ∧ swst (s1.cr cl nTCTL) ≠ 7 then ((s1.writeTctl cl v).finish).holdSwap
    else ((s1.writeCr cl t num v).pokeUnit cl num).finish)

end Sys2Proof.Machine
end

