-- ==== Sys2Proof/Machine/Ctrl.lean ====
section
/-! DEFINITION. Control instructions (R126 to R137), and the UNDEFINED forms of R67, R68 and R77. -/

namespace Sys2Proof.Machine

/-- R58, R126: the direct target. -/
def targetVal : Target → Int
  | .short v => v.toInt
  | .long v => v.toInt
def directTarget (s : State) (t : Target) : DWord := caAdd s.cur.pc (8 * targetVal t)

/-- The lanes of equal targets, in the order of their first lane. -/
def groupTargets : List (Nat × DWord × DWord × Bool) → List (DWord × DWord × Bool × List Nat)
  | [] => []
  | (l, t, w, la2) :: rest =>
    match (groupTargets rest).partition fun x => x.1 == t with
    | ([], others) => (t, w, la2, [l]) :: others
    | (x :: _, others) => (t, w, la2, l :: x.2.2.2) :: others

/-- R127 to R130, R178, R180: a transfer. Every active lane's target is checked (R50); a target whose line is not present, or
whose page needs a walk, holds the path (`s0`, before its operands were read); lanes that fail fault alone. If the lanes left have several next PCs, the path
divides. `link` receives the address after the instruction (R130). -/
def transfer (s0 s : State) (act : Mask) (indirect call : Bool) (link : Option Operand) (targets : List (Nat × DWord)) : State :=
  let c := s.cur.core
  let t := s.cur.turn
  let res : List (Nat × DWord × Tgt) := targets.map fun p => (p.1, p.2, s.checkTarget c t p.1 indirect p.2)
  match res.findSome? (fun r => match r.2.2 with | .miss b p => some (b, p) | _ => none) with
  | some (b, p) => s0.blockPage b p
  | none =>
  match res.find? (fun r => match r.2.2 with | .wait => true | _ => false) with
  | some r => s0.unissued.wantLine c t r.2.1
  | none =>
  let oks : List (Nat × DWord × DWord × Bool) := res.filterMap fun r => match r.2.2 with | .ok w la2 => some (r.1, r.2.1, w, la2) | _ => none
  -- R212: with a fault in every active lane, no walker advances
  let s1 := if oks.isEmpty then s0 else s
  -- R402: a fetch that an uncorrectable error ends posts it, once for the lanes of one target
  let s1 := ((res.filter fun r => match r.2.2 with | .bad code _ _ => code == 8 | _ => false).map fun r => (r.2.1, r.1)).foldl
    (fun (a : State × List DWord) p => if a.2.contains p.1 then a else (a.1.foundCode c t p.2 p.1, p.1 :: a.2)) (s1, []) |>.1
  let s1 := res.foldl (fun s r => match r.2.2 with | .bad code f x => s.takeFault r.1 code f x | _ => s) s1
  let groups := groupTargets oks
  let stay := Mask.ofLanes ((s.cur.lanes &&& ~~~act).lanes.filter fun l => (s.curThread l).status == .ready)
  let moving := Mask.ofLanes (oks.map (·.1))
  let nexts : List DWord := groups.map (fun g => g.1) ++ (if stay = 0 then [] else [s.cur.nextPc])
  let th := s.thread c t ((s.cur.lanes.lanes).headD 0)
  let s2 := if 2 ≤ nexts.eraseDups.length then
      s1.modCurWave fun w => w.divide th.hdr (if th.la2 then 0 else th.hdrW.extractLsb' 28 16) (moving ||| stay)
    else s1
  let s3 := match link with
    | some (.reg r) => s2.modThreads c t moving fun _ th => th.setRegs r [loOf s.cur.nextPc, hiOf s.cur.nextPc]
    | some o => s2.writeDst { o, n := 2 } (oks.map fun (p : Nat × DWord × DWord × Bool) => (p.1, [loOf s.cur.nextPc, hiOf s.cur.nextPc]))
    | none => s2
  let s4 := s3.modThreads c t moving fun _ th => { th with wait := .none, walked := [] }
  let s5 := groups.foldl (fun s g => s.goTo (Mask.ofLanes g.2.2.2) call g.1 g.2.1 g.2.2.1) s4
  let s6 := if moving ||| stay = 0 then s5 else s5.issued
  if stay = 0 then s6 else s6.advance stay

/-- A transfer whose target every active lane shares. -/
def directOp (s : State) (g : Guard) (call : Bool) (d : Option Operand) (t : Target) : State :=
  match prep s g { dst := d.map fun o => { o, n := 2, al := 2 } } with
  | .stop s => s
  | .go s0 s1 rows => transfer s0 s1 (Mask.ofLanes (rows.map (·.1))) false call d (rows.map fun p => (p.1, directTarget s1 t))
/-- A transfer to the pair S1 of each active lane. -/
def indirectOp (s : State) (g : Guard) (call : Bool) (d : Option Operand) (a : Src) : State :=
  match prep s g { srcs := [{ pos := 0, src := a, n := 2, al := 2 }], dst := d.map fun o => { o, n := 2, al := 2 } } with
  | .stop s => s
  | .go s0 s1 rows => transfer s0 s1 (Mask.ofLanes (rows.map (·.1))) true call d (rows.map fun p => (p.1, pairAt p.2 0))

def execBr (g : Guard) (t : Target) (s : State) : Host.Outcome State Fault Refusal := .next (directOp s g false none t)
/-- R128: the end flag of a dimension. -/
def endFlag (w : Walker) (dim : BitVec 2) : Bool := match dim.toNat with | 0 => w.e0 | 1 => w.e1 | _ => w.e2
def execBre (g : Guard) (dim : BitVec 2) (neg : Bool) (w : Nat) (t : Target) (s : State) : Host.Outcome State Fault Refusal :=
  let wk := (s.wave s.cur.core s.cur.turn).walker w
  if (wk.bound && endFlag wk dim) != neg then .next (directOp s g false none t)
  else .next (match prep s g {} with | .stop s => s | .go _ s1 _ => s1.finish)
def execJmp (g : Guard) (a : Src) (s : State) : Host.Outcome State Fault Refusal := .next (indirectOp s g false none a)
def execCall (g : Guard) (d : Operand) (t : Target) (s : State) : Host.Outcome State Fault Refusal := .next (directOp s g true (some d) t)
def execCallr (g : Guard) (d : Operand) (a : Src) (s : State) : Host.Outcome State Fault Refusal := .next (indirectOp s g true (some d) a)
def execRet (g : Guard) (a : Src) (s : State) : Host.Outcome State Fault Refusal := .next (indirectOp s g false none a)

/-- R131: each active thread becomes exited; the others fall through. -/
def execExit (g : Guard) (s : State) : Host.Outcome State Fault Refusal :=
  .next (match prep s g {} with
    | .stop s => s
    | .go _ s1 rows =>
      let act := Mask.ofLanes (rows.map (·.1))
      let s2 := if s1.cur.lanes &&& ~~~act = 0 then s1.issued else s1.issued.advance (s1.cur.lanes &&& ~~~act)
      s2.exitLanes s1.cur.core s1.cur.turn act)
/-- R132, R176: the yield acts on the path state at the end of the cycle. -/
def execYield (g : Guard) (s : State) : Host.Outcome State Fault Refusal :=
  .next (match prep s g {} with
    | .stop s => s
    | .go _ s1 _ =>
      (s1.modCore s1.cur.core fun k => { k with cycle := { k.cycle with yields := k.cycle.yields ++ [(s1.cur.turn, s1.cur.lanes)] } }).finish)
/-- R133: BREAKPOINT in every active lane. -/
def execBrk (g : Guard) (code : BitVec 16) (s : State) : Host.Outcome State Fault Refusal :=
  .next (match prep s g {} with
    | .stop s => s
    | .go _ s1 rows => (s1.takeFaults (Mask.ofLanes (rows.map (·.1))) 0x0B (code.setWidth 32)).finish)
/-- R136: the repeat state is set in each active lane as the PC moves to the repeated instruction. -/
def execRep (g : Guard) (count : BitVec 7) (mask : BitVec 4) (step : BitVec 2) (s : State) : Host.Outcome State Fault Refusal :=
  .next (match prep s g {} with
    | .stop s => s
    | .go _ s1 rows =>
      s1.finish.modThreads s1.cur.core s1.cur.turn (Mask.ofLanes (rows.map (·.1))) fun _ t =>
        { t with repCnt := count, repMask := mask, repStep := step })
def execNop (g : Guard) (s : State) : Host.Outcome State Fault Refusal :=
  .next (match prep s g {} with | .stop s => s | .go _ s1 _ => s1.finish)

/-- R301: the opcodes that are unassigned at a serai. -/
def seraiLacks (op : Nat) : Bool :=
  (decide (0x124 ≤ op) && decide (op ≤ 0x126)) || (decide (0x130 ≤ op) && decide (op ≤ 0x133)) || (decide (0x160 ≤ op) && decide (op ≤ 0x167)) ||
  (decide (0x180 ≤ op) && decide (op ≤ 0x183)) || op == 0x190
/-- R67, R68: an UNDEFINED fault in every lane of the path, whatever the predicate. A word whose opcode lies in 0x194 to 0x1AF,
assigned or not, has cause 7 on a compute core, and one whose opcode a serai lacks has cause 0 there (R301). -/
def execUnassignedOpcode (op : BitVec 10) (cause : BitVec 3) (s : State) : Host.Outcome State Fault Refusal :=
  .next (s.undefined s.cur.lanes op.toNat
    (if !s.cur.la2 ∧ !isSerai s.cur.core ∧ 0x194 ≤ op.toNat ∧ op.toNat ≤ 0x1AF then 7
     else if isSerai s.cur.core ∧ seraiLacks op.toNat then 0 else cause.toNat))
/-- R77, R84: an LA2 word with no LA3 equivalent issues: UNDEFINED with cause 6 and opcode 0x384, and the record carries the LA2 word. -/
def execLa2UntranslatableForm (word : DWord) (s : State) : Host.Outcome State Fault Refusal :=
  .next (s.undefined s.cur.lanes 0x384 6 word)

end Sys2Proof.Machine
end

