-- ==== Sys2Proof/Machine/Cycle.lean ====
section
/-! DEFINITION. A core's cycle: the vote and the choice of the ports (R169 to R173, R418), the path quantum (R174 to R176),
reconvergence release (R184) and the end of a cycle (R42, R188). -/

namespace Sys2Proof.Machine

/-! ## Paths and the vote -/

/-- Lanes with one PC. -/
def addPath (l : Nat) (pc : DWord) : List (DWord × Mask) → List (DWord × Mask)
  | [] => [(pc, Mask.single l)]
  | (p, m) :: r => if p = pc then (p, m ||| Mask.single l) :: r else (p, m) :: addPath l pc r
/-- R169: the paths of a wave. -/
def Wave.paths (w : Wave) : List (DWord × Mask) :=
  if !w.live || w.busy then []
  else (w.threads.filter fun p => p.2.status == .ready).foldl (fun ps p => addPath p.1 p.2.pc ps) []
/-- R171: the path with the lowest PC. -/
def lowest : List (DWord × Mask) → Option (DWord × Mask)
  | [] => none
  | p :: r => match lowest r with
    | some q => if q.1.toNat < p.1.toNat then some q else some p
    | none => some p
/-- R171, R175: the priority path. -/
def Wave.priority (w : Wave) (ps : List (DWord × Mask)) : Option (DWord × Mask) :=
  if w.rot then lowest (ps.filter fun p => (p.2 &&& w.rotMask) != 0) else lowest ps
/-- R175: a rotation ends. -/
def Wave.endRot (w : Wave) : Wave := { w with rot := false, qcnt := 0 }
/-- R418: the waves that take part in the vote of a throttled core. -/
def Core.throttledVote (k : Core) : Core :=
  match k.throttle with
  | none => k
  | some _ =>
    let kept := k.admitted.filter fun t => (k.wave t).hasPath
    let after := match k.admitted.getLast? with | some t => t + 1 | none => k.nextA
    let more := (turnsFrom after).filter fun t => (k.wave t).hasPath && !kept.contains t
    { k with admitted := (kept ++ more).take 4 }
/-- R132, R170: step 1 of a cycle skips a wave that is passed over, when another wave is ready. -/
def Core.skips (k : Core) (order : List Nat) (t : Nat) : Bool := k.passOver.contains t && order.any (· != t)
/-- R170, R175, R176: the vote of a cycle: the paths, and the choices of the ports. Where step 1 skips every wave that is ready, port A
issues nothing and port B takes the first of them from NEXTA (DESIGN CHOICE, LOG 11). -/
def Core.vote (k : Core) : Core :=
  let k := k.throttledVote
  let part := fun (t : Nat) => (k.wave t).hasPath && (k.throttle.isNone || k.admitted.contains t)
  -- a rotation none of whose lanes belongs to a path ends
  let waves := k.waves.map fun p =>
    (p.1, if p.2.rot && !p.2.busy && !(p.2.paths.any fun q => (q.2 &&& p.2.rotMask) != 0) then p.2.endRot else p.2)
  let k := { k with waves }
  let order := (turnsFrom k.nextA).filter part
  let ta := order.find? fun t => !k.skips order t
  let pa := ta.bind fun t => (k.wave t).priority (k.wave t).paths
  let second := ta.bind fun t => lowest ((k.wave t).paths.filter fun p => some p != pa)
  let next := match ta with | some t => (turnsFrom (t + 1)).find? fun u => part u && u != t | none => order.head?
  let at_ := fun (t : Option Nat) (p : Option (DWord × Mask)) => t.bind fun t => p.map fun p => (t, p.1, p.2)
  let a := at_ ta pa
  let b := if second.isSome then at_ ta second else at_ next (next.bind fun u => (k.wave u).priority (k.wave u).paths)
  { k with
    nextA := match ta with | some t => (t + 1) % 16 | none => k.nextA
    passOver := k.passOver.filter fun t => !(order.any (· != t))
    cycle :=
      { phase := 1
        paths := order.flatMap fun u => (k.wave u).paths.map fun p => (u, p.1, p.2)
        a, b
        tiles := ((a.toList ++ b.toList).map (·.1)).eraseDups.map fun u => (u, (k.wave u).tile) } }

/-! ## The path quantum (R174 to R176) -/

/-- R175: a rotation begins, when some lane that `skip` does not hold belongs to a waiting path. The scan goes on from the lane of the
last rotation, so that a lane that waits at 32 rotations has begun one of them (R177). -/
def Wave.beginRot (w : Wave) (waiting : List (DWord × Mask)) (skip : Mask) : Wave :=
  let lane := ((List.range 32).map fun i => (w.rotLane + 1 + i) % 32).find? fun l =>
    !skip.getLsbD l && waiting.any fun p => p.2.getLsbD l
  match lane with
  | none => { w with qcnt := 0 }
  | some l =>
    { w with rot := true, qcnt := 0, rotLane := l, rotLeft := w.quant
             rotMask := (waiting.find? fun p => p.2.getLsbD l).elim 0 (·.2) }
/-- The paths of a wave that wait in a cycle. -/
def Cycle.waiting (y : Cycle) (t : Nat) : List (DWord × Mask) :=
  ((y.paths.filter fun p => p.1 == t && !(y.aDone && y.a == some p) && !(y.bDone && y.b == some p)).map (·.2))
/-- Did the priority path of a wave issue in the cycle? -/
def Cycle.priorityIssued (y : Cycle) (t : Nat) : Bool :=
  if y.a.any fun p => p.1 == t then y.aDone else y.bDone && y.b.any fun p => p.1 == t
/-- The lanes of the priority path of a wave that a port has chosen. -/
def Cycle.priorityLanes (y : Cycle) (t : Nat) : Mask :=
  (((y.a.toList ++ y.b.toList).find? fun p => p.1 == t).map (·.2.2)).getD 0
/-- R175: QCNT and ROTLEFT count an issue of the priority path. -/
def Wave.countIssue (w : Wave) (waiting : List (DWord × Mask)) : Wave :=
  if w.rot then { w with rotLeft := w.rotLeft - 1 }
  else if waiting.isEmpty then { w with qcnt := 0 }
  else { w with qcnt := w.qcnt + 1 }
/-- R175: QCNT has reached QUANT, with no rotation in force: one begins. -/
def Wave.rotateIfDue (w : Wave) (waiting : List (DWord × Mask)) : Wave :=
  if !w.rot && !waiting.isEmpty && decide (w.quant ≤ w.qcnt) then w.beginRot waiting 0 else w
/-- R175: ROTLEFT has reached 0: the rotation ends. -/
def Wave.endIfDone (w : Wave) : Wave := if w.rot && w.rotLeft == 0 then w.endRot else w
/-- R175: the end of a cycle in which the priority path has issued. -/
def Wave.quantum (w : Wave) (waiting : List (DWord × Mask)) : Wave :=
  let c := w.countIssue waiting
  if w.rot then c.endIfDone else c.rotateIfDue waiting
/-- R132, R176: a `yield` by the lanes `m` of a wave; the second part says that the wave is passed over. -/
def Wave.yielded (w : Wave) (y : Cycle) (t : Nat) (m : Mask) : Wave × Bool :=
  let waiting := y.waiting t
  if w.rot && (m &&& y.priorityLanes t) == 0 then (if y.priorityIssued t then w.quantum waiting else w, false)
  else
    let w := if w.rot then w.endRot else w
    if waiting.isEmpty then ({ w with qcnt := 0 }, true) else (w.beginRot waiting m, false)

/-! ## Reconvergence (R184) -/

/-- R184: an entry all of whose remaining members have arrived is discarded. -/
def Recon.due (r : Recon) : Bool := (r.members &&& ~~~r.arrived) != 0
/-- R184: a parked lane that no entry holds becomes ready at the header, and so at the first instruction of its block (R49); one
whose block is not known enters its header again. -/
def Thread.unpark (t : Thread) : Thread := { t with status := .ready, pc := if t.hdrW = 0 ∧ !t.la2 then t.pc else caAdd t.pc 8 }
/-- R184: the entries and the parked lanes of a wave at the end of a cycle. Released lanes leave the entries whose region their
header ends (R182). -/
def Wave.release (w : Wave) : Wave :=
  let recon := w.recon.filter fun p => p.2.due
  let free := w.threads.filter fun p => p.2.status == .parkedRecon && !(recon.any fun q => q.2.raddr == p.2.pc && q.2.members.getLsbD p.1)
  { w with recon := recon.map fun q => (q.1, free.foldl (fun (r : Recon) p => r.leave p.1 p.2.pc (caAdd p.2.pc 8)) q.2)
           threads := w.threads.map fun p => if free.any fun q => q.1 == p.1 then (p.1, p.2.unpark) else p }
/-- R184: does the end of a cycle discard an entry of the wave or release a lane? -/
def Wave.releases (w : Wave) : Bool := w.release != w

/-! ## The end of a cycle -/

/-- R188: the core stops its issue clock when no thread is ready. -/
def Core.gate (k : Core) : Core :=
  if k.awake then k else { k with gated := true }
/-- R188: a waking core counts the 24 cycles before its first issue. -/
def Core.wake (k : Core) : Core := if k.gated then { k with gated := false, cyc := k.cyc + 24 } else k
/-- R42, R175, R176, R184, R188, R249: the end of a cycle. -/
def Core.endCycle (k : Core) : Core :=
  let y := k.cycle
  let turns := (y.paths.map (·.1)).eraseDups
  let k : Core := turns.foldl (fun (k : Core) t =>
    match y.yields.find? (fun p => p.1 == t) with
    | some p =>
      let r := (k.wave t).yielded y t p.2
      let k := k.modWave t fun _ => r.1
      if r.2 then { k with passOver := t :: k.passOver.filter (· != t) } else k
    | none => if y.priorityIssued t then k.modWave t fun w => w.quantum (y.waiting t) else k) k
  let waves := k.waves.map fun (p : Nat × Wave) => (p.1, p.2.release)
  let k := y.told.foldl (fun (k : Core) b => k.modBank b fun x => x.set 20 20 0) k
  ({ k with waves, cyc := k.cyc + 1, cycle := {} } : Core).gate

/-! ## The same as steps of their own -/

/-- R175: QCNT has reached QUANT: a rotation begins. -/
def execRotationBegin (core turn : Nat) (s : State) : Host.Outcome State Fault Refusal :=
  .next (s.modCore core fun k => k.modWave turn fun w => w.rotateIfDue (k.cycle.waiting turn))
/-- R175: ROTLEFT is 0, or no lane of the promoted path belongs to a path: the rotation ends. -/
def execRotationEnd (core turn : Nat) (s : State) : Host.Outcome State Fault Refusal :=
  .next (s.modCore core fun k => k.modWave turn fun w =>
    if w.rot && !(w.paths.any fun q => (q.2 &&& w.rotMask) != 0) then w.endRot else w.endIfDone)
def execReconvergenceRelease (core turn : Nat) (s : State) : Host.Outcome State Fault Refusal :=
  .next (s.modCore core fun k => k.modWave turn fun w => w.release)
def execCoreClockGate (core : Nat) (s : State) : Host.Outcome State Fault Refusal :=
  .next (s.modCore core fun k => if k.cycle.phase = 0 then k.gate else k)

end Sys2Proof.Machine
end

