-- ==== Sys2Proof/Machine/Ready.lean ====
section
/-! DEFINITION. What a blocked path waits for (R28), and how its threads become ready. -/

namespace Sys2Proof.Machine

/-- Is a lane of a wave blocked? A lane that no longer is waits for nothing. -/
def Wave.isBlocked (w : Wave) (l : Nat) : Bool :=
  (w.thread l).status == .blockedEmpty || (w.thread l).status == .blockedQueue
/-- R219: the queues after pops, as (port, entries) in operand order, if each finds its entries; a port without a queue is found at
the next attempt. -/
def Core.popped (k : Core) : List (Nat × Nat) → Option Core
  | [] => some k
  | p :: ps => match k.portQueue p.1 with
    | some q => if p.2 ≤ (k.queue q).length then (k.setQueue q ((k.queue q).drop p.2)).popped ps else none
    | none => k.popped ps
/-- R219: would pops and pushes be accepted now? The pushes are evaluated after the pops' entries are freed. -/
def State.portsMet (s : State) (c : Nat) (pops pushes : List (Nat × Nat)) : Bool :=
  match (s.core c).popped pops with
  | some k => pushes.all fun p => match k.portQueue p.1 with | some q => s.pushesOk c p.2 k q | none => true
  | none => false
/-- R21, R26, R28, R29: does what a thread waits for hold? -/
def State.waitMet (s : State) (c t l : Nat) (x : Wait) : Bool :=
  let k := s.core c
  let w := k.wave t
  let cl := clusterOf c
  match x with
  | .none => true
  | .regs rs => rs.all fun p => !w.isBlocked p.1 || !(w.thread p.1).isEmpty p.2
  | .lanes rs => rs.all fun p => !(w.thread p.1).isEmpty p.2
  -- R214: a lane whose element no longer misses, or that no longer waits, holds nothing back
  | .walker needs => needs.all fun p =>
      let x := w.walker p.1
      !x.bound || !w.isBlocked p.2.2 || !({ s with cur := { s.cur with core := c, turn := t } } : State).walkerMiss p.2.2 (x.ahead p.2.1)
  | .ports pops pushes => s.portsMet c pops pushes
  | .page bti page => !((s.cl cl).walks.any fun v => v.bti == bti && v.page == page)
  -- R258, R259: lanes whose batch has failed fault while the others wait on
  | .waitb cls ns =>
      (ns.any fun p => w.isBlocked p.1 && ((w.thread p.1).batch cls).failed.isSome) ||
      ns.all fun p => !w.isBlocked p.1 || decide (((w.thread p.1).batch cls).queue.length ≤ p.2)
  | .sealed cls lanes =>
      (lanes.any fun l => w.isBlocked l && ((w.thread l).batch cls).failed.isSome) ||
      lanes.all fun l => !w.isBlocked l || decide (((w.thread l).batch cls).queue.length < 15)
  | .fence sc lanes => lanes.all fun l => !w.isBlocked l || s.fenceMet sc c t l
  | .pend banks => banks.all fun b => (k.bank b).pend == 0
  | .latheRoom => decide (k.lathe.length < 4)
  | .copyEntry => k.freeCopy.isSome
  | .depotFree => (s.cl cl).freeSlot.isSome
  | .depotMatch chan => ((s.cl cl).matchSlot chan (coreIndex c)).isSome
  | .trapPlace => (s.trapPlace c t).isSome
  | .spawnRoom => decide (k.spawns.length < 8)
  | .waysideRoom => decide (k.ways.length < 8)
  | .netEntry => k.freeNet.isSome
  | .nctr ws => ws.all fun p => !w.isBlocked p.1 || nctrMet (s.cr cl (nNCTR p.2.1)) p.2.2
  | .mailRoom r ring => decide ((s.cl r).mailUsed ring < 16) || !s.accepts r
  | .mail mask => ((s.cl cl).nextSender mask).isSome
  | .swap => swst (s.cr cl nTCTL) != 7
  | .wctx k v => !s.wctxWaits k v
  | .stores wh => s.storesMet c t l wh
  | .saving c t area _ => !s.saving c t area
/-- R28: a blocked thread whose condition is met becomes ready, with the threads of its path. -/
def execBlockedReady (core turn lane : Nat) (s : State) : Host.Outcome State Fault Refusal :=
  .next (let th := s.thread core turn lane
    if !(s.wave core turn).isBlocked lane ∨ !s.waitMet core turn lane th.wait then s
    else s.modWave core turn fun w => { w with threads := w.threads.map fun p =>
      if p.2.status = th.status ∧ p.2.wait = th.wait ∧ p.2.pc = th.pc then (p.1, { p.2 with status := .ready }) else p })

end Sys2Proof.Machine
end

