-- ==== Sys2Proof/Machine/Fetch.lean ====
section
/-! DEFINITION. Instruction fetch (R45 to R49, R75 to R77): filling lines of the instruction cache, entering pending headers,
decoding the word at a PC, and a core's next move. -/

namespace Sys2Proof.Machine

/-! ## The instruction cache (R45, R75) -/

/-- R5: how many lines an instruction cache of 32 KiB holds. -/
def icacheLines : Nat := 512
/-- A line enters an instruction cache; which line a full one gives up for it is open (LOG 11). -/
def State.installLine (s : State) (core n : Nat) (l : ILine) : State :=
  let (v, s) := s.openNat
  s.modCore core fun k =>
    let old := k.icache.filter fun x => x.1 != n
    let kept := if old.length < icacheLines then old else old.eraseIdx (v % old.length)
    { k with fills := k.fills.filter (· != n), icache := insK kept n l }

/-- R45, R48: a requested line is filled with the code-address checks; a request that fails them is dropped, and the path that
needs the line finds out why when it attempts again. The check covers the first word of the line: a line in which LENGTH ends is
filled whole, and its words from LENGTH on are refused only where a transfer or a fetch checks them (DESIGN CHOICE, LOG 11). A line of a serai's monitor code comes from its local SRAM (LOG 10). -/
def execIcacheLineFill (core : Nat) (line : DWord) (s : State) : Host.Outcome State Fault Refusal :=
  let n := line.toNat
  let cl := clusterOf core
  let words := fun (bs : List Byte) => (List.range 8).map fun i => (BitVec.ofNat 64 (natOfBytes ((bs.drop (8 * i)).take 8)) : DWord)
  let drop := s.modCore core fun k => { k with fills := k.fills.filter (· != n) }
  let install := fun (s : State) (l : ILine) => s.installLine core n l
  .next (
    if !(s.core core).fills.contains n then s
    else if 2 ^ 60 ≤ n then
      let a := seraiAddr cl ((n - 2 ^ 60) * 64)
      if s.badSram.contains (a / 128) then drop else install s { la2 := false, words := words (s.rdSram a 64) }
    else
      let pc : DWord := BitVec.ofNat 64 (n * 64)
      match s.checkBuf cl [] (s.partOf core) (some (caBti pc)) (caOff pc) 8 rEXEC with
      | .ok (.hbm d) e =>
        let p : Place := .hbm d
        if s.heldPlace p then s
        else if (s.homeDown p 64).isSome then (if s.hbmBad d then (drop.touchPlace p (if isSerai core then none else some core)).reportBad p else drop)
        else
          let s' := (s.touchPlace p (if isSerai core then none else some core)).useTlb cl (caBti pc) (caOff pc / 65536)
          install s' { la2 := eLa2 e, words := words (s.rdHome p 64) }
      | _ => drop)

/-- R45, R421: the check of a fetch; one that a stack has held for too long has failed, whatever its translation. -/
def State.fetchChk (s : State) (c : Nat) (walked : List WalkRes) (a : DWord) : Chk :=
  match walked.find? fun w => w.bti == caBti a && w.page == caOff a / 65536 && decide (16 ≤ w.res) with
  | some w => checkEntry (s.partOf c) (caBti a) (caOff a) 8 rEXEC w.res w.entry 0
  | none => s.checkBuf (clusterOf c) walked (s.partOf c) (some (caBti a)) (caOff a) 8 rEXEC
/-- R45, R409: the path needs a line that is not present: it asks for it, waits for its translation, or takes the fault that
the checks give. A buffer reached through the fabric holds no code (LOG 11). DESIGN CHOICE (LOG 11): no word has been read, so WORD of the
record of such a fault is 0. -/
def State.fetchMiss (s : State) (a : DWord) : State :=
  let c := s.cur.core
  let t := s.cur.turn
  let m := s.cur.lanes
  let x := BitVec.ofNat 64 (caOff a)
  if s.localCode c t a then
    if s.badSram.contains (seraiAddr (clusterOf c) a.toNat / 128) then (s.takeFaults m 8 32 x) else s.unissued.wantLine c t a
  else match s.fetchChk c (s.thread c t (m.lanes.headD 0)).walked a with
  | .miss b p => s.blockPage b p
  | .bad code f x => s.takeFaults m code f x
  | .ok (.far ..) _ => s.takeFaults m 7 (accessInfo 1 rEXEC (caBti a)) x
  | .ok p _ => match s.homeDown p 8 with
    | some d => (s.foundCode c t (m.lanes.headD 0) a).takeFaults m 8 (BitVec.ofNat 32 (d + 2 ^ 16 * caBti a)) x
    | none => s.unissued.wantLine c t a

/-! ## Pending headers (R47, R49, R50) -/

/-- A thread whose block's header is still to be entered; one that faulted at its header meets it again. -/
def Thread.pending (t : Thread) : Bool := (t.hdrW == 0 || t.hdr == t.pc) && !t.la2
/-- The lanes of `cur`, which stand at a header still to be entered, enter it: at the start of a wave with the checks of an
indirect transfer (R324), at the entry of monitor mode with those of a direct one (R315), by fall-through otherwise. -/
def State.enterPending (s : State) : State :=
  let c := s.cur.core
  let t := s.cur.turn
  let m := s.cur.lanes
  let l := m.lanes.headD 0
  let th := s.thread c t l
  let pc := s.cur.pc
  if th.hdr = 1 ∨ th.hdr = 2 then
    match s.checkTarget c t l (th.hdr == 1) pc with
    | .ok w la2 =>
      if la2 then s.modThreads c t m fun _ x => { x with hdr := pc, hdrW := 0, la2 := true, wait := .none, walked := [] }
      else (s.modThreads c t m fun _ x => { x with hdr := pc, wait := .none, walked := [] }).enterHeader c t m s.cur.n pc w
    | .wait => s.unissued.wantLine c t pc
    | .miss b p => s.blockPage b p
    | .bad code f x => (if code = 8 then s.foundCode c t l pc else s).takeFaults m code f x
  else if (s.codeLine c t pc).isSome then s.fallTo c t m s.cur.n pc
  else s.fetchMiss pc

/-! ## Issue -/

/-- What a step does: run an instruction in a state, or only take a state. -/
inductive Todo where
  | run (i : Instr) (s : State)
  | only (s : State)

/-- An opcode field whose word is UNDEFINED with a cause (R68). -/
def undef (w : DWord) (cause : Nat) : Instr := .unassignedOpcode (w.extractLsb' 0 10) (BitVec.ofNat 3 cause)
/-- R47, R48, R136: the instruction at an instruction position of a block: `pos` counts words from the header. -/
def blockInstr (w next : DWord) (pos len : Nat) : Instr :=
  let n := if hasExt w then 2 else 1
  if len < pos + n - 1 then undef w 5
  else match decodeWord w next with
  | .error e => undef w e
  | .ok i =>
    if i.endsBlock && pos + n - 1 != len then undef w 5
    else match i with
    | .rep .. => if pos = len then undef w 5 else i
    | _ => i
/-- R77, R83: the instruction of an LA2 word; a record made in translated code holds the LA2 word itself (R84). -/
def la2Instr (w : DWord) : Instr :=
  match decodeLa2 w with
  | .ok i => i
  | .error e => undef (match la2Translate w with | some c => c.raw.toWord | none => w) e
/-- The path of `cur` attempts to issue the instruction at its PC. -/
def State.issueAt (s : State) : Todo :=
  let c := s.cur.core
  let t := s.cur.turn
  let m := s.cur.lanes
  let pc := s.cur.pc
  let due := Mask.ofLanes (m.lanes.filter fun l => !(s.curThread l).defer.isEmpty)
  if due ≠ 0 then .only (s.takeDeferred due)
  else match s.codeLine c t pc with
  | none => .only (s.fetchMiss pc)
  | some ln =>
    let th := s.curThread (m.lanes.headD 0)
    let w := ln.at pc
    if ln.la2 then
      .run (la2Instr w) ({ s with cur := { s.cur with word := w, words := 1, la2 := true } }.modThreads c t m fun _ x =>
        if x.la2 then x else { x with hdr := pc, hdrW := 0, la2 := true })
    else if th.la2 then .only (s.modThreads c t m fun _ x => { x with hdr := pc, hdrW := 0, la2 := false })
    else
      let pos := (caOff pc - caOff th.hdr) / 8
      let len := dwBits th.hdrW 17 10
      let n := if hasExt w then 2 else 1
      let s := { s with cur := { s.cur with word := w, words := n, la2 := false } }
      if n = 1 ∨ len < pos + 1 then .run (blockInstr w 0 pos len) s
      else
        let next := caAdd pc 8
        match s.codeLine c t next with
        | none => .only (s.fetchMiss next)
        | some ln2 => .run (blockInstr w (ln2.at next) pos len) s
/-- A path attempts to issue: pending headers are entered on the way (R49). -/
def State.attempt (s : State) : Todo :=
  let pend := Mask.ofLanes (s.cur.lanes.lanes.filter fun l => (s.curThread l).pending)
  if pend = 0 then s.issueAt
  else
    let s := { s with cur := { s.cur with lanes := pend } }.enterPending
    let live := pend.lanes.filter fun l => (s.curThread l).going && !(s.curThread l).pending
    let dest := (s.curThread (live.headD 0)).pc
    let on := Mask.ofLanes (live.filter fun l => (s.curThread l).pc == dest)
    -- R49, R172, R175: a path that only parks at the header has issued nothing; one that faults there has used its slot
    if on = 0 then .only (if pend.lanes.all fun l => (s.curThread l).status == .parkedRecon then s.unissued else s)
    else { s with cur := { s.cur with lanes := on, pc := dest } }.issueAt
/-- R170, R172: a port's choice, as far as its path still stands. -/
def State.portTodo (s : State) (c : Nat) (portB : Bool) (choice : Option (Nat × DWord × Mask)) : Todo :=
  match choice with
  | none => .only s
  | some (t, pc, m) =>
    let w := s.wave c t
    let m := if w.live && !w.busy then Mask.ofLanes (m.lanes.filter fun l => (w.thread l).status == .ready && (w.thread l).pc == pc) else 0
    if m = 0 then .only s
    else
      let (n, s) := s.bump
      let s := s.modCore c fun k => { k with cycle := if portB then { k.cycle with bDone := true } else { k.cycle with aDone := true } }
      { s.settle c with cur := { core := c, turn := t, portB, lanes := m, pc, n } }.attempt
/-- R6, R7, R412: time passes: how much is open (LOG 3). -/
def State.tick (s : State) : State := ({ s.later (Config.elapsed s.fresh) with fresh := s.fresh + 1 } : State).hashWindow
/-- A core's next move: port A after the vote, port B, the end of the cycle. -/
def State.coreTodo (s : State) (c : Nat) : Todo :=
  let y := (s.core c).cycle
  if y.phase = 0 then
    let s := s.modCore c fun k => k.wake.vote
    s.portTodo c false (s.core c).cycle.a
  else if y.phase = 1 ∧ y.b.isSome then
    (s.modCore c fun k => { k with cycle := { k.cycle with phase := 2 } }).portTodo c true y.b
  else .only (s.tick.modCore c Core.endCycle)

end Sys2Proof.Machine
end

