-- ==== Sys2Proof/Machine/Pred.lean ====
section
/-! DEFINITION. Predicate instructions (R124, R125). -/

namespace Sys2Proof.Machine

/-- R124: the operations of `plog`. -/
def plogVal (op : BitVec 5) (a b : Bool) : Bool :=
  match op.toNat with | 0 => a && b | 1 => a || b | 2 => a != b | 3 => a && !b | _ => a || !b
def execPlog (g : Guard) (op : BitVec 5) (kd ka kb : BitVec 3) (s : State) : Host.Outcome State Fault Refusal :=
  .next (predOp s g { rep := true, other := [0, 1, 2] } kd fun s l _ => (plogVal op ((s.curThread l).pred ka) ((s.curThread l).pred kb), 0))
def execPget (g : Guard) (d : Operand) (s : State) : Host.Outcome State Fault Refusal :=
  .next (laneOp s g { dst := some { o := d }, rep := true } fun s l _ => (s, [((s.curThread l).preds ||| 1).setWidth 32], 0))
/-- R124: predicates 1 to 7 are replaced where the mask has a 1. -/
def putPreds (t : Thread) (v m : Word) : Thread :=
  let v8 : BitVec 8 := v.extractLsb' 0 8
  let m8 : BitVec 8 := m.extractLsb' 0 8 &&& 0xFE
  { t with preds := (t.preds &&& ~~~m8) ||| (v8 &&& m8) }
def execPput (g : Guard) (a b : Src) (s : State) : Host.Outcome State Fault Refusal :=
  .next (match prep s g { srcs := [{ pos := 0, src := a }, { pos := 1, src := b }], rep := true } with
    | .stop s => s
    | .go _ s1 rows => (rows.foldl (fun s p => s.modLane p.1 fun t => putPreds t (wordAt p.2 0 0) (wordAt p.2 1 0)) s1).finish)
def execPbit (g : Guard) (dbl : Bool) (kd : BitVec 3) (a b : Src) (s : State) : Host.Outcome State Fault Refusal :=
  .next (predOp s g { srcs := [dblSrc dbl 0 a, { pos := 1, src := b }], rep := true, other := [0] } kd fun _ _ vs =>
    ((natOfWords (vs.getD 0 [])).testBit ((wordAt vs 1 0).toNat % (32 * dblRegs dbl)), 0))

end Sys2Proof.Machine
end

