-- ==== Sys2Proof/Machine/Dispatch.lean ====
section
/-! DEFINITION. The meaning of every instruction, command and event of the table: one arm per constructor of `Instr`. -/

namespace Sys2Proof.Machine

def exec (i : Instr) (s : State) : Host.Outcome State Fault Refusal :=
  match i with
  | .add g ty d a b => Sys2Proof.Machine.execAdd g ty d a b s
  | .addImm g ty d a v1 => Sys2Proof.Machine.execAddImm g ty d a v1 s
  | .sub g ty d a b => Sys2Proof.Machine.execSub g ty d a b s
  | .subImm g ty d a v1 => Sys2Proof.Machine.execSubImm g ty d a v1 s
  | .mul g ty d a b => Sys2Proof.Machine.execMul g ty d a b s
  | .mulImm g ty d a v1 => Sys2Proof.Machine.execMulImm g ty d a v1 s
  | .mulhi g ty d a b => Sys2Proof.Machine.execMulhi g ty d a b s
  | .mad g ty d a b c => Sys2Proof.Machine.execMad g ty d a b c s
  | .div g ty d a b => Sys2Proof.Machine.execDiv g ty d a b s
  | .rem g ty d a b => Sys2Proof.Machine.execRem g ty d a b s
  | .neg g ty d a => Sys2Proof.Machine.execNeg g ty d a s
  | .abs g ty d a => Sys2Proof.Machine.execAbs g ty d a s
  | .min g ty d a b => Sys2Proof.Machine.execMin g ty d a b s
  | .minImm g ty d a v1 => Sys2Proof.Machine.execMinImm g ty d a v1 s
  | .max g ty d a b => Sys2Proof.Machine.execMax g ty d a b s
  | .maxImm g ty d a v1 => Sys2Proof.Machine.execMaxImm g ty d a v1 s
  | .and g ty d a b => Sys2Proof.Machine.execAnd g ty d a b s
  | .andImm g ty d a v1 => Sys2Proof.Machine.execAndImm g ty d a v1 s
  | .or g ty d a b => Sys2Proof.Machine.execOr g ty d a b s
  | .orImm g ty d a v1 => Sys2Proof.Machine.execOrImm g ty d a v1 s
  | .xor g ty d a b => Sys2Proof.Machine.execXor g ty d a b s
  | .xorImm g ty d a v1 => Sys2Proof.Machine.execXorImm g ty d a v1 s
  | .andn g ty d a b => Sys2Proof.Machine.execAndn g ty d a b s
  | .not g ty d a => Sys2Proof.Machine.execNot g ty d a s
  | .shl g ty d a b => Sys2Proof.Machine.execShl g ty d a b s
  | .shr g ty d a b => Sys2Proof.Machine.execShr g ty d a b s
  | .rot g ty d a b => Sys2Proof.Machine.execRot g ty d a b s
  | .bext g ty d a b => Sys2Proof.Machine.execBext g ty d a b s
  | .bins g ty d a b c => Sys2Proof.Machine.execBins g ty d a b c s
  | .popc g ty d a => Sys2Proof.Machine.execPopc g ty d a s
  | .clz g ty d a => Sys2Proof.Machine.execClz g ty d a s
  | .ctz g ty d a => Sys2Proof.Machine.execCtz g ty d a s
  | .brev g ty d a => Sys2Proof.Machine.execBrev g ty d a s
  | .cmp g ty cond k a b => Sys2Proof.Machine.execCmp g ty cond k a b s
  | .cmpImm g ty cond k a v1 => Sys2Proof.Machine.execCmpImm g ty cond k a v1 s
  | .sel g dbl p d a b => Sys2Proof.Machine.execSel g dbl p d a b s
  | .mov g dbl d a => Sys2Proof.Machine.execMov g dbl d a s
  | .movImm g dbl d v1 => Sys2Proof.Machine.execMovImm g dbl d v1 s
  | .lea g d m => Sys2Proof.Machine.execLea g d m s
  | .plog g op kd ka kb => Sys2Proof.Machine.execPlog g op kd ka kb s
  | .pget g d => Sys2Proof.Machine.execPget g d s
  | .pput g a b => Sys2Proof.Machine.execPput g a b s
  | .pbit g dbl kd a b => Sys2Proof.Machine.execPbit g dbl kd a b s
  | .br g t => Sys2Proof.Machine.execBr g t s
  | .bre g dim neg w t => Sys2Proof.Machine.execBre g dim neg w t s
  | .jmp g a => Sys2Proof.Machine.execJmp g a s
  | .call g d t => Sys2Proof.Machine.execCall g d t s
  | .callr g d a => Sys2Proof.Machine.execCallr g d a s
  | .ret g a => Sys2Proof.Machine.execRet g a s
  | .exit g => Sys2Proof.Machine.execExit g s
  | .yield g => Sys2Proof.Machine.execYield g s
  | .brk g code => Sys2Proof.Machine.execBrk g code s
  | .rep g count mask step => Sys2Proof.Machine.execRep g count mask step s
  | .nop g => Sys2Proof.Machine.execNop g s
  | .fadd g ft d a b x => Sys2Proof.Machine.execFadd g ft d a b x s
  | .fsub g ft d a b x => Sys2Proof.Machine.execFsub g ft d a b x s
  | .fmul g ft d a b x => Sys2Proof.Machine.execFmul g ft d a b x s
  | .fma g ft np nc d a b c x => Sys2Proof.Machine.execFma g ft np nc d a b c x s
  | .fdiv g d a b x => Sys2Proof.Machine.execFdiv g d a b x s
  | .fsqrt g d a x => Sys2Proof.Machine.execFsqrt g d a x s
  | .fneg g ft d a => Sys2Proof.Machine.execFneg g ft d a s
  | .fabs g ft d a => Sys2Proof.Machine.execFabs g ft d a s
  | .fmin g ft d a b => Sys2Proof.Machine.execFmin g ft d a b s
  | .fmax g ft d a b => Sys2Proof.Machine.execFmax g ft d a b s
  | .fminp g ft d a b => Sys2Proof.Machine.execFminp g ft d a b s
  | .fmaxp g ft d a b => Sys2Proof.Machine.execFmaxp g ft d a b s
  | .fcmp g cond k a b x => Sys2Proof.Machine.execFcmp g cond k a b x s
  | .fclass g ft d a => Sys2Proof.Machine.execFclass g ft d a s
  | .frcp g ft d a x => Sys2Proof.Machine.execFrcp g ft d a x s
  | .frsq g ft d a x => Sys2Proof.Machine.execFrsq g ft d a x s
  | .fexp2 g ft d a x => Sys2Proof.Machine.execFexp2 g ft d a x s
  | .flog2 g ft d a x => Sys2Proof.Machine.execFlog2 g ft d a x s
  | .fsinpi g ft d a x => Sys2Proof.Machine.execFsinpi g ft d a x s
  | .fcospi g ft d a x => Sys2Proof.Machine.execFcospi g ft d a x s
  | .ftanh g ft d a x => Sys2Proof.Machine.execFtanh g ft d a x s
  | .cvt g dt st d a x => Sys2Proof.Machine.execCvt g dt st d a x s
  | .cvtn g st d a b x => Sys2Proof.Machine.execCvtn g st d a b x s
  | .cvtw g dt d a b x => Sys2Proof.Machine.execCvtw g dt d a b x s
  | .fscl g d a b => Sys2Proof.Machine.execFscl g d a b s
  | .dot4 g ua ub sat d a b c => Sys2Proof.Machine.execDot4 g ua ub sat d a b c s
  | .fdot2 g ft d a b c x => Sys2Proof.Machine.execFdot2 g ft d a b c x s
  | .wfu g d a b x => Sys2Proof.Machine.execWfu g d a b x s
  | .wfm g d a b x => Sys2Proof.Machine.execWfm g d a b x s
  | .seed g a => Sys2Proof.Machine.execSeed g a s
  | .sfget g d => Sys2Proof.Machine.execSfget g d s
  | .sfclr g a => Sys2Proof.Machine.execSfclr g a s
  | .sfarm g a => Sys2Proof.Machine.execSfarm g a s
  | .vote g form kd ka => Sys2Proof.Machine.execVote g form kd ka s
  | .vmask g d ka => Sys2Proof.Machine.execVmask g d ka s
  | .shfl g mode dbl d a b c => Sys2Proof.Machine.execShfl g mode dbl d a b c s
  | .red g op d a x => Sys2Proof.Machine.execRed g op d a x s
  | .scan g op d a x => Sys2Proof.Machine.execScan g op d a x s
  | .scanx g op d a x => Sys2Proof.Machine.execScanx g op d a x s
  | .elect g kd => Sys2Proof.Machine.execElect g kd s
  | .part g a => Sys2Proof.Machine.execPart g a s
  | .pqset g a => Sys2Proof.Machine.execPqset g a s
  | .pqget g d => Sys2Proof.Machine.execPqget g d s
  | .partget g d => Sys2Proof.Machine.execPartget g d s
  | .lds g size d m => Sys2Proof.Machine.execLds g size d m s
  | .sts g size d m => Sys2Proof.Machine.execSts g size d m s
  | .rquota g a => Sys2Proof.Machine.execRquota g a s
  | .rdead g a => Sys2Proof.Machine.execRdead g a s
  | .rgrant g a => Sys2Proof.Machine.execRgrant g a s
  | .wbind g w a => Sys2Proof.Machine.execWbind g w a s
  | .wunb g w => Sys2Proof.Machine.execWunb g w s
  | .wseek g w a b => Sys2Proof.Machine.execWseek g w a b s
  | .qbind g port a => Sys2Proof.Machine.execQbind g port a s
  | .qpop g cnt d port e => Sys2Proof.Machine.execQpop g cnt d port e s
  | .qpush g cnt port a => Sys2Proof.Machine.execQpush g cnt port a s
  | .qlen g d port e => Sys2Proof.Machine.execQlen g d port e s
  | .lmma g pb e => Sys2Proof.Machine.execLmma g pb e s
  | .lmmaQueued g pb e port => Sys2Proof.Machine.execLmmaQueued g pb e port s
  | .aalloc g d a => Sys2Proof.Machine.execAalloc g d a s
  | .afree g a => Sys2Proof.Machine.execAfree g a s
  | .aband g a => Sys2Proof.Machine.execAband g a s
  | .arel g a => Sys2Proof.Machine.execArel g a s
  | .ald g d a => Sys2Proof.Machine.execAld g d a s
  | .ast g a b => Sys2Proof.Machine.execAst g a b s
  | .ainfo g d a => Sys2Proof.Machine.execAinfo g d a s
  | .seal g c => Sys2Proof.Machine.execSeal g c s
  | .waitb g c a => Sys2Proof.Machine.execWaitb g c a s
  | .bstat g c d => Sys2Proof.Machine.execBstat g c d s
  | .cpy g pb e => Sys2Proof.Machine.execCpy g pb e s
  | .cpyQueued g pb e port => Sys2Proof.Machine.execCpyQueued g pb e port s
  | .cpymc g pb e => Sys2Proof.Machine.execCpymc g pb e s
  | .mcdrain g nb d a b => Sys2Proof.Machine.execMcdrain g nb d a b s
  | .mcdrop g nb d a => Sys2Proof.Machine.execMcdrop g nb d a s
  | .mcinfo g d a => Sys2Proof.Machine.execMcinfo g d a s
  | .trap g d a => Sys2Proof.Machine.execTrap g d a s
  | .resume g d a b => Sys2Proof.Machine.execResume g d a b s
  | .resumeB g d a b c => Sys2Proof.Machine.execResumeB g d a b c s
  | .kill g rec d a b => Sys2Proof.Machine.execKill g rec d a b s
  | .xres g step d a b => Sys2Proof.Machine.execXres g step d a b s
  | .psave g d a b => Sys2Proof.Machine.execPsave g d a b s
  | .prest g d a b => Sys2Proof.Machine.execPrest g d a b s
  | .crget g d a => Sys2Proof.Machine.execCrget g d a s
  | .crset g a b => Sys2Proof.Machine.execCrset g a b s
  | .icinv g d a b c => Sys2Proof.Machine.execIcinv g d a b c s
  | .mcall g a => Sys2Proof.Machine.execMcall g a s
  | .mret g => Sys2Proof.Machine.execMret g s
  | .spawn g d a => Sys2Proof.Machine.execSpawn g d a s
  | .mset g d a => Sys2Proof.Machine.execMset g d a s
  | .mget g d a => Sys2Proof.Machine.execMget g d a s
  | .mdrop g d a b => Sys2Proof.Machine.execMdrop g d a b s
  | .mfind g d a b => Sys2Proof.Machine.execMfind g d a b s
  | .ld g size d m => Sys2Proof.Machine.execLd g size d m s
  | .ldNa g size d m => Sys2Proof.Machine.execLdNa g size d m s
  | .ldAcq g size d m => Sys2Proof.Machine.execLdAcq g size d m s
  | .st g size d m => Sys2Proof.Machine.execSt g size d m s
  | .stRel g size sc d m => Sys2Proof.Machine.execStRel g size sc d m s
  | .atom g op w64 d m => Sys2Proof.Machine.execAtom g op w64 d m s
  | .atomAcq g op w64 d m => Sys2Proof.Machine.execAtomAcq g op w64 d m s
  | .atomRel g sc op w64 d m => Sys2Proof.Machine.execAtomRel g sc op w64 d m s
  | .atomAr g sc op w64 d m => Sys2Proof.Machine.execAtomAr g sc op w64 d m s
  | .fence g sc => Sys2Proof.Machine.execFence g sc s
  | .bar g sc => Sys2Proof.Machine.execBar g sc s
  | .ss g sc => Sys2Proof.Machine.execSs g sc s
  | .ldtag g d m => Sys2Proof.Machine.execLdtag g d m s
  | .sttag g d m => Sys2Proof.Machine.execSttag g d m s
  | .wcmd g pb e => Sys2Proof.Machine.execWcmd g pb e s
  | .wcmdQueued g pb e port => Sys2Proof.Machine.execWcmdQueued g pb e port s
  | .winfo g d a => Sys2Proof.Machine.execWinfo g d a s
  | .nsend g pb e => Sys2Proof.Machine.execNsend g pb e s
  | .nput g pb e => Sys2Proof.Machine.execNput g pb e s
  | .nget g pb e => Sys2Proof.Machine.execNget g pb e s
  | .natom g pb e => Sys2Proof.Machine.execNatom g pb e s
  | .npost g pb e => Sys2Proof.Machine.execNpost g pb e s
  | .nwait g d a b => Sys2Proof.Machine.execNwait g d a b s
  | .nctr g d a => Sys2Proof.Machine.execNctr g d a s
  | .nset g a b => Sys2Proof.Machine.execNset g a b s
  | .msend g nb d a b => Sys2Proof.Machine.execMsend g nb d a b s
  | .mrecv g nb d a => Sys2Proof.Machine.execMrecv g nb d a s
  | .mmiow g a b => Sys2Proof.Machine.execMmiow g a b s
  | .mmior g d a => Sys2Proof.Machine.execMmior g d a s
  | .unassignedOpcode op cause => Sys2Proof.Machine.execUnassignedOpcode op cause s
  | .la2UntranslatableForm word => Sys2Proof.Machine.execLa2UntranslatableForm word s
  | .tAdd d a b => Sys2Proof.Machine.execTAdd d a b s
  | .tSub d a b => Sys2Proof.Machine.execTSub d a b s
  | .tAnd d a b => Sys2Proof.Machine.execTAnd d a b s
  | .tOr d a b => Sys2Proof.Machine.execTOr d a b s
  | .tXor d a b => Sys2Proof.Machine.execTXor d a b s
  | .tShl d a b => Sys2Proof.Machine.execTShl d a b s
  | .tShr d a b => Sys2Proof.Machine.execTShr d a b s
  | .tMin d a b => Sys2Proof.Machine.execTMin d a b s
  | .tMax d a b => Sys2Proof.Machine.execTMax d a b s
  | .tMul d a b => Sys2Proof.Machine.execTMul d a b s
  | .tSlt d a b => Sys2Proof.Machine.execTSlt d a b s
  | .tAddi d a v1 => Sys2Proof.Machine.execTAddi d a v1 s
  | .tAndi d a v1 => Sys2Proof.Machine.execTAndi d a v1 s
  | .tShri d a v1 => Sys2Proof.Machine.execTShri d a v1 s
  | .tMovi d v1 => Sys2Proof.Machine.execTMovi d v1 s
  | .tMovhi d v1 => Sys2Proof.Machine.execTMovhi d v1 s
  | .tBeq a b v1 => Sys2Proof.Machine.execTBeq a b v1 s
  | .tBne a b v1 => Sys2Proof.Machine.execTBne a b v1 s
  | .tBlt a b v1 => Sys2Proof.Machine.execTBlt a b v1 s
  | .tBge a b v1 => Sys2Proof.Machine.execTBge a b v1 s
  | .tBr v1 => Sys2Proof.Machine.execTBr v1 s
  | .vget d sel => Sys2Proof.Machine.execVget d sel s
  | .vgetIndexed d a sel => Sys2Proof.Machine.execVgetIndexed d a sel s
  | .cget d a field => Sys2Proof.Machine.execCget d a field s
  | .each d v1 => Sys2Proof.Machine.execEach d v1 s
  | .next d v1 => Sys2Proof.Machine.execNext d v1 s
  | .emitDisp a => Sys2Proof.Machine.execEmitDisp a s
  | .emitDefer => Sys2Proof.Machine.execEmitDefer s
  | .emitPreempt a => Sys2Proof.Machine.execEmitPreempt a s
  | .emitNone => Sys2Proof.Machine.execEmitNone s
  | .emitKill => Sys2Proof.Machine.execEmitKill s
  | .emitPark => Sys2Proof.Machine.execEmitPark s
  | .emitRetry => Sys2Proof.Machine.execEmitRetry s
  | .emitFallback => Sys2Proof.Machine.execEmitFallback s
  | .producerComplete id remote => Sys2Proof.Machine.execProducerComplete id remote s
  | .blockedReady core turn lane => Sys2Proof.Machine.execBlockedReady core turn lane s
  | .exceptionRecordPost core => Sys2Proof.Machine.execExceptionRecordPost core s
  | .rotationBegin core turn => Sys2Proof.Machine.execRotationBegin core turn s
  | .rotationEnd core turn => Sys2Proof.Machine.execRotationEnd core turn s
  | .reconvergenceRelease core turn => Sys2Proof.Machine.execReconvergenceRelease core turn s
  | .coreClockGate core => Sys2Proof.Machine.execCoreClockGate core s
  | .icacheLineFill core line => Sys2Proof.Machine.execIcacheLineFill core line s
  | .walkerFetchArrive core turn w => Sys2Proof.Machine.execWalkerFetchArrive core turn w s
  | .latheCommandAccept core => Sys2Proof.Machine.execLatheCommandAccept core s
  | .latheStep core err => Sys2Proof.Machine.execLatheStep core err s
  | .latheCommandComplete core => Sys2Proof.Machine.execLatheCommandComplete core s
  | .astWriteComplete core id => Sys2Proof.Machine.execAstWriteComplete core id s
  | .copyIssueUnitServe core => Sys2Proof.Machine.execCopyIssueUnitServe core s
  | .copyQueueSlotTake cl q => Sys2Proof.Machine.execCopyQueueSlotTake cl q s
  | .copyPacketCopy id => Sys2Proof.Machine.execCopyPacketCopy id s
  | .copyPacketFill id => Sys2Proof.Machine.execCopyPacketFill id s
  | .copyPacketWarm id => Sys2Proof.Machine.execCopyPacketWarm id s
  | .copyPacketComplete id => Sys2Proof.Machine.execCopyPacketComplete id s
  | .depotSlotFull cl slot => Sys2Proof.Machine.execDepotSlotFull cl slot s
  | .depotSlotLost cl slot => Sys2Proof.Machine.execDepotSlotLost cl slot s
  | .mcdrainWritesDone cl id => Sys2Proof.Machine.execMcdrainWritesDone cl id s
  | .depotSlotRelease cl slot => Sys2Proof.Machine.execDepotSlotRelease cl slot s
  | .trapRecordPost core => Sys2Proof.Machine.execTrapRecordPost core s
  | .trapRecordStash core => Sys2Proof.Machine.execTrapRecordStash core s
  | .psaveDone id => Sys2Proof.Machine.execPsaveDone id s
  | .prestDone id => Sys2Proof.Machine.execPrestDone id s
  | .eventPost cl source => Sys2Proof.Machine.execEventPost cl source s
  | .eventDropCountPost cl source => Sys2Proof.Machine.execEventDropCountPost cl source s
  | .taskRecordTake cl => Sys2Proof.Machine.execTaskRecordTake cl s
  | .summaryUpdate cl tile => Sys2Proof.Machine.execSummaryUpdate cl tile s
  | .spawnRecordWrite core => Sys2Proof.Machine.execSpawnRecordWrite core s
  | .preemptTick cl => Sys2Proof.Machine.execPreemptTick cl s
  | .decisionRetake cl => Sys2Proof.Machine.execDecisionRetake cl s
  | .tariffDecisionBegin cl => Sys2Proof.Machine.execTariffDecisionBegin cl s
  | .tariffOverrun cl => Sys2Proof.Machine.execTariffOverrun cl s
  | .tariffSwapRequest cl => Sys2Proof.Machine.execTariffSwapRequest cl s
  | .tariffSwap cl => Sys2Proof.Machine.execTariffSwap cl s
  | .clusterPartitionAssign cl part => Sys2Proof.Machine.execClusterPartitionAssign cl part s
  | .storePerform id stage => Sys2Proof.Machine.execStorePerform id stage s
  | .storeAcknowledge id => Sys2Proof.Machine.execStoreAcknowledge id s
  | .cacheLineFill cl line => Sys2Proof.Machine.execCacheLineFill cl line s
  | .lineLeaseExpire cl line => Sys2Proof.Machine.execLineLeaseExpire cl line s
  | .whAgeing core turn lane => Sys2Proof.Machine.execWhAgeing core turn lane s
  | .barrierRelease key => Sys2Proof.Machine.execBarrierRelease key s
  | .translationWalk cl idx page => Sys2Proof.Machine.execTranslationWalk cl idx page s
  | .zbusyWaitTimeout cl idx page => Sys2Proof.Machine.execZbusyWaitTimeout cl idx page s
  | .tbinvWrite cl v => Sys2Proof.Machine.execTbinvWrite cl v s
  | .hmigStart => Sys2Proof.Machine.execHmigStart s
  | .hashWindowEnd => Sys2Proof.Machine.execHashWindowEnd s
  | .migrationUnitMove group => Sys2Proof.Machine.execMigrationUnitMove group s
  | .bankBlockEnd bank => Sys2Proof.Machine.execBankBlockEnd bank s
  | .rowIdleClose bank => Sys2Proof.Machine.execRowIdleClose bank s
  | .periodicRowRefresh bank row => Sys2Proof.Machine.execPeriodicRowRefresh bank row s
  | .throttleEnd core => Sys2Proof.Machine.execThrottleEnd core s
  | .remapTableError stack => Sys2Proof.Machine.execRemapTableError stack s
  | .remapReloadDone stack => Sys2Proof.Machine.execRemapReloadDone stack s
  | .remapHoldTimeout stack id => Sys2Proof.Machine.execRemapHoldTimeout stack id s
  | .remapStackTimeout stack => Sys2Proof.Machine.execRemapStackTimeout stack s
  | .waysideIssueSend core => Sys2Proof.Machine.execWaysideIssueSend core s
  | .waysideAccept stack => Sys2Proof.Machine.execWaysideAccept stack s
  | .wnop stack => Sys2Proof.Machine.execWnop stack s
  | .vload stack => Sys2Proof.Machine.execVload stack s
  | .vfill stack => Sys2Proof.Machine.execVfill stack s
  | .vscale stack => Sys2Proof.Machine.execVscale stack s
  | .rzero stack => Sys2Proof.Machine.execRzero stack s
  | .gemv stack => Sys2Proof.Machine.execGemv stack s
  | .rscale stack => Sys2Proof.Machine.execRscale stack s
  | .rbias stack => Sys2Proof.Machine.execRbias stack s
  | .radd stack => Sys2Proof.Machine.execRadd stack s
  | .rclamp stack => Sys2Proof.Machine.execRclamp stack s
  | .rtovec stack => Sys2Proof.Machine.execRtovec stack s
  | .rstore stack => Sys2Proof.Machine.execRstore stack s
  | .wcount stack => Sys2Proof.Machine.execWcount stack s
  | .waysideCommandComplete stack => Sys2Proof.Machine.execWaysideCommandComplete stack s
  | .wctxWrite stack v => Sys2Proof.Machine.execWctxWrite stack v s
  | .extreq self peer xid handle off len => Sys2Proof.Machine.execExtreq self peer xid handle off len s
  | .extrep self peer xid handle off len => Sys2Proof.Machine.execExtrep self peer xid handle off len s
  | .extinv self peer xid handle => Sys2Proof.Machine.execExtinv self peer xid handle s
  | .extack self peer xid handle => Sys2Proof.Machine.execExtack self peer xid handle s
  | .fwd self peer xid call => Sys2Proof.Machine.execFwd self peer xid call s
  | .fwdrep self peer xid res0 res1 => Sys2Proof.Machine.execFwdrep self peer xid res0 res1 s
  | .upd bucket owner => Sys2Proof.Machine.execUpd bucket owner s
  | .updack shard => Sys2Proof.Machine.execUpdack shard s
  | .migrate self peer obj => Sys2Proof.Machine.execMigrate self peer obj s
  | .svcOpen cl slot group => Sys2Proof.Machine.execSvcOpen cl slot group s
  | .svcClose cl slot group => Sys2Proof.Machine.execSvcClose cl slot group s
  | .svcRead cl slot group => Sys2Proof.Machine.execSvcRead cl slot group s
  | .svcWrite cl slot group => Sys2Proof.Machine.execSvcWrite cl slot group s
  | .svcPmap cl slot group => Sys2Proof.Machine.execSvcPmap cl slot group s
  | .svcPunmap cl slot group => Sys2Proof.Machine.execSvcPunmap cl slot group s
  | .driveInboundWrite port addr data => Sys2Proof.Machine.execDriveInboundWrite port addr data s
  | .msixMessage port data => Sys2Proof.Machine.execMsixMessage port data s
  | .unsupportedRequest port addr => Sys2Proof.Machine.execUnsupportedRequest port addr s
  | .coldReset => Sys2Proof.Machine.execColdReset s
  | .srunStart mask => Sys2Proof.Machine.execSrunStart mask s
  | .rstctlWarm retain => Sys2Proof.Machine.execRstctlWarm retain s
  | .warmResetQuiesced => Sys2Proof.Machine.execWarmResetQuiesced s
  | .warmResetRetrained failed => Sys2Proof.Machine.execWarmResetRetrained failed s
  | .warmResetChecked => Sys2Proof.Machine.execWarmResetChecked s
  | .selfTestHbmRow cl target pass => Sys2Proof.Machine.execSelfTestHbmRow cl target pass s
  | .selfTestCore cl target pass => Sys2Proof.Machine.execSelfTestCore cl target pass s
  | .selfTestAmemBank cl target pass => Sys2Proof.Machine.execSelfTestAmemBank cl target pass s
  | .selfTestCacheSet cl target pass => Sys2Proof.Machine.execSelfTestCacheSet cl target pass s
  | .selfTestFabricLane cl target pass => Sys2Proof.Machine.execSelfTestFabricLane cl target pass s
  | .selfTestSeraiSram cl target pass => Sys2Proof.Machine.execSelfTestSeraiSram cl target pass s
  | .selfTestDone => Sys2Proof.Machine.execSelfTestDone s
  | .repairCoreToSpare core => Sys2Proof.Machine.execRepairCoreToSpare core s
  | .repairStackToService stack ok => Sys2Proof.Machine.execRepairStackToService stack ok s
  | .attestQuote cl off => Sys2Proof.Machine.execAttestQuote cl off s
  | .attestExtend cl off => Sys2Proof.Machine.execAttestExtend cl off s
  | .attestPubkey cl off => Sys2Proof.Machine.execAttestPubkey cl off s
  | .shardRestart shard => Sys2Proof.Machine.execShardRestart shard s
  | .clusterRepair cl => Sys2Proof.Machine.execClusterRepair cl s
  | .clockSyncExchange t1 t2 t3 t4 => Sys2Proof.Machine.execClockSyncExchange t1 t2 t3 t4 s
  | .syncLossTimeout => Sys2Proof.Machine.execSyncLossTimeout s
  | .fabricRequestTimeout id => Sys2Proof.Machine.execFabricRequestTimeout id s
  | .inboundRead port src addr len => Sys2Proof.Machine.execInboundRead port src addr len s
  | .inboundWrite port src addr data => Sys2Proof.Machine.execInboundWrite port src addr data s
  | .inboundAtomic port src addr op w64 o1 o2 => Sys2Proof.Machine.execInboundAtomic port src addr op w64 o1 o2 s
  | .recallTimeout id => Sys2Proof.Machine.execRecallTimeout id s
  | .portWidthChange port width => Sys2Proof.Machine.execPortWidthChange port width s
  | .ethernetPortChange port up => Sys2Proof.Machine.execEthernetPortChange port up s
  | .netIssueUnitServe core => Sys2Proof.Machine.execNetIssueUnitServe core s
  | .netWrTake cl q => Sys2Proof.Machine.execNetWrTake cl q s
  | .netGateOpen cl q => Sys2Proof.Machine.execNetGateOpen cl q s
  | .netSend id => Sys2Proof.Machine.execNetSend id s
  | .netPut id => Sys2Proof.Machine.execNetPut id s
  | .netGet id => Sys2Proof.Machine.execNetGet id s
  | .netAtomic id => Sys2Proof.Machine.execNetAtomic id s
  | .netPostReceive cl q => Sys2Proof.Machine.execNetPostReceive cl q s
  | .netPacketArrive p => Sys2Proof.Machine.execNetPacketArrive p s
  | .netAckArrive a => Sys2Proof.Machine.execNetAckArrive a s
  | .netRetransmitTimeout peer psn => Sys2Proof.Machine.execNetRetransmitTimeout peer psn s
  | .netTargetComplete id => Sys2Proof.Machine.execNetTargetComplete id s
  | .netInitiatorComplete id => Sys2Proof.Machine.execNetInitiatorComplete id s
  | .peerTableWrite entry word v => Sys2Proof.Machine.execPeerTableWrite entry word v s
  | .regActivate cl r => Sys2Proof.Machine.execRegActivate cl r s
  | .regRevoke cl r => Sys2Proof.Machine.execRegRevoke cl r s
  | .revocationComplete cl r => Sys2Proof.Machine.execRevocationComplete cl r s
  | .registerWrite cl num v => Sys2Proof.Machine.execRegisterWrite cl num v s
  | .driveInboundRead port addr len => Sys2Proof.Machine.execDriveInboundRead port addr len s
  | .leaseRecall port line => Sys2Proof.Machine.execLeaseRecall port line s
  | .clockSyncRequest follower t1 => Sys2Proof.Machine.execClockSyncRequest follower t1 s

end Sys2Proof.Machine
end

