-- ==== Sys2Proof/Machine/Sched.lean ====
section
/-! DEFINITION. What can happen next, and the choice among it (LOG 4): every core with a path may make its next move, every
engine, unit and message that has something to do may do it, and the oldest input may arrive. -/

namespace Sys2Proof.Machine

/-- Something that can happen. -/
abbrev Act := State → Host.Outcome State Fault Refusal
/-- Activities other than the issue of instructions take place after some time has passed. -/
def timed (f : Act) : Act := fun s => f s.tick

/-- A core makes its next move (R170). -/
def coreAct (c : Nat) : Act := fun s =>
  match s.coreTodo c with
  | .run i s => exec i s
  | .only s => .next s
/-- R350, R353, R363: the decision in progress in a cluster executes its next instruction, or is cut off. -/
def decisionAct (cl : Nat) : Act := fun s =>
  match (s.cl cl).decision with
  | none => .next s
  | some d =>
    if 64 ≤ d.cycles then execTariffOverrun cl s
    else match tDecode ((s.cl cl).active.getD d.idx 0) with
      | .ok i => exec i { s with cur := { core := seraiOf cl } }
      | .error _ => .next (s.tariffError cl d 0 d.idx)

/-- R188: a core has cycles while a thread is ready; one of a wave that is being saved issues nothing in them. -/
def Core.busy (k : Core) : Bool := k.cycle.phase != 0 || k.awake
/-- Words of a cluster's registers that are not at their reset value: (cluster, word of unit 1, value). -/
def State.unit1 (s : State) : List (Nat × Nat × DWord) :=
  s.crs.filterMap fun p =>
    let cl := p.1 / 2 ^ 32
    let n := p.1 % 2 ^ 24
    if cl < 16 ∧ n / 65536 = 1 then some (cl, n % 65536, p.2) else none

/-! ## What a core, a cluster and the package can do of new work -/

/-- The blocked threads of a core whose condition holds. -/
def readyActs (s : State) (c : Nat) (k : Core) : List Act :=
  k.waves.flatMap fun w =>
    (w.2.threads.filter fun t => w.2.live && w.2.isBlocked t.1 && s.waitMet c w.1 t.1 t.2.wait).map fun t =>
      timed (execBlockedReady c w.1 t.1)
/-- R209, R213: the walkers of a core that have elements to fetch. -/
def walkerActs (s : State) (c : Nat) (k : Core) : List Act :=
  k.waves.flatMap fun w =>
    (w.2.walkers.filter fun x => w.2.live && x.2.bound && (s.walkerNext c w.1 x.2).isSome).map fun x =>
      timed (execWalkerFetchArrive c w.1 x.1)
def coreActs (s : State) (c : Nat) (k : Core) : List Act :=
  let cl := clusterOf c
  (if k.busy then [coreAct c]
   else (if k.gated then [] else [timed (execCoreClockGate c)]) ++
    (k.waves.filter fun w => w.2.live && w.2.releases).map fun w => timed (execReconvergenceRelease c w.1)) ++
  readyActs s c k ++ walkerActs s c k ++
  (if !k.xrecs.isEmpty && (s.ringPlace cl nXRING nXPTR 64).isSome then [timed (execExceptionRecordPost c)] else []) ++
  (if (k.queue 32).isEmpty then [] else [timed (execLatheCommandAccept c)]) ++
  (if k.lathe.isEmpty then [] else [timed (latheReadAhead c), timed (execLatheStep c .none), timed (execLatheCommandComplete c)]) ++
  (if (k.queue 33).isEmpty && k.copyTrk.all (fun t => t.2.stage == 2) then [] else [timed (execCopyIssueUnitServe c)]) ++
  (if k.netTrk.all (fun t => t.2.stage == 2) then [] else [timed (execNetIssueUnitServe c)]) ++
  (if !k.stash.isEmpty && (s.trapSlot cl).isSome then [timed (execTrapRecordPost c)] else []) ++
  (if k.stash.length < 4 ∧ (!k.heldRecs.isEmpty ∨ !k.restoredRecs.isEmpty) then [timed (execTrapRecordStash c)] else []) ++
  (if k.spawns.isEmpty then [] else [timed (execSpawnRecordWrite c)]) ++
  (if (k.queue 34).isEmpty && k.ways.isEmpty then [] else [timed (execWaysideIssueSend c)]) ++
  (match k.throttle with | some t => if Lease.before s.lease t then [] else [timed (execThrottleEnd c)] | none => [])
/-- R335: a cluster's oldest insertion that has not reached the summary, and the entries its manifest has outdated. -/
def summaryActs (s : State) (cl : Nat) (k : Cluster) : List Act :=
  let bit := BitVec.twoPow 16 cl
  let fresh := ((s.sumQ.find? fun p => p.1 == cl).map (·.2)).toList
  let stale := (s.summary.filter fun p => (p.2.2 &&& bit) != 0 && !k.holds p.2.1).map fun p => p.2.1
  (fresh ++ stale).map fun t => timed (execSummaryUpdate cl t)
def clusterActs (s : State) (cl : Nat) (k : Cluster) : List Act :=
  (match k.decision with
   | some _ => [decisionAct cl]
   | none =>
     if !k.faultEvs.isEmpty || k.preEv != 0 || (match k.gather with | some g => !g.waiting | none => false) then
       [timed (execTariffDecisionBegin cl)]
     else []) ++
  ((k.events.filter fun e => !e.2.isEmpty && (s.ringPlace cl nERING nEPTR 64).isSome).map fun e => timed (execEventPost cl e.1)) ++
  ((k.drops.filter fun d => d.2.1 != 0 && (getK [] k.events d.1).isEmpty && (s.ringPlace cl nERING nEPTR 64).isSome).map fun d =>
    timed (execEventDropCountPost cl d.1)) ++
  (if k.gather.isNone && !s.draining cl && (!k.pool.isEmpty || (List.range 4).any fun q => s.taskServed cl q) then [timed (execTaskRecordTake cl)] else []) ++
  (match k.gather with
   | some g => (if g.waiting && g.again then [timed (execDecisionRetake cl)] else []) ++
       (if (s.preDue cl).isSome then [timed (execPreemptTick cl)] else [])
   | none => []) ++
  (if swst (s.cr cl nTCTL) = 7 then [timed (execTariffSwapRequest cl), timed (execTariffSwap cl)] else []) ++
  ((k.depot.filter fun x => x.2.state == 1).map fun x =>
    let a := sliceAddr (cl * 128 + x.2.sender) x.2.soff
    if !x.2.lost && s.badSram.any (fun l => decide (a < l * 128 + 128) && decide (l * 128 < a + 64 * x.2.nblk)) then timed (execDepotSlotLost cl x.1)
    else timed (execDepotSlotFull cl x.1)) ++
  summaryActs s cl k
/-- R282: of the queues with an entry to be taken, the next of the round, which begins at `from_`. A queue without one is looked at
in any order: its memory may be found bad. -/
def turnOf (n from_ q : Nat) (has : Nat → Bool) : Bool :=
  !has q || ((List.range n).map fun i => (from_ + i) % n).find? has == some q
/-- R282, R485, R494: an initiator queue whose head may be taken. -/
def State.netReady (s : State) (cl q : Nat) : Bool :=
  match s.initiatorHead cl q with
  | (some ws, u) => !(nGated ws && dwBit (u.cr cl (nNQ q 1)) 24) || u.gateMet cl q ws
  | (none, _) => false
/-- R282, R485: queues that engines serve. -/
def queueActs (s : State) : List Act :=
  s.unit1.flatMap fun p =>
    let w := p.2.1
    let v := p.2.2
    if 0x100 ≤ w ∧ w < 0x200 ∧ w % 4 = 1 ∧ dwBit v 9 then
      let q := (w - 0x100) / 4
      if turnOf 64 (s.cl p.1).rr q fun q => (s.queueHead p.1 (nCQ q 0)).1.isSome then [timed (execCopyQueueSlotTake p.1 q)] else []
    else if 0x300 ≤ w ∧ w < 0x380 ∧ w % 4 = 1 ∧ dwBit v 9 then
      let q := (w - 0x300) / 4
      if dwBit v 15 then [timed (execNetPostReceive p.1 q)]
      else if turnOf 32 (s.cl p.1).nrr q (s.netReady p.1) then [timed (execNetWrTake p.1 q), timed (execNetGateOpen p.1 q)] else []
    else if 0x500 ≤ w ∧ w < 0x700 ∧ w % 2 = 0 ∧ dwBits v 1 0 = 2 then [timed (execRevocationComplete p.1 ((w - 0x500) / 2))]
    else []
def waysideActs (s : State) : List Act :=
  s.ways.flatMap fun p =>
    match p.2.cur with
    | none => if p.2.queue.isEmpty then [] else [timed (execWaysideAccept p.1)]
    | some _ =>
      if p.2.ran then [timed (execWaysideCommandComplete p.1)]
      else (if p.2.segs.isEmpty then [] else [timed (wayReadAhead p.1)]) ++ [execWnop, execVload, execVfill, execVscale, execRzero, execGemv, execRscale, execRbias, execRadd, execRclamp, execRtovec,
            execRstore, execWcount].map fun f => timed (f p.1)
def netActs (s : State) : List Act :=
  (s.netOps.flatMap fun o =>
    (if o.2.fail.isNone && decide (o.2.sent < o.2.total) then
      [execNetSend, execNetPut, execNetGet, execNetAtomic, netSendResponse, netReadAhead].map fun f => timed (f o.1) else []) ++
    (if s.farLate o.2.start && o.2.fail.isNone && !o.2.report && o.2.segs.any (fun p => p.1.isFar) then [timed (execFabricRequestTimeout o.1)] else []) ++
    (if o.2.fail.isSome || o.2.report then [timed (execNetInitiatorComplete o.1)] else [])) ++
  (s.netMsgs.map fun m => timed (execNetTargetComplete m.1)) ++
  s.peers.flatMap fun p => (p.2.unack.filter fun k => !Lease.before s.lease k.at_).map fun k => timed (execNetRetransmitTimeout p.1 k.psn)

/-! ## What completes -/

/-- A load completes; the bytes of another package are open. -/
def loadAct (id : Nat) (far : Bool) : Act := fun s =>
  if far then let (bs, s) := s.openBytes 128; execProducerComplete id bs s else execProducerComplete id [] s
def prodActs (s : State) : List Act :=
  s.prods.flatMap fun p =>
    match p.2.src with
    | .await => []
    | .vals _ => [timed (loadAct p.1 false)]
    | .load a =>
      let cl := clusterOf p.2.core
      [timed (loadAct p.1 a.place.isFar)] ++
      (if a.kind == .plain && a.lease != 0 && cacheable cl (lineBase a.place) && (s.liveLine cl a.place).isNone then
        [timed (execCacheLineFill cl (lineKey a.place))] else []) ++
      (if a.sent.any fun t => s.farLate t.2 then [timed (execFabricRequestTimeout p.1)] else [])
def storeActs (s : State) : List Act :=
  s.stores.flatMap fun p =>
    if 2 ≤ p.2.stage then [timed (execStoreAcknowledge p.1)]
    else [timed (execStorePerform p.1 .cohort), timed (execStorePerform p.1 .home)] ++
      (if p.2.sent.any fun t => s.farLate t.2 then [timed (execFabricRequestTimeout p.1)] else [])
def engineActs (s : State) : List Act :=
  (s.copies.flatMap fun p =>
    if p.2.done then [timed (execCopyPacketComplete p.1)]
    else [timed (copyAhead p.1), timed (execCopyPacketCopy p.1), timed (execCopyPacketFill p.1), timed (execCopyPacketWarm p.1)] ++
      (if s.farLate p.2.start && (p.2.src ++ p.2.dst).any (fun r => r.any fun x => x.1.isFar) then [timed (execFabricRequestTimeout p.1)] else [])) ++
  (s.drains.map fun p => timed (execMcdrainWritesDone p.2.cl p.1)) ++
  (s.saves.flatMap fun p => if p.2.restore then [timed (prestAhead p.1), timed (execPrestDone p.1)] else [timed (execPsaveDone p.1)]) ++
  s.cores.flatMap fun p => (p.2.asts.map fun a => timed (execAstWriteComplete p.1 a.op)) ++
    p.2.fills.map fun n => timed (execIcacheLineFill p.1 (BitVec.ofNat 64 n))
def walkActs (s : State) : List Act :=
  s.cls.flatMap fun p =>
    (p.2.walks.flatMap fun w => [timed (execTranslationWalk p.1 w.bti w.page)] ++
      (match w.busy with
       | some t => if Lease.before s.lease (t + 200000) then [] else [timed (execZbusyWaitTimeout p.1 w.bti w.page)]
       | none => [])) ++
    (p.2.lines.filter fun l => !Lease.before s.lease l.2.expiry && l.2.data.any (· != 0)).map fun l => timed (execLineLeaseExpire p.1 l.1)
/-- Barriers at which a thread waits, that of a saved wave included (R393). -/
def barrierActs (s : State) : List Act :=
  let keys := s.cores.flatMap fun k => (k.2.waves.flatMap fun w => w.2.threads.filterMap fun t =>
    match t.2.arrived with | some a => if t.2.status = .parkedBarrier then some a.key else none | none => none) ++
    k.2.saved.flatMap fun v => v.bars.map fun b => b.2.key
  keys.eraseDups.map fun k => timed (execBarrierRelease k)
def ageActs (s : State) : List Act :=
  s.cores.flatMap fun k => k.2.waves.flatMap fun w =>
    (w.2.threads.filter fun t => decide (2 ^ 47 - 1 ≤ (s.lease - t.2.wh).toNat) && !Lease.before s.lease t.2.wh).map fun t =>
      timed (execWhAgeing k.1 w.1 t.1)
/-- The hashed groups' activities (R412 to R415). -/
def hashActs (s : State) : List Act :=
  (if s.lease.toNat / 1000000 = s.hwin then [] else [timed execHashWindowEnd]) ++
  (match s.mig with | some m => (match m.todo with | g :: _ => [timed (execMigrationUnitMove g)] | [] => []) | none => [])
/-- What holds requests in the memory, and lets them go on (R416 to R421): in a warm reset as well. -/
def memoryActs (s : State) : List Act :=
  (s.hbanks.flatMap fun b =>
    (match b.2.block with | some t => if Lease.before s.lease t then [] else [timed (execBankBlockEnd b.1)] | none => []) ++
    (if b.2.row.isSome && !Lease.before s.lease (b.2.last + 100) then [timed (execRowIdleClose b.1)] else [])) ++
  s.reloadAt.flatMap fun r =>
    [timed (execRemapReloadDone r.1)] ++
    (if s.reloadFor r.1 < 200000 then []
     else timed (execRemapStackTimeout r.1) ::
       ((0 :: (s.prods.map (·.1) ++ s.stores.map (·.1) ++ s.copies.map (·.1))).map fun id => timed (execRemapHoldTimeout r.1 id)))
/-- R443, R459, R464, R468, R472: what the shards have left to do of themselves. -/
def shardActs (s : State) : List Act :=
  (if (s.phase = 2 ∧ s.running.getLsbD 0) ∨ s.phase = 3 ∨ s.phase = 4 then [timed bootGoesOn] else []) ++
  (if !dwBit (s.cr 16 nSTSTAT) 0 && s.suspects.any s.testable then [timed testSuspect] else []) ++
  (s.restarts.map fun c => timed (execShardRestart c)) ++
  (s.lostSram.map fun l => timed (seraiLoss l)) ++
  (s.shards.flatMap fun k => k.2.svc.map fun p => timed (svcResume k.1 p.slot p.group)) ++
  (if s.update.isNone && s.running.getLsbD 0 && (List.range 16).any (fun c => getK 0 (s.shard 0).parts c != (s.cl c).part.toNat) then [timed mapUpdate] else [])
/-- R464: the test that runs; whether the unit passes is open. -/
def testActs (s : State) : List Act :=
  match s.selfTest with
  | some t =>
    if t.res.isSome then [timed execSelfTestDone]
    else [true, false].flatMap fun pass =>
      [execSelfTestHbmRow, execSelfTestCore, execSelfTestAmemBank, execSelfTestCacheSet, execSelfTestFabricLane, execSelfTestSeraiSram].map
        fun f => timed (f t.cl t.target pass)
  | none => []
/-- The device's own management (R462, R464, R465, R476, R480). -/
def deviceActs (s : State) : List Act :=
  testActs s ++
  (match s.repair with
   | some (0, c) => [timed (execRepairCoreToSpare c)]
   | some (_, k) => [timed (execRepairStackToService k true), timed (execRepairStackToService k false)]
   | none => []) ++
  (match s.attest with
   | some (cl, off) => [execAttestQuote, execAttestExtend, execAttestPubkey].map fun f => timed (f cl (BitVec.ofNat 20 off))
   | none => []) ++
  (if s.synced && !s.isLeader && decide (1000000 ≤ (s.lease - s.syncLast).toNat) then [timed execSyncLossTimeout] else []) ++
  (if s.syncDue then [timed clockAsk] else []) ++
  s.recalls.map fun r => timed (if 2000 ≤ (s.lease - r.2.start).toNat then execRecallTimeout r.1 else recallAnswered r.1)

/-! ## Inputs -/

/-- R457, R474: the port an input comes through, whose inputs keep their order. -/
def Input.port : Input → Option Nat
  | .event (.driveInboundWrite p _ _) => some p
  | .event (.driveInboundRead p _ _) => some p
  | .event (.msixMessage p _) => some p
  | .event (.inboundRead p _ _ _) => some (16 + p)
  | .event (.inboundWrite p _ _ _) => some (16 + p)
  | .event (.inboundAtomic p _ _ _ _ _ _) => some (16 + p)
  | _ => none
/-- R417, R421, R426, R443, R457, R489: must an input wait? -/
def State.inputWaits (s : State) : Input → Bool
  | .event (.driveInboundWrite p a d) => s.busHeld p a d.length
  | .event (.driveInboundRead p a n) => s.busHeld p a n
  | .event (.msixMessage p _) => s.portWaits p
  | .event (.inboundRead p src a n) => s.inWaits p src a n rREAD
  | .event (.inboundWrite p src a d) => s.inWaits p src a d.length rWRITE
  | .event (.inboundAtomic p src a _ w64 _ _) => s.inWaits p src a (if w64 then 8 else 4) rATOM
  | .event (.netPacketArrive p) => s.packetWaits p
  | .event (.registerWrite cl num v) => decide (nWCTX 0 ≤ num.toNat) && decide (num.toNat ≤ nWCTX 7) && s.crAllowed cl 0 num.toNat && s.wctxWaits (num.toNat - nWCTX 0) v
  | .event (.wctxWrite k v) => s.wctxWaits k v
  | .mount e v => s.update.isSome || (s.startUpdate (32 + e) v).update.isNone
  | _ => false
/-- The oldest input that need not wait, and does not follow one of its port that must; and the others. -/
def State.firstInput (s : State) (ports : List Nat) : List Input → Option (Input × List Input)
  | [] => none
  | x :: rest =>
    if s.inputWaits x || x.port.any ports.contains then
      (State.firstInput s (x.port.toList ++ ports) rest).map fun r => (r.1, x :: r.2)
    else some (x, rest)
/-- R476: t2 and t3 of the leader's reply. -/
def replyTimes : Instr → Option (Lease × Lease)
  | .clockSyncExchange _ t2 t3 _ => some (t2, t3)
  | _ => none
/-- An event comes from outside; of an exchange t1 and t4 are this package's own (R476). -/
def arrive (i : Instr) (s : State) : Host.Outcome State Fault Refusal :=
  match replyTimes i with
  | some (t2, t3) => execClockSyncExchange (s.syncT1.getD 0) t2 t3 s.lease s
  | none => exec i s
/-- The oldest input that can arrives. -/
def inputAct : Act := fun s =>
  match s.firstInput [] s.inbox with
  | none => .next s
  | some (x, rest) =>
    let s := { s with inbox := rest }
    match x with
    | .event i => arrive i s
    | .hbmError b => .next { s with badHbm := if s.badHbm.contains b then s.badHbm else s.badHbm ++ [b] }
    | .hbmCorrected b => .next { s with softHbm := if s.softHbm.contains b then s.softHbm else s.softHbm ++ [b] }
    | .lineError c l => .next (s.modCl c fun k => match findK k.lines l with
        | some x => { k with lines := insK k.lines l { x with bad := true } }
        | none => k)
    | .bankError c b => .next (s.modCore c fun k => k.modBank b fun x => { x with bad := true })
    | .file f => .next (if f.id < 2 ^ 32 ∧ !(s.files.any fun g => g.id == f.id || g.path == f.path) then { s with files := s.files ++ [f] } else s)
    | .mount e v => .next (s.startUpdate (32 + e) v)
    | .directory p on => .next (if p < 8 then s.modCr 16 (nPORTSTAT p) fun v => dwSet v 2 2 (if on then 1 else 0) else s)
    | .sramError l => .next { s with badSram := if s.badSram.contains l then s.badSram else s.badSram ++ [l] }
def coldInput (s : State) : Bool := match s.inbox with | .event .coldReset :: _ => true | _ => false
def inputActs (s : State) : List Act :=
  if (s.firstInput [] s.inbox).isNone ∨ (s.warm ≠ .run ∧ !coldInput s) then [] else [timed inputAct]

/-! ## The choice -/

/-- New work, which a warm reset stops (R463). -/
def workActs (s : State) : List Act :=
  s.cores.flatMap (fun k => coreActs s k.1 k.2) ++ (List.range 16).flatMap (fun c => clusterActs s c (s.cl c)) ++
  queueActs s ++ waysideActs s ++ netActs s ++ barrierActs s ++ ageActs s ++ hashActs s ++ deviceActs s ++ shardActs s
/-- R463: a wayside command in progress goes on. -/
def wayRunning (s : State) : List Act := waysideActs { s with ways := s.ways.filter fun p => p.2.cur.isSome }
/-- What was accepted before goes on. -/
def oldActs (s : State) : List Act := prodActs s ++ storeActs s ++ engineActs s ++ walkActs s ++ memoryActs s
/-- R463: the steps of a warm reset; which stacks fail to train is open. -/
def warmActs (s : State) : List Act :=
  match s.warm with
  | .run => []
  | .quiesce => wayRunning s ++ testActs s ++ (if s.quiet then [timed execWarmResetQuiesced] else [])
  | .retrain => [timed fun s => let (n, s) := s.openNat; execWarmResetRetrained (BitVec.ofNat 8 n) s]
  | _ => [timed execWarmResetChecked]
/-- A core that has issued on port A and is to issue on port B. -/
def Core.midCycle (k : Core) : Bool := k.cycle.phase == 1 && k.cycle.b.isSome
/-- R339: what comes between the two instructions of a core's cycle: moves of the cores of other clusters, and the port-A instructions
of the same cycle of its own cluster's cores, as long as none of that cycle's port-B instructions has been applied. -/
def State.mayJoin (s : State) (c : Nat) (k : Core) : Bool :=
  let near := s.cores.filter fun x => clusterOf x.1 == clusterOf c
  !(near.any fun x => x.2.midCycle) || k.cycle.phase == 0 && !(near.any fun x => x.2.cycle.phase == 2)
def State.acts (s : State) : List Act :=
  if s.phase = 15 then if coldInput s then [timed inputAct] else []
  else
    let mid := s.cores.filter fun k => k.2.midCycle
    if s.warm = .run ∧ !mid.isEmpty then (s.cores.filter fun k => k.2.midCycle || k.2.busy && s.mayJoin k.1 k.2).map fun k => coreAct k.1
    else inputActs s ++ (if s.warm = .run then workActs s else warmActs s) ++ oldActs s
/-- One move of the package: the boot core's sequence after a reset (R459); else the only thing that can happen, or the one
chosen; else time passes. -/
def State.move (s : State) : Host.Outcome State Fault Refusal :=
  if s.phase = 0 ∧ s.warm = .run then .next s.bootSequence
  else match s.acts with
    | [] => if s.phase = 15 then .fault .bootFailed else .next s.tick
    | [a] => a s
    | a :: as =>
      let n := (a :: as).length
      ((a :: as).getD (Config.pick n s.fresh % n) a) { s with fresh := s.fresh + 1 }

end Sys2Proof.Machine
end

