-- ==== Sys2Proof/Machine/Step.lean ====
section
/-! DEFINITION. One step of the package, and the state whose next step runs a given instruction. -/

namespace Sys2Proof.Machine

/-- One step: the next state, or a stop with its reason. -/
def step (s : State) : Host.Outcome State Fault Refusal := s.move

/-- The 64-bit words of an instruction given as a number, with zeros above: its word and the word that may follow it. -/
def fetchLo (w : Nat) : DWord := BitVec.ofNat 64 w
def fetchHi (w : Nat) : DWord := BitVec.ofNat 64 (w / 2 ^ 64)
/-- R48, R51: the LEN of a block that begins with the instruction: it ends with it where the instruction ends blocks. -/
def fetchLen (w : Nat) : Nat :=
  let n := if hasExt (fetchLo w) then 2 else 1
  match decodeWord (fetchLo w) (fetchHi w) with
  | .ok i => if i.endsBlock then n else 7
  | .error _ => 7
/-- R51: the header of that block. -/
def fetchHeader (w : Nat) : DWord := BitVec.ofNat 64 (0x3FF + fetchLen w * 2 ^ 10 + 640 * 2 ^ 18)
/-- R45: the line that holds the header, the instruction and zeros. -/
def fetchLine (w : Nat) : ILine := { la2 := false, words := [fetchHeader w, fetchLo w, fetchHi w, 0, 0, 0, 0, 0] }
/-- R302: the opcodes that only a serai runs. -/
def fetchSerai (w : Nat) : Bool := decide (0x194 ≤ w % 1024) && decide (w % 1024 ≤ 0x1AF)
/-- A wave of one thread, which is to issue the instruction after the header at offset 0. -/
def fetchWave (w : Nat) : Wave :=
  { live := true, threads := [(0, { pc := 8, hdr := 0, hdrW := fetchHeader w, status := .ready })] }
/-- The state in which the very next step runs the instruction whose bits are `w`. A program is loaded from outside: the
running package is given (LOG 5) an instruction of 32 bits as the tariff of cluster 0 with a decision in progress, and one of
64 or 128 bits as a block in the instruction cache of core 0 or, for a privileged opcode, of serai 0, whose wave of turn 0
stands at it. -/
def State.withFetchWord (s : State) (nbits w : Nat) : State :=
  let s := s.modCr 16 nBOOTSTAT fun v => dwSet v 3 0 5
  if nbits ≤ 32 then
    s.modCl 0 fun k => { k with
      active := [BitVec.ofNat 32 w], alen := 1
      decision := some { evkind := 0, scal := [], depth := [], age := [], cands := [], t := List.replicate 16 0, time := s.lease } }
  else if fetchSerai w then
    s.modCore (seraiOf 0) fun k => { k with waves := insK k.waves 0 (fetchWave w), icache := insK k.icache (2 ^ 60) (fetchLine w) }
  else
    s.modCore 0 fun k => { k with
      waves := insK k.waves 0 (fetchWave w), icache := insK k.icache 0 (fetchLine w)
      quotas := insK k.quotas 0 { base := 0, count := 20, valid := true } }

end Sys2Proof.Machine
end

