-- ==== Sys2Proof/Safety.lean ====
section
/-! DEFINITION. What counts as a safe run, and the terms the statements use: memory in canonical form, what an instruction
leaves unchanged, and when an instruction of a wave issues. -/

namespace Sys2Proof.Machine

/-- Both memories of the package are in canonical form. -/
def State.memWf (s : State) : Bool := Memory.wf s.sram && Memory.wf s.hbm
/-- A step goes on. -/
def goesOn (o : Host.Outcome State Fault Refusal) : Bool := match o with | .next _ => true | _ => false
/-- The state a run has reached after `n` steps, while it goes on. -/
def runFor : Nat → State → Option State
  | 0, s => some s
  | n + 1, s => match step s with | .next t => runFor n t | _ => none

/-- The byte that core storage holds at a flat address (R271). -/
def State.sramByte (s : State) (a : Nat) : Byte := getK 0 s.sram a
/-- The byte that HBM holds at a place: 64 times the number of its block, plus the byte in the block (R399). -/
def State.hbmByte (s : State) (k : Nat) : Byte := getK 0 s.hbm k

/-- Every byte and every block tag of memory reads as before. -/
structure SameMemory (s t : State) : Prop where
  sram : ∀ a, t.sramByte a = s.sramByte a
  hbm : ∀ k, t.hbmByte k = s.hbmByte k
  sramTag : ∀ b, getK 0 t.sramTag b = getK 0 s.sramTag b
  hbmTag : ∀ b, getK 0 t.hbmTag b = getK 0 s.hbmTag b

/-- What a thread holds for its program: registers, pending producers, predicates, WH and batches (R17). Its PC, its status and
its repeat state say where it stands. -/
def Thread.held (t : Thread) : Sparse Word × Sparse Nat × BitVec 8 × Lease × Sparse BatchCtr :=
  (t.regs, t.empty, t.preds, t.wh, t.batches)

/-- Every thread of the package holds what it held. -/
def SameHeld (s t : State) : Prop := ∀ c n l, (t.thread c n l).held = (s.thread c n l).held

/-- Nothing but where threads stand, and what records their faults, has changed for a program: memory and what every thread
holds are as before, in the same issue. -/
structure Keeps (s t : State) : Prop where
  cur : t.cur = s.cur
  memory : SameMemory s t
  held : SameHeld s t

/-- What a lane instruction leaves when its rows issue: D written in each of their lanes with the words `f` computes from the
lane's sources, SATF with the flags of all lanes ORed in, and the lanes of the path moved on (R34, R88, R101). -/
def laneResult (s1 : State) (d : DstReq) (rows : List (Nat × List (List Word))) (f : List (List Word) → List Word × Flags) : State :=
  ((s1.writeDst d (rows.map fun p => (p.1, (f p.2).1))).curFlags (rows.foldl (fun a p => a ||| (f p.2).2) 0)).finish
/-- The same where the value also depends on the lane and on the state the instruction reads. -/
def laneValue (s1 : State) (d : DstReq) (rows : List (Nat × List (List Word))) (f : Nat → List (List Word) → List Word) : State :=
  (s1.writeDst d (rows.map fun p => (p.1, f p.1 p.2))).finish
/-- What a predicate instruction leaves: Kd of every lane that issues, and the flags in SATF. -/
def predResult (s1 : State) (k : BitVec 3) (rows : List (Nat × List (List Word))) (f : Nat → List (List Word) → Bool × Flags) : State :=
  ((rows.foldl (fun s p => s.modLane p.1 fun t => t.setPred k (f p.1 p.2).1) s1).curFlags
    (rows.foldl (fun a p => a ||| (f p.1 p.2).2) 0)).finish

/-- The same where each lane's body may also move the lane's generator (R99, R100). -/
def laneFold (s1 : State) (d : DstReq) (rows : List (Nat × List (List Word)))
    (body : State → Nat → List (List Word) → State × List Word × Flags) : State :=
  let r := rows.foldl (fun (a : State × List (Nat × List Word) × Flags) p =>
    let o := body a.1 p.1 p.2
    (o.1, a.2.1 ++ [(p.1, o.2.1)], a.2.2 ||| o.2.2)) (s1, [], 0)
  ((r.1.writeDst d r.2.1).curFlags r.2.2).finish
/-- The words of a source in a lane: the registers it names in this issue, a special value, or a constant (R42, R43, R63, R64). -/
def State.operandWords (s : State) (l : Nat) (r : SrcReq) : List Word :=
  match r.src.o with
  | .reg b => (List.range r.n).map fun i => (s.curThread l).reg ((s.curThread l).step (fieldOf r.pos) b + i)
  | .special n => s.specialWords l r.n n
  | .intc k => intConst r.ty r.n k
  | .fltc k => fltOperand r.ty r.n k
  | _ => []
/-- Each active lane with the words of its sources. -/
def State.operandRows (s : State) (g : Guard) (sp : Spec) : List (Nat × List (List Word)) :=
  (s.active g).lanes.map fun l => (l, sp.srcs.map (s.operandWords l))
/-- The spec's conditions under which an instruction of registers, special values and constants executes normally: a lane is active, no repeat
forbids it (R138), its registers lie in the quota and above the dead ones (R18, R200), on their alignment, and those it reads are full (R21). -/
def State.plain (s : State) (g : Guard) (sp : Spec) : Bool :=
  let act := s.active g
  act != 0 && (repCause s sp act).isNone &&
  (sp.srcs.all fun r => match r.src.o with | .reg _ | .special _ | .intc _ | .fltc _ => true | _ => false) &&
  (sp.dst.toList.all fun d => match d.o with | .reg _ | .special _ => true | _ => false) &&
  act.lanes.all fun l =>
    ((sp.ranges (s.curThread l)).all fun p => p.1 % p.2.2 == 0 && (List.range p.2.1).all fun i =>
      decide (s.deadBelow s.cur.core s.cur.turn ≤ p.1 + i) && decide (p.1 + i < s.quotaOf s.cur.core s.cur.turn)) &&
    sp.srcs.all fun r => match r.src.o with
      | .reg b => (List.range r.n).all fun i => !(s.curThread l).isEmpty ((s.curThread l).step (fieldOf r.pos) b + i)
      | _ => true
/-- The state when such an instruction has read its sources: the queues of the core and the walkers of the wave written back as they were. -/
def State.atIssue (s : State) : State :=
  (s.modCore s.cur.core fun c => { c with queues := (s.core s.cur.core).queues }).modCurWave fun wv =>
    { wv with walkers := (s.wave s.cur.core s.cur.turn).walkers }
/-- The instruction issues in the lanes of `rows`, with their sources' words, in `s1` (`s0` before what it pops and reads through walkers):
under conditions on the state and the operands alone where the operands are registers, special values and constants, and for every operand
form as `prep` finds. -/
inductive Issues (s : State) (g : Guard) (sp : Spec) : State → State → List (Nat × List (List Word)) → Prop
  | plain : s.plain g sp = true → Issues s g sp s s.atIssue (s.operandRows g sp)
  | found {s0 s1 : State} {rows : List (Nat × List (List Word))} : prep s g sp = .go s0 s1 rows → Issues s g sp s0 s1 rows

/-- The same of an instruction with checks of its own (`Extra`), none of which finds a register that the operands do not show. -/
inductive IssuesWith (s : State) (g : Guard) (sp : Spec) (x : Extra) : State → State → List (Nat × List (List Word)) → Prop
  | plain : s.plain g sp = true → (∀ l, x.hole l = none) → IssuesWith s g sp x s s.atIssue (s.operandRows g sp)
  | found {s0 s1 : State} {rows : List (Nat × List (List Word))} : prep s g sp false x = .go s0 s1 rows → IssuesWith s g sp x s0 s1 rows

/-- Outputs reach D in their lanes, the flags reach SATF, and the path moves on: `laneResult`, `laneValue` and `laneFold` all end so. -/
def State.deliver (s : State) (d : DstReq) (outs : List (Nat × List Word)) (fl : Flags) : State := ((s.writeDst d outs).curFlags fl).finish
/-- What such outputs to the register `r` change: its registers in the lanes of `outs`, and nothing else that a program sees. -/
structure RegisterFrame (s t : State) (r : Nat) (outs : List (Nat × List Word)) : Prop where
  memory : SameMemory s t
  cur : t.cur = s.cur
  banks : ∀ c, (t.core c).banks = (s.core c).banks
  crs : isSerai s.cur.core = false → t.crs = s.crs
  others : ∀ c u l, c ≠ s.cur.core ∨ u ≠ s.cur.turn ∨ l ∉ outs.map (·.1) → (t.thread c u l).held = (s.thread c u l).held
  written : ∀ p ∈ outs, ∀ x, (t.curThread p.1).reg x =
    if s.dstReg p.1 r ≤ x ∧ x < s.dstReg p.1 r + p.2.length then p.2.getD (x - s.dstReg p.1 r) 0 else (s.curThread p.1).reg x
  full : ∀ p ∈ outs, ∀ x, (t.curThread p.1).isEmpty x =
    ((s.curThread p.1).isEmpty x && !(decide (s.dstReg p.1 r ≤ x) && decide (x < s.dstReg p.1 r + p.2.length)))
  kept : ∀ p ∈ outs, (t.curThread p.1).preds = (s.curThread p.1).preds ∧ (t.curThread p.1).wh = (s.curThread p.1).wh ∧
    (t.curThread p.1).batches = (s.curThread p.1).batches

/-- The sources of the lowest-numbered lane that issues: those of an instruction that acts once (R34). -/
def firstRow (rows : List (Nat × List (List Word))) : List (List Word) := (rows.headD (0, [])).2
/-- The lanes that issue. -/
def rowMask (rows : List (Nat × List (List Word))) : Mask := Mask.ofLanes (rows.map (·.1))

end Sys2Proof.Machine
end

