-- ==== Sys2Proof/Certificates/Slice0/Obligations.lean ====
section
/-! DEFINITION. The statements for the provers: what the encodings, the machine and every instruction, command and event of the
table do. `prep s g sp = .go s0 s1 rows` says that the path issues: `rows` holds the lanes that issue with their sources' words,
`s0` the state after the faults of other lanes and `s1` the state after the pops and walker reads as well. It covers every
operand form; `Obligations.RegisterOperandsIssue` says when it holds of registers and constants, and `Issues` takes either: those
conditions on the state and the operands alone (`State.plain`), or `prep`. A conclusion `exec i s = .next t` says that the instruction
COMPLETES in every state that meets the conditions before it, which are on the state and the operands alone. -/

section
open Sys2Proof Sys2Proof.Machine

/-- R57 to R64, R124, R226, R292, R305, R315, R351, R386, R390: words that the worked examples of the spec write out decode to the
instructions they stand for: a constant operand, an immediate, a guarded branch, a multiply-add, a reduction, a walker and a port as
sources, engine commands direct and through a port, a load with its empty behaviour, a release with a displacement, an atomic, a fence,
a barrier, a trap and its answer with a mask, mail, and three words of the tariff. -/
def Obligations.SpecWordsDecode : Prop :=
  let g : Guard := { pred := 0, neg := false }
  let v := fun (n : Nat) => ({ o := .reg n, e := false } : Src)
  let s32 : IntTy := { wid := 0, uns := false, sat := false }
  let m := fun (mode : AMode) (slot : BitVec 6) (idx : Nat) (d : BitVec 12) => ({ mode, slot, idx := v idx, disp := .short d } : MemOp)
  decodeWord 0x000000D040002001 0 = .ok (.add g s32 (.reg 8) (v 0) { o := .intc 65, e := false }) ∧
  decodeWord 0x000000FA00002031 0 = .ok (.addImm g s32 (.reg 8) (v 0) (.short 1000)) ∧
  decodeWord 0x00000A0140402893 0 = .ok (.fma g 0 false false (.reg 10) (v 4) (v 5) (v 10) none) ∧
  decodeWord 0x1400000000901103 0 = .ok (.red g 10 (.reg 4) (v 9) none) ∧
  decodeWord 0x0000006100000069 0 = .ok (.rep g 4 3 0) ∧
  decodeWord 0x000000002800401C 0 = .ok (.mov g false (.reg 16) { o := .walker 0, e := false }) ∧
  decodeWord 0x000000002890C01C 0 = .ok (.mov g false (.reg 48) { o := .port 1, e := false }) ∧
  decodeWord 0x0200000028B05131 0 = .ok (.qpop g 1 (.reg 20) 3 false) ∧
  decodeWord 0x0000000881000160 0 = .ok (.lmmaQueued g 16 false 2) ∧
  decodeWord 0x0200000034000171 0 = .ok (.waitb g .lathe { o := .intc 64, e := false }) ∧
  decodeWord 0x0000000942000180 0 = .ok (.cpyQueued g 32 false 5) ∧
  decodeWord 0x0000000300B02982 0 = .ok (.mcdrain g false (.reg 10) (v 11) (v 12)) ∧
  decodeWord 0x0000000001002990 0 = .ok (.trap g (.reg 10) (v 16)) ∧
  decodeWord 0x0200060140400994 0 = .ok (.resumeB g (.reg 2) (v 4) (v 5) (v 6)) ∧
  decodeWord 0x00000000020009B0 0 = .ok (.spawn g (.reg 2) (v 32)) ∧
  decodeWord 0x0800000080303140 0 = .ok (.ld g 4 (.reg 12) (m .slot 2 3 0)) ∧
  decodeWord 0x3800042000801542 0 = .ok (.stRel g 4 3 (v 5) (m .sa 0 8 16)) ∧
  decodeWord 0x0000000040405144 0 = .ok (.atom g 0 false (v 20) (m .slot 1 4 0)) ∧
  decodeWord 0x0600000000000150 0 = .ok (.fence g 3) ∧
  decodeWord 0x0200000000000151 0 = .ok (.bar g 1) ∧
  decodeWord 0x00000000006015C1 0 = .ok (.winfo g (.reg 5) (v 6)) ∧
  decodeWord 0x00000001010009A0 0 = .ok (.msend g false (.reg 2) (v 16) (v 4)) ∧
  decodeWord 0x02000000005081A1 0 = .ok (.mrecv g true (.reg 32) (v 5)) ∧
  tDecode 0x0000004F = .ok (.tMovi 1 0) ∧
  tDecode 0x00484012 = .ok (.tBne 0 1 18) ∧
  tDecode 0x001C001A = .ok .emitFallback

/-- R44, R57 to R62, R351, R352: the decoder reads the bytes of every well-formed instruction, whatever follows them, as that
instruction, with every operand and field at every value the encoding admits, and leaves what follows; likewise a tariff word. -/
def Obligations.EncodedInstructionsDecode : Prop :=
  ∀ (i : Instr) (rest : List Byte), i.wf = true →
    (∀ ws, encodeWords i = some ws → decodeBytes (ws.flatMap (fun w => bytesOf 8 w.toNat) ++ rest) = .ok (i, rest)) ∧
    (∀ r, tEncode i = some r → tDecodeBytes (bytesOf 4 r.toWord.toNat ++ rest) = .ok i)

/-- R61, R62, R68, R351: what decodes is well formed and was its one encoding, word for word, so two words of one length never decode
to one instruction; the opcodes 0x000, 0x380 to 0x3BF and 0x3FF refuse with the causes 1, 2 and 5, and a reserved LN with cause 3, or with the cause its
opcode gives every word. -/
def Obligations.DecodedWordsAreEncodings : Prop :=
  (∀ (w next : DWord) (i : Instr), decodeWord w next = .ok i →
    i.wf = true ∧ ∃ c, encode i = some c ∧ c.raw.toWord = w ∧ c.ext = if hasExt w then some next else none) ∧
  (∀ (w : Word) (i : Instr), tDecode w = .ok i → i.wf = true ∧ ∃ r, tEncode i = some r ∧ r.toWord = w) ∧
  (∀ (w next : DWord),
    (w.extractLsb' 0 10 = 0 → decodeWord w next = .error 1) ∧
    (0x380 ≤ (w.extractLsb' 0 10).toNat → (w.extractLsb' 0 10).toNat ≤ 0x3BF → decodeWord w next = .error 2) ∧
    (w.extractLsb' 0 10 = 0x3FF → decodeWord w next = .error 5) ∧
    (w.extractLsb' 62 2 ≠ 0 → w.extractLsb' 62 2 ≠ 1 → decodeWord w next = .error 3 ∨
      ∃ e, ∀ w' n' : DWord, w'.extractLsb' 0 10 = w.extractLsb' 0 10 → decodeWord w' n' = .error e))

/-- R45, R47, R48, R57, R68, R77, R170, R172, R350: a step runs the decoded instruction. A path whose lanes stand in one block at
`pc`, with the code line there, issues the instruction that the words at `pc` decode to (in LA2 code, the one its word translates to),
or the UNDEFINED fault of the words' cause; a port's choice attempts it; the step is that instruction's `exec`, when nothing else can
happen and when it is chosen; and a decision in progress executes the instruction of its tariff word. -/
def Obligations.StepRunsTheInstruction : Prop :=
  ∀ (s u : State) (c : Nat) (i : Instr),
    (¬(s.phase = 0 ∧ s.warm = .run) → s.acts = [coreAct c] → s.coreTodo c = .run i u → step s = exec i u) ∧
    (∀ a b as, ¬(s.phase = 0 ∧ s.warm = .run) → s.acts = a :: b :: as →
      step s = ((a :: b :: as).getD (Config.pick (as.length + 2) s.fresh % (as.length + 2)) a) { s with fresh := s.fresh + 1 }) ∧
    (s.coreTodo c = .run i u → coreAct c s = exec i u) ∧
    (∀ cl d, (s.cl cl).decision = some d → d.cycles < 64 → tDecode ((s.cl cl).active.getD d.idx 0) = .ok i →
      decisionAct cl s = exec i { s with cur := { core := seraiOf cl } }) ∧
    (∀ (portB : Bool) (t : Nat) (pc : DWord) (m : Mask), let w := s.wave c t
      w.live = true → w.busy = false → m ≠ 0 → (∀ l ∈ m.lanes, (w.thread l).status = .ready ∧ (w.thread l).pc = pc ∧ (w.thread l).pending = false) →
      let r := (s.bump.2).modCore c fun k => { k with cycle := if portB then { k.cycle with bDone := true } else { k.cycle with aDone := true } }
      s.portTodo c portB (some (t, pc, m)) = ({ r.settle c with cur := { core := c, turn := t, portB, lanes := m, pc, n := s.nextId } } : State).issueAt) ∧
    (∀ ln, (∀ l ∈ s.cur.lanes.lanes, (s.curThread l).defer = []) → s.codeLine s.cur.core s.cur.turn s.cur.pc = some ln →
      let th := s.curThread (s.cur.lanes.lanes.headD 0)
      let w := ln.at s.cur.pc
      let pos := (caOff s.cur.pc - caOff th.hdr) / 8
      let len := dwBits th.hdrW 17 10
      let n := if hasExt w then 2 else 1
      let there := { s with cur := { s.cur with word := w, words := n, la2 := false } }
      (∀ next, ln.la2 = false → th.la2 = false → pos + n ≤ len + 1 →
        (hasExt w = true → ∃ ln2, s.codeLine s.cur.core s.cur.turn (caAdd s.cur.pc 8) = some ln2 ∧ next = ln2.at (caAdd s.cur.pc 8)) →
        (decodeWord w next = .ok i → (i.endsBlock = true → pos + n = len + 1) → (∀ g ct k st, i = .rep g ct k st → pos ≠ len) →
          s.issueAt = .run i there) ∧
        (∀ e, decodeWord w next = .error e → s.issueAt = .run (.unassignedOpcode (w.extractLsb' 0 10) (BitVec.ofNat 3 e)) there)) ∧
      (ln.la2 = true → decodeLa2 w = .ok i → ∃ v, s.issueAt = .run i v ∧ v.cur = { s.cur with word := w, words := 1, la2 := true } ∧
        ∀ l, (v.curThread l).held = (s.curThread l).held))

/-- The machine does not stop for want of a meaning: every instruction, tariff instruction, command and event answers a next state, and so
does every step, but after a boot sequence that has failed (R459), which only a cold reset from outside ends. -/
def Obligations.EveryStepGoesOn : Prop :=
  (∀ (i : Instr) (s : State), ∃ t, exec i s = .next t) ∧
  ∀ s : State, (∃ t, step s = .next t) ∨ (s.phase = 15 ∧ s.acts = [] ∧ step s = .fault .bootFailed)

/-- R17, R26, R34, R36, R100, R170, R174, R228, R303, R304, R459: the state after a cold reset, where the spec gives it: threads exited, no wave, no bank
allocated, no queue bound, NEXTA 0, no drive absent, no serai running, memory in canonical form, and the control registers at the reset values of
their field maps. That a register without a stated reset value reads zero, and memory, is the model's choice (LOG 1, 2). -/
def Obligations.ResetState : Prop :=
  let s := State.reset
  let w := s.wave 0 0
  s.memWf = true ∧ s.phase = 0 ∧ s.running = 0 ∧ s.cr 16 nBOOTSTAT = 0 ∧
  (∀ c t l, (s.thread c t l).status = .exited ∧ (s.thread c t l).reg 0 = 0 ∧ (s.thread c t l).pred 0 = true) ∧
  (∀ c t, (s.wave c t).live = false ∧ (s.quota c t).valid = false) ∧
  (∀ c, (s.core c).nextA = 0 ∧ (s.core c).ports = [] ∧ ∀ b, ((s.core c).bank b).valid = false) ∧
  (w.tile = 5 ∧ w.satf = 0 ∧ w.quant = 64 ∧ w.qcnt = 0 ∧ w.rot = false ∧ w.rotLane = 31 ∧ w.rtovf = 0 ∧ w.recon = [] ∧ w.walkers = []) ∧
  ∀ cl t, (s.smode cl t).toNat = 1 ∧ s.cr cl nCSCTL = 2000 ∧ s.cr cl nXRING = 0x400000 ∧ s.cr cl nERING = 0x400000 ∧ s.cr cl nTLOG = 0x400000 ∧
    s.cr cl nMBOX = 0 ∧ s.cr cl nTCTL = 0 ∧ s.cr cl nBARCTL = 0 ∧ (∀ r, r < 16 → s.cr cl (nSRCLS r) = 18) ∧
    (∀ q, q < 64 → s.cr cl (nCQ q 1) = 8) ∧ (∀ q, q < 4 → s.cr cl (nTQ q 1) = 8) ∧ (∀ q, q < 32 → s.cr cl (nNQ q 1) = 8) ∧
    (∀ g, g < 32 → s.cr 16 (nRGMODE g) = 4 ∧ s.cr 16 (nHGSTATE g) = 0x10001) ∧ s.cr 16 nHMIG = 0x40000000 ∧
    s.cr 16 nFABCTL = 0x320000640000 ∧ s.cr 16 nNETCTL = 0x70028 ∧ s.cr 16 nSTSTAT = 6 ∧
    (∀ i q, i < 128 → q ≤ 34 → s.cr cl (nQLIM i q) = 0x8000)

/-- R18 to R22, R33, R108, R137, R200: an instruction whose operands are registers, special values and constants issues in every active lane, with
the values of its sources in that lane, when the registers it names in this issue lie in the quota, above the dead ones and on their
alignment, and no register it reads is empty; nothing else that the program sees has changed by then. Whatever its operands, a register out
of quota or dead is a QUOTA fault of every active lane that names such a register, and else one that is misaligned a misaligned fault; else
the whole path waits where a source without its E bit is empty in an active lane; else the lanes in which a source with the bit is empty
take EMPTY, with the register and the position, and the others issue. `add`, `mad` and `fma` do just that. -/
def Obligations.RegisterOperandsIssue : Prop :=
  (∀ (s : State) (g : Guard) (sp : Spec),
    let act := s.active g
    let plainOps := (∀ r ∈ sp.srcs, (∃ b, r.src.o = .reg b) ∨ (∃ n, r.src.o = .special n) ∨ (∃ k, r.src.o = .intc k) ∨ (∃ k, r.src.o = .fltc k)) ∧
      ∀ d, sp.dst = some d → (∃ b, d.o = .reg b) ∨ (∃ n, d.o = .special n)
    let ranges := fun (l : Nat) => sp.ranges (s.curThread l)
    let out := fun (r : Nat) => r < s.deadBelow s.cur.core s.cur.turn ∨ s.quotaOf s.cur.core s.cur.turn ≤ r
    let within := ∀ l ∈ act.lanes, ∀ p ∈ ranges l, ∀ i < p.2.1, ¬out (p.1 + i)
    act ≠ 0 → repCause s sp act = none →
    (plainOps → within → (∀ l ∈ act.lanes, ∀ p ∈ ranges l, p.1 % p.2.2 = 0) →
      (∀ l ∈ act.lanes, ∀ r ∈ sp.srcs, ∀ b, r.src.o = .reg b →
        ∀ i < r.n, (s.curThread l).isEmpty ((s.curThread l).step (fieldOf r.pos) b + i) = false) →
      s.plain g sp = true ∧ prep s g sp = .go s s.atIssue (s.operandRows g sp) ∧
      let value := fun (l : Nat) (r : SrcReq) => match r.src.o with
        | .reg b => (List.range r.n).map fun i => (s.curThread l).reg ((s.curThread l).step (fieldOf r.pos) b + i)
        | .special n => s.specialWords l r.n n
        | .intc k => intConst r.ty r.n k
        | .fltc k => fltOperand r.ty r.n k
        | _ => []
      ∃ s1, prep s g sp = .go s s1 (act.lanes.map fun l => (l, sp.srcs.map (value l))) ∧ Keeps s s1 ∧ s1.crs = s.crs ∧
        ∀ c t l, s1.thread c t l = s.thread c t l) ∧
    ((∃ l ∈ act.lanes, ∃ p ∈ ranges l, ∃ i < p.2.1, out (p.1 + i)) →
      ∃ l ∈ act.lanes, ∃ p ∈ ranges l, ∃ i < p.2.1, out (p.1 + i) ∧
        prep s g sp = .stop (s.takeFaults act 2 (BitVec.ofNat 32 (Nat.min (p.1 + i) 1023))).finish) ∧
    (within → (∃ l ∈ act.lanes, ∃ p ∈ ranges l, p.1 % p.2.2 ≠ 0) →
      ∃ l ∈ act.lanes, ∃ p ∈ ranges l, p.1 % p.2.2 ≠ 0 ∧ prep s g sp = .stop (s.takeFaults act 4 (BitVec.ofNat 32 (2 * p.1))).finish) ∧
    (within → (∀ l ∈ act.lanes, ∀ p ∈ ranges l, p.1 % p.2.2 = 0) →
      let blocks := fun (l x : Nat) => l ∈ act.lanes ∧ ∃ r ∈ sp.srcs, r.src.e = false ∧ x ∈ r.emptyRegs (s.curThread l)
      let holes := act.lanes.filterMap fun l =>
        (sp.srcs.findSome? fun r => (r.emptyRegs (s.curThread l)).head?.map fun x => (r.pos, x)).map fun p => (l, p)
      let u := holes.foldl (fun s p => s.takeFault p.1 3 (BitVec.ofNat 32 (p.2.2 + 1024 * p.2.1))) s
      let left := act.lanes.filter fun l => !(holes.any fun p => p.1 == l)
      ((∃ l x, blocks l x) → ∃ ws, prep s g sp = .stop (s.block .blockedEmpty (.regs ws)) ∧ ∀ l x, (l, x) ∈ ws ↔ blocks l x) ∧
      ((∀ l x, ¬blocks l x) → plainOps → sp.once = false →
        (left = [] → prep s g sp = .stop u.finish) ∧
        (left ≠ [] → ∃ s1, prep s g sp = .go u s1 (left.map fun l => (l, sp.srcs.map (s.operandWords l))))))) ∧
  (∀ (s : State) (st : Status) (w : Wait), Keeps s (s.block st w) ∧ ∀ l ∈ s.cur.lanes.lanes,
    (s.block st w).curThread l = if (s.curThread l).going then { s.curThread l with status := st, wait := w } else s.curThread l) ∧
  ∀ (s u : State) (g : Guard) (ty : IntTy) (ft : BitVec 2) (np nc : Bool) (d : Operand) (a b c : Src) (x : Option Modx),
    (prep s g (spec2 ty d a b) = .stop u → exec (.add g ty d a b) s = .next u) ∧
    (prep s g (spec3 ty d a b c) = .stop u → exec (.mad g ty d a b c) s = .next u) ∧
    (prep s g (fltSpec (ftFmt ft) d [a, b, c]) = .stop u → exec (.fma g ft np nc d a b c x) s = .next u)

/-- R18, R22, R32, R34, R43, R101, R210, R220: the frame of the instructions that write D. Their results, whether of the sources alone (`laneResult`),
of the lane too (`laneValue`), or of bodies that may also move the lane's generator (`laneFold`), are all delivered in one way. Of all
registers, only those of D change, from its base in this issue on, in the lanes that issue, and they are full and hold the result; predicates,
WH and batches, the threads of other lanes, waves and cores, SATF but for the flags raised, all of memory, the accumulator banks and, at a
compute core, the control registers are as before. A special value as D takes nothing; a port's queue takes the words, lane by lane, behind its
entries; a walker stores in the own slice no byte but those of its elements, moves on, and leaves registers and predicates. An instruction
that writes a predicate changes that predicate alone of the lanes that issue, and nothing where it names k0 (R19). -/
def Obligations.ResultFrames : Prop :=
  (∀ (s : State) (d : DstReq) (rows : List (Nat × List (List Word))),
    (∀ f : List (List Word) → List Word × Flags,
      laneResult s d rows f = s.deliver d (rows.map fun p => (p.1, (f p.2).1)) (rows.foldl (fun a p => a ||| (f p.2).2) 0)) ∧
    (∀ f : Nat → List (List Word) → List Word, laneValue s d rows f = s.deliver d (rows.map fun p => (p.1, f p.1 p.2)) 0) ∧
    (∀ body : State → Nat → List (List Word) → State × List Word × Flags, ∃ v outs fl,
      laneFold s d rows body = v.deliver d outs fl ∧ outs.map (·.1) = rows.map (·.1) ∧
      ∀ R : State → State → Prop, (∀ a, R a a) → (∀ a b c, R a b → R b c → R a c) → (∀ a l vs, R a (body a l vs).1) → R s v)) ∧
  (∀ (s : State) (n al : Nat) (outs : List (Nat × List Word)) (fl : Flags), (outs.map (·.1)).Nodup →
    (∀ o, ((s.deliver { o, n, al } outs fl).wave s.cur.core s.cur.turn).satf = (s.wave s.cur.core s.cur.turn).satf ||| fl) ∧
    (∀ r, RegisterFrame s (s.deliver { o := .reg r, n, al } outs fl) r outs) ∧
    (∀ k, let t := s.deliver { o := .special k, n, al } outs fl
      SameMemory s t ∧ SameHeld s t ∧ ∀ c, (t.core c).queues = (s.core c).queues) ∧
    (∀ p q, (s.core s.cur.core).portQueue p = some q → outs ≠ [] → let t := s.deliver { o := .port p, n, al } outs fl
      SameMemory s t ∧ SameHeld s t ∧ (∀ x, x ≠ q → (t.core s.cur.core).queue x = (s.core s.cur.core).queue x) ∧
      (t.core s.cur.core).queue q = (s.core s.cur.core).queue q ++
        (List.range n).map fun i => QEntry.fifo (outs.foldl (fun m p => putK 0 m p.1 (p.2.getD i 0)) [])) ∧
    (∀ i, outs ≠ [] → let t := s.deliver { o := .walker i, n, al } outs fl
      let w := (s.wave s.cur.core s.cur.turn).walker i
      (∀ c u l, (t.thread c u l).regs = (s.thread c u l).regs ∧ (t.thread c u l).empty = (s.thread c u l).empty ∧
        (t.thread c u l).preds = (s.thread c u l).preds ∧ (t.thread c u l).batches = (s.thread c u l).batches) ∧
      (t.wave s.cur.core s.cur.turn).walker i = w.advance ∧
      (∀ k, t.hbmByte k = s.hbmByte k) ∧ (∀ b, getK 0 t.sramTag b = getK 0 s.sramTag b ∧ getK 0 t.hbmTag b = getK 0 s.hbmTag b) ∧
      ∀ a, (∀ p ∈ outs, ∀ b e, s.checkWalker w p.1 rWRITE = .ok (.sram b) e → isOwn s.cur.core (.sram b) = true → a < b ∨ b + 2 ^ w.esize ≤ a) →
        t.sramByte a = s.sramByte a)) ∧
  ∀ (s : State) (rows : List (Nat × List (List Word))), (rows.map (·.1)).Nodup →
    ∀ (k : BitVec 3) (f : Nat → List (List Word) → Bool × Flags),
      let t := predResult s k rows f
      SameMemory s t ∧ t.cur = s.cur ∧ (isSerai s.cur.core = false → t.crs = s.crs) ∧
      (∀ c u l, c ≠ s.cur.core ∨ u ≠ s.cur.turn ∨ l ∉ rows.map (·.1) ∨ k = 0 → (t.thread c u l).held = (s.thread c u l).held) ∧
      ∀ p ∈ rows,
        let old := s.curThread p.1
        let new := t.curThread p.1
        new.regs = old.regs ∧ new.empty = old.empty ∧ new.wh = old.wh ∧ new.batches = old.batches ∧
        (∀ j : BitVec 3, new.pred j = if j = k ∧ k ≠ 0 then (f p.1 p.2).1 else old.pred j)

/-- R302, R313, R32, R349, R411, R469: taking a fault. At a compute core the lane is faulted, at the instruction, with its record formed from
the fault, the instruction's address and word and the lease clock; it leaves its reconvergence entries and an event is raised. At a serai in
shard mode the thread enters monitor mode at MVEC, with MEPC at the instruction and the code in MCODE; in monitor mode it is faulted. A fault
of code 6 counts in TBSTAT.PFLT (R411). What the threads hold, and memory, are as before. -/
def Obligations.FaultEntry : Prop :=
  ∀ (s : State) (l code : Nat) (finfo : Word) (extra : DWord), l < 32 →
    let u := s.takeFault l code finfo extra
    let c := s.cur.core
    let t := s.cur.turn
    let cl := clusterOf c
    Keeps s u ∧ (∀ c' t' j, c' ≠ c ∨ t' ≠ t ∨ j ≠ l → isSerai c = false → u.thread c' t' j = s.thread c' t' j) ∧
    (code = 6 → dwBits (u.cr cl nTBSTAT) 31 16 = Nat.min 65535 (dwBits (s.cr cl nTBSTAT) 31 16 + 1)) ∧
    (isSerai c = false →
      (u.curThread l).status = .faulted ∧ (u.curThread l).wait = .none ∧ (u.curThread l).pc = (s.curThread l).pc ∧
      (u.curThread l).xrec =
        some { code, finfo, turn := t, uid := (s.wave c t).uid, lane := l, reps := (s.curThread l).reps, pc := s.cur.pc, extra, time := s.lease,
               word := s.cur.word, iss := s.cur.n } ∧
      (∀ p ∈ (u.wave c t).recon, p.2.members.getLsbD l = false) ∧
      (u.cl cl).faultEvs = addFaultEv (s.cl cl).faultEvs
        { core := c, turn := t, uid := (s.wave c t).uid, code, finfo, lanes := Mask.single l, pc := s.cur.pc, issue := s.cur.n }) ∧
    (isSerai c = true → s.isMonitor cl t = false →
      u.crT cl (t + 1) nMEPC = s.cur.pc ∧ u.crT cl (t + 1) nMINFO = finfo.setWidth 64 ∧
      u.smode cl t = dwSet (dwSet (s.smode cl t) 0 0 1) 15 8 code ∧
      (u.thread (seraiOf cl) t 0).pc = s.cr cl nMVEC ∧ (u.thread (seraiOf cl) t 0).status = .ready) ∧
    (isSerai c = true → s.isMonitor cl t = true → (u.curThread l).status = .faulted ∧ u.crT cl (t + 1) nMEPC = s.crT cl (t + 1) nMEPC)

/-- R67, R68, R77, R301, R302: the privileged instructions at a compute core, and at a serai the instructions of the units it lacks, take
UNDEFINED with the causes 7 and 0 in every lane of the path (that `mcdrop`, which R301 does not list, is one of them is LOG 20); an opcode
that is not assigned takes it with its cause, or with cause 7 in the privileged range at a compute core, and an LA2 word without an
equivalent with cause 6. -/
def Obligations.ModeChecks : Prop :=
  ∀ (g : Guard) (d : Operand) (a b p : Src) (f nb w64 : Bool) (n : Nat) (q : BitVec 5) (e : BitVec 3) (op : BitVec 10) (word : DWord) (s : State),
    let priv := Host.Outcome.next (s.undefined s.cur.lanes (curOpc s) 7)
    let lacks := Host.Outcome.next (s.undefined s.cur.lanes (curOpc s) 0)
    (isSerai s.cur.core = false →
      exec (.resume g d a b) s = priv ∧ exec (.resumeB g d a b p) s = priv ∧ exec (.kill g f d a b) s = priv ∧
      exec (.xres g f d a b) s = priv ∧ exec (.psave g d a b) s = priv ∧ exec (.prest g d a b) s = priv ∧
      exec (.crget g d a) s = priv ∧ exec (.crset g a b) s = priv ∧ exec (.icinv g d a b p) s = priv ∧ exec (.mcall g a) s = priv ∧
      exec (.mret g) s = priv ∧ exec (.msend g nb d a b) s = priv ∧ exec (.mrecv g nb d a) s = priv ∧
      exec (.mmiow g a b) s = priv ∧ exec (.mmior g d a) s = priv) ∧
    (isSerai s.cur.core = true →
      exec (.lmma g n f) s = lacks ∧ exec (.lmmaQueued g n f q) s = lacks ∧ exec (.aalloc g d a) s = lacks ∧ exec (.afree g a) s = lacks ∧
      exec (.aband g a) s = lacks ∧ exec (.arel g a) s = lacks ∧ exec (.ald g d a) s = lacks ∧ exec (.ast g a b) s = lacks ∧
      exec (.ainfo g d a) s = lacks ∧ exec (.rquota g a) s = lacks ∧ exec (.rdead g a) s = lacks ∧ exec (.rgrant g a) s = lacks ∧
      exec (.qbind g q a) s = lacks ∧ exec (.qpop g e d n f) s = lacks ∧ exec (.qpush g e n a) s = lacks ∧ exec (.qlen g d n f) s = lacks ∧
      exec (.cpy g n f) s = lacks ∧ exec (.cpyQueued g n f q) s = lacks ∧ exec (.cpymc g n f) s = lacks ∧
      exec (.mcdrain g nb d a b) s = lacks ∧ exec (.mcdrop g nb d a) s = lacks ∧ exec (.mcinfo g d a) s = lacks ∧
      exec (.trap g d a) s = lacks) ∧
    exec (.unassignedOpcode op e) s = .next (s.undefined s.cur.lanes op.toNat
      (if s.cur.la2 = false ∧ isSerai s.cur.core = false ∧ 0x194 ≤ op.toNat ∧ op.toNat ≤ 0x1AF then 7
       else if isSerai s.cur.core = true ∧ seraiLacks op.toNat = true then 0 else e.toNat)) ∧
    exec (.la2UntranslatableForm word) s = .next (s.undefined s.cur.lanes 0x384 6 word)

/-- R115: `and`, `or`, `xor`, `andn` and `not` act bit by bit over the whole operand, whatever WID: over 64 bits for WID 1 and over 32 bits
otherwise, the packed widths included. -/
def Obligations.BitwiseOperations : Prop :=
  ∀ (g : Guard) (ty : IntTy) (d : Operand) (a b : Src) (s s0 s1 : State) (rows : List (Nat × List (List Word))),
    let n := if ty.wid = 1 then 2 else 1
    let acts := fun (i : Instr) (op : Bool → Bool → Bool) => ∃ f : List (List Word) → List Word × Flags,
      exec i s = .next (laneResult s1 { o := d, n, al := n } rows f) ∧
      ∀ vs, (f vs).2 = 0 ∧ (f vs).1.length = n ∧
        ∀ k j, k < n → j < 32 → ((f vs).1.getD k 0).getLsbD j = op ((wordAt vs 0 k).getLsbD j) ((wordAt vs 1 k).getLsbD j)
    (prep s g (spec2 ty d a b) = .go s0 s1 rows →
      acts (.and g ty d a b) (fun x y => x && y) ∧ acts (.or g ty d a b) (fun x y => x || y) ∧
      acts (.xor g ty d a b) (fun x y => x ^^ y) ∧ acts (.andn g ty d a b) (fun x y => x && !y)) ∧
    (prep s g (spec1 ty d a) = .go s0 s1 rows → acts (.not g ty d a) (fun x _ => !x))

/-- R64: floating constant code 960 + 32·s + m has the f32 pattern of magnitude m, with bit 31 set to s, NaN included. -/
def Obligations.FloatingConstants : Prop :=
  (∀ s m : Nat, s < 2 → m < 32 → Operand.ofCode (BitVec.ofNat 10 (960 + 32 * s + m)) = some (.fltc (32 * s + m)) ∧
    fltConst (32 * s + m) = fltConst m ||| (if s = 1 then 0x80000000 else 0)) ∧
  (∀ m : Nat, m < 16 → fltConst m = BitVec.ofNat 32 ((119 + m) * 2 ^ 23)) ∧
  (List.range 16).map (fun m => fltConst (16 + m)) =
    [0x40400000, 0x40A00000, 0x40C00000, 0x41200000, 0x3FC00000, 0x3F400000, 0x3DCCCCCD, 0x3EAAAAAB,
     0x40490FDB, 0x40C90FDB, 0x3F317218, 0x3FB8AA3B, 0x3F3504F3, 0x7F7FFFFF, 0x7F800000, 0x7FC00000]

/-- R133: `brk #code` takes the BREAKPOINT fault 0x0B, with the code as FINFO, in every active lane; at a compute core
its PC stays there and its record says so; the lanes whose
predicate fails go on. A word whose IMM20[19:16] is not zero does not decode to it. -/
def Obligations.BreakpointFaults : Prop :=
  (∀ (g : Guard) (code : BitVec 16) (s s0 s1 : State) (rows : List (Nat × List (List Word))),
    prep s g {} = .go s0 s1 rows →
    let t := (s1.takeFaults (s.active g) 0x0B (code.setWidth 32)).finish
    exec (.brk g code) s = .next t ∧
    (isSerai s.cur.core = false → (∀ l ∈ s.cur.lanes.lanes, (s.curThread l).pc = s.cur.pc) →
      (∀ l ∈ (s.active g).lanes, (t.curThread l).status = .faulted ∧ (t.curThread l).pc = s.cur.pc ∧
        ∃ r, (t.curThread l).xrec = some r ∧ r.code = 0x0B ∧ r.finfo = code.setWidth 32 ∧ r.pc = s.cur.pc ∧ r.lane = l) ∧
      ∀ l ∈ s.cur.lanes.lanes, l ∉ (s.active g).lanes → (s.curThread l).going = true → (s.curThread l).repCnt = 0 →
        (∀ j ∈ s.cur.lanes.lanes, (s.curThread j).atEnd s.cur = false) →
        (t.curThread l).pc = s.cur.nextPc ∧ (t.curThread l).status = .ready ∧ (t.curThread l).held = (s.curThread l).held)) ∧
  ∀ (w next : DWord), w.extractLsb' 0 10 = 0x068 → w.extractLsb' 46 4 ≠ 0 → ∃ e, decodeWord w next = .error e

/-- R429: `winfo D, S1` writes to D, in each active lane that reads its source, a word for stack S1[2:0]: DEPTH in bits [6:0], bit 8 + c set
when context c is enabled and owned by the cluster's partition, and every other bit 0. -/
def Obligations.WaysideInformation : Prop :=
  ∀ (g : Guard) (d : Operand) (a : Src) (s s0 s1 : State) (rows : List (Nat × List (List Word))),
    prep s g { srcs := [{ pos := 0, src := a }], dst := some { o := d } } = .go s0 s1 rows →
    ∃ f : List (List Word) → Word, exec (.winfo g d a) s = .next (laneValue s1 { o := d } rows fun _ vs => [f vs]) ∧
      ∀ vs, let k := (wordAt vs 0 0).toNat % 8
        (f vs).extractLsb' 0 7 = (s1.cr 16 (nWSTAT k)).extractLsb' 0 7 ∧
        (∀ c < 4, (f vs).getLsbD (8 + c) = ((s1.wctx k c).2 && decide ((s1.wctx k c).1 = (s1.partOf s.cur.core).toNat))) ∧
        (f vs).getLsbD 7 = false ∧ ∀ j, 12 ≤ j → (f vs).getLsbD j = false

/-- R371, R374, R377: a store that performs at its home writes its bytes there, lowest first, but those of a trap record that are read-only
(LOG 34), and no other byte of memory; a store of a tag writes its data as the tag of its block, and no byte; at its cohort point a store changes no home; no thread's registers change, and memory keeps its
canonical form. -/
def Obligations.StoresPerformInPlace : Prop :=
  ∀ (s t : State) (id : Nat) (stage : StoreStage) (x : PStore),
    findK s.stores id = some x → exec (.storePerform id stage) s = .next t →
    SameHeld s t ∧ (s.memWf = true → t.memWf = true) ∧ (stage = .cohort → SameMemory s t) ∧
    (stage = .home → x.kind = .tag → (∀ k, t.sramByte k = s.sramByte k ∧ t.hbmByte k = s.hbmByte k) ∧
      (∀ a b, x.place = .sram a → getK 0 t.hbmTag b = getK 0 s.hbmTag b ∧ (b ≠ a / 64 → getK 0 t.sramTag b = getK 0 s.sramTag b)) ∧
      (∀ a b, x.place = .hbm a → getK 0 t.sramTag b = getK 0 s.sramTag b ∧ (b ≠ s.locate a → getK 0 t.hbmTag b = getK 0 s.hbmTag b)) ∧
      ∀ y, findK t.stores id = some y → x.stage < 2 → y.stage = 2 → y.fail = none →
        (∀ a, x.place = .sram a → getK 0 t.sramTag (a / 64) = BitVec.ofNat 16 x.data) ∧
        (∀ a, x.place = .hbm a → getK 0 t.hbmTag (s.locate a) = BitVec.ofNat 16 x.data)) ∧
    (stage = .home → x.kind = .data → (∀ b, getK 0 t.sramTag b = getK 0 s.sramTag b ∧ getK 0 t.hbmTag b = getK 0 s.hbmTag b) ∧
      (∀ a, x.place = .sram a → (∀ k, k < a ∨ a + x.size ≤ k → t.sramByte k = s.sramByte k) ∧ (∀ k, t.hbmByte k = s.hbmByte k) ∧
        ∀ y, findK t.stores id = some y → x.stage < 2 → y.stage = 2 → y.fail = none →
          ∀ i < x.size, t.sramByte (a + i) = if s.roByte (a + i) then s.sramByte (a + i) else BitVec.ofNat 8 (x.data / 256 ^ i)) ∧
      (∀ a, x.place = .hbm a → (∀ k, t.sramByte k = s.sramByte k) ∧
        (∀ k, (∀ i < x.size, k ≠ s.locate (a + i) * 64 + (a + i) % 64) → t.hbmByte k = s.hbmByte k) ∧
        ∀ y, findK t.stores id = some y → x.stage < 2 → y.stage = 2 → y.fail = none → a % 64 + x.size ≤ 64 →
          ∀ i < x.size, t.hbmByte (s.locate a * 64 + (a + i) % 64) = BitVec.ofNat 8 (x.data / 256 ^ i)))

/-- R92, R208, R373, R382, R383, R387: a load, store, tag write or atomic of a lane as it issues. In the own slice a load reads, and a store
writes its bytes, lowest first, but those of a trap record that are read-only (LOG 34), and no other byte or tag; of 16 bytes one half of 8
does, and the other is in flight; a tag write writes the tag of the block alone; an atomic changes no byte outside its operand; and WH takes the time of
the write. Elsewhere nothing of memory changes yet: the store is in flight, with its place and data, one of 16 bytes as two of 8.
Registers, predicates and batches of
every thread are as before. -/
def Obligations.IssuedStores : Prop :=
  ∀ (s : State) (l size data : Nat) (p : Place) (kind : StoreKind) (acq : Bool) (o : Option (Nat × Nat)),
    let t := s.issueStore l p size data kind acq o
    t.cur = s.cur ∧ t.crs = s.crs ∧ (s.memWf = true → t.memWf = true) ∧
    (∀ c u j, (t.thread c u j).regs = (s.thread c u j).regs ∧ (t.thread c u j).empty = (s.thread c u j).empty ∧
      (t.thread c u j).preds = (s.thread c u j).preds ∧ (t.thread c u j).batches = (s.thread c u j).batches) ∧
    (∀ k, t.hbmByte k = s.hbmByte k) ∧ (∀ b, getK 0 t.hbmTag b = getK 0 s.hbmTag b) ∧
    (isOwn s.cur.core p = false → SameMemory s t ∧ SameHeld s t ∧
      let by_ := fun (x : PStore) (pl : Place) (n v : Nat) (half : Option Nat) => x.core = s.cur.core ∧ x.turn = s.cur.turn ∧ x.lane = l ∧
        x.place = pl ∧ x.size = n ∧ x.data = v ∧ x.kind = kind ∧ x.acq = acq ∧ x.stage = 0 ∧ x.pair = half
      (size ≠ 16 → ∃ x, t.stores = insK s.stores s.nextId x ∧ by_ x p size data none) ∧
      (size = 16 → ∃ x y, t.stores = insK (insK s.stores s.nextId x) (s.nextId + 1) y ∧
        by_ x p 8 (data % 2 ^ 64) (some (s.nextId + 1)) ∧ by_ y (p.add 8) 8 (data / 2 ^ 64) (some s.nextId))) ∧
    (∀ e sz k m dsts, isOwn s.cur.core p = true →
      let u := s.issueLoad l p e sz k m dsts
      (sz ≠ 6 ∨ k = .tag → ∃ q, u.prods = insK s.prods s.nextId q ∧ q.lane = l ∧ q.dsts = dsts ∧
        q.src = .vals (if k = .tag then [(s.tagAt p).setWidth 32] else extend sz (s.rdHome p (sizeBytes sz)))) ∧
      (sz = 6 → k ≠ .tag → ∃ q a, u.prods = insK s.prods s.nextId q ∧ q.lane = l ∧ q.dsts = dsts ∧ q.src = .load a ∧ a.place = p ∧
        ∃ h < 2, a.half = some (h, wordsOf 2 (natOfBytes (s.rdHome (p.add (8 * h)) 8))))) ∧
    (∀ a, p = .sram a → isOwn s.cur.core p = true → kind = .data → size = 16 →
      (t.curThread l).wh = Lease.later (s.curThread l).wh (s.visTime p) ∧ (∀ b, getK 0 t.sramTag b = getK 0 s.sramTag b) ∧
      ∃ h < 2, ∃ x, t.stores = insK s.stores s.nextId x ∧ x.place = p.add (8 * (1 - h)) ∧ x.size = 8 ∧ x.data = data / 2 ^ (64 * (1 - h)) % 2 ^ 64 ∧
        x.stage = 0 ∧ x.pair = none ∧
        ∀ k, t.sramByte k = if a + 8 * h ≤ k ∧ k < a + 8 * h + 8 ∧ s.roByte k = false then BitVec.ofNat 8 (data / 256 ^ (k - a)) else s.sramByte k) ∧
    ∀ a, p = .sram a → isOwn s.cur.core p = true → kind ≠ .data ∨ size ≠ 16 →
      t.stores = s.stores ∧
      (kind = .data → (∀ b, getK 0 t.sramTag b = getK 0 s.sramTag b) ∧ (t.curThread l).wh = Lease.later (s.curThread l).wh (s.visTime p) ∧
        ∀ k, t.sramByte k = if a ≤ k ∧ k < a + size ∧ s.roByte k = false then BitVec.ofNat 8 (data / 256 ^ (k - a)) else s.sramByte k) ∧
      (kind = .tag → (∀ k, t.sramByte k = s.sramByte k) ∧ (t.curThread l).wh = Lease.later (s.curThread l).wh (s.visTime p) ∧
        ∀ b, getK 0 t.sramTag b = if b = a / 64 then BitVec.ofNat 16 data else getK 0 s.sramTag b) ∧
      (∀ op w64 o1 o2 prod, kind = .atom op w64 o1 o2 prod → (∀ b, getK 0 t.sramTag b = getK 0 s.sramTag b) ∧
        let n := if w64 then 8 else 4
        let old := natOfBytes (s.rdSram a n)
        (∀ k, k < a ∨ a + n ≤ k → t.sramByte k = s.sramByte k) ∧
        (∀ v, atomNew op (8 * n) old (o1.toNat % 2 ^ (8 * n)) (o2.toNat % 2 ^ (8 * n)) = some v →
          ∀ i < n, t.sramByte (a + i) = if s.roByte (a + i) then s.sramByte (a + i) else BitVec.ofNat 8 (v / 256 ^ i)) ∧
        ∀ q, findK s.prods prod = some q → t.prods = insK s.prods prod { q with src := .vals (wordsOf 2 old) })

/-- R113 to R117: each two-source integer instruction writes D, in every lane that issues, with the element-by-element result of
its sources, wrapped or saturated as R111 says (`elemRes`), and ORs its flags into SATF. -/
def Obligations.IntegerTwoSourceResults : Prop :=
  ∀ (g : Guard) (ty : IntTy) (d : Operand) (a b : Src) (s s0 s1 : State) (rows : List (Nat × List (List Word))),
    prep s g (spec2 ty d a b) = .go s0 s1 rows →
    let R := laneResult s1 (tyDst ty d) rows
    let E := fun (f : Nat → Nat → Nat × Flags) => R (elemwise ty fun es => f (es.getD 0 0) (es.getD 1 0))
    let X := fun (f : Int → Int → Int) => R (arith ty fun es => f (es.getD 0 0) (es.getD 1 0))
    let B := fun (f : Nat → Nat → Nat) => R fun vs => (wordsOf (tyRegs ty) (f (natOfWords (vs.getD 0 [])) (natOfWords (vs.getD 1 []))), 0)
    exec (.add g ty d a b) s = .next (X fun x y => x + y) ∧
    exec (.sub g ty d a b) s = .next (X fun x y => x - y) ∧
    exec (.mul g ty d a b) s = .next (X fun x y => x * y) ∧
    exec (.mulhi g ty d a b) s = .next (X fun x y => x * y / (2 ^ tyWidth ty : Int)) ∧
    exec (.min g ty d a b) s = .next (X fun x y => if x ≤ y then x else y) ∧
    exec (.max g ty d a b) s = .next (X fun x y => if x ≤ y then y else x) ∧
    exec (.div g ty d a b) s = .next (R (elemwise ty fun es =>
      let r := divRem ty.uns (tyWidth ty) (arg (es.map (elemInt ty.uns (tyWidth ty))) 0) (arg (es.map (elemInt ty.uns (tyWidth ty))) 1)
      ((elemRes ty r.1).1, (elemRes ty r.1).2 ||| r.2.2))) ∧
    exec (.rem g ty d a b) s = .next (R (elemwise ty fun es =>
      let r := divRem ty.uns (tyWidth ty) (arg (es.map (elemInt ty.uns (tyWidth ty))) 0) (arg (es.map (elemInt ty.uns (tyWidth ty))) 1)
      ((r.2.1 % (2 ^ tyWidth ty : Int)).toNat, r.2.2))) ∧
    exec (.and g ty d a b) s = .next (B fun x y => x &&& y) ∧
    exec (.or g ty d a b) s = .next (B fun x y => x ||| y) ∧
    exec (.xor g ty d a b) s = .next (B fun x y => x ^^^ y) ∧
    exec (.andn g ty d a b) s = .next (B andnN) ∧
    exec (.shl g ty d a b) s = .next (E fun x n => elemRes ty (shlX (tyWidth ty) (elemInt ty.uns (tyWidth ty) x) n)) ∧
    exec (.shr g ty d a b) s = .next (E fun x n =>
      elemRes ty (elemInt ty.uns (tyWidth ty) x / ((2 ^ Nat.min n (tyWidth ty) : Nat) : Int))) ∧
    exec (.rot g ty d a b) s = .next (E fun x n => (rotN (tyWidth ty) x n, 0)) ∧
    exec (.bext g ty d a b) s = .next (E fun x pl => (bextN ty.uns (tyWidth ty) x pl, 0))

/-- R113, R115, R117, R118: the one-source and three-source integer instructions.
R110: the immediate forms compute as the two-source forms do, with the immediate in the place of S2; `mov` of an immediate
writes it (R122). -/
def Obligations.IntegerOtherResults : Prop :=
  (∀ (g : Guard) (ty : IntTy) (d : Operand) (a b c : Src) (s s0 s1 : State) (rows : List (Nat × List (List Word))),
    let R := laneResult s1 (tyDst ty d) rows
    let E := fun (f : Nat → Nat) => R (elemwise ty fun es => (f (es.getD 0 0), 0))
    (prep s g (spec1 ty d a) = .go s0 s1 rows →
      exec (.neg g ty d a) s = .next (R (arith ty fun es => -arg es 0)) ∧
      exec (.abs g ty d a) s = .next (R (arith ty fun es => ((arg es 0).natAbs : Int))) ∧
      exec (.not g ty d a) s = .next (R fun vs => (wordsOf (tyRegs ty) (2 ^ (32 * tyRegs ty) - 1 - natOfWords (vs.getD 0 []) % 2 ^ (32 * tyRegs ty)), 0)) ∧
      exec (.popc g ty d a) s = .next (E (popcN (tyWidth ty))) ∧
      exec (.clz g ty d a) s = .next (E (clzN (tyWidth ty))) ∧
      exec (.ctz g ty d a) s = .next (E (ctzN (tyWidth ty))) ∧
      exec (.brev g ty d a) s = .next (E (brevN (tyWidth ty)))) ∧
    (prep s g (spec3 ty d a b c) = .go s0 s1 rows →
      exec (.mad g ty d a b c) s = .next (R (arith ty fun es => arg es 0 * arg es 1 + arg es 2)) ∧
      exec (.bins g ty d a b c) s = .next (R (elemwise ty fun es => (binsN (tyWidth ty) (es.getD 0 0) (es.getD 1 0) (es.getD 2 0), 0))))) ∧
  (∀ (g : Guard) (ty : IntTy) (dbl : Bool) (d : Operand) (a : Src) (i : Imm) (s s0 s1 : State) (rows : List (Nat × List (List Word))),
    (prep s g (specB ty d a) = .go s0 s1 rows →
      let R := fun (f : List (List Word) → List Word × Flags) => laneResult s1 (tyDst ty d) rows fun vs => f (vs ++ [immWords ty i])
      exec (.addImm g ty d a i) s = .next (R (arith ty fun es => arg es 0 + arg es 1)) ∧
      exec (.subImm g ty d a i) s = .next (R (arith ty fun es => arg es 0 - arg es 1)) ∧
      exec (.mulImm g ty d a i) s = .next (R (arith ty fun es => arg es 0 * arg es 1)) ∧
      exec (.minImm g ty d a i) s = .next (R (arith ty fun es => if arg es 0 ≤ arg es 1 then arg es 0 else arg es 1)) ∧
      exec (.maxImm g ty d a i) s = .next (R (arith ty fun es => if arg es 0 ≤ arg es 1 then arg es 1 else arg es 0)) ∧
      exec (.andImm g ty d a i) s = .next (R (bitwise (fun x y => x &&& y) ty)) ∧
      exec (.orImm g ty d a i) s = .next (R (bitwise (fun x y => x ||| y) ty)) ∧
      exec (.xorImm g ty d a i) s = .next (R (bitwise (fun x y => x ^^^ y) ty))) ∧
    (prep s g { dst := some (dblDst dbl d) } = .go s0 s1 rows →
      exec (.movImm g dbl d i) s = .next (laneResult s1 (dblDst dbl d) rows fun _ => (wordsOf (dblRegs dbl) (immVal i).toNat, 0))))

/-- R119, R124, R150: the instructions that write predicates: a comparison, a logical operation on two predicates, one bit of a
register, and the bits that a mask names. -/
def Obligations.PredicateResults : Prop :=
  ∀ (g : Guard) (ty : IntTy) (dbl : Bool) (cond k ka kb : BitVec 3) (op : BitVec 5) (a b : Src) (i : Imm) (x : Option Modx)
    (s s0 s1 : State) (rows : List (Nat × List (List Word))),
    let P := predResult s1 k rows
    (prep s g { srcs := [tySrc ty 0 a, tySrc ty 1 b], rep := true, other := [0] } = .go s0 s1 rows →
      exec (.cmp g ty cond k a b) s = .next (P fun _ vs => (cmpVals ty cond (vs.getD 0 []) (vs.getD 1 []), 0))) ∧
    (prep s g { srcs := [tySrc ty 0 a] } = .go s0 s1 rows →
      exec (.cmpImm g ty cond k a i) s = .next (P fun _ vs => (cmpVals ty cond (vs.getD 0 []) (immWords ty i), 0))) ∧
    (prep s g { srcs := [fltSrc .f32 0 a, fltSrc .f32 1 b], rep := true, other := [0] } = .go s0 s1 rows →
      exec (.fcmp g cond k a b x) s = .next (P fun _ vs =>
        let p := readF .f32 (rndOf x) (wordAt vs 0 0).toNat
        let q := readF .f32 (rndOf x) (wordAt vs 1 0).toNat
        (fcmpHolds cond p q, if p.isSnan || q.isSnan then Flags.inv else 0))) ∧
    (prep s g { rep := true, other := [0, 1, 2] } = .go s0 s1 rows →
      exec (.plog g op k ka kb) s = .next (P fun l _ => (plogVal op ((s1.curThread l).pred ka) ((s1.curThread l).pred kb), 0))) ∧
    (prep s g { srcs := [dblSrc dbl 0 a, { pos := 1, src := b }], rep := true, other := [0] } = .go s0 s1 rows →
      exec (.pbit g dbl k a b) s = .next (P fun _ vs =>
        ((natOfWords (vs.getD 0 [])).testBit ((wordAt vs 1 0).toNat % (32 * dblRegs dbl)), 0))) ∧
    (prep s g { srcs := [{ pos := 0, src := a }, { pos := 1, src := b }], rep := true } = .go s0 s1 rows →
      exec (.pput g a b) s = .next
        (rows.foldl (fun s p => s.modLane p.1 fun t => putPreds t (wordAt p.2 0 0) (wordAt p.2 1 0)) s1).finish)

/-- R120 to R124: the moves: the choice of a source by a predicate, the move (a walker that misses apart, which is a producer), the
address of a memory operand and the predicates as a word. -/
def Obligations.MoveResults : Prop :=
  ∀ (g : Guard) (dbl : Bool) (k : BitVec 3) (d : Operand) (a b : Src) (m : MemOp) (s s0 s1 : State) (rows : List (Nat × List (List Word))),
    let V := laneValue s1
    (prep s g { srcs := [dblSrc dbl 0 a, dblSrc dbl 1 b], dst := some (dblDst dbl d), rep := true } = .go s0 s1 rows →
      exec (.sel g dbl k d a b) s = .next (V (dblDst dbl d) rows fun l vs =>
        if (s1.curThread l).pred k then vs.getD 0 [] else vs.getD 1 [])) ∧
    (prep s g { srcs := [dblSrc dbl 0 a], dst := some (dblDst dbl d), rep := true } = .go s0 s1 rows →
      (∀ i, a.o = .walker i → ∀ r, d ≠ .reg r) →
      exec (.mov g dbl d a) s = .next (V (dblDst dbl d) rows fun _ vs => vs.getD 0 [])) ∧
    (∀ i r, a.o = .walker i → d = .reg r →
      prep s g { srcs := [dblSrc dbl 0 a], dst := some (dblDst dbl d), rep := true } true = .go s0 s1 rows →
      let w := (s.wave s.cur.core s.cur.turn).walker i
      exec (.mov g dbl d a) s = .next (rows.foldl (fun st p =>
        if s.walkerMiss p.1 w then
          match s.checkWalker w p.1 rREAD with
          | .ok pl _ => st.issueLoad p.1 pl 0 w.sizeCode .plain none ((List.range (dblRegs dbl)).map (st.dstReg p.1 r + ·))
          | _ => st
        else st.modLane p.1 fun t => t.setRegs (st.dstReg p.1 r) (p.2.getD 0 [])) s1).finish) ∧
    (prep s g { srcs := [idxSrc m], dst := some { o := d, n := 2, al := 2 } } = .go s0 s1 rows →
      exec (.lea g d m) s = .next (V { o := d, n := 2, al := 2 } rows fun _ vs => wordsOf 2 (leaVal s1 m (vs.getD 0 [])))) ∧
    (prep s g { dst := some { o := d }, rep := true } = .go s0 s1 rows →
      exec (.pget g d) s = .next (V { o := d } rows fun l _ => [((s1.curThread l).preds ||| 1).setWidth 32]))

/-- R146 to R149, R151: each element-by-element floating instruction: the operation on the elements of its sources, with the
rounding of the modifier word, and the flags of all elements.
R152 to R154: the approximate functions in each element. Which of the values that R153 admits is the machine's: the statement
holds for every choice of `Config.approxPick`. -/
def Obligations.FloatResults : Prop :=
  (∀ (g : Guard) (ft : BitVec 2) (np nc : Bool) (d : Operand) (a b c : Src) (x : Option Modx) (s s0 s1 : State)
    (rows : List (Nat × List (List Word))),
    let f := ftFmt ft
    let r := rndOf x
    let E := fun (f : Fmt) (op : List Nat → Res) => Host.Outcome.next (laneResult s1 { o := d } rows (elemF f op))
    let v := fun (es : List Nat) (i : Nat) => readF f r (codeAt es i)
    let w := fun (es : List Nat) (i : Nat) => readF .f32 r (codeAt es i)
    (prep s g (fltSpec f d [a, b]) = .go s0 s1 rows →
      exec (.fadd g ft d a b x) s = E f (fun es => addF f r (v es 0) (v es 1)) ∧
      exec (.fsub g ft d a b x) s = E f (fun es => addF f r (v es 0) (v es 1).neg) ∧
      exec (.fmul g ft d a b x) s = E f (fun es => mulF f r (v es 0) (v es 1)) ∧
      exec (.fmin g ft d a b) s = E f (fun es => minMaxF f false false (codeAt es 0) (codeAt es 1)) ∧
      exec (.fmax g ft d a b) s = E f (fun es => minMaxF f true false (codeAt es 0) (codeAt es 1)) ∧
      exec (.fminp g ft d a b) s = E f (fun es => minMaxF f false true (codeAt es 0) (codeAt es 1)) ∧
      exec (.fmaxp g ft d a b) s = E f (fun es => minMaxF f true true (codeAt es 0) (codeAt es 1))) ∧
    (prep s g (fltSpec f d [a, b, c]) = .go s0 s1 rows →
      exec (.fma g ft np nc d a b c x) s = E f (fun es => fmaF f r np nc (v es 0) (v es 1) (v es 2))) ∧
    (prep s g (fltSpec f d [a]) = .go s0 s1 rows →
      exec (.fneg g ft d a) s = E f (fun es => fnegCode f (codeAt es 0)) ∧
      exec (.fabs g ft d a) s = E f (fun es => fabsCode f (codeAt es 0)) ∧
      exec (.fclass g ft d a) s = .next (laneResult s1 { o := d } rows fun vs =>
        (packElems f.width 1 ((elemsOf f.width (32 / f.width) (vs.getD 0 [])).map fun c => 2 ^ fclassBit f c), 0))) ∧
    (prep s g (fltSpec .f32 d [a, b]) = .go s0 s1 rows →
      exec (.fdiv g d a b x) s = E .f32 (fun es => divF .f32 r (w es 0) (w es 1))) ∧
    (prep s g (fltSpec .f32 d [a]) = .go s0 s1 rows →
      exec (.fsqrt g d a x) s = E .f32 (fun es => sqrtF .f32 r (w es 0)))) ∧
  (∀ (g : Guard) (ft : BitVec 2) (d : Operand) (a : Src) (x : Option Modx) (s s0 s1 : State) (rows : List (Nat × List (List Word))),
    prep s g (fltSpec (ftFmt ft) d [a]) = .go s0 s1 rows →
    let A := fun (fn : Approx) => Host.Outcome.next (laneResult s1 { o := d } rows
      (elemF (ftFmt ft) fun es => approxElem fn (ftFmt ft) (rndOf x) (codeAt es 0)))
    exec (.frcp g ft d a x) s = A .rcp ∧ exec (.frsq g ft d a x) s = A .rsq ∧ exec (.fexp2 g ft d a x) s = A .exp2 ∧
    exec (.flog2 g ft d a x) s = A .log2 ∧ exec (.fsinpi g ft d a x) s = A .sinpi ∧ exec (.fcospi g ft d a x) s = A .cospi ∧
    exec (.ftanh g ft d a x) s = A .tanh)

/-- R155, R156, R159 to R161, R163 to R165: conversions, block scales, dot products and the Welford steps.
R143, R157, R158: the conversions to and from the narrow formats of a tag. Their long range depends on the tag of the lane,
so its quota and its empty registers are checked after the tag is read; when no lane fails them, every row's elements are
converted, in ascending order, and in `cvtn` under SR each draws from the lane's generator (R99, R100). -/
def Obligations.ConversionResults : Prop :=
  (∀ (g : Guard) (ft : BitVec 2) (dt st : BitVec 4) (ua ub sat : Bool) (d : Operand) (a b c : Src) (x : Option Modx)
    (s s0 s1 : State) (rows : List (Nat × List (List Word))),
    let r := rndOf x
    let n := cvtCount (cvtWidth st) (cvtWidth dt)
    let cd : DstReq := { o := d, n := cvtRegs n (cvtWidth dt), al := cvtAl dt }
    (prep s g { srcs := [{ pos := 0, src := a, n := cvtRegs n (cvtWidth st), al := cvtAl st, ty := fmtTy (cvtFmt st) }],
                dst := some cd, rep := true, other := [3] } = .go s0 s1 rows →
      exec (.cvt g dt st d a x) s = .next (laneResult s1 cd rows fun vs =>
        let rs := (elemsOf (cvtWidth st) n (vs.getD 0 [])).map fun c => (cvtFmt dt).conv r (readTo (cvtFmt dt) (cvtFmt st) r c)
        (packElems (cvtWidth dt) (cvtRegs n (cvtWidth dt)) (rs.map (·.code)), resFlags rs))) ∧
    (prep s g { srcs := [fltSrc .f32 0 a, { pos := 1, src := b }], dst := some { o := d }, rep := true } = .go s0 s1 rows →
      exec (.fscl g d a b) s = .next (laneResult s1 { o := d } rows fun vs =>
        ([(fsclWord (wordAt vs 0 0) (wordAt vs 1 0)).1], (fsclWord (wordAt vs 0 0) (wordAt vs 1 0)).2))) ∧
    (prep s g { srcs := [{ pos := 0, src := a }, { pos := 1, src := b }, { pos := 2, src := c }], dst := some { o := d }, rep := true } =
        .go s0 s1 rows →
      exec (.dot4 g ua ub sat d a b c) s = .next (laneResult s1 { o := d } rows fun vs =>
        let y := elemRes { wid := 0, uns := ua && ub, sat } (dot4X ua ub (wordAt vs 0 0) (wordAt vs 1 0) (wordAt vs 2 0))
        ([BitVec.ofNat 32 y.1], y.2))) ∧
    (prep s g { srcs := [fltSrc (ftFmt ft) 0 a, fltSrc (ftFmt ft) 1 b, fltSrc .f32 2 c], dst := some { o := d }, rep := true } =
        .go s0 s1 rows →
      exec (.fdot2 g ft d a b c x) s = .next (laneResult s1 { o := d } rows fun vs =>
        let y := fdot2F (ftFmt ft) r (elemsOf 16 2 (vs.getD 0 [])) (elemsOf 16 2 (vs.getD 1 [])) (wordAt vs 2 0).toNat
        ([BitVec.ofNat 32 y.code], y.fl))) ∧
    (prep s g { srcs := [{ pos := 0, src := a, n := 3 }, fltSrc .f32 1 b], dst := some { o := d, n := 3 }, rep := true } = .go s0 s1 rows →
      exec (.wfu g d a b x) s = .next (laneResult s1 { o := d, n := 3 } rows fun vs => wfuTriple r (vs.getD 0 []) (wordAt vs 1 0))) ∧
    (prep s g { srcs := [{ pos := 0, src := a, n := 3 }, { pos := 1, src := b, n := 3 }], dst := some { o := d, n := 3 }, rep := true } =
        .go s0 s1 rows →
      exec (.wfm g d a b x) s = .next (laneResult s1 { o := d, n := 3 } rows fun vs => wfmTriple r (vs.getD 0 []) (vs.getD 1 [])))) ∧
  (∀ (g : Guard) (ft : BitVec 2) (d : Operand) (a b : Src) (x : Option Modx) (s s0 s1 : State) (rows : List (Nat × List (List Word))),
    let sp : Spec := { srcs := [{ pos := 0, src := a }, { pos := 1, src := b }], dst := some { o := d }, rep := true }
    let f := ftFmt ft
    let inside := fun (rs : List (Nat × Nat × Nat)) => firstOut (s.quotaOf s.cur.core s.cur.turn) (s.deadBelow s.cur.core s.cur.turn) rs = none
    let range := fun (l field base : Nat) => ((s.curThread l).step field base, s.tagRange l f.width b, 1)
    let full := fun (l field base : Nat) => ∀ i < s.tagRange l f.width b, (s.curThread l).isEmpty ((s.curThread l).step field base + i) = false
    (b.e = false → ∀ l ∈ (s.active g).lanes, SrcReq.emptyRegs { pos := 1, src := b } (s.curThread l) = []) →
    prep s g sp = .go s0 s1 rows →
    (∀ base, a.o = .reg base → operandFault s { srcs := [{ pos := 1, src := b }], dst := some { o := d } } (s.active g) = none →
      (∀ l ∈ (s.active g).lanes, inside (sp.ranges (s.curThread l) ++ [range l 1 base]) ∧ full l 1 base) →
      exec (.cvtn g ft d a b x) s = .next (laneFold s1 { o := d } rows fun s l vs =>
        match narrowFmt ((wordAt vs 1 0).extractLsb' 0 8) with
        | none => (s, [0], Flags.inv)
        | some df =>
          let t := s.curThread l
          let ws := (List.range (32 / df.width * f.width / 32)).map fun i => t.reg (t.step 1 base + i)
          let o := narrowLane f df (rndOf x) (wBits (wordAt vs 1 0) 15 8) l s (elemsOf f.width (32 / df.width) ws)
          (o.1, packElems df.width 1 (o.2.map (·.code)), resFlags o.2))) ∧
    (∀ base, d = .reg base → operandFault s { srcs := sp.srcs } (s.active g) = none → (∀ l ∈ (s.active g).lanes, inside (range l 0 base :: sp.ranges (s.curThread l))) →
      exec (.cvtw g ft d a b x) s = .next (laneFold s1 { o := d } rows fun s _ vs =>
        match narrowFmt ((wordAt vs 1 0).extractLsb' 0 8) with
        | none => (s, [splat f.width f.nanCode], Flags.inv)
        | some nf =>
          let rs := (elemsOf nf.width (32 / nf.width) (vs.getD 0 [])).map (wideElem nf f (rndOf x) (wBits (wordAt vs 1 0) 15 8))
          (s, packElems f.width (32 / nf.width * f.width / 32) (rs.map (·.code)), resFlags rs))))

/-- R100, R162, R166 to R168: the generator of each lane is seeded, and SATF and its ARM byte are read, cleared and set. -/
def Obligations.StickyFlagResults : Prop :=
  ∀ (g : Guard) (d : Operand) (a : Src) (s s0 s1 : State) (rows : List (Nat × List (List Word))),
    (prep s g { dst := some { o := d }, rep := true } = .go s0 s1 rows →
      exec (.sfget g d) s = .next (laneValue s1 { o := d } rows fun _ _ => [(s1.wave s1.cur.core s1.cur.turn).satfWord])) ∧
    (prep s g { srcs := [{ pos := 0, src := a }], rep := true } = .go s0 s1 rows →
      exec (.seed g a) s = .next (rows.foldl (fun s p => s.modCurWave fun w =>
        w.setSrg p.1 (if wordAt p.2 0 0 = 0 then srgInit p.1 else wordAt p.2 0 0)) s1).finish ∧
      exec (.sfclr g a) s = .next (s1.clearFlags s1.cur.core s1.cur.turn
        (rows.foldl (fun m p => m ||| (wordAt p.2 0 0).extractLsb' 0 7) 0)).finish ∧
      exec (.sfarm g a) s = .next (s1.modCurWave fun w => { w with arm := (wordAt (firstRow rows) 0 0).extractLsb' 0 7 }).finish)

/-- R189 to R196: the cross-lane instructions: each lane's result depends on the rows of its own tile, PARTW.TILE as it stood at
the start of the cycle; `part` and `pqset` act once for the wave. -/
def Obligations.CrossLaneResults : Prop :=
  ∀ (g : Guard) (form mode : BitVec 2) (op : BitVec 5) (dbl : Bool) (k ka : BitVec 3) (d : Operand) (a b c : Src) (x : Option Modx)
    (s s0 s1 : State) (rows : List (Nat × List (List Word))),
    let T := fun (l : Nat) => tileRows s1.tileNow (tileBase s1.tileNow l) rows
    let cmb := combine op (rndOf x)
    let R := fun (d : DstReq) (f : Nat → List (List Word) → List Word × Flags) =>
      Host.Outcome.next (((s1.writeDst d (rows.map fun p => (p.1, (f p.1 p.2).1))).curFlags
        (rows.foldl (fun a p => a ||| (f p.1 p.2).2) 0)).finish)
    (prep s g {} = .go s0 s1 rows →
      exec (.vote g form k ka) s = .next (rows.foldl (fun s p => s.modLane p.1 fun t => t.setPred k
        (voteVal form ((T p.1).map fun q => (s1.curThread q.1).pred ka))) s1).finish ∧
      exec (.elect g k) s = .next (rows.foldl (fun s p => s.modLane p.1 fun t => t.setPred k
        (((T p.1).map (·.1)).head? == some p.1)) s1).finish) ∧
    (prep s g { dst := some { o := d } } = .go s0 s1 rows →
      exec (.vmask g d ka) s = R { o := d } (fun l _ => ([Mask.ofLanes (((T l).map (·.1)).filter fun l => (s.curThread l).pred ka)], 0)) ∧
      exec (.pqget g d) s = .next (laneValue s1 { o := d } rows fun _ _ => [BitVec.ofNat 32 (s1.wave s1.cur.core s1.cur.turn).quant]) ∧
      exec (.partget g d) s = .next (laneValue s1 { o := d } rows fun _ _ => [BitVec.ofNat 32 (s1.wave s1.cur.core s1.cur.turn).tile])) ∧
    (prep s g { srcs := [dblSrc dbl 0 a, { pos := 1, src := b }, dblSrc dbl 2 c], dst := some (dblDst dbl d) } = .go s0 s1 rows →
      exec (.shfl g mode dbl d a b c) s = R (dblDst dbl d) (fun l vs =>
        (match (shflLane mode s1.tileNow l (wordAt vs 1 0).toNat).bind fun x => ((T l).find? fun p => p.1 == x) with
          | some p => p.2.getD 0 []
          | none => vs.getD 2 [], 0))) ∧
    (prep s g (redSpec d a op) = .go s0 s1 rows →
      exec (.red g op d a x) s = R { o := d } (fun l _ =>
        let n := treeNode cmb (fun i => ((T l).find? fun p => p.1 == tileBase s1.tileNow l + i).map rowVal) s1.tileNow 0
        ([n.1.getD 0], n.2)) ∧
      exec (.scan g op d a x) s = R { o := d } (fun l _ =>
        match runningCombine cmb (((T l).filter fun p => p.1 ≤ l).map rowVal) with
        | some v => ([v.1], v.2)
        | none => ([identity op], 0)) ∧
      exec (.scanx g op d a x) s = R { o := d } (fun l _ =>
        match runningCombine cmb (((T l).filter fun p => p.1 < l).map rowVal) with
        | some v => ([v.1], v.2)
        | none => ([identity op], 0))) ∧
    (prep s g { srcs := [{ pos := 0, src := a }] } = .go s0 s1 rows →
      let v := (wordAt (firstRow rows) 0 0).toNat
      exec (.part g a) s = .next (if 1 ≤ v ∧ v ≤ 5 then s1.modCurWave fun w => { w with tile := v } else s1.curFlags Flags.inv).finish ∧
      exec (.pqset g a) s = .next (if v % 1024 = 0 then s1 else s1.modCurWave fun w => { w with quant := v % 1024 }).finish)

/-- R126 to R130: the transfers. Every active lane's target is checked (R50) and the lanes that pass go to it, together or, if
their next addresses differ, on paths of their own; the others fall through (`transfer`, whose effect
`Obligations.TransferMovesThePath` says). `bre` falls through when the end flag does not answer it. -/
def Obligations.ControlTransfers : Prop :=
  ∀ (g : Guard) (dim : BitVec 2) (neg : Bool) (w : Nat) (d : Operand) (a : Src) (t : Target) (s s0 s1 : State)
    (rows : List (Nat × List (List Word))),
    let wk := (s.wave s.cur.core s.cur.turn).walker w
    let direct := fun (call : Bool) (d : Option Operand) =>
      Host.Outcome.next (transfer s0 s1 (rowMask rows) false call d (rows.map fun p => (p.1, caAdd s1.cur.pc (8 * targetVal t))))
    let indirect := fun (call : Bool) (d : Option Operand) =>
      Host.Outcome.next (transfer s0 s1 (rowMask rows) true call d (rows.map fun p => (p.1, pairAt p.2 0)))
    (prep s g {} = .go s0 s1 rows →
      exec (.br g t) s = direct false none ∧
      ((wk.bound && endFlag wk dim) ≠ neg → exec (.bre g dim neg w t) s = direct false none) ∧
      ((wk.bound && endFlag wk dim) = neg → exec (.bre g dim neg w t) s = .next s1.finish)) ∧
    (prep s g { dst := some { o := d, n := 2, al := 2 } } = .go s0 s1 rows → exec (.call g d t) s = direct true (some d)) ∧
    (prep s g { srcs := [{ pos := 0, src := a, n := 2, al := 2 }] } = .go s0 s1 rows →
      exec (.jmp g a) s = indirect false none ∧ exec (.ret g a) s = indirect false none) ∧
    (prep s g { srcs := [{ pos := 0, src := a, n := 2, al := 2 }], dst := some { o := d, n := 2, al := 2 } } = .go s0 s1 rows →
      exec (.callr g d a) s = indirect true (some d))

/-- R45, R47, R50, R52, R53, R130, R178, R180, R181: when the whole path transfers and every lane's target is one header that passes R50 and holds its
lanes at no reconvergence point, each lane stands at the word after that header, in its block; a call has put the address of the
next instruction into the pair D; and what the lanes hold, and memory, are otherwise as before. When some lanes of the path go to such a
header and the others fall through to another, the path divides: each lane stands behind the header it reached, and the wave deals with its
table as R180 says (`Wave.divide`): an entry with the address and the block that names every lane of the path is kept, else the lowest free
entry is taken, else RTOVF goes up, and a RECON of 0 takes none. No entry goes or gains a member, and one keeps its members whose region
holds the addresses that the lanes have come to. -/
def Obligations.TransferMovesThePath : Prop :=
  (∀ (w : Wave) (hdr : DWord) (recon : BitVec 16) (m : Mask),
    let ra := caAdd hdr (8 * recon.toInt)
    let kept := ∃ p ∈ w.recon, p.2.raddr = ra ∧ p.2.rlo = hdr ∧ p.2.members &&& m = m
    (recon = 0 ∨ kept → w.divide hdr recon m = w) ∧
    (∀ i < 8, recon ≠ 0 → ¬kept → (∀ p ∈ w.recon, p.1 ≠ i) → (∀ j < i, ∃ p ∈ w.recon, p.1 = j) →
      w.divide hdr recon m = { w with recon := insK w.recon i { raddr := ra, rlo := hdr, members := m, arrived := 0 } }) ∧
    (recon ≠ 0 → ¬kept → (∀ j < 8, ∃ p ∈ w.recon, p.1 = j) → w.divide hdr recon m = { w with rtovf := Nat.min 65535 (w.rtovf + 1) })) ∧
  (∀ (s0 s : State) (indirect call : Bool) (ls : List Nat) (dest word : DWord) (ln : ILine),
    let stay := s.cur.lanes.lanes.filter fun l => !ls.contains l
    let next := s.cur.nextPc
    let th := s.curThread (s.cur.lanes.lanes.headD 0)
    ls ≠ [] → stay ≠ [] → dest ≠ next → th.la2 = false →
    (∀ l ∈ ls, l ∈ s.cur.lanes.lanes ∧ s.checkTarget s.cur.core s.cur.turn l indirect dest = .ok word false) →
    (Header.ofWord word).ok = true → (Header.ofWord word).conv = false →
    (∀ l ∈ stay, (s.curThread l).status = .ready ∧ (s.curThread l).repCnt = 0 ∧ (s.curThread l).atEnd s.cur = true) →
    s.codeLine s.cur.core s.cur.turn next = some ln → ln.la2 = false → isHeader (ln.at next) = true →
    (Header.ofWord (ln.at next)).ok = true → (Header.ofWord (ln.at next)).conv = false →
    let t := transfer s0 s (Mask.ofLanes ls) indirect call none (ls.map fun l => (l, dest))
    let w := (s.wave s.cur.core s.cur.turn).divide th.hdr (th.hdrW.extractLsb' 28 16) s.cur.lanes
    let w' := t.wave s.cur.core s.cur.turn
    SameMemory s t ∧ SameHeld s t ∧ w'.rtovf = w.rtovf ∧
    (∀ l ∈ ls, (t.curThread l).pc = caAdd dest 8 ∧ (t.curThread l).hdr = dest ∧ (t.curThread l).hdrW = word) ∧
    (∀ l ∈ stay, (t.curThread l).pc = caAdd next 8 ∧ (t.curThread l).hdr = next ∧ (t.curThread l).hdrW = ln.at next) ∧
    ∀ i, (findK w'.recon i = none ↔ findK w.recon i = none) ∧
      ∀ e e', findK w.recon i = some e → findK w'.recon i = some e' → e'.raddr = e.raddr ∧ e'.rlo = e.rlo ∧ e'.members &&& ~~~e.members = 0 ∧
        ((∀ a ∈ [dest, caAdd dest 8, next, caAdd next 8], e.inside a = true) → e'.members = e.members)) ∧
  ∀ (s0 s : State) (indirect call : Bool) (link : Option Nat) (ls : List Nat) (dest word : DWord),
    ls ≠ [] → (∀ l ∈ ls, l < 32) → s.cur.lanes = Mask.ofLanes ls →
    (∀ l ∈ ls, s.checkTarget s.cur.core s.cur.turn l indirect dest = .ok word false) →
    (Header.ofWord word).ok = true → (Header.ofWord word).conv = false →
    let t := transfer s0 s s.cur.lanes indirect call (link.map .reg) (ls.map fun l => (l, dest))
    SameMemory s t ∧
    ∀ l ∈ ls,
      (t.curThread l).pc = caAdd dest 8 ∧ (t.curThread l).hdr = dest ∧ (t.curThread l).hdrW = word ∧
      (t.curThread l).status = (s.curThread l).status ∧
      (link = none → (t.curThread l).held = (s.curThread l).held) ∧
      (∀ r, link = some r → (t.curThread l).reg r = s.cur.nextPc.extractLsb' 0 32 ∧ (t.curThread l).reg (r + 1) = s.cur.nextPc.extractLsb' 32 32 ∧
        ∀ x, x ≠ r → x ≠ r + 1 → (t.curThread l).reg x = (s.curThread l).reg x)

/-- R131 to R133, R136, R139: the other control instructions. `exit` ends the active threads and lets the others fall through,
`yield` leaves the path marked for the end of the cycle, `brk` takes the BREAKPOINT fault in every active lane with its code as
FINFO, `rep` sets the repeat state as the PC moves on, and `nop` moves on. -/
def Obligations.ControlResults : Prop :=
  ∀ (g : Guard) (code : BitVec 16) (count : BitVec 7) (mask : BitVec 4) (step : BitVec 2) (s s0 s1 : State)
    (rows : List (Nat × List (List Word))),
    prep s g {} = .go s0 s1 rows →
    exec (.nop g) s = .next s1.finish ∧
    exec (.yield g) s = .next (s1.modCore s1.cur.core fun k =>
      { k with cycle := { k.cycle with yields := k.cycle.yields ++ [(s1.cur.turn, s1.cur.lanes)] } }).finish ∧
    exec (.brk g code) s = .next (s1.takeFaults (rowMask rows) 0x0B (code.setWidth 32)).finish ∧
    exec (.rep g count mask step) s = .next (s1.finish.modThreads s1.cur.core s1.cur.turn (rowMask rows) fun _ t =>
      { t with repCnt := count, repMask := mask, repStep := step }) ∧
    exec (.exit g) s = .next ((if s1.cur.lanes &&& ~~~(rowMask rows) = 0 then s1.issued
      else s1.issued.advance (s1.cur.lanes &&& ~~~(rowMask rows))).exitLanes s1.cur.core s1.cur.turn (rowMask rows))

/-- R31, R131: a thread that exits is exited, waits for nothing and has no register write pending; its registers and predicates,
and every thread that does not exit, are as before while a thread of the wave remains; with its last thread the wave retires, and its turn
and its quota are free. No other wave changes. -/
def Obligations.ExitEndsThreads : Prop :=
  ∀ (s : State) (c t : Nat) (m : Mask),
    (s.exitLanes c t m |>.wave c t).uid = (s.wave c t).uid ∧ SameMemory s (s.exitLanes c t m) ∧
    (∀ l ∈ m.lanes, ((s.exitLanes c t m).thread c t l).status = .exited ∧ ((s.exitLanes c t m).thread c t l).empty = [] ∧
      ((s.exitLanes c t m).thread c t l).wait = .none) ∧
    (∀ c' t', c' ≠ c ∨ t' ≠ t → (s.exitLanes c t m).wave c' t' = s.wave c' t') ∧
    ((s.wave c t).live = true → (s.wave c t).busy = false → (∀ l < 32, l ∉ m.lanes → (s.thread c t l).status = .exited) →
      ((s.exitLanes c t m).wave c t).live = false ∧ ((s.exitLanes c t m).quota c t).valid = false ∧
      ∀ l, ((s.exitLanes c t m).thread c t l).status = .exited) ∧
    ((s.wave c t).busy = true ∨ (s.wave c t).live = false ∨ (∃ l < 32, l ∉ m.lanes ∧ (s.thread c t l).status ≠ .exited) →
      ∀ l, ((s.exitLanes c t m).thread c t l).regs = (s.thread c t l).regs ∧
        ((s.exitLanes c t m).thread c t l).preds = (s.thread c t l).preds ∧
        (l ∉ m.lanes → (s.exitLanes c t m).thread c t l = s.thread c t l))

/-- R47, R137: a lane of the path that completes an instruction inside its block moves to the next instruction, or, while its
repeat is not at its end, stays there with the count one lower; nothing else of it changes, and nothing of a lane that has blocked,
faulted or left. At the end of a block whose successor's header is present, well formed and no reconvergence point, it stands
behind that header. -/
def Obligations.CompletionMovesOn : Prop :=
  ∀ (s : State) (l : Nat), l ∈ s.cur.lanes.lanes →
    let t := s.curThread l
    let done : Thread := { t with repCnt := if t.repCnt = 0 then 0 else t.repCnt - 1, wait := .none, walked := [] }
    ((∀ j ∈ s.cur.lanes.lanes, (s.curThread j).atEnd s.cur = false) →
      (s.finish.curThread l) = if t.going then { done with pc := if t.repCnt.toNat ≤ 1 then s.cur.nextPc else t.pc } else t) ∧
    (∀ ln, (∀ j ∈ s.cur.lanes.lanes, (s.curThread j).atEnd s.cur = true) → t.going → t.repCnt.toNat ≤ 1 →
      s.codeLine s.cur.core s.cur.turn s.cur.nextPc = some ln → ln.la2 = false → isHeader (ln.at s.cur.nextPc) = true →
      (Header.ofWord (ln.at s.cur.nextPc)).ok = true → (Header.ofWord (ln.at s.cur.nextPc)).conv = false →
      (s.finish.curThread l) =
        { done with pc := caAdd s.cur.nextPc 8, hdr := s.cur.nextPc, hdrW := ln.at s.cur.nextPc, la2 := false })

/-- R40, R206 to R208: the accesses of the own slice and of the parameter windows. A lane of `lds` finds the bytes of its own slice
or the zeros behind a window's end, and writes them extended, at once; a window on other storage is a load that fills D later; when
every lane fails its checks, each faults alone and D stays. A lane of `sts` that passes its checks stores the low bytes of D. At a serai the bytes
are not under test (R464). -/
def Obligations.SliceAccessResults : Prop :=
  ∀ (g : Guard) (size : BitVec 3) (d : Operand) (a : Src) (m : MemOp) (s s0 s1 : State) (rows : List (Nat × List (List Word))),
    let n := sizeRegs size
    let k := sizeBytes size
    let c := s1.cur.core
    let at_ := fun (p : Nat × List (List Word)) => s1.ldsAt c m (p.2.getD 0 []) k
    (prep s g { srcs := [idxSrc m], dst := some (loadDst d n) } false (ldsOwn s m size) = .go s0 s1 rows →
      (∀ val : Nat × List (List Word) → List Word,
        (∀ p ∈ rows, (at_ p = .zeros ∧ val p = List.replicate n 0) ∨
          ∃ pl, at_ p = .at_ pl ∧ size ≠ 6 ∧ isOwn c pl = true ∧ (isSerai c = true → s1.heldPlace pl = false) ∧ val p = extend size (s1.rdHome pl k)) →
        exec (.lds g size d m) s = .next (s1.writeDst { o := d, n } (rows.map fun p => (p.1, val p))).finish) ∧
      (∀ pl : Nat × List (List Word) → Place, (∀ p ∈ rows, at_ p = .at_ (pl p) ∧ (isOwn c (pl p) = false ∨ size = 6 ∧ (isSerai c = true → s1.heldPlace (pl p) = false))) →
        exec (.lds g size d m) s = .next (rows.foldl (fun s p => s.issueLoad p.1 (pl p) 0 size .plain none
          (match d with | .reg x => (List.range n).map (x + ·) | _ => [])) s1).finish) ∧
      (∀ bad : Nat × List (List Word) → Nat × Word × DWord, (∀ p ∈ rows, at_ p = .bad (bad p).1 (bad p).2.1 (bad p).2.2) →
        exec (.lds g size d m) s = .next (rows.foldl (fun s p => s.takeFault p.1 (bad p).1 (bad p).2.1 (bad p).2.2) s0).finish)) ∧
    (prep s g { srcs := [idxSrc m, { pos := 3, src := a, n, al := n }] } false (accessOwn fun _ => s.stsAt m k) = .go s0 s1 rows → m.mode ≠ .pw →
      (∀ p ∈ rows, effAddr m (p.2.getD 0 []) % k = 0 ∧ s1.spOk c (effAddr m (p.2.getD 0 [])) k = true ∧
        (isSerai c = true → s1.heldPlace (.sram (ownAddr c (effAddr m (p.2.getD 0 [])))) = false)) →
      exec (.sts g size a m) s = .next (rows.foldl (fun s p => s.issueStore p.1 (.sram (ownAddr c (effAddr m (p.2.getD 0 [])))) k
        (natOfWords (p.2.getD 1 []) % 2 ^ (8 * k)) .data false none) s1).finish)

/-- R18, R41, R200 to R203, R209, R215: the register quotas and the walkers: each instruction acts once for the wave, with the words
of the lowest-numbered active lane, or takes a BINDING fault in every active lane. What the changes of quota do is said by
`QuotaRegisters`; `wseek` needs a bound walker and indices below its counts. -/
def Obligations.QuotaAndWalkerResults : Prop :=
  ∀ (g : Guard) (w : BitVec 3) (a b : Src) (s s0 s1 : State) (rows : List (Nat × List (List Word))),
    let c := s1.cur.core
    let t := s1.cur.turn
    let v := (wordAt (firstRow rows) 0 0).toNat
    let orBind : State ⊕ Word → Host.Outcome State Fault Refusal := fun r => match r with
      | .inl u => .next u.finish
      | .inr info => .next (s0.takeFaults (rowMask rows) 0x0E info).finish
    (isSerai s.cur.core = false →
      (prep s g { srcs := [{ pos := 0, src := a }] } false (bindOwn s s.rquotaPre rquotaBody) = .go s0 s1 rows →
        exec (.rquota g a) s = orBind (s1.resize c t v)) ∧
      (prep s g { srcs := [{ pos := 0, src := a }] } false (bindOwn s none rdeadBody) = .go s0 s1 rows →
        exec (.rdead g a) s = orBind (s1.setDead c t v)) ∧
      (prep s g { srcs := [{ pos := 0, src := a }] } false (bindOwn s none rgrantBody) = .go s0 s1 rows →
        exec (.rgrant g a) s = orBind (s1.grant c t v))) ∧
    (prep s g { srcs := [{ pos := 0, src := a, n := 8, al := 8 }] } false (bindOwn s none (wbindBody w)) = .go s0 s1 rows →
      let d := BitVec.ofNat 256 (natOfWords ((firstRow rows).getD 0 []))
      exec (.wbind g w a) s = if Walker.descOk d then
          .next (s1.modCurWave fun wv => wv.modWalker w.toNat fun _ => { desc := d, bound := true, since := s1.nextId }).finish
        else .next (s0.takeFaults (rowMask rows) 0x0E (bindInfo 2 w.toNat)).finish) ∧
    (prep s g {} = .go s0 s1 rows →
      exec (.wunb g w) s = .next (s1.modCurWave fun wv => wv.modWalker w.toNat fun x => { desc := x.desc }).finish) ∧
    (prep s g { srcs := [{ pos := 0, src := a }, { pos := 1, src := b }] } false (seekOwn s w) = .go s0 s1 rows →
      let k := (s1.wave c t).walker w.toNat
      let i0 := v % 2 ^ 16
      let i1 := v / 2 ^ 16
      let i2 := (wordAt (firstRow rows) 1 0).toNat % 2 ^ 16
      exec (.wseek g w a b) s = if k.bound = false then .next (s0.takeFaults (rowMask rows) 0x0E (bindInfo 0 w.toNat)).finish
        else if k.field 79 64 ≤ i0 ∨ k.field 143 128 ≤ i1 ∨ k.field 207 192 ≤ i2 then
          .next (s0.takeFaults (rowMask rows) 0x0E (bindInfo 2 w.toNat)).finish
        else .next (s1.modCurWave fun wv => wv.modWalker w.toNat fun x =>
          { x with i0, i1, i2, e0 := false, e1 := false, e2 := false, buf := [] }).finish)

/-- R213, R214, R216 to R222: the queue instructions, and the arrival of what a walker fetches ahead. `qpop` takes its entries at
issue and fills D as a producer; `qpush` pushes each lane's words; `qlen` counts the entries of the port's queue; `qbind` binds
or unbinds a port, or takes a BINDING fault. -/
def Obligations.QueueResults : Prop :=
  ∀ (g : Guard) (cnt : BitVec 3) (port : Nat) (p5 : BitVec 5) (e : Bool) (d : Operand) (a : Src) (s s0 s1 : State)
    (rows : List (Nat × List (List Word))),
    let n := cnt.toNat + 1
    let k := s1.core s1.cur.core
    isSerai s.cur.core = false →
    (prep s g { srcs := [{ pos := 0, src := a }] } false (bindOwn s none (qbindBody p5)) = .go s0 s1 rows →
      let b := (wordAt (firstRow rows) 0 0).toNat
      let kind := bitsN b 2 0
      let k' := { k with ports := if kind = 0 then delK k.ports p5.toNat else insK k.ports p5.toNat (boundQueue b) }
      (5 ≤ kind ∨ bitsN b 7 3 ≠ 0 ∨ bitsN b 31 13 ≠ 0 ∨ (kind ≠ 1 ∧ bitsN b 12 8 ≠ 0) →
        exec (.qbind g p5 a) s = .next (s0.takeFaults (rowMask rows) 0x0E (bindInfo 6 p5.toNat)).finish) ∧
      (kind < 5 → bitsN b 7 3 = 0 → bitsN b 31 13 = 0 → (kind = 1 ∨ bitsN b 12 8 = 0) →
        exec (.qbind g p5 a) s = match k'.portsCause s1 s1.cur.core with
          | some cause => .next (s0.takeFaults (rowMask rows) 0x0E (bindInfo cause p5.toNat)).finish
          | none => .next (s1.modCore s1.cur.core fun _ => k').finish)) ∧
    (∀ r, d = .reg r → prep s g { srcs := [{ pos := 0, src := { o := .port port, e }, n }], dst := some { o := d, n } } = .go s0 s1 rows →
      exec (.qpop g cnt d port e) s = .next (rows.foldl (fun s p =>
        (s.newProd p.1 (.vals (p.2.getD 0 [])) ((List.range n).map (r + ·))).2) s1).finish) ∧
    (prep s g { srcs := [{ pos := 0, src := a, n }], dst := some { o := .port port, n } } = .go s0 s1 rows →
      exec (.qpush g cnt port a) s = .next (s1.writeDst { o := .port port, n } (rows.map fun p => (p.1, p.2.getD 0 []))).finish) ∧
    (prep s g { dst := some { o := d } } false (qlenOwn s port) = .go s0 s1 rows →
      exec (.qlen g d port e) s = match k.portQueue port with
        | none => .next (s0.takeFaults (rowMask rows) 0x0E (bindInfo 3 port)).finish
        | some q => .next (s1.writeDst { o := d } (rows.map fun p => (p.1, [BitVec.ofNat 32 (k.queue q).length]))).finish)

/-- R22, R41, R201 to R203: what a change of quota does to registers: the quota covers the blocks it says, a register that leaves
it, or enters it, reads zero and is full, and the others keep their values. It grows only into blocks below 48 that no other turn's entry
holds. A grant moves the dead blocks of the giver to the entry just below: the receiver's new registers read zero and are full, and those
of the giver are renamed downwards by 32 for each block, with their empty bits; where the conditions of R203 do not hold it is refused. -/
def Obligations.QuotaRegisters : Prop :=
  ∀ (s u : State) (c t n r : Nat),
    let q := s.quota c t
    (s.resize c t n = .inl u → SameMemory s u ∧ u.quota c t = { q with count := n } ∧
      ∀ l r, ((u.thread c t l).reg r = if r < 32 * min n q.count ∨ 640 ≤ r then (s.thread c t l).reg r else 0) ∧
        ((u.thread c t l).isEmpty r = (((s.thread c t l).isEmpty r) && decide (r < 32 * min n q.count ∨ 640 ≤ r)))) ∧
    (20 < n ∨ q.dead ≠ 0 → s.resize c t n = .inr (bindInfo 7 t)) ∧
    (let free := q.base + n ≤ 48 ∧ ∀ p ∈ (s.core c).quotas, p.1 ≠ t → ∀ i, q.count ≤ i → i < n → p.2.covers (q.base + i) = false
     n ≤ 20 → q.dead = 0 → (n ≤ q.count ∨ free → ∃ v, s.resize c t n = .inl v) ∧ (q.count < n → ¬free → s.resize c t n = .inr (bindInfo 7 t))) ∧
    (let g := s.quota c r
     let ok := 0 < q.dead ∧ r ≠ t ∧ r ≤ 15 ∧ g.valid = true ∧ g.base + g.count = q.base ∧ g.count + q.dead ≤ 20
     (¬ok → s.grant c t r = .inr (bindInfo 7 (Nat.min r 31))) ∧ (ok → ∃ v, s.grant c t r = .inl v) ∧
     (s.grant c t r = .inl u →
      u.quota c r = { g with count := g.count + q.dead } ∧
      u.quota c t = { q with base := q.base + q.dead, count := q.count - q.dead, dead := 0 } ∧
      (∀ j, j ≠ r → j ≠ t → u.quota c j = s.quota c j) ∧
      (∀ l x, (u.thread c t l).reg x = (s.thread c t l).reg (x + 32 * q.dead) ∧
        (u.thread c t l).isEmpty x = (s.thread c t l).isEmpty (x + 32 * q.dead) ∧ (u.thread c t l).preds = (s.thread c t l).preds) ∧
      (∀ l x, (u.thread c r l).reg x = (if 32 * g.count ≤ x ∧ x < 640 then 0 else (s.thread c r l).reg x) ∧
        (u.thread c r l).isEmpty x = ((s.thread c r l).isEmpty x && !(decide (32 * g.count ≤ x) && decide (x < 640)))) ∧
      (∀ k, u.hbmByte k = s.hbmByte k) ∧
      ((∀ p ∈ (s.cl (clusterOf c)).traps, p.2.core ≠ c ∨ p.2.turn ≠ t) → SameMemory s u))) ∧
    (s.setDead c t n = .inl u → n ≤ q.count ∧ SameMemory s u ∧ u.quota c t = { q with dead := n } ∧
      ∀ l r, (u.thread c t l).reg r = if r < 32 * n ∨ 32 * q.dead ≤ r then (s.thread c t l).reg r else 0)

/-- R254, R255, R282, R288, R290, R425, R498, R499: `cpy`, `cpyQueued`, `cpymc`, `wcmd`, `wcmdQueued`, `nsend`, `nput`, `nget`, `natom`, `npost`,
`lmma` and `lmmaQueued` complete, under conditions on the state and the operands alone. With room in the core's issue unit the
command, which is the parameter block of the lowest-numbered active lane, is taken at once; a queued form pushes it to the
command queue its port is bound to. Either way the operation, with a number of its own, joins the open batch of the engine's class
in every active thread. Without room the path waits and nothing is taken.
R234 to R240, R255: a lathe command whose checks pass joins the lathe's commands, or the command queue, with the registers its
descriptors name as every lane holds them, its banks are pending once more, and its operation joins class 1. -/
def Obligations.CommandSubmissionResults : Prop :=
  (∀ (g : Guard) (pb : Nat) (e : Bool) (port : BitVec 5) (s s0 s1 : State) (rows : List (Nat × List (List Word))),
    let c := s1.cur.core
    let k := s1.core c
    let id := s1.nextId
    let ws := (firstRow rows).getD 0 []
    let u := fun (cls : Nat) => ({ s1 with nextId := id + 1 } : State).joinOp (rowMask rows) cls id
    let push := fun (cls q : Nat) (slots : List (List Word)) => Host.Outcome.next ((u cls).modCore c fun k =>
      k.setQueue q (k.queue q ++ [.cmd ws s1.cur.turn (s1.wave c s1.cur.turn).uid id slots []])).finish
    let net := fun (kind : Nat) => Host.Outcome.next ((u 2).fillNet c (((u 2).core c).freeNet.getD 0) id kind ws).finish
    (Issues s g { srcs := [{ pos := 0, src := { o := .reg pb, e }, n := 16, al := 16 }] } s0 s1 rows →
      (isSerai s.cur.core = false → k.freeCopy.isSome = true →
        exec (.cpy g pb e) s = .next ((u 0).fillCopy c (((u 0).core c).freeCopy.getD 0) id ws).finish) ∧
      (isSerai s.cur.core = false → k.freeCopy.isSome = false → exec (.cpy g pb e) s = .next (s0.block .blockedQueue .copyEntry)) ∧
      (isSerai s.cur.core = false → k.portQueue port.toNat = some 33 → s1.pushOk c k 33 = true →
        exec (.cpyQueued g pb e port) s = push 0 33 []) ∧
      (k.ways.length < 8 → exec (.wcmd g pb e) s = .next
        ((u 3).takeWay c s1.cur.turn ((u 3).wave c s1.cur.turn).uid id ws ((u 3).waySlots ws)).finish) ∧
      (k.portQueue port.toNat = some 34 → s1.pushOk c k 34 = true → exec (.wcmdQueued g pb e port) s = push 3 34 (s1.waySlots ws)) ∧
      (k.freeNet.isSome = true → exec (.nsend g pb e) s = net 1 ∧ exec (.nput g pb e) s = net 2 ∧ exec (.nget g pb e) s = net 3 ∧
        exec (.natom g pb e) s = net 4 ∧ exec (.npost g pb e) s = net 5)) ∧
    (Issues s g { srcs := [{ pos := 0, src := { o := .reg pb, e }, n := 8, al := 8 }] } s0 s1 rows → isSerai s.cur.core = false →
      (∀ cause, s1.mcastBad c ws = some cause → exec (.cpymc g pb e) s = .next ((u 4).completeOp c id (some cause)).finish) ∧
      (∀ i, s1.mcastBad c ws = none → (s1.cl (clusterOf c)).freeSlot = some i →
        exec (.cpymc g pb e) s = .next (({ u 4 with nextId := id + 2 } : State).modSlot (clusterOf c) i fun _ =>
          { state := 1, sender := coreIndex c, chan := wBits (ws.getD 1 0) 31 16, nblk := wBits (ws.getD 1 0) 6 0,
            npend := popCount (BitVec.ofNat 128 (natOfWords (ws.drop 4))), mask := BitVec.ofNat 128 (natOfWords (ws.drop 4)),
            soff := (ws.getD 0 0).toNat, op := id, order := id + 1 }).finish) ∧
      (s1.mcastBad c ws = none → (s1.cl (clusterOf c)).freeSlot = none → exec (.cpymc g pb e) s = .next (s0.block .blockedQueue .depotFree)))) ∧
  (∀ (g : Guard) (pb : Nat) (e : Bool) (port : BitVec 5) (s s0 s1 : State) (rows : List (Nat × List (List Word))),
    let c := s1.cur.core
    let t := s1.cur.turn
    let k := s1.core c
    let w := s1.wave c t
    let ws := (firstRow rows).getD 0 []
    let cmd := LatheCmd.ofWords ws
    let ranges := (descRegs cmd.kc cmd.a).toList ++ (descRegs cmd.kc cmd.b).toList
    let cap := fun d => match descRegs cmd.kc d with
      | some x => (List.range 32).map fun l => (List.range x.2).map fun i => (w.thread l).reg (x.1 + i)
      | none => []
    let go := fun (put : Core → Core) => Host.Outcome.next ((({ s1 with nextId := s1.nextId + 1 } : State).modCore c fun k =>
      (put k).modBanks cmd.banks fun b => b.set 31 24 (b.pend + 1)).joinOp (rowMask rows) 1 s1.nextId).finish
    isSerai s.cur.core = false →
    Issues s g { srcs := [{ pos := 0, src := { o := .reg pb, e }, n := 6, al := 2 }], once := true } s0 s1 rows →
    firstOut (s1.quotaOf c t) (s1.deadBelow c t) (ranges.map fun x => (x.1, x.2, 1)) = none →
    (∀ x ∈ ranges, ∀ l < 32, ∀ i < x.2, (w.thread l).isEmpty (x.1 + i) = false) →
    latheBad ws = false → (∀ b ∈ cmd.banks, (k.bank b).owned t = true) →
    s1.descOutside c cmd.kc (32 * cmd.mt) cmd.a = false → s1.descOutside c cmd.kc (16 * cmd.nh) cmd.b = false →
    (k.lathe.length < 4 → exec (.lmma g pb e) s = go fun k =>
      { k with lathe := k.lathe ++ [{ turn := t, uid := w.uid, op := s1.nextId, words := ws, regsA := cap cmd.a, regsB := cap cmd.b }] }) ∧
    (k.portQueue port.toNat = some 32 → s1.pushOk c k 32 = true → exec (.lmmaQueued g pb e port) s = go fun k =>
      k.setQueue 32 (k.queue 32 ++ [.cmd ws t w.uid s1.nextId (cap cmd.a) (cap cmd.b)])))

/-- R229 to R232, R241, R253: `aalloc`, `afree`, `aband`, `arel`, `ainfo`, `ald` and `ast` complete, under conditions on the state and the operands
alone. Of the banks of AMEM, `aalloc` gives the first free run of banks to the wave, or answers all ones; `afree`,
`aband` and `arel` free, pass on and take back banks that the wave may so treat, or take the AMEM-BAND fault, in every active lane: cause 4 for a
malformed word, 3, 1 and 2 for banks that the wave may not so treat (the bank it names where no single bank is at fault is LOG 18's choice);
`afree` waits while a command on the banks is pending; `ainfo` reads a bank's
word.
R242, R243, R253: reading and storing a bank. Where every lane's range is inside the bank and the quota, the bank is the wave's
and nothing is pending on it, `ald` reads each lane's elements of the row, zeroing them if asked, into D as a producer; and `ast`
takes the rows it stores, zeroing the bank's if asked, as an operation of class 1. The bank here reports no error. -/
def Obligations.AccumulatorBankResults : Prop :=
  (∀ (g : Guard) (d : Operand) (a : Src) (s s0 s1 : State) (rows : List (Nat × List (List Word))),
    let c := s1.cur.core
    let t := s1.cur.turn
    let k := s1.core c
    let v := (wordAt (firstRow rows) 0 0).toNat
    let fault := fun (cause b : Nat) => Host.Outcome.next (s0.takeFaults (rowMask rows) 0x10 (amemBand cause b)).finish
    isSerai s.cur.core = false →
    (IssuesWith s g { srcs := [{ pos := 0, src := a }], dst := some { o := d }, once := true } allocOwn s0 s1 rows →
      v = 0 ∨ 16 < v → exec (.aalloc g d a) s = fault 4 0) ∧
    (IssuesWith s g { srcs := [{ pos := 0, src := a }], dst := some { o := d }, once := true } allocOwn s0 s1 rows → 1 ≤ v → v ≤ 16 →
      exec (.aalloc g d a) s = match k.freeRun v with
        | none => .next (s1.writeDst { o := d } (rows.map fun p => (p.1, [0xFFFFFFFF]))).finish
        | some b => .next ((s1.modCore c fun k => k.modBanks ((List.range v).map (b + ·)) fun _ =>
            { word := BitVec.ofNat 32 (1 + 2 * t + 2 ^ 10 * b + 2 ^ 14 * v) }).writeDst { o := d }
              (rows.map fun p => (p.1, [BitVec.ofNat 32 b]))).finish) ∧
    (Issues s g { srcs := [{ pos := 0, src := a }], dst := some { o := d } } s0 s1 rows →
      exec (.ainfo g d a) s = .next (laneValue s1 { o := d } rows fun _ vs => [(k.bank ((wordAt vs 0 0).toNat % 16)).word])) ∧
    (IssuesWith s g (specWords [a] true) (bankOwn s (fun _ => none) afreeBody) s0 s1 rows →
      (16 ≤ v → exec (.afree g a) s = fault 4 v) ∧
      (v < 16 → (k.bank v).valid = false ∨ (k.bank v).abase ≠ v ∨ (k.bank v).owner ≠ t ∨ (∃ y ∈ k.allocation v, (k.bank y).granted = true) →
        exec (.afree g a) s = fault 3 v) ∧
      (v < 16 → (k.bank v).valid = true → (k.bank v).abase = v → (k.bank v).owner = t → (∀ y ∈ k.allocation v, (k.bank y).granted = false) →
        (∃ y ∈ k.allocation v, (k.bank y).pend ≠ 0) → exec (.afree g a) s = .next (s0.block .blockedQueue (.pend (k.allocation v)))) ∧
      (v < 16 → (k.bank v).valid = true → (k.bank v).abase = v → (k.bank v).owner = t →
        (∀ y ∈ k.allocation v, (k.bank y).granted = false ∧ (k.bank y).pend = 0) →
        exec (.afree g a) s = .next (s1.modCore c fun k' => (k.allocation v).foldl (fun k y => { k with banks := delK k.banks y }) k').finish)) ∧
    (IssuesWith s g (specWords [a] true) (bankOwn s (fun _ => none) abandBody) s0 s1 rows →
      (bandRange v 13 = none → exec (.aband g a) s = fault 4 v) ∧
      (∀ banks b, bandRange v 13 = some banks → banks.find? (fun b => !(k.bank b).owned t) = some b → exec (.aband g a) s = fault 1 b) ∧
      (∀ banks, bandRange v 13 = some banks → (∀ b ∈ banks, (k.bank b).owned t = true) →
        bitsN v 12 9 = t ∨ (k.wave (bitsN v 12 9)).live = false ∨ (k.wave (bitsN v 12 9)).alive = 0 → exec (.aband g a) s = fault 1 v) ∧
      (∀ banks, bandRange v 13 = some banks → (∀ b ∈ banks, (k.bank b).owned t = true) → bitsN v 12 9 ≠ t →
        (k.wave (bitsN v 12 9)).live = true → (k.wave (bitsN v 12 9)).alive ≠ 0 →
        exec (.aband g a) s = .next (s1.modCore c fun k => k.modBanks banks fun b => (b.set 5 5 1).set 9 6 (bitsN v 12 9)).finish)) ∧
    (IssuesWith s g (specWords [a] true) (bankOwn s (fun _ => none) arelBody) s0 s1 rows →
      (bandRange v 9 = none → exec (.arel g a) s = fault 4 v) ∧
      (∀ banks b, bandRange v 9 = some banks →
        banks.find? (fun b => !((k.bank b).live && (k.bank b).granted && (k.bank b).grantee == t)) = some b → exec (.arel g a) s = fault 2 b) ∧
      (∀ banks, bandRange v 9 = some banks → (∀ b ∈ banks, (k.bank b).live = true ∧ (k.bank b).granted = true ∧ (k.bank b).grantee = t) →
        exec (.arel g a) s = .next (s1.modCore c fun k => k.modBanks banks fun b => b.set 5 5 0).finish))) ∧
  (∀ (g : Guard) (r : Nat) (a b : Src) (s s0 s1 : State) (rows : List (Nat × List (List Word))),
    let c := s.cur.core
    let t := s.cur.turn
    isSerai c = false →
    (IssuesWith s g { srcs := [{ pos := 0, src := a }], dst := some { o := .reg r } } (aldOwn s r) s0 s1 rows →
      let sel := fun (p : Nat × List (List Word)) => (wordAt p.2 0 0).toNat
      let bk := fun (p : Nat × List (List Word)) => (s1.core c).bank (bitsN (sel p) 3 0)
      (∀ p ∈ rows, firstOut (s.quotaOf c t) (s.deadBelow c t) [(r, aldCount (sel p), 1)] = none ∧ sel p < 2 ^ 16 ∧
        1 ≤ bitsN (sel p) 14 9 ∧ bitsN (sel p) 14 9 ≤ 32 ∧ bitsN (sel p) 8 4 + bitsN (sel p) 14 9 ≤ 32 ∧
        (bk p).heldBy t = true ∧ (bk p).pend = 0 ∧ reportFault (bk p) (bitsN (sel p) 3 0) = none) →
      ∃ f : State → Nat × List (List Word) → State, exec (.ald g (.reg r) a) s =
          .next (rows.foldl f (rows.foldl (fun s p => s.findBad c (bitsN (sel p) 3 0)) (s1.unreport c []))).finish ∧
        ∀ u p, f u p =
          let ks := (List.range (bitsN (sel p) 14 9)).map fun j => 32 * p.1 + bitsN (sel p) 8 4 + j
          let x := ((u.core c).bank (bitsN (sel p) 3 0)).read ks
          let u' := if (sel p).testBit 15 then u.modCore c fun k => k.modBank (bitsN (sel p) 3 0) fun y => y.clear ks else u
          ((if x.2 then u'.curFlags Flags.amu else u').newProd p.1 (.vals x.1) ((List.range (bitsN (sel p) 14 9)).map (r + ·))).2) ∧
    (IssuesWith s g (specWords [a, b] true) (bankOwn s s.astPre astBody) s0 s1 rows →
      let v := (wordAt (firstRow rows) 0 0).toNat
      let off := (wordAt (firstRow rows) 1 0).toNat
      let n := bitsN v 3 0
      let nrow := bitsN v 14 9
      let cols := if v.testBit 16 then 16 else 32
      let u := s1.findBad c n
      let keys := fun i => (List.range cols).map fun j => 32 * (bitsN v 8 4 + i) + j
      astBad v off = false → ((s1.core c).bank n).heldBy t = true → ((s1.core c).bank n).pend = 0 →
      (∀ i < nrow, s1.spOk c (off + 64 * bitsN v 31 24 * i) (4 * cols) = true) → reportFault ((s1.core c).bank n) n = none →
      let img := (List.range nrow).map fun i => (ownAddr c (off + 64 * bitsN v 31 24 * i), bytesOfWords (((u.core c).bank n).read (keys i)).1)
      let op := fun (k : Core) => { op := u.nextId, turn := t, uid := (k.wave t).uid, rows := img, fl := if (((u.core c).bank n).read []).2 then Flags.amu else 0 : AstOp }
      let taken := fun (k : Core) => if v.testBit 15 then k.modBank n fun x => (List.range nrow).foldl (fun x i => x.clear (keys i)) x else k
      exec (.ast g a b) s = .next ((({ u with nextId := u.nextId + 1 } : State).modCore c fun k =>
        { taken k with asts := (taken k).asts ++ [op (taken k)] }).joinOp (rowMask rows) 1 u.nextId).finish))

/-- R25, R254 to R260: `seal`, `waitb` and `bstat` complete, under conditions on the state and the operands alone. With room for a sealed batch in every lane, `seal` closes the open batch of its class; `waitb`
ends when no lane has more sealed batches than its word allows, and waits while one has, for the lanes that have; where each of those has a
batch that failed, they take the fault of its class and the others go on; `bstat` reads the counter word. -/
def Obligations.BatchResults : Prop :=
  ∀ (g : Guard) (cl : EngClass) (d : Operand) (a : Src) (s s0 s1 : State) (rows : List (Nat × List (List Word))),
    let cls := clsNo cl
    let b := fun (l : Nat) => (s1.curThread l).batch cls
    (Issues s g {} s0 s1 rows → (∀ p ∈ rows, (b p.1).queue.length < 15) →
      exec (.seal g cl) s = .next (s1.modThreads s1.cur.core s1.cur.turn (rowMask rows) fun _ t => t.modBatch cls BatchCtr.seal).finish) ∧
    (Issues s g (specWords [a]) s0 s1 rows →
      ((∀ p ∈ rows, (b p.1).queue.length ≤ (wordAt p.2 0 0).toNat) → exec (.waitb g cl a) s = .next s1.finish) ∧
      let unmet := rows.filter fun p => decide ((wordAt p.2 0 0).toNat < (b p.1).queue.length)
      unmet ≠ [] →
      ((∀ p ∈ unmet, (b p.1).failed = none) →
        exec (.waitb g cl a) s = .next (s0.block .blockedQueue (.waitb cls (unmet.map fun p => (p.1, (wordAt p.2 0 0).toNat))))) ∧
      ((∀ p ∈ unmet, (b p.1).failed.isSome = true) →
        exec (.waitb g cl a) s = .next (((if unmet.length = rows.length then s0 else s1).failLanes cls (unmet.map fun p =>
          let f := failFault cls ((b p.1).failed.getD 0)
          (p.1, f.1, f.2, 0))).finish))) ∧
    (Issues s g { dst := some { o := d } } s0 s1 rows →
      exec (.bstat g cl d) s = .next (laneValue s1 { o := d } rows fun l _ => [(b l).word]))

/-- R298, R299: `mcdrain`, `mcdrop` and `mcinfo` complete, under conditions on the state and the operands alone. The slot that matches a lane's channel earliest gives up the core's bit of its mask and
answers its number, size and sender; `mcdrain` starts a drain to the core's slice as an operation of class 4, and `mcdrop` lets
the tile go. With no match the non-blocking form answers 0 and the other waits; `mcinfo` reads a slot's state word. -/
def Obligations.DepotReceiveResults : Prop :=
  ∀ (g : Guard) (nb : Bool) (d : Operand) (a b : Src) (s s0 s1 : State) (rows : List (Nat × List (List Word))),
    let c := s1.cur.core
    let cl := clusterOf c
    let vs := firstRow rows
    let chan := wBits (wordAt vs 0 0) 15 0
    let got := fun (i : Nat) (x : Slot) => rows.map fun p => (p.1, [BitVec.ofNat 32 (i + 1 + x.nblk * 2 ^ 8 + x.sender * 2 ^ 16)])
    let taken := fun (i : Nat) => s1.modSlot cl i fun x => { x with mask := x.mask &&& ~~~(BitVec.twoPow 128 (coreIndex c)), npend := x.npend - 1 }
    isSerai s.cur.core = false →
    (Issues s g { (specWords [a, b]) with dst := some { o := d } } s0 s1 rows →
      (∀ i x, (s1.cl cl).matchSlot chan (coreIndex c) = some (i, x) →
        let off := (wordAt vs 1 0).toNat
        let u := taken i
        let dr : Drain := { cl, core := c, slot := i, op := u.nextId, off, bad := off % 64 != 0 || !s1.spOk c off (64 * x.nblk) }
        exec (.mcdrain g nb d a b) s = .next (((({ u with nextId := u.nextId + 1, drains := insK u.drains u.nextId dr } : State).modSlot
          cl i fun x => { x with ndrain := x.ndrain + 1 }).joinOp (rowMask rows) 4 u.nextId).writeDst { o := d } (got i x)).finish) ∧
      ((s1.cl cl).matchSlot chan (coreIndex c) = none → exec (.mcdrain g nb d a b) s =
        if nb then .next (s1.writeDst { o := d } (rows.map fun p => (p.1, [0]))).finish else .next (s0.block .blockedQueue (.depotMatch chan)))) ∧
    (Issues s g { (specWords [a]) with dst := some { o := d } } s0 s1 rows →
      (∀ i x, (s1.cl cl).matchSlot chan (coreIndex c) = some (i, x) →
        exec (.mcdrop g nb d a) s = .next (((taken i).modSlot cl i Slot.settle).writeDst { o := d } (got i x)).finish) ∧
      ((s1.cl cl).matchSlot chan (coreIndex c) = none → exec (.mcdrop g nb d a) s =
        if nb then .next (s1.writeDst { o := d } (rows.map fun p => (p.1, [0]))).finish else .next (s0.block .blockedQueue (.depotMatch chan)))) ∧
    (Issues s g { srcs := [{ pos := 0, src := a }], dst := some { o := d, n := 2, al := 2 } } s0 s1 rows →
      exec (.mcinfo g d a) s = .next (laneValue s1 { o := d, n := 2, al := 2 } rows fun _ vs =>
        wordsOf 2 ((s1.cl cl).slot (wBits (wordAt vs 0 0) 5 0)).word.toNat))

/-- R305 to R309: `trap` completes, under conditions on the state and the operands alone. When the Domain fence holds in every active lane and the record finds a place, a record of the active lanes
and their vectors is posted, stashed or held, in that order of preference; the lanes park at the next instruction and their result
registers become empty. Until then the path waits. -/
def Obligations.TrapResults : Prop :=
  ∀ (g : Guard) (r : Nat) (a : Src) (s s0 s1 : State) (rows : List (Nat × List (List Word))),
    let c := s1.cur.core
    let t := s1.cur.turn
    let m := rowMask rows
    let id := s1.nextId
    let vec := rows.map fun p => (p.1, p.2.getD 0 [])
    let rec_ : TrapRec := { turn := t, res := r, lanes := m, pend := m, gmask := (trapGroups vec).map (·.2), pc := s1.cur.pc,
                            time := s1.lease, part := s1.partOf c, vec, core := c, order := id }
    let u : State := { s1 with nextId := id + 1 }
    let park := fun (s : State) => Host.Outcome.next (s.park m .parkedTrap fun _ th => th.markEmpty [r, r + 1] id)
    isSerai s.cur.core = false →
    Issues s g { srcs := [{ pos := 0, src := a, n := 7 }], dst := some { o := .reg r, n := 2, al := 2 } } s0 s1 rows →
    ((∀ l ∈ m.lanes, s1.fenceMet .domain c t l = true) →
      (s1.trapPlace c t = none → exec (.trap g (.reg r) a) s = .next (s0.block .blockedQueue .trapPlace)) ∧
      (∀ slot, s1.trapPlace c t = some 0 → s1.trapSlot (clusterOf c) = some slot →
        exec (.trap g (.reg r) a) s = park (u.postTrap (clusterOf c) slot rec_)) ∧
      (s1.trapPlace c t = some 1 → exec (.trap g (.reg r) a) s = park (u.modCore c fun k => { k with stash := k.stash ++ [rec_] })) ∧
      (s1.trapPlace c t = some 2 → exec (.trap g (.reg r) a) s =
        park ((u.modCurWave fun w => { w with held := some rec_ }).crCount (clusterOf c) nRSTAT 31 16 1))) ∧
    (m.lanes.filter (fun l => !s1.fenceMet .domain c t l) ≠ [] → exec (.trap g (.reg r) a) s =
      .next (s0.block .blockedQueue (.fence .domain (m.lanes.filter fun l => !s1.fenceMet .domain c t l))))

/-- R310 to R312, R318, R322, R323: `resume`, `resumeB`, `kill`, `xres`, `psave` and `prest` complete, under conditions on the state and the
operands alone. `resume` gives the lanes of a posted
record their results, once its own stores are done, and answers which lanes it resumed; `kill` ends threads; `xres` makes faulted
threads ready again, past the faulting instruction if asked; `psave` and `prest` answer a status, at once if a check fails and at
the end of the save otherwise. -/
def Obligations.WaveControlResults : Prop :=
  ∀ (g : Guard) (rec step restore : Bool) (d : Operand) (a b p : Src) (s s0 s1 : State) (rows : List (Nat × List (List Word))),
    let cl := clusterOf s1.cur.core
    let vs := firstRow rows
    let slot := wBits (wordAt vs 0 0) 7 0
    let absent : DWord := 0xFFFFFFFFFFFFFFFF
    let inst := if restore then Instr.prest g d a b else Instr.psave g d a b
    isSerai s.cur.core = true →
    (∀ r, Issues s g { srcs := [{ pos := 0, src := a }, { pos := 1, src := b }], dst := some { o := d } } s0 s1 rows →
      s1.storesMet s1.cur.core s1.cur.turn 0 true = true → findK (s1.cl cl).traps slot = some r →
      s1.saving r.core r.waveTurn r.area = false →
      let ls := Mask.lanes (wordAt vs 1 0 &&& r.pend)
      (r.absent = true → s1.areaWaits cl r.part r.save (ls.flatMap fun l => savedParts l r.res) = false) →
      let x := s1.resumeMask cl r ls fun s l => wordsOf 2 (natOfBytes (s.rdSram (s.slotPlace cl slot + 0x40 + 28 * l) 8))
      exec (.resume g d a b) s =
        .next (((if r.absent then x.2 else x.2.poke r.core).setTrap cl slot { r with pend := r.pend &&& ~~~x.1 }).giveD d [x.1]).finish) ∧
    (∀ r, Issues s g { srcs := [{ pos := 0, src := a }, { pos := 1, src := b }, { pos := 2, src := p, n := 2, al := 2 }], dst := some { o := d } }
        s0 s1 rows →
      s1.storesMet s1.cur.core s1.cur.turn 0 true = true → findK (s1.cl cl).traps slot = some r →
      s1.saving r.core r.waveTurn r.area = false →
      let ls := Mask.lanes (wordAt vs 1 0 &&& r.pend)
      (r.absent = true → s1.areaWaits cl r.part r.save (ls.flatMap fun l => savedParts l r.res) = false) →
      let x := s1.resumeMask cl r ls fun _ _ => vs.getD 2 []
      exec (.resumeB g d a b p) s =
        .next (((if r.absent then x.2 else x.2.poke r.core).setTrap cl slot { r with pend := r.pend &&& ~~~x.1 }).giveD d [x.1]).finish) ∧
    (Issues s g { srcs := [{ pos := 0, src := a }, { pos := 1, src := b }], dst := some { o := d } } s0 s1 rows →
      (findK (s1.cl cl).traps slot = none → exec (.kill g true d a b) s = .next (s1.putD d 0).finish) ∧
      (∀ r, findK (s1.cl cl).traps slot = some r → r.absent = false → s1.saving r.core r.turn absent = false →
        exec (.kill g true d a b) s =
          .next (((s1.killLanes r.core r.turn (wordAt vs 1 0 &&& r.pend)).poke r.core).putD d (wordAt vs 1 0 &&& r.pend)).finish) ∧
      (∀ c t, waveName cl (wordAt vs 0 0) = some (c, [t]) → s1.saving c t absent = false → (s1.wave c t).live = true →
        let m := wordAt vs 1 0 &&& (s1.wave c t).alive
        let f := wordAt vs 1 0 &&& (s1.wave c t).lanesWith (· == .faulted)
        let up := s1.modThreads c t f fun _ th => { th with status := .ready, wait := .none }
        (s1.awaited c = none ∨ (s1.killTarget c t).1 = some t →
          exec (.kill g false d a b) s = .next (((s1.killLanes c t m).poke c).putD d m).finish) ∧
        exec (.xres g step d a b) s =
          .next (((if step then (Mask.lanes f).foldl (fun s l => s.stepOver c t l) up else up).poke c).putD d f).finish)) ∧
    (Issues s g { srcs := [{ pos := 0, src := a }, { pos := 1, src := b, n := 2, al := 2 }], dst := some { o := d } } s0 s1 rows →
      (restore = true → s1.storesMet s1.cur.core s1.cur.turn 0 false = true) →
      (∀ e, s1.saveChecks restore cl (wordAt vs 0 0) (pairAt vs 1) = .error e → exec inst s = .next (s1.giveD d [BitVec.ofNat 32 e]).finish) ∧
      (∀ c ts r, d = .reg r → s1.saveChecks restore cl (wordAt vs 0 0) (pairAt vs 1) = .ok (c, ts) →
        let u := (s1.newProd 0 .await [r]).2
        let w := ts.foldl (fun s t => s.modWave c t fun w => { w with busy := true }) (({ u with nextId := u.nextId + 1 } : State).poke c)
        let op : SaveOp := { restore, core := c, turns := ts, bti := caBti (pairAt vs 1), off := caOff (pairAt vs 1), prod := s1.nextId, time := u.lease }
        exec inst s = .next ({ w with saves := insK w.saves u.nextId op } : State).finish))

/-- R11, R12, R301 to R303, R315, R316, R365: `crget`, `crset`, `icinv`, `mcall` and `mret` complete, under conditions on the state and the operands alone: the reads and writes of cluster registers, the invalidation of
instruction caches, and the calls to and from monitor mode, which go to the header at MVEC and at MEPC. A write of a register that is not the
mode's to write, and `mret` outside monitor mode, take PRIVILEGE; a write of TCTL that sets SWAP is done before its thread waits (R365). Of the registers listed, whose writes have no check
and no other effect, a write sets the RW fields, clears the W1C bits where it has a 1, and leaves the RO and reserved ones, every other
register and memory. -/
def Obligations.SeraiControlResults : Prop :=
  ∀ (g : Guard) (d : Operand) (a b p : Src) (s s0 s1 : State) (rows : List (Nat × List (List Word))),
    let cl := clusterOf s1.cur.core
    let t := s1.cur.turn
    let vs := firstRow rows
    let num := wBits (wordAt vs 0 0) 23 0
    let denied := Host.Outcome.next (s0.takeFault 0 0x15 (BitVec.ofNat 32 (curOpc s0))).finish
    isSerai s.cur.core = true →
    (Issues s g { srcs := [{ pos := 0, src := a }], dst := some { o := d, n := 2, al := 2 } } s0 s1 rows →
      exec (.crget g d a) s = .next (s1.writeDst { o := d, n := 2, al := 2 } [(0, [loOf (s1.readCr cl t num), hiOf (s1.readCr cl t num)])]).finish) ∧
    (Issues s g { srcs := [{ pos := 0, src := a }, { pos := 1, src := b, n := 2, al := 2 }] } s0 s1 rows →
      (s1.crAllowed cl t num = false → exec (.crset g a b) s = denied) ∧
      (s1.crAllowed cl t num = true → (∀ k < 8, num = nWCTX k → s1.wctxWaits k (pairAt vs 1) = false) →
        (num = nTCTL → dwBit (pairAt vs 1) 9 = true → swst (s1.cr cl nTCTL) = 7) →
        exec (.crset g a b) s = .next ((s1.writeCr cl t num (pairAt vs 1)).pokeUnit cl num).finish) ∧
      (s1.crAllowed cl t num = true → num = nTCTL → dwBit (pairAt vs 1) 9 = true → swst (s1.cr cl nTCTL) ≠ 7 →
        exec (.crset g a b) s = .next ((s1.writeTctl cl (pairAt vs 1)).finish).holdSwap)) ∧
    (Issues s g { srcs := [{ pos := 0, src := a }, { pos := 1, src := b, n := 2, al := 2 }, { pos := 2, src := p }], dst := some { o := d } } s0 s1 rows →
      let n := (wordAt vs 0 0).toNat
      let cores := if n = 0xFFFFFFFF then (List.range 128).map (128 * cl + ·) else if n / 128 = cl then [n] else []
      exec (.icinv g d a b p) s = .next ((cores.foldl (fun (s : State) k =>
        s.modCore k fun x => (x.invalidate (pairAt vs 1).toNat (wordAt vs 2 0).toNat).poke) s1).giveD d [BitVec.ofNat 32 cores.length]).finish) ∧
    (Issues s g { srcs := [{ pos := 0, src := a }] } s0 s1 rows →
      exec (.mcall g a) s = .next ((((s1.setCrT cl (t + 1) nMEPC s1.cur.nextPc).setCrT cl (t + 1) nMINFO 0).setSmode cl t true
        (some (wBits (wordAt vs 0 0) 7 0))).seraiJump s0 s0 (s1.cr cl nMVEC))) ∧
    (Issues s g {} s0 s1 rows →
      (s1.isMonitor cl t = true → exec (.mret g) s = .next ((s1.setSmode cl t false none).seraiJump s0 s1 (s1.crT cl (t + 1) nMEPC))) ∧
      (s1.isMonitor cl t = false → exec (.mret g) s = denied)) ∧
    (∀ (x y : State) (dest w : DWord) (la2 : Bool), x.checkTarget x.cur.core x.cur.turn 0 false dest = .ok w la2 →
      x.seraiJump s0 y dest = (x.goTo (Mask.single 0) false dest w la2).modThread x.cur.core x.cur.turn 0 fun th =>
        { th with wait := .none, walked := [] }) ∧
    let all : DWord := 0xFFFFFFFFFFFFFFFF
    let regs : List (Nat × DWord × DWord) :=
      [(nMVEC, all, 0), (nRSTAT, 0, 0xFFFFFFFFFFFF), (nCSCTL, 0xFFFF, 0), (nCPSTAT, 0, 0xFFFFFFFF), (nTSTAT, 0, 0xFFFFFFFFFFFF),
       (nTLIM, 0xFFF1FFF0FFF, 0), (nTCNT, 0, 0xFFFF0000FFFFFFFF), (nTBSTAT, 0, 0xFFFFFFFFFFFF)] ++
      ((List.range 8).flatMap fun i => [(nSTKSTAT i, 0, 0xFFFFFFFF00000000), (nWSTAT i, 0, 0xFFFF0000), (nPORTSTAT i, 0, 0xFFFFFFFF0000)]) ++
      ((List.range 64).map fun i => (nSBSLOT i, 0x1FFFF, 0)) ++ ((List.range 256).map fun i => (nNCTR i, all, 0))
    ∀ r ∈ regs, ∀ (y : State) (c turn : Nat) (v : DWord), c < 16 →
      let u := y.writeCr c turn r.1 v
      SameMemory y u ∧ (∀ c' n, crKey c' 0 n ≠ crKey c 0 r.1 → u.cr c' n = y.cr c' n) ∧
      ∀ k < 64, (u.readCr c turn r.1).getLsbD k =
        if r.2.1.getLsbD k then v.getLsbD k else (y.readCr c turn r.1).getLsbD k && !(r.2.2.getLsbD k && v.getLsbD k)

/-- R381 to R387: `ld`, `ldNa`, `ldAcq`, `st`, `atom`, `atomAcq`, `ldtag` and `sttag` complete, under conditions on the state and the operands alone.
Where the checks of every lane's access pass, a load, or a tag read, becomes a producer of D in
each lane; a store, or a tag write, carries the low bytes of D; an atomic operation carries its operands and fills D when it is
done. A use of a buffer's slot makes its translation the most recent. -/
def Obligations.MemoryAccessResults : Prop :=
  ∀ (g : Guard) (size : BitVec 3) (op : BitVec 4) (w64 : Bool) (d : Operand) (a : Src) (m : MemOp) (s s0 s1 : State)
    (rows : List (Nat × List (List Word))) (pl : Nat × List (List Word) → Place) (ex : Nat × List (List Word) → BitVec 512),
    let ok := fun (n right : Nat) => ∀ p ∈ rows, s1.checkMem s1.cur.core s1.cur.turn p.1 m (p.2.getD 0 []) n right = .ok (pl p) (ex p) ∧
      (isSerai s1.cur.core = true → isOwn s1.cur.core (pl p) = true → s1.heldPlace (pl p) = false)
    let each := fun (f : State → Nat × List (List Word) → Option (Nat × Nat) → State) => Host.Outcome.next (rows.foldl (fun s p =>
      f (s.useSlot m (p.2.getD 0 [])) p ((s.useSlot m (p.2.getD 0 [])).slotOff m (p.2.getD 0 []))) s1).finish
    let load := fun (sz : BitVec 3) (kind : LoadKind) (n : Nat) => each fun s p o => s.issueLoad p.1 (pl p) (ex p) sz kind o (prodRegs d n)
    let r := if w64 then 2 else 1
    let atom := fun (acq : Bool) => each fun s p o =>
      (s.newProd p.1 .await (prodRegs a.o r) true).2.issueStore p.1 (pl p) (4 * r) 0 (.atom op w64 (BitVec.ofNat 64 (natOfWords ((p.2.getD 1 []).take r)))
        (BitVec.ofNat 64 (natOfWords ((p.2.getD 1 []).drop r))) (s.newProd p.1 .await (prodRegs a.o r) true).1) acq o
    (Issues s g { srcs := [idxSrc m], dst := some (loadDst d (sizeRegs size)) } s0 s1 rows → ok (sizeBytes size) rREAD →
      exec (.ld g size d m) s = load size .plain (sizeRegs size) ∧
      exec (.ldNa g size d m) s = load size .na (sizeRegs size) ∧
      exec (.ldAcq g size d m) s = load size .acq (sizeRegs size)) ∧
    (IssuesWith s g { srcs := [idxSrc m, { pos := 3, src := a, n := sizeRegs size, al := sizeRegs size }] } (s.memOwn m (sizeBytes size) rWRITE) s0 s1 rows →
      ok (sizeBytes size) rWRITE →
      exec (.st g size a m) s = each fun s p o =>
        s.issueStore p.1 (pl p) (sizeBytes size) (natOfWords (p.2.getD 1 []) % 2 ^ (8 * sizeBytes size)) .data false o) ∧
    (IssuesWith s g { srcs := [idxSrc m, { pos := 3, src := a, n := atomRegs op w64, al := atomRegs op w64 }] } (s.memOwn m (4 * r) rATOM) s0 s1 rows →
      ok (4 * r) rATOM → exec (.atom g op w64 a m) s = atom false ∧ exec (.atomAcq g op w64 a m) s = atom true) ∧
    (Issues s g { srcs := [idxSrc m], dst := some { o := d } } s0 s1 rows → ok 1 rREAD → exec (.ldtag g d m) s = load 4 .tag 1) ∧
    (IssuesWith s g { srcs := [idxSrc m, { pos := 3, src := a }] } (s.memOwn m 1 rWRITE) s0 s1 rows → ok 1 rWRITE →
      exec (.sttag g a m) s = each fun s p o => s.issueStore p.1 (pl p) 1 ((wordAt p.2 1 0).toNat % 65536) .tag false o)

/-- R384, R387, R389, R390: `stRel`, `atomRel`, `atomAr`, `fence`, `bar` and `ss` complete, under conditions on the state and the operands alone. A
releasing access is the plain access once its fence is met in every lane that issues, and completes as it does
where the checks of every lane pass, as `fence` then moves on; where it is not met, the path waits for the fence of those lanes.
R36, R392 to R396: arrival at a barrier. With an armed flag set in SATF every active thread takes the ARITH fault with SATF as FINFO;
otherwise the threads park at the next instruction, each with the instance it arrived at and, for `ss`, the operations of its
sealed batches, which must complete before the instance releases. -/
def Obligations.OrderingResults : Prop :=
  (∀ (g : Guard) (size fs : BitVec 3) (sc : BitVec 2) (op : BitVec 4) (w64 : Bool) (a : Src) (m : MemOp) (s s0 s1 : State)
    (rows : List (Nat × List (List Word))) (pl : Nat × List (List Word) → Place) (ex : Nat × List (List Word) → BitVec 512),
    let wait := fun (c : Scope) => Host.Outcome.next (s0.block .blockedQueue (.fence c (s1.unfenced c (rows.map (·.1)))))
    let n := sizeRegs size
    let k := sizeBytes size
    let r := if w64 then 2 else 1
    let ok := fun (n right : Nat) => ∀ p ∈ rows, s1.checkMem s1.cur.core s1.cur.turn p.1 m (p.2.getD 0 []) n right = .ok (pl p) (ex p) ∧
      (isSerai s1.cur.core = true → isOwn s1.cur.core (pl p) = true → s1.heldPlace (pl p) = false)
    let each := fun (f : State → Nat × List (List Word) → Option (Nat × Nat) → State) => Host.Outcome.next (rows.foldl (fun s p =>
      f (s.useSlot m (p.2.getD 0 [])) p ((s.useSlot m (p.2.getD 0 [])).slotOff m (p.2.getD 0 []))) s1).finish
    let atom := fun (acq : Bool) => each fun s p o =>
      (s.newProd p.1 .await (prodRegs a.o r) true).2.issueStore p.1 (pl p) (4 * r) 0 (.atom op w64 (BitVec.ofNat 64 (natOfWords ((p.2.getD 1 []).take r)))
        (BitVec.ofNat 64 (natOfWords ((p.2.getD 1 []).drop r))) (s.newProd p.1 .await (prodRegs a.o r) true).1) acq o
    let met := s1.unfenced (scopeOf sc) (rows.map (·.1)) = []
    (IssuesWith s g { srcs := [idxSrc m, { pos := 3, src := a, n, al := n }] } (s.memOwn m k rWRITE) s0 s1 rows →
      (met → exec (.stRel g size sc a m) s = exec (.st g size a m) s) ∧
      (met → ok k rWRITE → exec (.stRel g size sc a m) s = each fun s p o =>
        s.issueStore p.1 (pl p) k (natOfWords (p.2.getD 1 []) % 2 ^ (8 * k)) .data false o) ∧
      (¬met → exec (.stRel g size sc a m) s = wait (scopeOf sc))) ∧
    (IssuesWith s g { srcs := [idxSrc m, { pos := 3, src := a, n := atomRegs op w64, al := atomRegs op w64 }] } (s.memOwn m (4 * r) rATOM) s0 s1 rows →
      (met → exec (.atomRel g sc op w64 a m) s = exec (.atom g op w64 a m) s ∧
        exec (.atomAr g sc op w64 a m) s = exec (.atomAcq g op w64 a m) s) ∧
      (met → ok (4 * r) rATOM → exec (.atomRel g sc op w64 a m) s = atom false ∧ exec (.atomAr g sc op w64 a m) s = atom true) ∧
      (¬met → exec (.atomRel g sc op w64 a m) s = wait (scopeOf sc) ∧ exec (.atomAr g sc op w64 a m) s = wait (scopeOf sc))) ∧
    (Issues s g {} s0 s1 rows →
      (s1.unfenced (fenceScope fs) (rows.map (·.1)) = [] → exec (.fence g fs) s = .next s1.finish) ∧
      (s1.unfenced (fenceScope fs) (rows.map (·.1)) ≠ [] → exec (.fence g fs) s = wait (fenceScope fs)))) ∧
  (∀ (g : Guard) (sc : BitVec 2) (s s0 s1 : State) (rows : List (Nat × List (List Word))),
    let c := s1.cur.core
    let w := s1.wave c s1.cur.turn
    let park := fun (ss : Option Scope) => Host.Outcome.next (s1.park (rowMask rows) .parkedBarrier fun _ t =>
      { t with arrived := some { key := s1.barKey c (scopeOf sc), gen := BitVec.ofNat 16 (getK 0 s1.bars (s1.barKey c (scopeOf sc))), ss,
                                 ops := t.batches.flatMap fun b => b.2.queue.flatMap (·.ops) } })
    Issues s g {} s0 s1 rows →
    (w.armed ≠ 0 → exec (.bar g sc) s = .next (s1.takeFaults (rowMask rows) 0x0C (w.satf.setWidth 32)).finish ∧
      exec (.ss g sc) s = .next (s1.takeFaults (rowMask rows) 0x0C (w.satf.setWidth 32)).finish) ∧
    (w.armed = 0 → exec (.bar g sc) s = park none ∧
      exec (.ss g sc) s = park (some (if scopeOf sc = .cohort then .cohort else .domain))))

/-- R341: `spawn`, `mset`, `mget`, `mdrop` and `mfind` complete, under conditions on the state and the operands alone. `spawn` answers all ones if its image is malformed or its queue does not serve the cluster's partition; with room in the
core's spawn unit its image enters the unit, to fill D when its record is written; without room the path waits.
R342 to R344: the manifest's instructions: an insertion (all ones for a malformed image), the read of an entry, the removal of a
tile's entries, which answers how many it clears, and the search from an entry on. -/
def Obligations.TaskResults : Prop :=
  (∀ (g : Guard) (d : Operand) (a : Src) (s s0 s1 : State) (rows : List (Nat × List (List Word))),
    Issues s g { srcs := [{ pos := 0, src := a, n := 16, al := 16 }], dst := some { o := d } } s0 s1 rows →
    let c := s1.cur.core
    let ws := (firstRow rows).getD 0 []
    let q := s1.qdesc (clusterOf c) (nTQ (wsBits ws 1 0) 0)
    let bad := wsBits ws 15 2 ≠ 0 ∨ q.en = false ∨ q.part ≠ (s1.cl (clusterOf c)).part
    (bad → exec (.spawn g d a) s = .next (s1.writeDst { o := d } (rows.map fun p => (p.1, [0xFFFFFFFF]))).finish) ∧
    (¬bad → 8 ≤ (s1.core c).spawns.length → exec (.spawn g d a) s = .next (s0.block .blockedQueue .spawnRoom)) ∧
    (¬bad → (s1.core c).spawns.length < 8 →
      ∃ u e, exec (.spawn g d a) s = .next (State.modCore u c fun k => { k with spawns := k.spawns ++ [e] }).finish ∧
        u = rows.foldl (fun s p => (s.newProd p.1 .await (prodRegs d 1)).2) s1 ∧
        SpawnEnt.words e = ws ∧ e.turn = s1.cur.turn ∧ e.lanes = rowMask rows ∧ e.prods.length = rows.length ∧ e.claimed = none)) ∧
  (∀ (g : Guard) (d : Operand) (a b : Src) (s s0 s1 : State) (rows : List (Nat × List (List Word))),
    let cl := clusterOf s1.cur.core
    let vs := firstRow rows
    let give := fun (s : State) (v : Word) => Host.Outcome.next (s.writeDst { o := d } (rows.map fun p => (p.1, [v]))).finish
    (Issues s g { srcs := [{ pos := 0, src := a, n := 4, al := 4 }], dst := some { o := d } } s0 s1 rows →
      let ws := vs.getD 0 []
      let e := BitVec.ofNat 128 (natOfWords ws)
      let ins := s1.manifestInsert cl (mfTile e) (bitsN e.toNat 39 32) (mfHolder e) (mfOffset e) (mfBytes e) true
      (msetBad ws = true → exec (.mset g d a) s = give s1 0xFFFFFFFF) ∧
      (msetBad ws = false → exec (.mset g d a) s = give ins.2 (BitVec.ofNat 32 ins.1))) ∧
    (Issues s g { srcs := [{ pos := 0, src := a }], dst := some { o := d, n := 4, al := 4 } } s0 s1 rows →
      exec (.mget g d a) s = .next (laneValue s1 { o := d, n := 4, al := 4 } rows fun _ vs =>
        wordsOf 4 ((s1.cl cl).mf (wBits (wordAt vs 0 0) 11 0)).toNat)) ∧
    (Issues s g { srcs := [{ pos := 0, src := a }, { pos := 1, src := b }], dst := some { o := d } } s0 s1 rows →
      let tile := wBits (wordAt vs 0 0) 23 0
      let hit := fun (e : BitVec 128) => tile != 0 && mfTile e == tile && (wBits (wordAt vs 1 0) 7 0 == 0xFF ||
        (decide (wBits (wordAt vs 1 0) 7 0 ≤ 128) && mfHolder e == wBits (wordAt vs 1 0) 7 0))
      exec (.mdrop g d a b) s = give (s1.modCl cl fun k => k.clearMf hit)
        (BitVec.ofNat 32 ((s1.cl cl).manifest.filter fun p => mfValid p.2 && hit p.2).length) ∧
      exec (.mfind g d a b) s = .next (laneValue s1 { o := d } rows fun _ vs =>
        match (mfWays (wBits (wordAt vs 0 0) 23 0)).find? fun n => decide (wBits (wordAt vs 1 0) 11 0 ≤ n) &&
          mfValid ((s1.cl cl).mf n) && mfTile ((s1.cl cl).mf n) == wBits (wordAt vs 0 0) 23 0 with
        | some n => [BitVec.ofNat 32 n]
        | none => [0xFFFFFFFF])))

/-- R429, R447 to R449, R454, R455, R494, R495: `winfo`, `nwait`, `nctr`, `nset`, `msend`, `mrecv`, `mmiow` and `mmior` complete, under conditions on the
state and the operands alone: the counters of the package that a program reads or waits on, the mail between shards, and the
serai's accesses to the drives' registers: a misaligned one and one that is not the mode's to make fault, and one that no endpoint answers
reads all ones and raises an event. Whether an endpoint answers, and what it reads, come from outside and are open (LOG 7). -/
def Obligations.CounterAndMailResults : Prop :=
  ∀ (g : Guard) (nb : Bool) (d : Operand) (a b : Src) (s s0 s1 : State) (rows : List (Nat × List (List Word))),
    let cl := s1.curCl
    let ctr := fun (v : Word) => s1.cr cl (nNCTR (wBits v 7 0))
    let vs := firstRow rows
    let give := fun (v : Word) => Host.Outcome.next (s1.writeDst { o := d } [(0, [v])]).finish
    (Issues s g { srcs := [{ pos := 0, src := a }], dst := some { o := d } } s0 s1 rows →
      exec (.winfo g d a) s = .next (laneValue s1 { o := d } rows fun _ vs =>
        let k := (wordAt vs 0 0).toNat % 8
        [BitVec.ofNat 32 (dwBits (s1.cr 16 (nWSTAT k)) 6 0 + (List.range 4).foldl (fun (v : Nat) c =>
          if (s1.wctx k c).2 && (s1.wctx k c).1 == (s1.partOf s1.cur.core).toNat then v + 2 ^ (8 + c) else v) 0)])) ∧
    (Issues s g { srcs := [{ pos := 0, src := a }, { pos := 1, src := b }], dst := some { o := d } } s0 s1 rows →
      ((∀ p ∈ rows, nctrMet (ctr (wordAt p.2 0 0)) ((wordAt p.2 1 0).setWidth 64) = true) →
        exec (.nwait g d a b) s = .next (laneValue s1 { o := d } rows fun _ vs => [hiOf (ctr (wordAt vs 0 0))])) ∧
      let unmet := rows.filter fun p => !nctrMet (ctr (wordAt p.2 0 0)) ((wordAt p.2 1 0).setWidth 64)
      (unmet ≠ [] → exec (.nwait g d a b) s =
        .next (s0.block .blockedQueue (.nctr (unmet.map fun p => (p.1, wBits (wordAt p.2 0 0) 7 0, (wordAt p.2 1 0).setWidth 64)))))) ∧
    (Issues s g { srcs := [{ pos := 0, src := a }], dst := some { o := d, n := 2, al := 2 } } s0 s1 rows →
      exec (.nctr g d a) s = .next (laneValue s1 { o := d, n := 2, al := 2 } rows fun _ vs => [loOf (ctr (wordAt vs 0 0)), hiOf (ctr (wordAt vs 0 0))])) ∧
    (Issues s g { srcs := [{ pos := 0, src := a }, { pos := 1, src := b, n := 2, al := 2 }] } s0 s1 rows →
      exec (.nset g a b) s = .next (s1.setCr cl (nNCTR (wBits (wordAt vs 0 0) 7 0)) (pairAt vs 1)).finish) ∧
    (isSerai s.cur.core = true →
      let me := clusterOf s1.cur.core
      (Issues s g { srcs := [{ pos := 0, src := a, n := 16, al := 16 }, { pos := 1, src := b }], dst := some { o := d } } s0 s1 rows →
        s1.fenceMet .domain s1.cur.core s1.cur.turn 0 = true →
        let r := (wordAt vs 1 0).toNat
        (s1.accepts r = false → exec (.msend g nb d a b) s = give 2) ∧
        (s1.accepts r = true → wBits (wordAt vs 0 0) 31 28 ≠ 0 → exec (.msend g nb d a b) s = give 3) ∧
        (s1.accepts r = true → wBits (wordAt vs 0 0) 31 28 = 0 → (s1.cl r).mailUsed me < 16 →
          exec (.msend g nb d a b) s = .next ((s1.putMail me r (vs.getD 0 [])).writeDst { o := d } [(0, [0])]).finish) ∧
        (s1.accepts r = true → wBits (wordAt vs 0 0) 31 28 = 0 → 16 ≤ (s1.cl r).mailUsed me →
          exec (.msend g nb d a b) s = if nb then give 1 else .next (s0.block .blockedQueue (.mailRoom r me)))) ∧
      (Issues s g { srcs := [{ pos := 0, src := a }], dst := some { o := d, n := 16, al := 16 } } s0 s1 rows →
        (∀ f, (s1.cl me).nextSender (wBits (wordAt vs 0 0) 15 0) = some f →
          let slot := s1.mailSlot me f (getK 0 (s1.cl me).mailHead f)
          s1.regionHeld slot = false →
          (s1.badSram.contains (slot / 128) = false → exec (.mrecv g nb d a) s =
            .next ((s1.dropMail me f).writeDst { o := d, n := 16 } [(0, (s1.headMail me f).getD [])]).finish) ∧
          (s1.badSram.contains (slot / 128) = true → exec (.mrecv g nb d a) s =
            .next (s0.takeFault 0 8 32 (BitVec.ofNat 64 (slot % 2 ^ 20))).finish)) ∧
        ((s1.cl me).nextSender (wBits (wordAt vs 0 0) 15 0) = none → exec (.mrecv g nb d a) s =
          if nb then .next (s1.writeDst { o := d } [(0, [0xFFFFFFFF])]).finish else .next (s0.block .blockedQueue (.mail (wBits (wordAt vs 0 0) 15 0))))) ∧
      (∀ w : Bool, Issues s g (if w then { srcs := [{ pos := 0, src := a, n := 2, al := 2 }, { pos := 1, src := b }] }
          else { srcs := [{ pos := 0, src := a, n := 2, al := 2 }], dst := some { o := d } }) s0 s1 rows →
        let inst := if w then Instr.mmiow g a b else Instr.mmior g d a
        let p := pairAt vs 0
        let off := dwBits p 31 0
        (off % 4 ≠ 0 → exec inst s = .next (s0.takeFault 0 4 1 (BitVec.ofNat 64 off)).finish) ∧
        (off % 4 = 0 → off < 0x1000 → s1.isMonitor me s1.cur.turn = false → exec inst s = .next s0.privilegeFault) ∧
        (off % 4 = 0 → 0x1000 ≤ off ∨ s1.isMonitor me s1.cur.turn = true →
          (w = true → s1.storesMet s1.cur.core s1.cur.turn 0 false = false → exec inst s = .next (s0.block .blockedQueue (.stores false))) ∧
          ((w = true → s1.storesMet s1.cur.core s1.cur.turn 0 false = true) →
            let there := dwBits p 63 33 = 0 ∧ s1.drives.getLsbD (dwBits p 32 32) = true
            let asked := if there then { s1 with fresh := s1.fresh + 1 } else s1
            exec inst s = .next (if there ∧ Config.freeBit s1.fresh = true then
                (if w then asked.emit (.mmio (dwBits p 32 32) off (some (wordAt vs 1 0)))
                 else (({ asked with fresh := asked.fresh + 1 } : State).emit (.mmio (dwBits p 32 32) off none)).giveD d
                  [BitVec.ofNat 32 (Config.freeNat asked.fresh)]).finish
              else (if w then asked.raiseOpen me 6 2 else (asked.raiseOpen me 6 2).giveD d [0xFFFFFFFF]).finish)))))
/-- R351 to R354: every arithmetic, branch, loop and read instruction of a tariff completes, under conditions on the state and the operands
alone. In the decision in progress in the unit's cluster an instruction writes Td with the value the
table gives, wrapped to 32 bits, comparing unsigned and shifting to zero from 32 on; the index moves to the next instruction and
the cycle is counted. The instruction is not the tariff's last, or the budget has ended.
R355 to R357: the branches, the loop over the candidates and the reads of the snapshot. A taken branch adds its distance to the
index; `each` starts a loop at 0, or leaves it when there is no candidate; `next` counts and goes back while one is left. -/
def Obligations.TariffInstructions : Prop :=
  (∀ (td ta tb : BitVec 4) (i : BitVec 14) (i22 : BitVec 22) (i16 : BitVec 16) (s : State) (d : Decision),
    let cl := s.curCl
    let a := d.r ta
    let b := d.r tb
    let W := fun (v : Word) => Host.Outcome.next (s.modCl cl fun k =>
      { k with decision := some { d with t := d.t.set td.toNat v, idx := d.idx + 1, last := d.idx, cycles := d.cycles + 1 } })
    (s.cl cl).decision = some d → d.idx + 1 < (s.cl cl).alen ∨ 64 ≤ d.cycles + 1 →
    exec (.tAdd td ta tb) s = W (BitVec.ofNat 32 (a.toNat + b.toNat)) ∧
    exec (.tSub td ta tb) s = W (BitVec.ofInt 32 (a.toNat - b.toNat : Int)) ∧
    exec (.tMul td ta tb) s = W (BitVec.ofNat 32 (a.toNat * b.toNat)) ∧
    exec (.tAnd td ta tb) s = W (a &&& b) ∧ exec (.tOr td ta tb) s = W (a ||| b) ∧ exec (.tXor td ta tb) s = W (a ^^^ b) ∧
    exec (.tShl td ta tb) s = W (BitVec.ofNat 32 (a.toNat * 2 ^ b.toNat)) ∧
    exec (.tShr td ta tb) s = W (BitVec.ofNat 32 (a.toNat / 2 ^ b.toNat)) ∧
    exec (.tMin td ta tb) s = W (BitVec.ofNat 32 (min a.toNat b.toNat)) ∧
    exec (.tMax td ta tb) s = W (BitVec.ofNat 32 (max a.toNat b.toNat)) ∧
    exec (.tSlt td ta tb) s = W (if a.toNat < b.toNat then 1 else 0) ∧
    exec (.tAddi td ta i) s = W (BitVec.ofInt 32 (a.toNat + i.toInt)) ∧
    exec (.tAndi td ta i) s = W (a &&& BitVec.ofNat 32 i.toNat) ∧
    exec (.tShri td ta i) s = W (BitVec.ofNat 32 (a.toNat / 2 ^ i.toNat)) ∧
    exec (.tMovi td i22) s = W (BitVec.ofInt 32 i22.toInt) ∧
    exec (.tMovhi td i16) s = W (BitVec.ofNat 32 (i16.toNat * 2 ^ 16 + (d.r td).toNat % 2 ^ 16))) ∧
  (∀ (td ta tb : BitVec 4) (i : BitVec 14) (sel : BitVec 10) (f : BitVec 3) (s : State) (d : Decision),
    let cl := s.curCl
    let a := d.r ta
    let b := d.r tb
    let dest := fun (x : List Word × Nat) => Host.Outcome.next (s.modCl cl fun k =>
      { k with decision := some { d with t := x.1, idx := x.2, last := d.idx, cycles := d.cycles + 1 } })
    let fits := fun (x : List Word × Nat) => x.2 < (s.cl cl).alen ∨ 64 ≤ d.cycles + 1
    let br := fun (c : Bool) => (d.t, if c then d.idx + i.toNat else d.idx + 1)
    let put := fun (v : Word) => (d.t.set td.toNat v, d.idx + 1)
    let n := d.r td + 1
    (s.cl cl).decision = some d →
    (fits (br (a == b)) → exec (.tBeq ta tb i) s = dest (br (a == b))) ∧
    (fits (br (a != b)) → exec (.tBne ta tb i) s = dest (br (a != b))) ∧
    (fits (br (decide (a.toNat < b.toNat))) → exec (.tBlt ta tb i) s = dest (br (decide (a.toNat < b.toNat)))) ∧
    (fits (br (decide (b.toNat ≤ a.toNat))) → exec (.tBge ta tb i) s = dest (br (decide (b.toNat ≤ a.toNat)))) ∧
    (fits (br true) → exec (.tBr i) s = dest (br true)) ∧
    (fits (put 0) → exec (.vget td sel) s = dest (put (getK 0 d.scal sel.toNat)) ∧
      (sel = 0x40 → exec (.vgetIndexed td ta sel) s = dest (put (d.depth.getD a.toNat 0))) ∧
      (sel = 0x48 → exec (.vgetIndexed td ta sel) s = dest (put (d.age.getD a.toNat 0))) ∧
      exec (.cget td ta f) s = dest (put ((d.cands.getD a.toNat []).getD f.toNat 0))) ∧
    (d.cands = [] → fits (put 0 |>.1, d.idx + i.toNat) → exec (.each td i) s = dest (d.t.set td.toNat 0, d.idx + i.toNat)) ∧
    (d.cands ≠ [] → fits (put 0) → exec (.each td i) s = dest (put 0)) ∧
    (n.toNat < d.cands.length → fits (put n |>.1, d.idx - i.toNat) → exec (.next td i) s = dest (d.t.set td.toNat n, d.idx - i.toNat)) ∧
    (d.cands.length ≤ n.toNat → fits (put n) → exec (.next td i) s = dest (put n)))

/-- R359 to R362: `emitDisp`, `emitDefer`, `emitPreempt`, `emitNone`, `emitKill`, `emitPark`, `emitRetry` and `emitFallback` complete, under conditions on
the state and the operands alone: the decisions a tariff emits, each on the event that accepts it: the wave starts on a core, waits, another is asked
for its place, the faulted wave ends, its records are posted or its lanes issue again; the decision ends, is counted and is
logged. An operand beyond the candidates, or an event that does not accept the decision, is a program error (R363), and so is a
retry of a fault that is not retryable. -/
def Obligations.TariffDecisions : Prop :=
  ∀ (ta : BitVec 4) (s : State) (d0 : Decision),
    let cl := s.curCl
    let d : Decision := { d0 with last := d0.idx, cycles := d0.cycles + 1 }
    let n := (d.r ta).toNat
    let c := d.cands.getD n []
    let core := (c.getD 0 0).toNat
    let done := fun (u : State) (kind : Nat) (oper : Word) => Host.Outcome.next (u.endDecision cl d true kind false false false oper)
    let err := fun (cause : Nat) => Host.Outcome.next (s.tariffError cl d cause d.idx)
    (s.cl cl).decision = some d0 →
    (d.evkind = 0 →
      (∀ g, n < d.cands.length → (s.cl cl).gather = some g → (s.core core).canStart (tQuota (g.recs.headD [])) = true →
        exec (.emitDisp ta) s = done ((s.startWave core g.recs).modCl cl fun k => { k with gather := none, preTick := none }) 0 (BitVec.ofNat 32 core)) ∧
      (d.cands.length ≤ n → exec (.emitDisp ta) s = err 2) ∧
      (∀ g, (s.cl cl).gather = some g →
        exec .emitDefer s = done (s.modCl cl fun k =>
          { k with gather := some { g with waiting := true }, preTick := some (k.preTick.getD s.lease) }) 1 0xFFFFFFFF)) ∧
    (d.evkind = 1 →
      let victim := BitVec.ofNat 32 (core + (c.getD 1 0).toNat * 2 ^ 11)
      (n < d.cands.length → exec (.emitPreempt ta) s = done (s.raise cl 2 1 [victim,
        BitVec.ofNat 32 ((getK 0 d.scal 0x10).toNat + (getK 0 d.scal 0x11).toNat * 256), BitVec.ofNat 32 d.gen]) 2 victim) ∧
      (d.cands.length ≤ n → exec (.emitPreempt ta) s = err 2) ∧
      ∃ v, exec .emitNone s = done s.openNat.2 3 v) ∧
    (∀ e, d.evkind = 2 → d.fault = some e →
      exec .emitKill s = done (s.killFault cl e d.gen) 4 e.lanes ∧
      exec .emitPark s = done (s.parkFault e) 5 e.lanes ∧
      (retryable e.code e.finfo = true → exec .emitRetry s = done (s.retryFault e) 6 e.lanes) ∧
      (retryable e.code e.finfo = false → exec .emitRetry s = err 3)) ∧
    (d.evkind ≠ 0 → exec (.emitDisp ta) s = err 1 ∧ exec .emitDefer s = err 1) ∧
    (d.evkind ≠ 1 → exec (.emitPreempt ta) s = err 1 ∧ exec .emitNone s = err 1) ∧
    (d.evkind ≠ 2 → exec .emitKill s = err 1 ∧ exec .emitPark s = err 1 ∧ exec .emitRetry s = err 1) ∧
    exec .emitFallback s = .next (s.defaultDecision cl d true false false)
/-- R20, R22, R26, R28, R45, R175, R184, R188, R209: the events of a core complete, under conditions on the state and the
operands alone. A producer's words fill the registers that still wait for it; a
blocked path whose condition holds is ready again; a rotation begins when the quantum is over and ends when its paths have had
their turn; complete reconvergence entries release their lanes; a core without a ready thread stops its clock; a code line, for
which a full cache gives up a line of its own choice (LOG 11), arrives; and so do the first elements that a walker lacks, each as an
ordinary load finds it, once nothing holds a fetch back. -/
def Obligations.CoreEvents : Prop :=
  ∀ (s : State) (c t l id w : Nat) (line : DWord) (bs : List Byte),
    let k := s.core c
    let wv := s.wave c t
    let th := s.thread c t l
    let n := line.toNat
    let pc : DWord := BitVec.ofNat 64 (n * 64)
    let words := fun (bs : List Byte) => (List.range 8).map fun i => (BitVec.ofNat 64 (natOfBytes ((bs.drop (8 * i)).take 8)) : DWord)
    let put := fun (s : State) (x : ILine) => Host.Outcome.next (s.installLine c n x)
    (∀ p ws, findK s.prods id = some p → p.src = .vals ws →
      let u : State := { s with prods := delK s.prods id }
      exec (.producerComplete id bs) s =
        .next (if (s.wave p.core p.turn).uid = p.uid then u.modThread p.core p.turn p.lane fun x => x.fill id p.dsts ws else u)) ∧
    (wv.isBlocked l = true → s.waitMet c t l th.wait = true →
      exec (.blockedReady c t l) s = .next (s.modWave c t fun w => { w with threads := w.threads.map fun p =>
        if p.2.status = th.status ∧ p.2.wait = th.wait ∧ p.2.pc = th.pc then (p.1, { p.2 with status := .ready }) else p })) ∧
    (wv.rot = false → k.cycle.waiting t ≠ [] → wv.quant ≤ wv.qcnt →
      exec (.rotationBegin c t) s = .next (s.modCore c fun x => x.modWave t fun w => w.beginRot (k.cycle.waiting t) 0)) ∧
    (wv.rot = true → (∀ q ∈ wv.paths, q.2 &&& wv.rotMask = 0) ∨ wv.rotLeft = 0 →
      exec (.rotationEnd c t) s = .next (s.modCore c fun x => x.modWave t fun w => { w with rot := false, qcnt := 0 })) ∧
    exec (.reconvergenceRelease c t) s = .next (s.modCore c fun x => x.modWave t Wave.release) ∧
    (k.cycle.phase = 0 → (∀ w ∈ k.waves, ∀ x ∈ w.2.threads, x.2.status ≠ .ready) →
      exec (.coreClockGate c) s = .next (s.modCore c fun x => { x with gated := true })) ∧
    (n ∈ k.fills → 2 ^ 60 ≤ n → seraiAddr (clusterOf c) ((n - 2 ^ 60) * 64) / 128 ∉ s.badSram →
      exec (.icacheLineFill c line) s = put s { la2 := false, words := words (s.rdSram (seraiAddr (clusterOf c) ((n - 2 ^ 60) * 64)) 64) }) ∧
    (∀ d e, n ∈ k.fills → n < 2 ^ 60 → s.checkBuf (clusterOf c) [] (s.partOf c) (some (caBti pc)) (caOff pc) 8 rEXEC = .ok (.hbm d) e →
      s.heldPlace (.hbm d) = false → s.homeDown (.hbm d) 64 = none →
      exec (.icacheLineFill c line) s = put ((s.touchPlace (.hbm d) (if isSerai c then none else some c)).useTlb (clusterOf c) (caBti pc) (caOff pc / 65536))
        { la2 := eLa2 e, words := words (s.rdHome (.hbm d) 64) }) ∧
    ((s.openNat.2.core c).icache.length < icacheLines → ∀ x, (s.installLine c n x).core c =
      { k with fills := k.fills.filter (· != n), icache := insK (k.icache.filter fun y => y.1 != n) n x }) ∧
    ((wv.walker w).bound = true →
      (s.walkerNext c t (wv.walker w) = none → exec (.walkerFetchArrive c t w) s = .next s) ∧
      (∀ i ps, s.walkerNext c t (wv.walker w) = some (i, ps) →
        (ps.any fun x => (s.thread c t x.1).status != .exited && s.fetchHeld c t x.1 (wv.walker w) x.2) = false →
        let r := ps.foldl (fun (a : Sparse DWord × State) x =>
          let v := a.2.walkerLoad (clusterOf c) x.2 (2 ^ (wv.walker w).esize)
          (insK a.1 x.1 (BitVec.ofNat 64 (natOfBytes v.1)), v.2)) ([], s)
        exec (.walkerFetchArrive c t w) s = .next (r.2.modWave c t fun wv => wv.modWalker w fun x => x.put i r.1)))

/-- R236 to R247, R252: the events of the lathe complete, under conditions on the state and the
operands alone. It accepts the oldest command of its queue while it has room; a step of the oldest
command adds its products to the bank, and a step whose accumulator is read with an array error, or that mismatches twice, poisons it;
after its last step the command lowers the pending counts, gives its flags to the wave it came from and completes; and the rows of
`ast` are written with the tag of plain data, and complete once visible. -/
def Obligations.LatheEvents : Prop :=
  ∀ (s : State) (c id : Nat),
    let k := s.core c
    (∀ ws t uid op ra rb rest, k.queue 32 = .cmd ws t uid op ra rb :: rest → k.lathe.length < 4 →
      exec (.latheCommandAccept c) s = .next (s.modCore c fun k =>
        { k.setQueue 32 rest with lathe := k.lathe ++ [{ turn := t, uid, op, words := ws, regsA := ra, regsB := rb }] })) ∧
    (∀ r rest, k.lathe = r :: rest → r.step < (LatheCmd.ofWords r.words).steps →
      let cmd := LatheCmd.ofWords r.words
      let b := (cmd.at_ r.step).1
      let mt := (cmd.at_ r.step).2.1
      let g := (cmd.at_ r.step).2.2.1
      let ch := (cmd.at_ r.step).2.2.2
      let bank := k.bank b
      let skip := fun (s : State) => Host.Outcome.next (s.modCore c fun k => k.setRun { r with step := r.step + 1 })
      (bank.poison = true → ∀ e, exec (.latheStep c e) s = skip s) ∧
      (bank.poison = false → (ch ≠ 0 ∨ cmd.acc = true) → exec (.latheStep c .array) s = skip (s.poisonBank c b true)) ∧
      (bank.poison = false → ¬((ch ≠ 0 ∨ cmd.acc = true) ∧ bank.bad = true) →
        let once := (s.crCount (clusterOf c) (nLERR (coreIndex c)) 11 0 1).latheEvent c 0 b
        let twice := (once.crCount (clusterOf c) (nLERR (coreIndex c)) 11 0 1).latheEvent c 0 b
        let add := fun (s : State) => Host.Outcome.next (s.modCore c fun k => (k.modBank b fun x =>
            { x with data := (s.latheProduct r cmd bank mt g ch).1, bad := x.bad && !(ch = 0 && !cmd.acc && decide (2 * g + 1 < cmd.nh)) }).setRun
              { r with step := r.step + 1, flags := r.flags ||| (s.latheProduct r cmd bank mt g ch).2 })
        exec (.latheStep c .none) s = add s ∧ exec (.latheStep c .mismatchOnce) s = add once ∧
        exec (.latheStep c .mismatchTwice) s = skip (twice.poisonBank c b false))) ∧
    (∀ r rest, k.lathe = r :: rest → (LatheCmd.ofWords r.words).steps ≤ r.step →
      let u := s.modCore c fun k => { (LatheCmd.ofWords r.words).banks.foldl Core.lowerPend k with lathe := rest }
      exec (.latheCommandComplete c) s =
        .next ((u.opFlags c r.uid r.flags).completeOp c r.op none)) ∧
    (∀ a, (k.asts.find? fun a => a.op == id) = some a →
      (a.vis = none → exec (.astWriteComplete c id) s = .next ((a.rows.foldl (fun s r =>
          (List.range (r.2.length / 64)).foldl (fun s i => s.setTag (.sram (r.1 + 64 * i)) 0x7F01) (s.wrSram r.1 r.2)) s).modCore c fun k =>
            { k with asts := k.asts.flatMap fun x => if x.op == id then
                [{ x with vis := some (a.rows.foldl (fun v r => Lease.later v (s.visSpan (.sram r.1) r.2.length)) s.lease) }] else [x] })) ∧
      (∀ v, a.vis = some v → Lease.before v s.lease = true →
        exec (.astWriteComplete c id) s = .next (((s.opFlags c a.uid a.fl).completeOp c id none).modCore c fun k =>
          { k with asts := k.asts.flatMap fun x => if x.op == id then [] else [x] })))
/-- R282 to R292: the copy engine's events complete, under conditions on the state and the
operands alone. The issue unit moves a queued command to a free entry, claims a place in the command's queue
and writes its slot, or fails the entry; a queue's head is taken with its checks while an engine is free; a packet whose accesses are not held back runs, by its
operation, and is done; and it completes when what it wrote is visible, adding to the counter it named. -/
def Obligations.CopyEvents : Prop :=
  ∀ (s : State) (c cl q id : Nat),
    let k := s.core c
    let me := clusterOf c
    (∀ ws t uid op ra rb rest e, k.queue 33 = .cmd ws t uid op ra rb :: rest → k.freeCopy = some e →
      exec (.copyIssueUnitServe c) s = .next ((s.modCore c fun k => k.setQueue 33 rest).fillCopy c e op ws)) ∧
    (k.queue 33 = [] → ∀ e t, firstTrk (·.order) (fun t => decide (t.stage < 2)) k.copyTrk = some (e, t) →
      let put := fun (s : State) (t : CopyTrk) => Host.Outcome.next (s.modCore c fun k => { k with copyTrk := insK k.copyTrk e t })
      let d := s.qdesc me (nCQ (wsBits t.words 5 0) 0)
      (t.stage = 0 → wsBits t.words 15 6 ≠ 0 → exec (.copyIssueUnitServe c) s = .next ((s.copyReject me (wsBits t.words 5 0) 1).copyFail c e t 1)) ∧
      (t.stage = 0 → wsBits t.words 15 6 = 0 → d.en = false ∨ d.part ≠ (s.cl me).part →
        exec (.copyIssueUnitServe c) s = .next ((s.copyReject me (wsBits t.words 5 0) 6).copyFail c e t 6)) ∧
      (∀ p u w v, t.stage = 0 → wsBits t.words 15 6 = 0 → d.en = true → d.part = (s.cl me).part →
        s.queueMem me d = (.ok p, u) → u.queueClaim me (nCQ (wsBits t.words 5 0) 0) = (.ok w, v) →
        exec (.copyIssueUnitServe c) s = put v { t with stage := 1, w, q := wsBits t.words 5 0 }) ∧
      (∀ u, t.stage ≠ 0 → s.queuePut me (nCQ t.q 0) t.w (copySlot c e t.words) = (.ok (), u) →
        exec (.copyIssueUnitServe c) s = .next ((u.modCore c fun k => { k with copyTrk := insK k.copyTrk e { t with stage := 2 } }).modCl me fun k =>
          { k with cpySlots := k.cpySlots ++ [(t.q, noSeq (copySlot c e t.words))] }))) ∧
    (∀ ws u, (s.copies.filter fun p => p.2.cl == cl).length < copyEngines → s.queueHead cl (nCQ q 0) = (some ws, u) →
      let part := (u.qdesc cl (nCQ q 0)).part
      let add := fun (s : State) (o : CopyOp) =>
        let v := (s.queueAdvance cl (nCQ q 0)).bump
        ({ v.2 with copies := insK v.2.copies v.1 o } : State).modCl cl fun k =>
          { k with rr := (q + 1) % 64, cpySlots := k.cpySlots.erase (q, noSeq ws) }
      (∀ src lease dst ctr v, u.packetCheck cl q part ws = (.ok (src, lease, dst), ctr, v) →
        exec (.copyQueueSlotTake cl q) s = .next (add v { cl, q, words := ws, src, dst, lease, ctr, part })) ∧
      (∀ f ctr v, u.packetCheck cl q part ws = (.bad f, ctr, v) →
        exec (.copyQueueSlotTake cl q) s = .next ((add v { cl, q, words := ws, fail := some f, done := true, ctr, part }).copyReject cl q f))) ∧
    (∀ o, findK s.copies id = some o → o.done = false → s.packetHeld o = false → s.packetCause o = none →
      let done := fun (r : Option Lease × State) => Host.Outcome.next
        ({ r.2 with copies := insK r.2.copies id { o with done := true, fail := none, vis := r.1 } } : State)
      (pOp o.words = 0 → exec (.copyPacketCopy id) s = done (copyRows s o false)) ∧
      (pOp o.words = 1 → exec (.copyPacketFill id) s = done (fillRows s o false)) ∧
      (pOp o.words = 2 → exec (.copyPacketWarm id) s = done (warmLines s o false))) ∧
    (∀ o, findK s.copies id = some o → o.done = true → (∀ v, o.vis = some v → Lease.before v s.lease = true) →
      let u := (if o.fail.isNone then s.copyRecord o else s).tokenComplete o
      let fin : State := { u with copies := delK u.copies id }
      (o.ctr = [] → exec (.copyPacketComplete id) s = .next fin) ∧
      (∀ p n rest, o.ctr = (p, n) :: rest → s.eHeld p = false → s.homeDown p 8 = none →
        exec (.copyPacketComplete id) s = .next ((fin.eAdd64 p (if o.fail.isNone then 1 else 2 ^ 32)).2)))

/-- R293 to R300: the events of the depot, and the records and events below, complete, under conditions on the state and the
operands alone. A filling slot takes the sender's bytes and tags and is FULL, and the sender's operation
completes; a drain writes the tile into its core's slice, and completes when that is visible, with cause 3 for a bad place and cause 2 for a lost
tile; a slot that is released fails its drains, those that have written once that is visible, and its sender if it was filling.
R304, R307, R314, R320 to R324, R348, R469: the records and events that the serai reads, and the end of a save and a restore. A record
waits for room in its ring and is then written with its sequence number; the oldest of the held and restored records moves to the
stash, and from there to a slot; a save whose writes are visible frees its turns and ends; a restore whose area reads well loads the wave, and
one whose area, quota or banks do not fit ends with the status of that. -/
def Obligations.DepotAndSeraiEvents : Prop :=
  (∀ (s : State) (cl slot id : Nat),
    let x := (s.cl cl).slot slot
    let sa := sliceAddr (cl * 128 + x.sender) x.soff
    (x.state = 1 → exec (.depotSlotFull cl slot) s = .next ((s.modSlot cl slot fun x => Slot.settle { x with
        state := 2, data := s.rdSram sa (64 * x.nblk), tags := (List.range ((s.cl cl).slot slot).nblk).map fun i => s.tagAt (.sram (sa + 64 * i)) }).completeOp
          (cl * 128 + x.sender) x.op none) ∧
      exec (.depotSlotLost cl slot) s = .next (s.modSlot cl slot fun x => { x with lost := true })) ∧
    (∀ d, findK s.drains id = some d → d.cl = cl → ((s.cl cl).slot d.slot).state = 2 →
      let y := (s.cl cl).slot d.slot
      let a := sliceAddr d.core d.off
      (d.bad = true → d.vis = none → exec (.mcdrainWritesDone cl id) s = .next (s.endDrain id d (some 3))) ∧
      (d.bad = false → y.lost = false → d.vis = none →
        let u := (List.range y.nblk).foldl (fun (s : State) i => s.setTag (.sram (a + 64 * i)) (y.tags.getD i 0)) (s.wrSram a y.data)
        let v := (List.range y.nblk).foldl (fun v i => Lease.later v (s.visTime (.sram (a + 64 * i)))) s.lease
        exec (.mcdrainWritesDone cl id) s = .next { u with drains := insK u.drains id { d with vis := some v } }) ∧
      (d.bad = false → y.lost = true → d.vis = none → ∃ u, exec (.mcdrainWritesDone cl id) s = .next u ∧
        ∃ v, findK u.drains id = some { d with vis := some v, fail := some 2 })) ∧
    (∀ d v, findK s.drains id = some d → d.cl = cl → d.vis = some v → Lease.before v s.lease = true →
      (d.gone = false → exec (.mcdrainWritesDone cl id) s = .next (s.endDrain id d d.fail)) ∧
      (d.gone = true → exec (.mcdrainWritesDone cl id) s =
        .next (({ s with drains := delK s.drains id } : State).completeOp d.core d.op d.fail))) ∧
    (x.state ≠ 0 →
      let u := (s.drains.filter fun p => p.2.cl == cl && p.2.slot == slot && !p.2.gone).foldl (fun (s : State) p =>
        if p.2.vis.isSome then { s with drains := insK s.drains p.1 { p.2 with fail := some 2, gone := true } }
        else ({ s with drains := delK s.drains p.1 } : State).completeOp p.2.core p.2.op (some 2)) s
      exec (.depotSlotRelease cl slot) s = .next ((if x.state = 1 then u.completeOp (cl * 128 + x.sender) x.op (some 2) else u).modSlot
        cl slot fun _ => {}))) ∧
  (∀ (s : State) (c cl src id : Nat),
    let k := s.core c
    (∀ r rest off, k.xrecs = r :: rest → s.ringPlace (clusterOf c) nXRING nXPTR 64 = some off →
      exec (.exceptionRecordPost c) s = .next (((s.ringWrite (clusterOf c) nXPTR off
        (withSeq (r.bytes c (s.partOf c).toNat) (s.cl (clusterOf c)).xSeq)).modCore c fun k => { k with xrecs := rest }).modCl (clusterOf c)
          fun k => { k with xSeq := k.xSeq + 1 })) ∧
    (∀ r rest slot, k.stash = r :: rest → s.trapSlot (clusterOf c) = some slot →
      exec (.trapRecordPost c) s = .next ((s.modCore c fun k => { k with stash := rest }).postTrap (clusterOf c) slot r)) ∧
    (k.stash.length < 4 →
      (∀ t r, oldestRec k.restoredRecs = some (t, r) → exec (.trapRecordStash c) s = .next (s.modCore c fun k =>
        { k.modWave t (fun w => { w with restored := w.restored.drop 1 }) with stash := k.stash ++ [{ r with turn := t }] })) ∧
      (∀ t r, oldestRec k.restoredRecs = none → oldestRec k.heldRecs = some (t, r) → exec (.trapRecordStash c) s = .next (s.modCore c fun k =>
        { k.modWave t (fun w => { w with held := none }) with stash := k.stash ++ [{ r with turn := t }] }))) ∧
    (∀ e rest off, getK [] (s.cl cl).events src = e :: rest → s.ringPlace cl nERING nEPTR 64 = some off →
      exec (.eventPost cl src) s = .next ((s.postEvent cl off e).modCl cl fun k => { k with events := putK [] k.events src rest })) ∧
    (∀ off, getK [] (s.cl cl).events src = [] → s.ringPlace cl nERING nEPTR 64 = some off →
      let d := getK (0, 0) (s.cl cl).drops src
      d.1 ≠ 0 → exec (.eventDropCountPost cl src) s = .next ((s.postEvent cl off
        (eventRecord src 0xFF s.lease [BitVec.ofNat 32 d.1, BitVec.ofNat 32 (d.2 % 256)])).modCl cl fun k => { k with drops := delK k.drops src })) ∧
    (∀ o, findK s.saves id = some o →
      (∀ v, o.restore = false → o.vis = some v → Lease.before v s.lease = true →
        exec (.psaveDone id) s = .next ((o.parts.foldl (fun s p =>
          if (s.wave o.core p.1).alive = 0 then (s.retireWave o.core p.1).modWave o.core p.1 fun w => { w with freed := some o.time }
          else s.freeSaved o.core p.1 p.2 o.time o.kept) s).endSave id o 0)) ∧
      (∀ ls u t a, o.restore = true → o.parts = [(t, a)] →
        s.areaPlace (clusterOf o.core) (s.partOf o.core) a 0 areaSize rREAD = (.ok ls, u) → (ls.any fun x => u.heldSpan x.1 x.2) = false →
        let r := u.areaRead (clusterOf o.core) (s.partOf o.core) a 0 areaSize
        let img := natOfBytes (o.asRead 0 (r.1.getD []))
        let f := fun (off hi lo : Nat) => bitsN img (8 * off + hi) (8 * off + lo)
        let c := o.core
        (f 0 15 0 ≠ 1 ∨ f 0 16 16 ≠ 1 ∨ f 0 34 24 ≠ c → exec (.prestDone id) s = .next (r.2.endSave id o 7)) ∧
        (f 0 15 0 = 1 → f 0 16 16 = 1 → f 0 34 24 = c →
          (placeQuotas (r.2.core c).quotas [(t, f 0xC 5 0, f 0xC 10 6)] = none → exec (.prestDone id) s = .next (r.2.endSave id o 8)) ∧
          (∀ qs, placeQuotas (r.2.core c).quotas [(t, f 0xC 5 0, f 0xC 10 6)] = some qs →
            let banks := (List.range 16).filter fun b => (f 0x2C 15 0).testBit b
            ((∃ b ∈ banks, (r.2.core c).bankFree b = false) → exec (.prestDone id) s = .next (r.2.endSave id o 9)) ∧
            ((∀ b ∈ banks, (r.2.core c).bankFree b = true) → exec (.prestDone id) s =
              .next (((((r.2.modCore c fun k => { k with quotas := qs }).loadWave c t img a [(f 0 23 20, t)] o.time).areaWrite (clusterOf c)
                (s.partOf c) a 2 [BitVec.ofNat 8 (2 * f 0 23 17)] rREAD).2).endSave id o 0)))))))

/-- R326 to R332, R341: the events of the dispatcher, the spawn unit and the summary complete, under conditions on the state and the
operands alone. The dispatcher takes the best head of its queues. With one record to be taken, at the head of queue `q` whose
checks pass and that stays in the cluster, the wave gathers it with the compatible records behind it; a record that fails its checks
is counted and the queue moves on. Of several heads it takes the one of the highest PRIO, and the lowest queue on a tie (R328); a record of
another cluster's core or of level 2 or 3 goes to the pool of the eligible cluster with the highest score, the taking cluster first on a tie
and then the lowest, and is passed over while that pool is full (R335; a cluster that drains is not eligible, R466). A waiting decision is taken again; and the oldest image of a core's spawn unit claims a place
of its queue once its fence is met, and is then written, which fills D with the place's number. -/
def Obligations.TaskEvents : Prop :=
  ∀ (s : State) (c cl tile : Nat),
    let k := s.core c
    let me := clusterOf c
    ((s.cl cl).gather = none → s.draining cl = false →
      (∀ t ws rest, (s.cl cl).pool = (t, ws) :: rest → (∀ q < 4, s.taskServed cl q = false) →
        exec (.taskRecordTake cl) s = .next (s.taskGather cl 4 ws)) ∧
      (∀ ws u, s.taskServed cl 0 = true → s.queueHead cl (nTQ 0 0) = (some ws, u) →
        let v := u.modCl cl fun k => k.see (seenKey 0 (u.qdesc cl (nTQ 0 0)).ridx.toNat) u.lease
        (∀ q, 1 ≤ q → q < 4 → v.taskServed cl q = false) → (v.cl cl).pool = [] →
        (∀ cause, v.taskBad (v.qdesc cl (nTQ 0 0)).part ws = some cause → exec (.taskRecordTake cl) s = .next (v.taskReject cl 0 cause)) ∧
        (v.taskBad (v.qdesc cl (nTQ 0 0)).part ws = none → tForward cl ws = false →
          exec (.taskRecordTake cl) s = .next (v.taskGather cl 0 ws))) ∧
      (∀ hs v, s.taskHeads cl = (hs, v) →
        (hs.map (·.1)).Pairwise (· < ·) ∧ (∀ h ∈ hs, h.1 ≤ 4) ∧
        ((∀ h ∈ hs, v.headWaits cl h = true) → exec (.taskRecordTake cl) s = .next v) ∧
        ∀ q ws, (q, ws) ∈ hs → v.headWaits cl (q, ws) = false →
          (∀ h ∈ hs, v.headWaits cl h = false → tPrio h.2 < tPrio ws ∨ tPrio h.2 = tPrio ws ∧ q ≤ h.1) →
          (∀ cause, v.headBad cl q ws = some cause → exec (.taskRecordTake cl) s = .next (v.taskReject cl q cause)) ∧
          (v.headBad cl q ws = none → q ≠ 4 → tForward cl ws = true → exec (.taskRecordTake cl) s = .next (v.taskForward cl q ws)) ∧
          (v.headBad cl q ws = none → q = 4 ∨ tForward cl ws = false → exec (.taskRecordTake cl) s = .next (v.taskGather cl q ws)))) ∧
    (∀ ws, (tForward cl ws = true ↔ 2 ≤ tLevel ws ∨ tLevel ws = 0 ∧ tCore ws / 128 ≠ cl) ∧
      (tLevel ws = 0 → ∀ d, s.forwardTo cl ws = some d → d = tCore ws / 128) ∧
      (let elig := fun (d : Nat) => d < 16 ∧ (s.cl d).part = tPart ws ∧ s.draining d = false ∧ (tLevel ws = 3 ∨ d / 2 = cl / 2)
       tLevel ws ≠ 0 → (s.forwardTo cl ws = none ↔ ∀ d, ¬elig d) ∧ ∀ d, s.forwardTo cl ws = some d → elig d ∧
        ∀ e, elig e → s.summaryScore e ws ≤ s.summaryScore d ws ∧
          (s.summaryScore e ws = s.summaryScore d ws → d = cl ∨ ¬(elig cl ∧ s.summaryScore cl ws = s.summaryScore d ws) ∧ d ≤ e)) ∧
      ∀ q d, s.forwardTo cl ws = some d → ∃ t u, s.taskForward cl q ws = u.modCl d (fun k => { k with pool := k.pool ++ [(t, ws)] }) ∧
        u = s.taskAdvance cl q) ∧
    (∀ g, (s.cl cl).gather = some g → g.waiting = true →
      (g.again = true → exec (.decisionRetake cl) s = .next ((s.modCl cl fun k => { k with
        gather := some { g with waiting := false, again := false, retakes := Nat.min 255 (g.retakes + 1) } }).crCount cl nTSTAT 47 32 1)) ∧
      (∀ t, (s.cl cl).preTick = some t → dwBits (s.cr cl nTQUANT) 15 0 ≠ 0 →
        dwBits (s.cr cl nTQUANT) 15 0 * 1000 ≤ (s.lease - t).toNat → exec (.preemptTick cl) s = .next (s.modCl cl fun k =>
          { k with preEv := k.preEv + 1, preTick := some (t + BitVec.ofNat 48 (dwBits (s.cr cl nTQUANT) 15 0 * 1000)) }))) ∧
    (let held := (s.cl cl).holds tile
     let told := s.sumQ.contains (cl, tile)
     let bit := BitVec.twoPow 16 cl
     let u : State := { s with sumQ := s.sumQ.erase (cl, tile) }
     let put := fun (m : BitVec 16) => Host.Outcome.next (if m = 0 then { u with summary := delK s.summary (tile % 16384) }
       else { u with summary := insK s.summary (tile % 16384) (tile, m) } : State)
     (findK s.summary (tile % 16384) = none → exec (.summaryUpdate cl tile) s =
       .next (if held && told then { u with summary := insK s.summary (tile % 16384) (tile, bit) } else u)) ∧
     (∀ m, findK s.summary (tile % 16384) = some (tile, m) →
       exec (.summaryUpdate cl tile) s = put (if held then (if told then m ||| bit else m) else m &&& ~~~bit)) ∧
     (∀ t m, findK s.summary (tile % 16384) = some (t, m) → t ≠ tile → exec (.summaryUpdate cl tile) s = .next u)) ∧
    (∀ e rest, k.spawns = e :: rest →
      let n := nTQ (wsBits e.words 1 0) 0
      (∀ p u w v, e.claimed = none → s.spawnFence c e = true → s.queueMem me (s.qdesc me n) = (.ok p, u) → u.queueClaim me n = (.ok w, v) →
        exec (.spawnRecordWrite c) s = .next (v.modCore c fun k => { k with spawns := { e with claimed := some w } :: rest })) ∧
      (∀ w v, e.claimed = some w → s.queuePut me n w e.words = (.ok (), v) →
        exec (.spawnRecordWrite c) s = .next (v.spawnEnd c e (BitVec.ofNat 32 (w % 2 ^ 31)))))

/-- R345, R349, R350, R363 to R365: the tariff engine's events complete, under conditions on the state and the
operands alone. It takes the oldest fault event, then a pre-empt event, then the
dispatch event, and without a tariff applies the default decision; a decision of 64 cycles is cut off and counted; a load request
checks the shadow program, and the swap exchanges it with the active one between decisions. -/
def Obligations.TariffEvents : Prop :=
  ∀ (s : State) (cl : Nat) (part : BitVec 4),
    let k := s.cl cl
    let v := s.cr cl nTCTL
    let len := dwBits v 8 0
    let prog := (s.shadow cl).take len
    let start := fun (s : State) (ev : Nat) (e : Option FaultEv) =>
      let d := s.snapshot cl ev e
      Host.Outcome.next (if k.alen = 0 then d.2.defaultDecision cl d.1 false false false else d.2.modCl cl fun k => { k with decision := some d.1 })
    (k.decision = none →
      (∀ e rest, k.faultEvs = e :: rest → exec (.tariffDecisionBegin cl) s = start (s.modCl cl fun k => { k with faultEvs := rest }) 2 (some e)) ∧
      (k.faultEvs = [] → k.preEv ≠ 0 → exec (.tariffDecisionBegin cl) s = start (s.modCl cl fun k => { k with preEv := k.preEv - 1 }) 1 none) ∧
      (∀ g, k.faultEvs = [] → k.preEv = 0 → k.gather = some g → g.waiting = false → exec (.tariffDecisionBegin cl) s = start s 0 none)) ∧
    (∀ d, k.decision = some d → 64 ≤ d.cycles → exec (.tariffOverrun cl) s = .next (((s.crCount cl nTCNT 15 0 1).raise cl 2 0
      [BitVec.ofNat 32 d.evkind, BitVec.ofNat 32 d.gen, BitVec.ofNat 32 d.last]).defaultDecision cl d false true false)) ∧
    (swst v = 7 →
      (256 < len → exec (.tariffSwapRequest cl) s = .next (s.setCr cl nTCTL (dwSet v 13 10 6))) ∧
      (∀ cause i, len ≤ 256 → loadCheck prog 0 prog = some (cause, i) →
        exec (.tariffSwapRequest cl) s = .next (s.setCr cl nTCTL (dwSet (dwSet v 13 10 cause) 22 14 i))) ∧
      (len ≤ 256 → loadCheck prog 0 prog = none → exec (.tariffSwapRequest cl) s = .next s) ∧
      (len ≤ 256 → loadCheck prog 0 prog = none → k.decision = none →
        let i0 := s.cr cl (nTINIT 0)
        let i1 := s.cr cl (nTINIT 1)
        let init := [loOf i0, hiOf i0, loOf i1, hiOf i1]
        let u := (List.range 128).foldl (fun (s : State) n =>
          s.setCr cl (nTPROG n) (pairOf (k.active.getD (2 * n) 0) (k.active.getD (2 * n + 1) 0))) s
        let u := (u.setCr cl (nTINIT 0) (pairOf (k.ainit.getD 0 0) (k.ainit.getD 1 0))).setCr cl (nTINIT 1) (pairOf (k.ainit.getD 2 0) (k.ainit.getD 3 0))
        let ctl := dwSet (dwSet (dwSet v 8 0 k.alen) 13 10 1) 63 32 (dwBits v 63 32 + 1)
        exec (.tariffSwap cl) s = .next ((u.setCr cl nTCTL ctl).modCl cl fun k =>
          { k with active := s.shadow cl, alen := len, ainit := init, tvals := init }))) ∧
    exec (.clusterPartitionAssign cl part) s = .next (((s.emptyTariff cl).modCr cl nTCTL fun v =>
      dwSet v 63 32 (dwBits v 63 32 + 1)).modCl cl fun k => { k with part })
/-- R371 to R396, R474, R482: the events of accesses in flight complete, under conditions on the state and the
operands alone. A store reaches its cohort's copies, then its home, where its bytes are written, its tag set or its atomic performed
and its visible time is fixed (at another package its request leaves first, and it is done with the response); its
acknowledgement raises the write horizon of its thread, or leaves the deferred fault of one that failed; a plain load that misses
fills its line; a line's lease that ends blanks the copy; a horizon that grows old is brought forward; and a barrier instance that is
complete lets its threads go. -/
def Obligations.MemoryEvents : Prop :=
  ∀ (s : State) (id cl line c t l key : Nat),
    (∀ x, findK s.stores id = some x →
      let me := clusterOf x.core
      let held := fun (b : Bool) => s.heldByEarlier id x.who x.kind.isTag x.place x.size false b
      let copies := s.stores.any fun y => clusterOf y.2.core == me && y.2.stage == 1 && decide (y.2.ford < x.ford) &&
        sameBytes x.kind.isTag x.place x.size y.2.kind.isTag y.2.place y.2.size
      let u := s.touchPlace x.place (some x.core)
      let done := fun (s' : State) => Host.Outcome.next
        ({ s' with stores := insK s'.stores id { x with stage := 2, vis := s.visTime x.place } } : State)
      (x.stage = 0 → cacheable me x.place = true → held true = false →
        let n := s.bump
        let first := fun (f : Cluster → Cluster) =>
          let v := n.2.modCl me f
          Host.Outcome.next ({ v with stores := insK v.stores id { x with stage := 1, ford := n.1 } } : State)
        (findK (s.cl me).lines (lineKey x.place) = none → exec (.storePerform id .cohort) s = first fun k => k) ∧
        (∀ old, x.kind = .data → findK (s.cl me).lines (lineKey x.place) = some old → Lease.before s.lease old.expiry = true →
          let new := old.store (linePos x.place) (bytesOf x.size x.data)
          exec (.storePerform id .cohort) s = first fun k => { k with lines := insK k.lines (lineKey x.place) new })) ∧
      (x.place.isFar = false → x.stage = (if cacheable me x.place = true then 1 else 0) → s.heldPlace x.place = false →
        (if cacheable me x.place = true then copies else held false) = false → s.homeDown x.place (if x.kind.isTag then 1 else x.size) = none →
        (x.kind = .data → exec (.storePerform id .home) s = done (u.wrHome x.place (bytesOf x.size x.data))) ∧
        (x.kind = .tag → exec (.storePerform id .home) s = done (u.setTag x.place (BitVec.ofNat 16 x.data))) ∧
        (∀ op w64 o1 o2 prod q, x.kind = .atom op w64 o1 o2 prod → findK (u.performAtom x.place op w64 o1 o2).2.2.prods prod = some q →
          let r := u.performAtom x.place op w64 o1 o2
          exec (.storePerform id .home) s = .next ({ r.2.2 with
            prods := insK r.2.2.prods prod { q with src := .vals (wordsOf 2 r.1) }
            stores := insK r.2.2.stores id { x with stage := 2, vis := if r.2.1 then s.visTime x.place else r.2.2.lease } } : State))) ∧
      (∀ b f d a, x.place = .far b f d a → x.stage = 1 → copies = false → s.homeDown x.place (if x.kind.isTag then 1 else x.size) = none →
        (x.sent = none → s.heldPlace x.place = false → exec (.storePerform id .home) s = .next (s.farStore id x b f)) ∧
        (∀ port t, x.sent = some (port, t) → s.farLate t = false → x.kind = .data ∨ x.kind = .tag →
          exec (.storePerform id .home) s = .next ({ s.farUsed x.place with
            stores := insK s.stores id { x with stage := 2, vis := s.visTime x.place t } } : State)))) ∧
    (∀ x info, findK s.stores id = some x → 2 ≤ x.stage → x.fail = some info → x.pair = none →
      (s.wave x.core x.turn).uid = x.uid → (s.thread x.core x.turn x.lane).status ≠ .exited →
      ∃ u, exec (.storeAcknowledge id) s = .next u ∧ u.stores = delK s.stores id ∧ SameMemory s u ∧
        (u.thread x.core x.turn x.lane).defer = (s.thread x.core x.turn x.lane).defer ++
          [{ finfo := info, pc := x.pc, extra := BitVec.ofNat 64 x.off, word := x.word }]) ∧
    (∀ x, findK s.stores id = some x → 2 ≤ x.stage → x.fail = none →
      (x.pair = none →
        let up := fun (e : SpawnEnt) =>
          if e.turn = x.turn ∧ e.uid = x.uid ∧ e.lanes.getLsbD x.lane ∧ id < e.upTo then { e with wh := Lease.later e.wh x.vis } else e
        let u := ({ s with stores := delK s.stores id } : State).modCore x.core fun k => { k with spawns := k.spawns.map up }
        exec (.storeAcknowledge id) s =
          .next (if (s.wave x.core x.turn).uid = x.uid then u.modThread x.core x.turn x.lane fun t => t.horizon x.vis else u)) ∧
      (∀ i y, x.pair = some i → findK s.stores i = some y → 2 ≤ y.stage → y.fail = none →
        exec (.storeAcknowledge id) s = .next ((({ s with stores := delK (delK s.stores i) id } : State).ackStore id x).ackStore id y))) ∧
    (∀ i p a, s.prods = [(i, p)] → p.src = .load a → clusterOf p.core = cl → a.kind = .plain → lineKey a.place = line → a.lease ≠ 0 →
      let b := lineBase a.place
      cacheable cl a.place = true → s.liveLine cl b = none → s.lineBusy cl b = false → s.heldPlace b = false → s.homeDown b 128 = none →
      a.place.isFar = false →
      let u := (s.touchLine p.core a b).lineBytes b []
      exec (.cacheLineFill cl line) s = .next (u.2.fillLine cl b u.1.1 u.1.2 a.lease none)) ∧
    (∀ x, findK (s.cl cl).lines line = some x → Lease.before s.lease x.expiry = false →
      exec (.lineLeaseExpire cl line) s = .next (s.modCl cl fun k =>
        { k with lines := insK k.lines line { x with data := List.replicate 128 0, tags := [0, 0] } })) ∧
    (2 ^ 47 - 1 ≤ (s.lease - (s.thread c t l).wh).toNat → Lease.before s.lease (s.thread c t l).wh = false →
      exec (.whAgeing c t l) s = .next (s.modThread c t l fun x => { x with wh := s.lease - 1 })) ∧
    (∀ v, s.barReady key = (true, v) → ∃ u, exec (.barrierRelease key) s = .next u ∧
      u.bars = putK 0 v.bars key ((getK 0 v.bars key + 1) % 65536) ∧ SameMemory v u ∧
      ∀ c t l, u.thread c t l = match (v.thread c t l).arrived with
        | some a => if (v.thread c t l).status = .parkedBarrier ∧ a.key = key then { v.thread c t l with status := .ready, arrived := none }
            else v.thread c t l
        | none => v.thread c t l)

/-- R399 to R424: the events of translation and of HBM complete, under conditions on the state and the
operands alone. A walk ends with its page installed or with its cause; a page kept busy for
200 µs fails its waiters; a write of TBINV drops what it names; hash windows, versions, unit moves and row times go by; the rows of a
bank close; a throttled core is let go; and a stack's remap table reloads, or fails what it holds. -/
def Obligations.TranslationAndHbmEvents : Prop :=
  ∀ (s : State) (cl idx page c bank row stack : Nat) (v : DWord),
    (((s.cl cl).walks.take 32).any (fun w => w.bti == idx && w.page == page) = true → s.walkHeld idx page = false →
      (∀ e f u, s.walkPage idx page = (0, e, f, u) → exec (.translationWalk cl idx page) s = .next (u.bump.2.modCl cl fun k =>
        (k.install (pageKey idx page) { entry := e, frame := f, used := u.bump.1 }).dropWalk idx page)) ∧
      (∀ r e f u, s.walkPage idx page = (r, e, f, u) → r ≠ 0 → r ≠ 6 → exec (.translationWalk cl idx page) s =
        .next ((u.tellWalk cl { bti := idx, page, entry := e, res := r }).modCl cl fun k => k.dropWalk idx page))) ∧
    (∀ w t e f u, ((s.cl cl).walks.find? fun w => w.bti == idx && w.page == page) = some w → w.busy = some t → w.eng = false →
      s.walkPage idx page = (6, e, f, u) → Lease.before s.lease (t + 200000) = false →
      let st := locStack (s.locate ((ebits e 166 128 + 8 * page) % 2 ^ 39))
      exec (.zbusyWaitTimeout cl idx page) s = .next ((u.tellWalk cl { bti := idx, page, entry := e, res := 16 + st }).modCl cl fun k => k.dropWalk idx page)) ∧
    exec (.tbinvWrite cl v) s = .next (s.tbinv cl v) ∧
    exec .hmigStart s = .next s.beginVersion ∧
    (s.lease.toNat / 1000000 ≠ s.hwin →
      let thr := dwBits (s.cr 16 nHMIG) 31 16
      let due := thr ≠ 0 ∧ (List.range 8).any fun k => decide (thr ≤ dwBits (s.cr 16 (nSTKSTAT k)) 23 0)
      let u := if due then s.beginVersion else s
      let w := (List.range 8).foldl (fun (s : State) k => s.modCr 16 (nSTKSTAT k) fun v => dwSet v 23 0 0) u
      exec .hashWindowEnd s = .next { w with hwin := u.lease.toNat / 1000000 }) ∧
    (∀ m g gs, s.mig = some m → m.todo = g :: gs →
      let n := dwBits (s.cr 16 (nHGSTATE g)) 47 32
      let d := (hashG n (dwBits (s.cr 16 (nHGSTATE g)) 31 16) ^^^ hashG n (dwBits (s.cr 16 (nHGSTATE g)) 15 0)) * 2
      let loc := fun (x : Nat) => placeBlock 0 g (n * 8192 + x)
      let pairs := if d = 0 then [] else ((List.range 8192).filter fun x => decide (x < x ^^^ d)).map fun x => (loc x, loc (x ^^^ d))
      (∀ p ∈ pairs, s.held p.1 = false ∧ s.held p.2 = false) → n + 1 < 32768 →
      exec (.migrationUnitMove g) s = .next ((pairs.foldl (fun (s : State) p =>
        ((s.touch p.1 none true).touch p.2 none true).swapBlocks p.1 p.2) s).modCr 16 (nHGSTATE g) fun v => dwSet v 47 32 (n + 1))) ∧
    (∀ t, (getK {} s.hbanks bank).block = some t → Lease.before s.lease t = false →
      exec (.bankBlockEnd bank) s = .next (s.modBank bank fun b => { b with block := none })) ∧
    (∀ r, (getK {} s.hbanks bank).row = some r → Lease.before s.lease ((getK {} s.hbanks bank).last + 100) = false →
      exec (.rowIdleClose bank) s = .next (s.modBank bank fun b => { b with row := none })) ∧
    exec (.periodicRowRefresh bank row) s = .next { s with rowCnt := putK 0 s.rowCnt (bank * 32768 + row % 32768) 0 } ∧
    (∀ t, (s.core c).throttle = some t → Lease.before s.lease t = false →
      exec (.throttleEnd c) s = .next ((s.modCore c fun k => { k with throttle := none, admitted := [] }).modCr (clusterOf c)
        (nTHR (coreIndex c)) fun v => dwSet v 0 0 0)) ∧
    (let u := s.crCount 16 (nSTKSTAT stack) 63 48 1
     let ev := fun (s : State) (kind n : Nat) => Host.Outcome.next (s.remapEvent stack kind n)
     let us := s.reloadFor stack / 1000
     (u.stkReload stack = false → u.stkUnavail stack = false →
       let w := u.modCr 16 (nSTKSTAT stack) fun v => dwSet v 24 24 1
       exec (.remapTableError stack) s = ev { w with reloadAt := insK w.reloadAt stack w.lease } 0 0) ∧
     (s.stkReload stack = true →
       let w := s.modCr 16 (nSTKSTAT stack) fun v => dwSet v 24 24 0
       let mine := fun (p : Nat × Nat) => p.1 / 16384 / 4096 == stack
       exec (.remapReloadDone stack) s = ev { w with reloadAt := delK w.reloadAt stack
                                                     remap := (w.hub.filter mine).foldl (fun (m : Sparse Nat) (p : Nat × Nat) => insK m p.1 p.2)
                                                       (w.remap.filter fun p => !mine p) } 1 us) ∧
     (s.stkReload stack = true → 200000 ≤ s.reloadFor stack →
       exec (.remapHoldTimeout stack row) s = .next (if row = 0 then s.failHeldOthers stack else s.failHeld stack row) ∧
       ∃ w : State, exec (.remapStackTimeout stack) s = ev { w with reloadAt := delK w.reloadAt stack } 2 us ∧ w.stkReload stack = false ∧ w.stkUnavail stack = true))
/-- R425 to R441: the commands and events of the wayside units complete, under conditions on the state and the
operands alone. A core's issue unit sends its oldest command to its stack's queue; a unit that is free accepts the
oldest command, with a cause if it is malformed or its context or buffer is not the partition's; a command runs by its CMD field over the
arrays of its context and the words it reads; and it completes when what it wrote is visible, giving its flags to the wave and its
failure to its token, the count and an event. -/
def Obligations.WaysideEvents : Prop :=
  ∀ (s : State) (c n : Nat) (v : DWord),
    let k := s.core c
    let y := s.way n
    (∀ ws t uid op slots rb rest, k.queue 34 = .cmd ws t uid op slots rb :: rest → k.ways.length < 8 →
      exec (.waysideIssueSend c) s = .next ((s.modCore c fun k => k.setQueue 34 rest).takeWay c t uid op ws slots)) ∧
    (∀ e rest, k.queue 34 = [] → k.ways = e :: rest → (s.way (WCmd.ofWords e.words).stack).queue.length < 64 →
      exec (.waysideIssueSend c) s = .next ((s.modCore c fun k => { k with ways := rest }).setWays (WCmd.ofWords e.words).stack
        ((s.way (WCmd.ofWords e.words).stack).queue ++ [e]))) ∧
    (∀ e rest, y.cur = none → y.queue = e :: rest →
      let cmd := WCmd.ofWords e.words
      let take := fun (s : State) (fail : Option Nat) (segs : List (List (Place × Nat))) => Host.Outcome.next
        ((s.setWays n rest).modWay n fun w => { w with
          cur := some e, ran := fail.isSome, fail, flags := 0, vis := none, segs, late := false, ahead := [], aheadT := [] })
      let x := s.wctx n cmd.ctx
      (wMalformed e.words = true → exec (.waysideAccept n) s = take s (some 1) []) ∧
      (wMalformed e.words = false → (x.2 = false ∨ x.1 ≠ e.part.toNat) → exec (.waysideAccept n) s = take s (some 5) []) ∧
      (∀ r u, wMalformed e.words = false → x.2 = true → x.1 = e.part.toNat → s.wayBuffers e cmd = (r, u) → r.wait = false →
        (firstCause r.causes = none → exec (.waysideAccept n) s = take u none r.segs) ∧
        (∀ f, firstCause r.causes = some f → exec (.waysideAccept n) s = take u (some f) []))) ∧
    (∀ e, y.cur = some e → y.ran = false →
      let cmd := WCmd.ofWords e.words
      let ran := fun (s : State) => Host.Outcome.next (s.modWay n fun w => { w with ran := true })
      let vec := fun (w : WayStack) (i : Nat) => w.vbAt cmd.ctx (cmd.v0 + i)
      let row := fun (w : WayStack) (i : Nat) => w.raAt cmd.ctx (cmd.a0 + i)
      let setV := fun (w : WayStack) (i : Nat) (x : Word) => w.setVb cmd.ctx (cmd.v0 + i) x
      let setR := fun (w : WayStack) (i : Nat) (x : Word) => w.setRa cmd.ctx (cmd.a0 + i) x
      let each := fun (f : WayStack → Nat → WayStack × Flags) => ran (s.wayEach n cmd.n f)
      let elem := fun (s : State) (i : Nat) => (s.wayElems (s.way n) (wWidth cmd.width) ((s.way n).segs.flatMap id) false).getD i (.nan false, 0)
      (cmd.cmd = 1 → exec (.wnop n) s = ran s) ∧
      (cmd.cmd = 2 → s.wayHeld n = false → exec (.vload n) s = ran (s.wayReading n fun s => s.wayEach n cmd.n fun w i =>
        (setV w i (resWord (Fmt.f32.conv Rnd.rne (elem s i).1)), (elem s i).2 ||| (Fmt.f32.conv Rnd.rne (elem s i).1).fl))) ∧
      (cmd.cmd = 3 → exec (.vfill n) s = each fun w i => (setV w i cmd.f0, 0)) ∧
      (cmd.cmd = 4 → exec (.vscale n) s = each fun w i =>
        let r := mulF .f32 Rnd.rne (f32Val (vec w i)) (f32Val cmd.f0)
        (setV w i (resWord r), r.fl)) ∧
      (cmd.cmd = 5 → exec (.rzero n) s = each fun w i => (setR w i 0, 0)) ∧
      (cmd.cmd = 6 → s.wayHeld n = false → exec (.gemv n) s = ran (s.wayReading n fun s =>
        ((s.way n).segs.zip (List.range (s.way n).segs.length)).foldl (fun (s : State) r => s.gemvRow n cmd r.2 r.1) s)) ∧
      (cmd.cmd = 7 → exec (.rscale n) s = each fun w i =>
        let r := mulF .f32 Rnd.rne (f32Val (row w i)) (f32Val cmd.f0)
        (setR w i (resWord r), r.fl)) ∧
      (cmd.cmd = 8 → s.wayHeld n = false → exec (.rbias n) s = ran (s.wayReading n fun s => s.wayEach n cmd.n fun w i =>
        let r := addF .f32 Rnd.rne (f32Val (row w i)) (elem s i).1
        (setR w i (resWord r), (elem s i).2 ||| r.fl))) ∧
      (cmd.cmd = 9 → exec (.radd n) s = each fun w i =>
        let r := addF .f32 Rnd.rne (f32Val (row w i)) (f32Val (w.raAt cmd.ctx (cmd.a1 + i)))
        (setR w i (resWord r), r.fl)) ∧
      (cmd.cmd = 10 → exec (.rclamp n) s = each fun w i =>
        let m := minMaxF .f32 true false (row w i).toNat cmd.f0.toNat
        let r := minMaxF .f32 false false m.code cmd.f1.toNat
        (setR w i (resWord r), m.fl ||| r.fl)) ∧
      (cmd.cmd = 11 → exec (.rtovec n) s = each fun w i => (setV w i (row w i), 0)) ∧
      (∀ f, cmd.cmd = 12 → s.wayHeld n = false → wStoreFmt cmd.ofmt = some f →
        let ps := y.segs.flatMap segBlocks
        let down := y.late || ps.any fun p => (s.homeDown p.1 0).isSome
        let b := s.rstoreBytes n cmd f
        let r := s.rstoreBlocks (BitVec.ofNat 16 (cmd.ofmt.toNat + 256 * cmd.oscl)) down ps b.1 s.lease
        exec (.rstore n) s = ran ((r.2.wayFlags n b.2).modWay n fun w => { w with vis := some r.1, fail := if down then some 7 else none })) ∧
      (∀ p q, cmd.cmd = 13 → s.wayHeld n = false → (y.segs.flatMap id).head? = some (p, q) → s.wayCause n [(p, 8)] = none →
        exec (.wcount n) s = ran (((s.eAdd64 p 1).2).modWay n fun w => { w with vis := some (s.visTime p) }))) ∧
    (∀ e, y.cur = some e → y.ran = true → (∀ v, y.vis = some v → Lease.before v s.lease = true) →
      let u := s.modWay n fun w => { w with
        cur := none, ran := false, fail := none, flags := 0, vis := none, segs := [], late := false, ahead := [], aheadT := [] }
      let w := (u.opFlags e.core e.uid y.flags).completeOp e.core e.op y.fail
      (y.fail = none → exec (.waysideCommandComplete n) s = .next w) ∧
      (∀ f, y.fail = some f → exec (.waysideCommandComplete n) s = .next ((w.crCount 16 (nWSTAT n) 31 16 1).raise (clusterOf e.core) 4 5
        [BitVec.ofNat 32 n, BitVec.ofNat 32 ((WCmd.ofWords e.words).ctx + 16 * f), BitVec.ofNat 32 e.core]))) ∧
    (s.wctxWaits n v = false → exec (.wctxWrite n v) s = .next (s.setWctx n v))
/-- R442 to R450, R453: the messages between shards complete, under conditions on the state and the
operands alone. A request goes where a ring has room; its answer takes the request from its ring and
carries what R447 to R450 say, an error where the handle is not open; a call for another shard's object, and a request that has come to a shard
that no longer owns the file, are sent on and answered by the owner; an update goes to every running shard, is applied in each as it answers, and
ends when all have; an object moves with its state. -/
def Obligations.ShardMessages : Prop :=
  ∀ (s : State) (me dest b o : Nat) (xid : BitVec 16) (handle len r0 r1 : Word) (off obj : DWord) (call : MsgWords),
    let k := s.shard me
    let h := handle.toNat
    let notAsked := fun (k : Shard) => { k with asked := k.asked.filter fun a => a.1 != xid }
    let notSent := fun (k : Shard) => { k with fwds := k.fwds.filter fun p => p.xid != xid }
    (∀ u, k.owner h = dest → me ≠ dest → k.cached h off.toNat = false → s.sendMsg me dest (message 1 xid [handle, 0, loOf off, hiOf off, len]) = some u →
      exec (.extreq me dest xid handle off len) s = .next (u.modShard me fun k => { k with asked := k.asked ++ [(xid, h)] })) ∧
    (∀ ws u v, k.owner h = me → s.takeMsg me dest 1 xid handle = some (ws, u) →
      let e := u.extentFor h off.toNat len.toNat
      u.sendAnswer me dest (message 2 xid (extrepWords e)) = some v →
      (∀ x, e = some x →
        exec (.extrep me dest xid handle off len) s = .next (v.modShard dest fun k => { notAsked k with cache := k.cache ++ [(h, x)] })) ∧
      (e = none → exec (.extrep me dest xid handle off len) s = .next (v.modShard dest fun k => { notAsked k with bad := k.bad ++ [h] }))) ∧
    (s.handleFile h = none → s.extentFor h off.toNat len.toNat = none ∧ extrepWords none = [BitVec.ofInt 32 (-9)]) ∧
    (∀ f x, s.handleFile h = some f → f.extentAt off.toNat = some x → x.foff % 512 = 0 → off.toNat % 512 = 0 → 0 < len.toNat →
      off.toNat + len.toNat ≤ x.foff + x.len →
      let lba := x.lba + (off.toNat - x.foff) / 512
      s.extentFor h off.toNat len.toNat = some { foff := off.toNat, len := (len.toNat + 511) / 512 * 512, drive := x.drive, lba, ver := x.ver } ∧
      extrepWords (s.extentFor h off.toNat len.toNat) = [0, BitVec.ofNat 32 x.drive, BitVec.ofNat 32 lba, BitVec.ofNat 32 (lba / 2 ^ 32),
        BitVec.ofNat 32 ((len.toNat + 511) / 512), BitVec.ofNat 32 x.ver, BitVec.ofNat 32 (x.ver / 2 ^ 32)]) ∧
    (∀ u, k.owner h = me → s.sendMsg me dest (message 3 xid [handle, 0]) = some u →
      exec (.extinv me dest xid handle) s = .next (u.modShard me fun k =>
        let old := ((k.inval.find? fun p => p.1 == h).map (·.2)).getD ([], [])
        { k with inval := (k.inval.filter fun p => p.1 != h) ++ [(h, old.1 ++ [dest], old.2 ++ [dest])] })) ∧
    (∀ ws u v, s.takeMsg me dest 3 xid handle = some (ws, u) → k.svc = [] → k.bufs = [] → u.sendAnswer me dest (message 4 xid [handle, 0]) = some v →
      exec (.extack me dest xid handle) s = .next ((v.modShard me fun k => { k with cache := k.cache.filter fun p => p.1 != h }).modShard dest
        fun k => { k with inval := k.inval.map fun p => if p.1 = h then (p.1, p.2.1, p.2.2.filter (· != me)) else p })) ∧
    (∀ f u, s.fwdOf me dest call = some f → s.sendMsg me dest (message 5 xid call) = some u →
      exec (.fwd me dest xid call) s = .next (u.modShard me fun k => { k with fwds := k.fwds ++ [{ xid, peer := dest, from_ := some f }] })) ∧
    (∀ g u, s.fwdOf me dest call = none → s.fwdExt me xid call = some (g, dest) → (s.dropMail me g).sendMsg me dest (message 5 xid call) = some u →
      exec (.fwd me dest xid call) s = .next (u.modShard me fun k => { k with fwds := k.fwds ++ [{ xid, peer := dest, asker := some g }] })) ∧
    (∀ g u, s.fwdOf me dest call = none → s.fwdExt me xid call = none → s.fwdOn me dest xid call = some g →
      (s.dropMail me g).sendMsg me dest (message 5 xid call) = some u →
      exec (.fwd me dest xid call) s = .next (u.modShard me fun k => { k with fwds := k.fwds ++ [{ xid, peer := dest, via := some g }] })) ∧
    (∀ ws x, s.headMail me dest = some ws → msgType ws = 5 → msgXid ws = xid → ((s.shard dest).fwds.find? fun p => p.xid == xid) = some x →
      x.via = none →
      (∀ g u v, x.asker = some g →
        let h := (ws.getD 2 0).toNat
        let ask := (ws.getD 3 0).toNat + 2 ^ 32 * (ws.getD 4 0).toNat
        k.owner h = me → r1 = 0 → r0 = (if (s.handleFile h).isSome then 0 else errWord 9) →
        (s.dropMail me dest).sendAnswer me dest (message 6 xid [r0, r1]) = some u →
        (u.modShard dest notSent).giveExtent me g xid h ask (ws.getD 5 0).toNat = some v →
        exec (.fwdrep me dest xid r0 r1) s = .next v) ∧
      (∀ slot group r m c v y z u, x.asker = none → x.from_ = some (slot, group, r.order) → s.svcGroup dest slot group = some (r, m, c) →
        svcAt s dest me r c = .give v y z → r0 = v → r1 = 0 → (z.shard dest).fwds = (s.shard dest).fwds →
        (z.dropMail me dest).sendAnswer me dest (message 6 xid [r0, r1]) = some u →
        exec (.fwdrep me dest xid r0 r1) s = .next ((u.modShard dest notSent).svcGive dest slot r m v))) ∧
    (s.update = none → s.running.getLsbD 0 = true → (∀ i ∈ s.runningShards, s.accepts i = true ∧ (s.cl i).mailUsed 0 < 16) →
      let ver := (s.shard 0).ver + 1
      let pay := [BitVec.ofNat 32 ver, BitVec.ofNat 32 (ver / 2 ^ 32), BitVec.ofNat 32 (b % 16), BitVec.ofNat 32 (o % 16)]
      let u := s.runningShards.foldl (fun (s : State) i => s.putMail 0 i (message 7 (BitVec.ofNat 16 ver) pay)) s
      exec (.upd b o) s = .next { u with update := some (ver, b % 16, o % 16, s.runningShards) }) ∧
    (∀ ver left ws u v, s.update = some (ver, b, o, left) → s.takeMsg me 0 7 (BitVec.ofNat 16 ver) (BitVec.ofNat 32 ver) = some (ws, u) →
      u.sendAnswer me 0 (message 8 (BitVec.ofNat 16 ver) [BitVec.ofNat 32 ver, BitVec.ofNat 32 (ver / 2 ^ 32), BitVec.ofNat 32 b, BitVec.ofNat 32 o]) = some v →
      let w := v.modShard me fun k => { k.apply b o with ver }
      let left := left.filter fun i => i != me && w.running.getLsbD i
      exec (.updack me) s = .next { w with update := if left.isEmpty then none else some (ver, b, o, left) }) ∧
    (∀ u, s.sendAnswer me dest (message 9 0 ([loOf obj, hiOf obj] ++ (List.range 13).map fun i => Config.freeWord (s.fresh + i))) = some u →
      exec (.migrate me dest obj) s = .next ((({ u with fresh := u.fresh + 13 } : State).modShard me fun k =>
        { k with objs := k.objs.filter (· != obj.toNat) }).modShard dest fun k => { k with objs := k.objs ++ [obj.toNat] }))

/-- R442, R451 to R458: the calls a shard serves and what reaches it from the drives complete, under conditions on the state and the
operands alone. A group of lanes of a posted record whose call is neither
served yet nor sent on is given its result, by the owner where the call is the owner's: a handle, or the error of a bad handle, length or buffer; a
read that is not direct goes through the shard's SRAM first, and a write that changes the file's extents waits for every shard's answer; a drive's
write reaches memory where the bus address names it, or raises its event. -/
def Obligations.ServiceEvents : Prop :=
  ∀ (s : State) (cl slot group port : Nat) (addr : DWord) (data : List Byte) (d : Word) (r : TrapRec) (m : Mask) (ws : List Word),
    let call := (ws.getD 0 0).toNat
    let h := callArg ws 0
    let len := callArg ws 3
    let off := callArg ws 1 + 2 ^ 32 * callArg ws 2
    let mine := (s.shard cl).owner h = cl
    let give := fun (s : State) (v : Word) => Host.Outcome.next (s.svcGive cl slot r m v)
    (s.svcGroup cl slot group = some (r, m, ws) → (s.shard cl).sentOn slot group r = false → (s.shard cl).served slot group r = none →
      (svcCalls.contains call = false → exec (.svcOpen cl slot group) s = give s (errWord 38)) ∧
      (call = 0x10 → s.slotIndex r.core (callArg ws 0 % 64) = none → exec (.svcOpen cl slot group) s = give s (errWord 14)) ∧
      (∀ bti path u f, call = 0x10 → s.slotIndex r.core (callArg ws 0 % 64) = some bti →
        s.readPath cl r.part bti (callArg ws 1) 4096 = (.ok path, u) → (u.files.find? fun f => f.path == path) = some f →
        (u.shard cl).owner f.id = cl →
        let x : Handle := { file := f.id, part := r.part, write := (callArg ws 2).testBit 0 }
        exec (.svcOpen cl slot group) s = give { u with handles := insK u.handles (f.id % 2 ^ 32) x } (BitVec.ofNat 32 (f.id % 2 ^ 32))) ∧
      (∀ x, call = 0x11 → mine → findK s.handles h = some x → exec (.svcClose cl slot group) s = give { s with handles := delK s.handles h } 0) ∧
      (call = 0x11 → mine → findK s.handles h = none → exec (.svcClose cl slot group) s = give s (errWord 9)) ∧
      (call = 0x12 → mine → s.handleFile h = none → exec (.svcRead cl slot group) s = give s (errWord 9)) ∧
      (∀ f, call = 0x12 → s.readFile cl h = some f → len = 0 ∨ 1048576 < len → exec (.svcRead cl slot group) s = give s (errWord 22)) ∧
      (∀ f segs u, call = 0x12 → s.readFile cl h = some f → 0 < len → len ≤ 1048576 → s.hasExtents cl h off len = true →
        s.svcPlace cl r ws rWRITE len = (some (.inl segs), u) →
        let held := (u.shard cl).bufs.find? fun p => p.slot == slot && p.group == group && p.order == r.order
        let free := fun (p : Place × Nat) => u.eHeld p.1 = false ∧ u.writeCause p.1 p.2 (p.2 == 64) = none
        (held = none → u.driveGone (u.extentsOf cl h) off len = false → (∀ p ∈ firstBlocks segs (Nat.min len (f.data.length - off)), free p) →
          exec (.svcRead cl slot group) s = .next (u.svcFetch cl f (u.extentsOf cl h) off (svcDirect ws) segs slot group r.order)) ∧
        (∀ b, held = some b → (∀ p ∈ firstBlocks segs b.n, free p) →
          (∀ a, b.at_ = some a → u.regionHeld a = false ∧ u.readCause (.sram a) b.n = none) →
          (∀ a, b.side = some a → u.regionHeld a = false ∧ u.readCause (.sram a) (2 * ((off + b.n + 63) / 64)) = none) →
          let x := u.svcMove b off segs
          exec (.svcRead cl slot group) s = .next (x.2.modShard cl fun k =>
            { k with bufs := k.bufs.filter fun p => !(p.slot == slot && p.group == group)
                     svc := k.svc ++ [{ slot, group, order := r.order, vis := x.1, res := BitVec.ofNat 32 b.n }] }))) ∧
      (call = 0x13 → mine → findK s.handles h = none → exec (.svcWrite cl slot group) s = give s (errWord 9)) ∧
      (∀ x f segs u, call = 0x13 → mine → findK s.handles h = some x → s.handleFile h = some f → 0 < len → len ≤ 1048576 → x.write = true →
        (f.grows off len = true → s.invalidated cl h = true) → s.svcPlace cl r ws rREAD len = (some (.inl segs), u) →
        u.driveGone f.exts off len = false →
        let bl := segs.flatMap fun p => blocksOf p.1 p.2
        (∀ p ∈ bl, u.eHeld p.1 = false ∧ u.homeDown p.1 p.2 = none) →
        let b := u.svcReadBlocks bl
        let gap := b.2.openBytes (off - f.data.length)
        let dr := gap.2.openNat
        let lba := dr.2.openNat
        let lo := off / 512 * 512
        let new : FileObj := { f with data := (f.data ++ gap.1).take off ++ b.1 ++ f.data.drop (off + len) }
        let new := if f.grows off len then
            { new with ver := f.ver + 1
                       exts := (f.exts.filter fun e => e.foff + e.len ≤ lo || decide (off + len ≤ e.foff)) ++
                         [{ foff := lo, len := (off + len - lo + 511) / 512 * 512, drive := dr.1 % 2, lba := lba.1, ver := f.ver + 1 }] } else new
        let w := (lba.2.drive cl 1 new.exts off len segs).modShard cl fun k =>
          { k with inval := k.inval.filter fun p => p.1 != h }
        exec (.svcWrite cl slot group) s = give { w with files := w.files.map fun g => if g.id = f.id then new else g } (BitVec.ofNat 32 len)) ∧
      (∀ bti pages, call = 0x30 ∨ call = 0x31 → s.svcPages r ws = .inl (bti, pages) → (s.shard cl).owner (bufferId bti) = cl →
        (∀ u, call = 0x30 → s.mapPages cl bti pages = (.ok (), u) → exec (.svcPmap cl slot group) s = give (u.dropPages bti pages) 0) ∧
        (∀ e u, call = 0x30 → s.mapPages cl bti pages = (.bad e, u) → exec (.svcPmap cl slot group) s = give (u.dropPages bti pages) (errWord e)) ∧
        (∀ u, call = 0x31 → s.unmapPages bti pages = (.ok (), u) → exec (.svcPunmap cl slot group) s = give (u.dropPages bti pages) 0) ∧
        (∀ e u, call = 0x31 → s.unmapPages bti pages = (.bad e, u) → exec (.svcPunmap cl slot group) s = give (u.dropPages bti pages) (errWord e))) ∧
      (∀ e, s.svcPages r ws = .inr e → (call = 0x30 → exec (.svcPmap cl slot group) s = give s e) ∧
        (call = 0x31 → exec (.svcPunmap cl slot group) s = give s e))) ∧
    (s.portWaits port = false →
      (∀ p, s.busAddr addr data.length = .mem p → (∀ b ∈ blocksOf p data.length, s.eHeld b.1 = false) →
        let w := s.driveBlocks (blocksOf p data.length) data s.lease
        exec (.driveInboundWrite port addr data) s = .next { w.2 with pcieVis := insK w.2.pcieVis port w.1 }) ∧
      (s.busAddr addr data.length = .refused → exec (.driveInboundWrite port addr data) s = .next (s.driveEvent 2 none)) ∧
      (s.busAddr addr data.length = .msix → data.length = 4 →
        exec (.driveInboundWrite port addr data) s = .next (msixEvent s port (BitVec.ofNat 32 (natOfBytes data)))) ∧
      exec (.msixMessage port d) s = .next (msixEvent s port d)) ∧
    (s.busAddr addr 1 = .refused → exec (.unsupportedRequest port addr) s = .next (s.driveEvent 2 none)) ∧
    (∀ p, s.busAddr addr data.length = .mem p → s.heldSpan p data.length = false → s.homeDown p data.length = none →
      exec (.driveInboundRead port addr data.length) s = .next (s.touchSpan p data.length none))
/-- R459, R461, R463 to R467: reset and the events of the device's management complete, under conditions on the state and the
operands alone. A cold reset leaves the reset state with what lies outside the
package, and boots; SRUN starts serais; a warm reset goes through its phases, keeps what the rule names, and clears HBM unless it is
retained; a self-test of a target answers pass, or maps out what failed; repairs replace a core that is idle, or return a stack to
service; and requests of attestation are answered with SM3 and SM2.
R443, R466, R468, R469, R471: a shard that another restarts ends what was tied to it and starts with the restarter's tables; and a cluster
under repair is drained, its bucket and its objects moved away, and, once its tests and repairs have ended, back, and takes work again. -/
def Obligations.DeviceEvents : Prop :=
  (∀ (s : State) (cl core n : Nat) (mask : BitVec 16) (failed : BitVec 8) (target : BitVec 40) (off : BitVec 20) (retain : Bool),
    (let kept : State := { State.reset with files := s.files, drives := s.drives, ethUp := s.ethUp, inbox := s.inbox, out := s.out }
     let u : State := { kept with fresh := s.fresh, nextId := s.nextId, remap := s.remap, hub := s.hub, spares := s.spares, moved := s.moved }
     exec .coldReset s = .next u.bootSequence) ∧
    exec (.srunStart mask) s = .next (s.srun mask) ∧
    (s.warm = .run → ∃ u, exec (.rstctlWarm retain) s = .next u ∧ u.warm = .quiesce ∧ dwBit (u.cr 16 nRSTCTL) 1 = retain ∧ SameMemory s u) ∧
    (s.warm = .quiesce → s.quiet = true → ∃ u, exec .warmResetQuiesced s = .next u ∧ u.warm = .retrain ∧ u.hbm = s.hbm ∧ u.hbmTag = s.hbmTag ∧
      u.sram = [] ∧ u.sramTag = [] ∧ u.running = 0 ∧ u.crs = s.crs.filter (fun p => crSurvives p.1) ∧ ∀ c t, (u.wave c t).live = false) ∧
    (s.warm = .retrain → ∃ u, exec (.warmResetRetrained failed) s = .next u ∧ u.warm = .check ∧ SameMemory s u ∧
      ∀ k < 8, u.stkUnavail k = (failed.getLsbD k || s.stkUnavail k)) ∧
    (s.warm = .check → exec .warmResetChecked s = .next ({ (if dwBit (s.cr 16 nRSTCTL) 1 then s
      else { s with hbm := [], hbmTag := [], badHbm := [], softHbm := [] }) with warm := .run, remap := s.hub } : State).bootSequence) ∧
    (let t := target.toNat
     let c := bitsN t 10 0
     let ends := fun (s : State) (res : Nat) (mapped : Bool) (ev : Nat) => Host.Outcome.next (s.testEnds res mapped ev)
     (s.testing cl 0 target = true →
       let b := bankOfWord (bitsN t 14 0)
       exec (.selfTestHbmRow cl target true) s = ends (s.openNat.2.modBank b fun k =>
         { k with block := some (s.openNat.2.lease + BitVec.ofNat 48 (s.openNat.1 % 20001)) }) 0 false 8) ∧
     (s.testing cl 1 target = true →
       ((∀ w ∈ (s.core c).waves, w.2.alive = 0) →
         exec (.selfTestCore cl target true) s = ends s 0 false 8 ∧ exec (.selfTestCore cl target false) s = ends s 1 false 9) ∧
       (∀ w ∈ (s.core c).waves, w.2.alive ≠ 0 → exec (.selfTestCore cl target retain) s = ends s 2 false 0)) ∧
     (s.testing cl 2 target = true →
       let b := bitsN t 14 11
       let tested := fun (k : Core) => { k with toTest := k.toTest.filter (· != b) }
       ((s.core c).bankIdle b = false → exec (.selfTestAmemBank cl target retain) s = ends s 2 false 0) ∧
       ((s.core c).bankIdle b = true →
         exec (.selfTestAmemBank cl target true) s = ends (s.modCore c tested) 0 false 8 ∧
         exec (.selfTestAmemBank cl target false) s = ends (s.modCore c fun k => { tested k with mapped := k.mapped ++ [b] }) 1 false 9)) ∧
     (s.testing cl 3 target = true →
       let clean := s.modCl (bitsN t 3 0) fun k => (k.lines.filter fun p => Config.cacheSet p.1 % 1536 == bitsN t 14 4).foldl (fun k p => k.dropLine p.1) k
       exec (.selfTestCacheSet cl target true) s = ends clean 0 false 8 ∧
       exec (.selfTestCacheSet cl target false) s = ends (clean.modCl (bitsN t 3 0) fun k =>
         { k with waysOut := insK k.waysOut (bitsN t 14 4) (Nat.min 16 (getK 0 k.waysOut (bitsN t 14 4) + 1)) }) 1 false 9) ∧
     (s.testing cl 4 target = true →
       let p := bitsN t 2 0
       exec (.selfTestFabricLane cl target true) s = ends s 0 false 8 ∧
       exec (.selfTestFabricLane cl target false) s = ends (s.setWidth p (dwBits (s.cr 16 (nPORTSTAT p)) 1 0 - 1)) 1 false 9) ∧
     (s.testing cl 5 target = true → exec (.selfTestSeraiSram cl target true) s = ends s 0 false 8)) ∧
    (∀ x r m e, s.selfTest = some x → x.res = some (r, m, e) →
      let u := ({ s with selfTest := none } : State).setCr 16 nSTSTAT (BitVec.ofNat 64 (2 * r + if m then 8 else 0))
      (e = 0 → exec .selfTestDone s = .next u) ∧
      (e ≠ 0 → exec .selfTestDone s = .next (u.raise x.cl 4 e [BitVec.ofNat 32 x.kind, x.target.extractLsb' 0 32, (x.target.extractLsb' 32 8).setWidth 32]))) ∧
    (s.repair = some (0, core) →
      let k := s.core core
      let used := getK 0 s.spares (clusterOf core)
      let idle := (∀ w ∈ k.waves, w.2.alive = 0) ∧ k.copyTrk = [] ∧ k.spawns = [] ∧ k.ways = []
      let ends := fun (s : State) (st left : Nat) => Host.Outcome.next ((s.repairEnds st).modCr 16 nREPSTAT fun v => dwSet v 11 8 left)
      (¬idle → exec (.repairCoreToSpare core) s = ends s 2 (4 - used)) ∧
      (idle → 4 ≤ used → exec (.repairCoreToSpare core) s = ends s 1 0) ∧
      (idle → used < 4 → ∃ u v : State, exec (.repairCoreToSpare core) s = ends v 0 (3 - used) ∧
        v = { u with spares := insK u.spares (clusterOf core) (used + 1), moved := insK u.moved core (getK 0 u.moved core + 1) } ∧
        SameMemory s u ∧ (∀ t, ((u.core core).wave t).live = false) ∧ (u.core core).banks = k.banks ∧ (u.core core).queues = k.queues)) ∧
    (s.repair = some (1, n) →
      exec (.repairStackToService n false) s = .next (s.repairEnds 3) ∧
      exec (.repairStackToService n true) s = .next (((s.modCr 16 (nSTKSTAT (n % 8)) fun v => dwSet v 25 24 0).loadRemap (n % 8)).repairEnds 0)) ∧
    (s.attest = some (cl, off.toNat) →
      let req := s.rdSram (seraiAddr cl off.toNat) 64
      let i := (req.getD 33 0).toNat
      let pad := fun (bs : List Byte) => (bs ++ List.replicate 64 0).take 64
      ((req.getD 32 0).toNat = 0 →
        let text := req.take 32 ++ (List.range 8).flatMap s.measBytes ++ bytesOf 4 (dwBits (s.cr 16 nBOOTSTAT) 63 32) ++ List.replicate 28 0
        exec (.attestQuote cl off) s = .next (if Config.identityUnsealed then (s.attestWrite cl off.toNat
          (text ++ pad (Config.sm2Sign Config.identityKey (bytesOf 32 (Config.sm3 text).toNat)))).attestEnds 0 else s.attestEnds 2)) ∧
      ((req.getD 32 0).toNat = 1 → 4 ≤ i → i ≤ 7 →
        exec (.attestExtend cl off) s = .next (({ s with meas := insK s.meas i (Config.sm3 (s.measBytes i ++ req.take 32)) } : State).attestEnds 0)) ∧
      ((req.getD 32 0).toNat = 2 → exec (.attestPubkey cl off) s = .next (if Config.identityUnsealed then
        (s.attestWrite cl off.toNat (pad (Config.sm2PublicKey Config.identityKey))).attestEnds 0 else s.attestEnds 2)))) ∧
  (∀ (s : State) (shard cl : Nat),
    let actor := if shard = 0 then 1 else 0
    (shard < 16 → s.running.getLsbD actor = true → s.update = none →
      let u := ((s.tiedParts shard actor).foldl State.killPart s).startSerai shard
      u.update = none →
      exec (.shardRestart shard) s = .next (u.reloadShard shard actor) ∧
      (let k := u.shard actor
       (u.reloadShard shard actor).shard shard = { ownmap := k.ownmap, parts := k.parts, mounts := k.mounts, ver := k.ver })) ∧
    (cl < 16 →
      let drain := fun (s : State) (b : Nat) => s.modCr 16 nCDRAIN fun v => dwSet v cl cl b
      let phase := fun (s : State) (n : Nat) => Host.Outcome.next ({ s with crepair := putK 0 s.crepair cl n } : State)
      let idle := ∀ i < 128, ∀ w ∈ (s.core (cl * 128 + i)).waves, w.2.live = false
      let at_ := fun (n : Nat) => getK 0 s.crepair cl = n ∧ s.update = none
      (getK 0 s.crepair cl = 0 → s.running.getLsbD 0 = true → exec (.clusterRepair cl) s = phase (drain s 1) 1) ∧
      (at_ 1 → idle → (s.startUpdate cl (cl ^^^ 1)).update.isSome = true →
        exec (.clusterRepair cl) s = phase (s.startUpdate cl (cl ^^^ 1)) 2) ∧
      (∀ x rest, at_ 2 → s.unsent cl (cl ^^^ 1) = x :: rest → exec (.clusterRepair cl) s = .next (s.migrate cl (cl ^^^ 1) (BitVec.ofNat 64 x))) ∧
      (at_ 2 → s.unsent cl (cl ^^^ 1) = [] → exec (.clusterRepair cl) s = phase s 3) ∧
      (at_ 3 → s.selfTest = none → s.repair = none → (∀ x ∈ s.suspects, x.1 ≠ cl) → (s.startUpdate cl cl).update.isSome = true →
        exec (.clusterRepair cl) s = phase (s.startUpdate cl cl) 4) ∧
      (∀ x rest, at_ 4 → s.unsent cl cl = x :: rest → exec (.clusterRepair cl) s = .next (s.migrate (cl ^^^ 1) cl (BitVec.ofNat 64 x))) ∧
      (at_ 4 → s.unsent cl cl = [] → exec (.clusterRepair cl) s = phase s 5) ∧
      (at_ 5 → exec (.clusterRepair cl) s = phase (drain s 0) 6) ∧
      (at_ 6 → (∀ x ∈ s.rsaved, clusterOf x.1 ≠ cl) → exec (.clusterRepair cl) s = phase s 0) ∧
      (∀ x ∈ s.rsaved, at_ 6 → clusterOf x.1 = cl → exec (.clusterRepair cl) s = .next (s.repairRestore cl))))

/-- R472 to R484: the events of the fabric complete, under conditions on the state and the
operands alone. A follower's request goes to its leader every 100 µs, and records t1; a
clock exchange within the bound moves the lease clock forward and after eight makes it
synchronised; without one for 1 ms it is not; a request without an answer fails with its port's code; a request from another package
that passes its checks is read, written or performed at its home and answered, at once where no lease can be recalled; recalls that
are not answered end with the visibility time of R479, ports change width, Ethernet ports go down
and up, and leases are given back. -/
def Obligations.FabricEvents : Prop :=
  ∀ (s : State) (port n id line : Nat) (src : BitVec 10) (addr o1 o2 : DWord) (data : List Byte) (op : BitVec 4) (w64 : Bool)
    (width : BitVec 2) (t1 t2 t3 : Lease),
    (∀ p, (List.range 8).find? s.portUp = some p → s.isLeader = false → (s.syncAt = none ∨ ∃ t, s.syncAt = some t ∧ 100000 ≤ (s.lease - t).toNat) →
      clockAsk s = .next (State.emit { s with syncAt := some s.lease, syncT1 := some s.lease }
        (.clockAsk p (dwBits (s.cr 16 nFABCTL) 57 48) s.lease))) ∧
    (s.isLeader = false → s.syncT1 = some t1 →
      let t4 := s.lease
      let o2 := leaseDiff t2 t1 + leaseDiff t3 t4
      let good := (o2.natAbs : Int) + (leaseDiff t4 t1 - leaseDiff t3 t2 + 20) ≤ (dwBits (s.cr 16 nFABCTL) 31 16 : Nat)
      (good → s.synced = true → ∃ u, exec (.clockSyncExchange t1 t2 t3 t4) s = .next u ∧ u.lease = s.lease ∧ u.syncLast = s.lease ∧
        u.syncGood = Nat.min 8 (s.syncGood + 1) ∧ SameMemory s u) ∧
      (good → s.synced = false → 0 < o2 → ∃ u, exec (.clockSyncExchange t1 t2 t3 t4) s = .next u ∧
        u.lease = s.lease + BitVec.ofInt 48 (o2 / 2) ∧ u.syncGood = Nat.min 8 (s.syncGood + 1)) ∧
      (¬good → ∃ u, exec (.clockSyncExchange t1 t2 t3 t4) s = .next u ∧ u.syncGood = 0 ∧ u.synced = false)) ∧
    (s.isLeader = false → s.synced = true → 1000000 ≤ (s.lease - s.syncLast).toNat →
      exec .syncLossTimeout s = .next (({ s with syncGood := 0 } : State).setSync false)) ∧
    (∀ p a port t, findK s.prods id = some p → p.src = .load a → a.sent = some (port, t) → s.farLate t = true →
      exec (.fabricRequestTimeout id) s = .next ((s.timedOut port a.place.dst).failLoad id p a (48 + port))) ∧
    (∀ x port t, findK s.prods id = none → findK s.stores id = some x → x.sent = some (port, t) → s.farLate t = true → x.stage < 2 →
      exec (.fabricRequestTimeout id) s = .next ((s.timedOut port x.place.dst).failStore id x (48 + port))) ∧
    (∀ bti off p e u, s.synced = true → s.inWindow src addr.toNat = some (bti, off) →
      let part := eOwner (s.tableEntry bti)
      let up := fun (k : Nat) => !u.heldSpan p k && (blocksOf p k).all fun b => (u.homeDown b.1 b.2).isNone
      (s.engineChk (port % 16) part bti off n rREAD = (.ok (p, e), u) → inRange addr n = true → up n = true →
        let x := (u.eRead p n).2.leaseOut p n e
        exec (.inboundRead port src addr n) s = .next (x.2.emit (.fabric port src.toNat true (u.eRead p n).1 x.1))) ∧
      (s.engineChk (port % 16) part bti off data.length rWRITE = (.ok (p, e), u) → inRange addr data.length = true → up data.length = true →
        exec (.inboundWrite port src addr data) s =
          .next (((u.eWrite p data).2).storeAnswer port src addr p data.length [] (u.farVis p data.length))) ∧
      (let k := if w64 then 8 else 4
       s.engineChk (port % 16) part bti off k rATOM = (.ok (p, e), u) → addr.toNat % k = 0 → op.toNat ≤ 9 → up k = true →
        let r := u.performAtom p op w64 o1 o2
        let v := (r.2.2.touchPlace p none).farUsed p
        exec (.inboundAtomic port src addr op w64 o1 o2) s = .next (
          if r.2.1 then v.storeAnswer port src addr p k (bytesOf k r.1) (u.farVis p k)
          else v.emit (.fabric port src.toNat true (bytesOf k r.1) (v.lease + v.skew))))) ∧
    (∀ (p : Place) (x : Lease), s.mayRecall port p n = false →
      s.storeAnswer port src addr p n data x = s.emit (.fabric port src.toNat true data x)) ∧
    (s.synced = false → exec (.inboundRead port src addr n) s = .next (s.inRefuse port src) ∧
      exec (.inboundWrite port src addr data) s = .next (s.inRefuse port src) ∧
      exec (.inboundAtomic port src addr op w64 o1 o2) s = .next (s.inRefuse port src)) ∧
    (∀ r, findK s.recalls id = some r → 2000 ≤ (s.lease - r.start).toNat →
      exec (.recallTimeout id) s = .next (({ s with recalls := delK s.recalls id } : State).emit (.fabric r.port r.dst true r.data r.vis))) ∧
    (port < 8 → exec (.portWidthChange port width) s = .next (s.setWidth port width.toNat)) ∧
    (port < 4 → s.ethUp.getLsbD port = true → exec (.ethernetPortChange port false) s =
      .next (({ s with ethUp := s.ethUp &&& ~~~(BitVec.ofNat 4 (2 ^ port)) } : State).raiseSome 3 0 [BitVec.ofNat 32 port, 0])) ∧
    (2 ^ 60 ≤ line → ∃ u, exec (.leaseRecall port line) s = .next (State.emit u (.fabric port 0 true [] 0)) ∧
      ∀ c < 16, findK (u.cl c).lines line = none) ∧
    (s.isLeader = true → exec (.clockSyncRequest src t1) s = .next (s.emit (.clock src s.lease s.lease)))

/-- R485 to R502: the events of the network complete, under conditions on the state and the
operands alone. The issue unit writes a command's slot in its queue; a queue's head starts, or waits for its
gate; an operation sends its packets after those of the earlier ones of its queue and peer, and completes, with its token and then its counter, when they are acknowledged and reported, or its data
have come and are visible, or it has failed; a posted receive stays for a message where it passes its checks, and is removed where it does not; a packet is placed once and answered when its message is whole and visible, a response's packets at the request's own bytes; an unanswered packet is sent again, until
the connection is reset; and registrations and peers change by writes. -/
def Obligations.NetworkEvents : Prop :=
  ∀ (s : State) (c cl q id peer r : Nat) (psn : Word) (v : DWord) (num : BitVec 24) (i : BitVec 2) (a : NetAck) (p : NetPacket),
    let k := s.core c
    let me := clusterOf c
    (∀ e t, firstTrk (·.order) (fun t => decide (t.stage < 2)) k.netTrk = some (e, t) →
      let put := fun (s : State) (t : NetTrk) => Host.Outcome.next (s.modCore c fun k => { k with netTrk := insK k.netTrk e t })
      let d := s.qdesc me (nNQ (wsBits t.words 4 0) 0)
      (t.stage = 0 → wsBits t.words 15 5 ≠ 0 ∨ wsBits t.words 19 16 ≠ 0 → exec (.netIssueUnitServe c) s = .next (s.endNet c e t (some 1))) ∧
      (∀ x u w y, t.stage = 0 → wsBits t.words 15 5 = 0 → wsBits t.words 19 16 = 0 → d.en = true → d.part = (s.cl me).part →
        s.queueMem me d = (.ok x, u) → u.queueClaim me (nNQ (wsBits t.words 4 0) 0) = (.ok w, y) →
        exec (.netIssueUnitServe c) s = put y { t with stage := 1, w, q := wsBits t.words 4 0 }) ∧
      (∀ u, t.stage ≠ 0 → s.queuePut me (nNQ t.q 0) t.w (netSlot c e t.kind t.words) = (.ok (), u) →
        exec (.netIssueUnitServe c) s = if t.kind = 5 then .next (u.endNet c e t none) else put u { t with stage := 2 }) ∧
      (∀ b u, t.stage ≠ 0 → s.queuePut me (nNQ t.q 0) t.w (netSlot c e t.kind t.words) = (.bad b, u) →
        exec (.netIssueUnitServe c) s = .next (u.endNet c e t (some 8)))) ∧
    (∀ ws u, s.initiatorHead cl q = (some ws, u) →
      ((nGated ws = false ∨ dwBit (u.cr cl (nNQ q 1)) 24 = false) → exec (.netWrTake cl q) s = .next (u.netStart cl q ws)) ∧
      (nGated ws = true → u.gateMet cl q ws = true → exec (.netGateOpen cl q) s = .next (u.netStart cl q ws))) ∧
    (∀ o kind, findK s.netOps id = some o → nKind o.words = kind → o.fail = none → o.sent < o.total →
      let dest := nPeerNo o.words
      (s.peer dest).unack.length < 1024 → s.inTurn id o = true →
      (∀ b ∈ o.nextParts, s.eHeld b.1 = false ∧ s.homeDown b.1 b.2.1 = none) →
      let d := s.packetData o
      (d.2.peer dest).first.isSome = true →
      let pk : NetPkt := { psn := (d.2.peer dest).psn, op := id, index := o.sent, data := d.1.1, tags := d.1.2, words := o.words, msg := o.msg.getD id,
                           at_ := d.2.lease + BitVec.ofNat 48 d.2.rto, rto := d.2.rto }
      let x := d.2.transmit dest pk
      let y := x.2.modPeer dest fun p => { p with first := (d.2.peer dest).first, psn := (d.2.peer dest).psn + 1, unack := p.unack ++ [x.1] }
      let sent := Host.Outcome.next ({ y with netOps := insK y.netOps id { o with sent := o.sent + 1 } } : State)
      (kind = 1 → exec (.netSend id) s = sent) ∧ (kind = 2 → exec (.netPut id) s = sent) ∧
      (kind = 3 → exec (.netGet id) s = sent) ∧ (kind = 4 → exec (.netAtomic id) s = sent)) ∧
    (∀ ws u, dwBit (s.cr cl (nNQ q 1)) 15 = true → s.queueHead cl (nNQ q 0) = (some ws, u) →
      let part := fun (x : State) => (x.qdesc cl (nNQ q 0)).part
      let drop := fun (x : State) (cause : Nat) =>
        let x := (x.queueErr cl (nNQ q 0) cause).queueAdvance cl (nNQ q 0)
        Host.Outcome.next (if wsBit ws 232 then x.ctrEnd cl (wsBits ws 231 224) true else x)
      (nMalformed ws true (dwBit (u.cr cl (nNQ q 1)) 24) = true → exec (.netPostReceive cl q) s = drop u 1) ∧
      (nMalformed ws true (dwBit (u.cr cl (nNQ q 1)) 24) = false →
        (∀ b x, u.netSegs cl (part u) (nLasp ws) (nLaddr ws) (nLen ws) rWRITE = (.bad b, x) → exec (.netPostReceive cl q) s = drop x 2) ∧
        (∀ segs word x y, u.netSegs cl (part u) (nLasp ws) (nLaddr ws) (nLen ws) rWRITE = (.ok segs, x) →
          x.netSegs cl (part u) (nLasp ws) (nOpnd1 ws) 8 rWRITE = (.ok word, y) →
          exec (.netPostReceive cl q) s = .next y ∧ s.postedHead cl q = (.ok (some (ws, segs)), y)))) ∧
    (∀ n x fresh, p.valid = true → 1 ≤ p.kind → p.kind ≤ 6 → p.kind ≠ 5 → s.peerOf p.addr p.v6 p.job = some n → (s.peer n).enter p.epoch p.first = some (x, fresh) →
      let u := s.modPeer n fun _ => x
      let u := if fresh then { u with netMsgs := u.netMsgs.filter fun m => m.2.peer != n } else u
      ((psnLe p.psn x.cack = true ∨ x.bits.contains p.psn = true) → exec (.netPacketArrive p) s = .next (u.answerAgain n p.msg)) ∧
      (∀ j m w, p.kind ≤ 4 → psnLe p.psn x.cack = false → x.bits.contains p.psn = false → (p.psn - x.cack).toNat ≤ 1024 →
        u.openMsg n p = (some (j, m), w) →
        (∀ b ∈ (if p.kind = 3 then msgParts m.segs 0 m.len else msgParts m.segs (2048 * p.index) 2048), w.eHeld b.1 = false) →
        exec (.netPacketArrive p) s = .next ((w.modPeer n fun q => q.take p.psn).netPlace n p j m)) ∧
      (p.kind = 6 → psnLe p.psn x.cack = false → x.bits.contains p.psn = false → (p.psn - x.cack).toNat ≤ 1024 →
        (u.awaits n p = none → exec (.netPacketArrive p) s = .next ((u.modPeer n fun q => q.take p.psn).netAnswer n p.msg false none)) ∧
        (∀ o, u.awaits n p = some o → (∀ b ∈ msgParts o.segs (2048 * p.index) 2048, u.eHeld b.1 = false) →
          exec (.netPacketArrive p) s = .next ((u.modPeer n fun q => q.take p.psn).netRespond n p o)))) ∧
    (∀ n, s.peerOf a.addr a.v6 a.job = some n → (s.peer n).epoch = a.epoch → a.sack = [] → a.refused = [] → a.complete = [] →
      exec (.netAckArrive a) s = .next (s.modPeer n fun p => { p with unack := p.unack.filter fun k => !psnLe k.psn a.cack })) ∧
    (∀ x, ((s.peer peer).unack.find? fun k => k.psn == psn) = some x → Lease.before s.lease x.at_ = false →
      (x.tries < s.retry → exec (.netRetransmitTimeout peer psn) s = .next (s.resend peer x [])) ∧
      (s.retry ≤ x.tries → exec (.netRetransmitTimeout peer psn) s = .next ((s.resetPeer peer 7).2.raiseSome 3 1
        [BitVec.ofNat 32 peer, BitVec.ofNat 32 (s.resetPeer peer 7).1]))) ∧
    (∀ m, findK s.netMsgs id = some m → m.fail = none → packets (Nat.max 1 m.len) ≤ m.placed.length →
      (∀ v, m.vis = some v → Lease.before v s.lease = true) → m.recv = none →
      let u := if (s.regOf m.clus m.key).cen then s.ctrAdd m.clus (s.regOf m.clus m.key).ctr 1 else s
      exec (.netTargetComplete id) s = .next (u.endMsg m.peer id m.msg none)) ∧
    (∀ m ws, findK s.netMsgs id = some m → m.fail = none → packets (Nat.max 1 m.len) ≤ m.placed.length →
      (∀ v, m.vis = some v → Lease.before v s.lease = true) → m.recv = some ws →
      let count := fun (x : State) (fail : Bool) => if wsBit ws 232 then x.ctrEnd m.clus (wsBits ws 231 224) fail else x
      (m.done = true → exec (.netTargetComplete id) s = .next ((count s false).endMsg m.peer id m.msg none)) ∧
      (∀ b u, m.done = false → s.netSegs m.clus m.part (nLasp ws) (nOpnd1 ws) 8 rWRITE = (.bad b, u) →
        exec (.netTargetComplete id) s = .next ((count u true).endMsg m.peer id m.msg (some (if b = 5 then 8 else 2)))) ∧
      (∀ x n rest u, m.done = false → s.netSegs m.clus m.part (nLasp ws) (nOpnd1 ws) 8 rWRITE = (.ok ((x, n) :: rest), u) →
        u.eHeld x = false → u.homeDown x 8 = none →
        let w := u.eWrite x (bytesOf 8 (m.len + 2 ^ 32 * m.peer))
        exec (.netTargetComplete id) s = .next { w.2 with netMsgs := insK w.2.netMsgs id { m with done := true, vis := some w.1 } })) ∧
    (∀ o, findK s.netOps id = some o →
      let passed := ∀ v, o.vis = some v → Lease.before v s.lease = true
      let e := wsBits o.words 464 459
      let u : State := { s with netOps := delK s.netOps id }
      let count := fun (x : State) => Host.Outcome.next (if wsBit o.words 232 then x.ctrEnd o.cl (wsBits o.words 231 224) o.fail.isSome else x)
      ((o.fail.isSome = true ∧ passed) ∨
        (o.fail = none ∧ o.report = true ∧ nKind o.words ≤ 2 ∧ o.total ≤ o.sent ∧ ∀ x ∈ (s.peer (nPeerNo o.words)).unack, x.op ≠ id) ∨
        (o.fail = none ∧ o.report = true ∧ (nKind o.words = 3 ∨ nKind o.words = 4) ∧ passed)) →
      (o.tok = none → exec (.netInitiatorComplete id) s = count u) ∧
      (∀ x t, o.tok = some x → findK (s.core x).netTrk e = some t →
        exec (.netInitiatorComplete id) s = count (if t.stage = 2 then u.endNet x e t o.fail else u))) ∧
    (peer < 4096 → exec (.peerTableWrite peer i v) s = .next (s.setPeer peer i.toNat v)) ∧
    (r < 256 → exec (.regActivate cl r) s = .next (s.activateReg cl r) ∧ exec (.regRevoke cl r) s = .next (s.revokeReg cl r)) ∧
    ((s.regOf cl r).state = 2 → (∀ m ∈ s.netMsgs, m.2.kind = 1 ∨ m.2.clus ≠ cl ∨ m.2.key ≠ r ∨ m.2.fail.isSome = true) →
      exec (.revocationComplete cl r) s = .next ((s.modCr cl (nREG r 0) fun v => dwSet v 1 0 0).raise cl 3 3 [BitVec.ofNat 32 r])) ∧
    (cl < 16 → s.crAllowed cl 0 num.toNat = true → (∀ k < 8, num.toNat = nWCTX k → s.wctxWaits k v = false) →
      exec (.registerWrite cl num v) s = .next (s.writeCr cl 0 num.toNat v)) ∧
    (cl < 16 → s.crAllowed cl 0 num.toNat = false → exec (.registerWrite cl num v) s = .next s)
end
end

