-- ==== Sys2Proof/Laws/State.lean ====
section
/-! SUPPORT. What each update of the package leaves: one lemma per field per update, true by unfolding. -/

namespace Sys2Proof.Machine

/-! ## `modCore` -/

@[simp] theorem modCore_cur (s : State) (c : Nat) (f : Core → Core) : (s.modCore c f).cur = s.cur := rfl
@[simp] theorem modCore_cls (s : State) (c : Nat) (f : Core → Core) : (s.modCore c f).cls = s.cls := rfl
@[simp] theorem modCore_crs (s : State) (c : Nat) (f : Core → Core) : (s.modCore c f).crs = s.crs := rfl
@[simp] theorem modCore_lease (s : State) (c : Nat) (f : Core → Core) : (s.modCore c f).lease = s.lease := rfl
@[simp] theorem modCore_sram (s : State) (c : Nat) (f : Core → Core) : (s.modCore c f).sram = s.sram := rfl
@[simp] theorem modCore_hbm (s : State) (c : Nat) (f : Core → Core) : (s.modCore c f).hbm = s.hbm := rfl
@[simp] theorem modCore_sramTag (s : State) (c : Nat) (f : Core → Core) : (s.modCore c f).sramTag = s.sramTag := rfl
@[simp] theorem modCore_hbmTag (s : State) (c : Nat) (f : Core → Core) : (s.modCore c f).hbmTag = s.hbmTag := rfl
@[simp] theorem modCore_lx (s : State) (c : Nat) (f : Core → Core) : (s.modCore c f).lx = s.lx := rfl
@[simp] theorem modCore_badHbm (s : State) (c : Nat) (f : Core → Core) : (s.modCore c f).badHbm = s.badHbm := rfl
@[simp] theorem modCore_badSram (s : State) (c : Nat) (f : Core → Core) : (s.modCore c f).badSram = s.badSram := rfl
@[simp] theorem modCore_softHbm (s : State) (c : Nat) (f : Core → Core) : (s.modCore c f).softHbm = s.softHbm := rfl
@[simp] theorem modCore_hbanks (s : State) (c : Nat) (f : Core → Core) : (s.modCore c f).hbanks = s.hbanks := rfl
@[simp] theorem modCore_rowCnt (s : State) (c : Nat) (f : Core → Core) : (s.modCore c f).rowCnt = s.rowCnt := rfl
@[simp] theorem modCore_remap (s : State) (c : Nat) (f : Core → Core) : (s.modCore c f).remap = s.remap := rfl
@[simp] theorem modCore_hub (s : State) (c : Nat) (f : Core → Core) : (s.modCore c f).hub = s.hub := rfl
@[simp] theorem modCore_reloadAt (s : State) (c : Nat) (f : Core → Core) : (s.modCore c f).reloadAt = s.reloadAt := rfl
@[simp] theorem modCore_mig (s : State) (c : Nat) (f : Core → Core) : (s.modCore c f).mig = s.mig := rfl
@[simp] theorem modCore_hwin (s : State) (c : Nat) (f : Core → Core) : (s.modCore c f).hwin = s.hwin := rfl
@[simp] theorem modCore_prods (s : State) (c : Nat) (f : Core → Core) : (s.modCore c f).prods = s.prods := rfl
@[simp] theorem modCore_stores (s : State) (c : Nat) (f : Core → Core) : (s.modCore c f).stores = s.stores := rfl
@[simp] theorem modCore_copies (s : State) (c : Nat) (f : Core → Core) : (s.modCore c f).copies = s.copies := rfl
@[simp] theorem modCore_drains (s : State) (c : Nat) (f : Core → Core) : (s.modCore c f).drains = s.drains := rfl
@[simp] theorem modCore_bars (s : State) (c : Nat) (f : Core → Core) : (s.modCore c f).bars = s.bars := rfl
@[simp] theorem modCore_summary (s : State) (c : Nat) (f : Core → Core) : (s.modCore c f).summary = s.summary := rfl
@[simp] theorem modCore_sumQ (s : State) (c : Nat) (f : Core → Core) : (s.modCore c f).sumQ = s.sumQ := rfl
@[simp] theorem modCore_lxl (s : State) (c : Nat) (f : Core → Core) : (s.modCore c f).lxl = s.lxl := rfl
@[simp] theorem modCore_recalls (s : State) (c : Nat) (f : Core → Core) : (s.modCore c f).recalls = s.recalls := rfl
@[simp] theorem modCore_ways (s : State) (c : Nat) (f : Core → Core) : (s.modCore c f).ways = s.ways := rfl
@[simp] theorem modCore_saves (s : State) (c : Nat) (f : Core → Core) : (s.modCore c f).saves = s.saves := rfl
@[simp] theorem modCore_peers (s : State) (c : Nat) (f : Core → Core) : (s.modCore c f).peers = s.peers := rfl
@[simp] theorem modCore_netOps (s : State) (c : Nat) (f : Core → Core) : (s.modCore c f).netOps = s.netOps := rfl
@[simp] theorem modCore_netMsgs (s : State) (c : Nat) (f : Core → Core) : (s.modCore c f).netMsgs = s.netMsgs := rfl
@[simp] theorem modCore_ethUp (s : State) (c : Nat) (f : Core → Core) : (s.modCore c f).ethUp = s.ethUp := rfl
@[simp] theorem modCore_syncGood (s : State) (c : Nat) (f : Core → Core) : (s.modCore c f).syncGood = s.syncGood := rfl
@[simp] theorem modCore_syncLast (s : State) (c : Nat) (f : Core → Core) : (s.modCore c f).syncLast = s.syncLast := rfl
@[simp] theorem modCore_syncAt (s : State) (c : Nat) (f : Core → Core) : (s.modCore c f).syncAt = s.syncAt := rfl
@[simp] theorem modCore_syncT1 (s : State) (c : Nat) (f : Core → Core) : (s.modCore c f).syncT1 = s.syncT1 := rfl
@[simp] theorem modCore_shards (s : State) (c : Nat) (f : Core → Core) : (s.modCore c f).shards = s.shards := rfl
@[simp] theorem modCore_update (s : State) (c : Nat) (f : Core → Core) : (s.modCore c f).update = s.update := rfl
@[simp] theorem modCore_files (s : State) (c : Nat) (f : Core → Core) : (s.modCore c f).files = s.files := rfl
@[simp] theorem modCore_handles (s : State) (c : Nat) (f : Core → Core) : (s.modCore c f).handles = s.handles := rfl
@[simp] theorem modCore_out (s : State) (c : Nat) (f : Core → Core) : (s.modCore c f).out = s.out := rfl
@[simp] theorem modCore_drives (s : State) (c : Nat) (f : Core → Core) : (s.modCore c f).drives = s.drives := rfl
@[simp] theorem modCore_running (s : State) (c : Nat) (f : Core → Core) : (s.modCore c f).running = s.running := rfl
@[simp] theorem modCore_warm (s : State) (c : Nat) (f : Core → Core) : (s.modCore c f).warm = s.warm := rfl
@[simp] theorem modCore_meas (s : State) (c : Nat) (f : Core → Core) : (s.modCore c f).meas = s.meas := rfl
@[simp] theorem modCore_spares (s : State) (c : Nat) (f : Core → Core) : (s.modCore c f).spares = s.spares := rfl
@[simp] theorem modCore_moved (s : State) (c : Nat) (f : Core → Core) : (s.modCore c f).moved = s.moved := rfl
@[simp] theorem modCore_selfTest (s : State) (c : Nat) (f : Core → Core) : (s.modCore c f).selfTest = s.selfTest := rfl
@[simp] theorem modCore_suspects (s : State) (c : Nat) (f : Core → Core) : (s.modCore c f).suspects = s.suspects := rfl
@[simp] theorem modCore_lostSram (s : State) (c : Nat) (f : Core → Core) : (s.modCore c f).lostSram = s.lostSram := rfl
@[simp] theorem modCore_restarts (s : State) (c : Nat) (f : Core → Core) : (s.modCore c f).restarts = s.restarts := rfl
@[simp] theorem modCore_repair (s : State) (c : Nat) (f : Core → Core) : (s.modCore c f).repair = s.repair := rfl
@[simp] theorem modCore_attest (s : State) (c : Nat) (f : Core → Core) : (s.modCore c f).attest = s.attest := rfl
@[simp] theorem modCore_crepair (s : State) (c : Nat) (f : Core → Core) : (s.modCore c f).crepair = s.crepair := rfl
@[simp] theorem modCore_rsaved (s : State) (c : Nat) (f : Core → Core) : (s.modCore c f).rsaved = s.rsaved := rfl
@[simp] theorem modCore_pcieVis (s : State) (c : Nat) (f : Core → Core) : (s.modCore c f).pcieVis = s.pcieVis := rfl
@[simp] theorem modCore_inbox (s : State) (c : Nat) (f : Core → Core) : (s.modCore c f).inbox = s.inbox := rfl
@[simp] theorem modCore_nextId (s : State) (c : Nat) (f : Core → Core) : (s.modCore c f).nextId = s.nextId := rfl
@[simp] theorem modCore_fresh (s : State) (c : Nat) (f : Core → Core) : (s.modCore c f).fresh = s.fresh := rfl

/-! ## `modWave` -/

@[simp] theorem modWave_cur (s : State) (c t : Nat) (f : Wave → Wave) : (s.modWave c t f).cur = s.cur := rfl
@[simp] theorem modWave_cls (s : State) (c t : Nat) (f : Wave → Wave) : (s.modWave c t f).cls = s.cls := rfl
@[simp] theorem modWave_crs (s : State) (c t : Nat) (f : Wave → Wave) : (s.modWave c t f).crs = s.crs := rfl
@[simp] theorem modWave_lease (s : State) (c t : Nat) (f : Wave → Wave) : (s.modWave c t f).lease = s.lease := rfl
@[simp] theorem modWave_sram (s : State) (c t : Nat) (f : Wave → Wave) : (s.modWave c t f).sram = s.sram := rfl
@[simp] theorem modWave_hbm (s : State) (c t : Nat) (f : Wave → Wave) : (s.modWave c t f).hbm = s.hbm := rfl
@[simp] theorem modWave_sramTag (s : State) (c t : Nat) (f : Wave → Wave) : (s.modWave c t f).sramTag = s.sramTag := rfl
@[simp] theorem modWave_hbmTag (s : State) (c t : Nat) (f : Wave → Wave) : (s.modWave c t f).hbmTag = s.hbmTag := rfl
@[simp] theorem modWave_lx (s : State) (c t : Nat) (f : Wave → Wave) : (s.modWave c t f).lx = s.lx := rfl
@[simp] theorem modWave_badHbm (s : State) (c t : Nat) (f : Wave → Wave) : (s.modWave c t f).badHbm = s.badHbm := rfl
@[simp] theorem modWave_badSram (s : State) (c t : Nat) (f : Wave → Wave) : (s.modWave c t f).badSram = s.badSram := rfl
@[simp] theorem modWave_softHbm (s : State) (c t : Nat) (f : Wave → Wave) : (s.modWave c t f).softHbm = s.softHbm := rfl
@[simp] theorem modWave_hbanks (s : State) (c t : Nat) (f : Wave → Wave) : (s.modWave c t f).hbanks = s.hbanks := rfl
@[simp] theorem modWave_rowCnt (s : State) (c t : Nat) (f : Wave → Wave) : (s.modWave c t f).rowCnt = s.rowCnt := rfl
@[simp] theorem modWave_remap (s : State) (c t : Nat) (f : Wave → Wave) : (s.modWave c t f).remap = s.remap := rfl
@[simp] theorem modWave_hub (s : State) (c t : Nat) (f : Wave → Wave) : (s.modWave c t f).hub = s.hub := rfl
@[simp] theorem modWave_reloadAt (s : State) (c t : Nat) (f : Wave → Wave) : (s.modWave c t f).reloadAt = s.reloadAt := rfl
@[simp] theorem modWave_mig (s : State) (c t : Nat) (f : Wave → Wave) : (s.modWave c t f).mig = s.mig := rfl
@[simp] theorem modWave_hwin (s : State) (c t : Nat) (f : Wave → Wave) : (s.modWave c t f).hwin = s.hwin := rfl
@[simp] theorem modWave_prods (s : State) (c t : Nat) (f : Wave → Wave) : (s.modWave c t f).prods = s.prods := rfl
@[simp] theorem modWave_stores (s : State) (c t : Nat) (f : Wave → Wave) : (s.modWave c t f).stores = s.stores := rfl
@[simp] theorem modWave_copies (s : State) (c t : Nat) (f : Wave → Wave) : (s.modWave c t f).copies = s.copies := rfl
@[simp] theorem modWave_drains (s : State) (c t : Nat) (f : Wave → Wave) : (s.modWave c t f).drains = s.drains := rfl
@[simp] theorem modWave_bars (s : State) (c t : Nat) (f : Wave → Wave) : (s.modWave c t f).bars = s.bars := rfl
@[simp] theorem modWave_summary (s : State) (c t : Nat) (f : Wave → Wave) : (s.modWave c t f).summary = s.summary := rfl
@[simp] theorem modWave_sumQ (s : State) (c t : Nat) (f : Wave → Wave) : (s.modWave c t f).sumQ = s.sumQ := rfl
@[simp] theorem modWave_lxl (s : State) (c t : Nat) (f : Wave → Wave) : (s.modWave c t f).lxl = s.lxl := rfl
@[simp] theorem modWave_recalls (s : State) (c t : Nat) (f : Wave → Wave) : (s.modWave c t f).recalls = s.recalls := rfl
@[simp] theorem modWave_ways (s : State) (c t : Nat) (f : Wave → Wave) : (s.modWave c t f).ways = s.ways := rfl
@[simp] theorem modWave_saves (s : State) (c t : Nat) (f : Wave → Wave) : (s.modWave c t f).saves = s.saves := rfl
@[simp] theorem modWave_peers (s : State) (c t : Nat) (f : Wave → Wave) : (s.modWave c t f).peers = s.peers := rfl
@[simp] theorem modWave_netOps (s : State) (c t : Nat) (f : Wave → Wave) : (s.modWave c t f).netOps = s.netOps := rfl
@[simp] theorem modWave_netMsgs (s : State) (c t : Nat) (f : Wave → Wave) : (s.modWave c t f).netMsgs = s.netMsgs := rfl
@[simp] theorem modWave_ethUp (s : State) (c t : Nat) (f : Wave → Wave) : (s.modWave c t f).ethUp = s.ethUp := rfl
@[simp] theorem modWave_syncGood (s : State) (c t : Nat) (f : Wave → Wave) : (s.modWave c t f).syncGood = s.syncGood := rfl
@[simp] theorem modWave_syncLast (s : State) (c t : Nat) (f : Wave → Wave) : (s.modWave c t f).syncLast = s.syncLast := rfl
@[simp] theorem modWave_syncAt (s : State) (c t : Nat) (f : Wave → Wave) : (s.modWave c t f).syncAt = s.syncAt := rfl
@[simp] theorem modWave_syncT1 (s : State) (c t : Nat) (f : Wave → Wave) : (s.modWave c t f).syncT1 = s.syncT1 := rfl
@[simp] theorem modWave_shards (s : State) (c t : Nat) (f : Wave → Wave) : (s.modWave c t f).shards = s.shards := rfl
@[simp] theorem modWave_update (s : State) (c t : Nat) (f : Wave → Wave) : (s.modWave c t f).update = s.update := rfl
@[simp] theorem modWave_files (s : State) (c t : Nat) (f : Wave → Wave) : (s.modWave c t f).files = s.files := rfl
@[simp] theorem modWave_handles (s : State) (c t : Nat) (f : Wave → Wave) : (s.modWave c t f).handles = s.handles := rfl
@[simp] theorem modWave_out (s : State) (c t : Nat) (f : Wave → Wave) : (s.modWave c t f).out = s.out := rfl
@[simp] theorem modWave_drives (s : State) (c t : Nat) (f : Wave → Wave) : (s.modWave c t f).drives = s.drives := rfl
@[simp] theorem modWave_running (s : State) (c t : Nat) (f : Wave → Wave) : (s.modWave c t f).running = s.running := rfl
@[simp] theorem modWave_warm (s : State) (c t : Nat) (f : Wave → Wave) : (s.modWave c t f).warm = s.warm := rfl
@[simp] theorem modWave_meas (s : State) (c t : Nat) (f : Wave → Wave) : (s.modWave c t f).meas = s.meas := rfl
@[simp] theorem modWave_spares (s : State) (c t : Nat) (f : Wave → Wave) : (s.modWave c t f).spares = s.spares := rfl
@[simp] theorem modWave_moved (s : State) (c t : Nat) (f : Wave → Wave) : (s.modWave c t f).moved = s.moved := rfl
@[simp] theorem modWave_selfTest (s : State) (c t : Nat) (f : Wave → Wave) : (s.modWave c t f).selfTest = s.selfTest := rfl
@[simp] theorem modWave_suspects (s : State) (c t : Nat) (f : Wave → Wave) : (s.modWave c t f).suspects = s.suspects := rfl
@[simp] theorem modWave_lostSram (s : State) (c t : Nat) (f : Wave → Wave) : (s.modWave c t f).lostSram = s.lostSram := rfl
@[simp] theorem modWave_restarts (s : State) (c t : Nat) (f : Wave → Wave) : (s.modWave c t f).restarts = s.restarts := rfl
@[simp] theorem modWave_repair (s : State) (c t : Nat) (f : Wave → Wave) : (s.modWave c t f).repair = s.repair := rfl
@[simp] theorem modWave_attest (s : State) (c t : Nat) (f : Wave → Wave) : (s.modWave c t f).attest = s.attest := rfl
@[simp] theorem modWave_crepair (s : State) (c t : Nat) (f : Wave → Wave) : (s.modWave c t f).crepair = s.crepair := rfl
@[simp] theorem modWave_rsaved (s : State) (c t : Nat) (f : Wave → Wave) : (s.modWave c t f).rsaved = s.rsaved := rfl
@[simp] theorem modWave_pcieVis (s : State) (c t : Nat) (f : Wave → Wave) : (s.modWave c t f).pcieVis = s.pcieVis := rfl
@[simp] theorem modWave_inbox (s : State) (c t : Nat) (f : Wave → Wave) : (s.modWave c t f).inbox = s.inbox := rfl
@[simp] theorem modWave_nextId (s : State) (c t : Nat) (f : Wave → Wave) : (s.modWave c t f).nextId = s.nextId := rfl
@[simp] theorem modWave_fresh (s : State) (c t : Nat) (f : Wave → Wave) : (s.modWave c t f).fresh = s.fresh := rfl

/-! ## `modThread` -/

@[simp] theorem modThread_cur (s : State) (c t l : Nat) (f : Thread → Thread) : (s.modThread c t l f).cur = s.cur := rfl
@[simp] theorem modThread_cls (s : State) (c t l : Nat) (f : Thread → Thread) : (s.modThread c t l f).cls = s.cls := rfl
@[simp] theorem modThread_crs (s : State) (c t l : Nat) (f : Thread → Thread) : (s.modThread c t l f).crs = s.crs := rfl
@[simp] theorem modThread_lease (s : State) (c t l : Nat) (f : Thread → Thread) : (s.modThread c t l f).lease = s.lease := rfl
@[simp] theorem modThread_sram (s : State) (c t l : Nat) (f : Thread → Thread) : (s.modThread c t l f).sram = s.sram := rfl
@[simp] theorem modThread_hbm (s : State) (c t l : Nat) (f : Thread → Thread) : (s.modThread c t l f).hbm = s.hbm := rfl
@[simp] theorem modThread_sramTag (s : State) (c t l : Nat) (f : Thread → Thread) : (s.modThread c t l f).sramTag = s.sramTag := rfl
@[simp] theorem modThread_hbmTag (s : State) (c t l : Nat) (f : Thread → Thread) : (s.modThread c t l f).hbmTag = s.hbmTag := rfl
@[simp] theorem modThread_lx (s : State) (c t l : Nat) (f : Thread → Thread) : (s.modThread c t l f).lx = s.lx := rfl
@[simp] theorem modThread_badHbm (s : State) (c t l : Nat) (f : Thread → Thread) : (s.modThread c t l f).badHbm = s.badHbm := rfl
@[simp] theorem modThread_badSram (s : State) (c t l : Nat) (f : Thread → Thread) : (s.modThread c t l f).badSram = s.badSram := rfl
@[simp] theorem modThread_softHbm (s : State) (c t l : Nat) (f : Thread → Thread) : (s.modThread c t l f).softHbm = s.softHbm := rfl
@[simp] theorem modThread_hbanks (s : State) (c t l : Nat) (f : Thread → Thread) : (s.modThread c t l f).hbanks = s.hbanks := rfl
@[simp] theorem modThread_rowCnt (s : State) (c t l : Nat) (f : Thread → Thread) : (s.modThread c t l f).rowCnt = s.rowCnt := rfl
@[simp] theorem modThread_remap (s : State) (c t l : Nat) (f : Thread → Thread) : (s.modThread c t l f).remap = s.remap := rfl
@[simp] theorem modThread_hub (s : State) (c t l : Nat) (f : Thread → Thread) : (s.modThread c t l f).hub = s.hub := rfl
@[simp] theorem modThread_reloadAt (s : State) (c t l : Nat) (f : Thread → Thread) : (s.modThread c t l f).reloadAt = s.reloadAt := rfl
@[simp] theorem modThread_mig (s : State) (c t l : Nat) (f : Thread → Thread) : (s.modThread c t l f).mig = s.mig := rfl
@[simp] theorem modThread_hwin (s : State) (c t l : Nat) (f : Thread → Thread) : (s.modThread c t l f).hwin = s.hwin := rfl
@[simp] theorem modThread_prods (s : State) (c t l : Nat) (f : Thread → Thread) : (s.modThread c t l f).prods = s.prods := rfl
@[simp] theorem modThread_stores (s : State) (c t l : Nat) (f : Thread → Thread) : (s.modThread c t l f).stores = s.stores := rfl
@[simp] theorem modThread_copies (s : State) (c t l : Nat) (f : Thread → Thread) : (s.modThread c t l f).copies = s.copies := rfl
@[simp] theorem modThread_drains (s : State) (c t l : Nat) (f : Thread → Thread) : (s.modThread c t l f).drains = s.drains := rfl
@[simp] theorem modThread_bars (s : State) (c t l : Nat) (f : Thread → Thread) : (s.modThread c t l f).bars = s.bars := rfl
@[simp] theorem modThread_summary (s : State) (c t l : Nat) (f : Thread → Thread) : (s.modThread c t l f).summary = s.summary := rfl
@[simp] theorem modThread_sumQ (s : State) (c t l : Nat) (f : Thread → Thread) : (s.modThread c t l f).sumQ = s.sumQ := rfl
@[simp] theorem modThread_lxl (s : State) (c t l : Nat) (f : Thread → Thread) : (s.modThread c t l f).lxl = s.lxl := rfl
@[simp] theorem modThread_recalls (s : State) (c t l : Nat) (f : Thread → Thread) : (s.modThread c t l f).recalls = s.recalls := rfl
@[simp] theorem modThread_ways (s : State) (c t l : Nat) (f : Thread → Thread) : (s.modThread c t l f).ways = s.ways := rfl
@[simp] theorem modThread_saves (s : State) (c t l : Nat) (f : Thread → Thread) : (s.modThread c t l f).saves = s.saves := rfl
@[simp] theorem modThread_peers (s : State) (c t l : Nat) (f : Thread → Thread) : (s.modThread c t l f).peers = s.peers := rfl
@[simp] theorem modThread_netOps (s : State) (c t l : Nat) (f : Thread → Thread) : (s.modThread c t l f).netOps = s.netOps := rfl
@[simp] theorem modThread_netMsgs (s : State) (c t l : Nat) (f : Thread → Thread) : (s.modThread c t l f).netMsgs = s.netMsgs := rfl
@[simp] theorem modThread_ethUp (s : State) (c t l : Nat) (f : Thread → Thread) : (s.modThread c t l f).ethUp = s.ethUp := rfl
@[simp] theorem modThread_syncGood (s : State) (c t l : Nat) (f : Thread → Thread) : (s.modThread c t l f).syncGood = s.syncGood := rfl
@[simp] theorem modThread_syncLast (s : State) (c t l : Nat) (f : Thread → Thread) : (s.modThread c t l f).syncLast = s.syncLast := rfl
@[simp] theorem modThread_syncAt (s : State) (c t l : Nat) (f : Thread → Thread) : (s.modThread c t l f).syncAt = s.syncAt := rfl
@[simp] theorem modThread_syncT1 (s : State) (c t l : Nat) (f : Thread → Thread) : (s.modThread c t l f).syncT1 = s.syncT1 := rfl
@[simp] theorem modThread_shards (s : State) (c t l : Nat) (f : Thread → Thread) : (s.modThread c t l f).shards = s.shards := rfl
@[simp] theorem modThread_update (s : State) (c t l : Nat) (f : Thread → Thread) : (s.modThread c t l f).update = s.update := rfl
@[simp] theorem modThread_files (s : State) (c t l : Nat) (f : Thread → Thread) : (s.modThread c t l f).files = s.files := rfl
@[simp] theorem modThread_handles (s : State) (c t l : Nat) (f : Thread → Thread) : (s.modThread c t l f).handles = s.handles := rfl
@[simp] theorem modThread_out (s : State) (c t l : Nat) (f : Thread → Thread) : (s.modThread c t l f).out = s.out := rfl
@[simp] theorem modThread_drives (s : State) (c t l : Nat) (f : Thread → Thread) : (s.modThread c t l f).drives = s.drives := rfl
@[simp] theorem modThread_running (s : State) (c t l : Nat) (f : Thread → Thread) : (s.modThread c t l f).running = s.running := rfl
@[simp] theorem modThread_warm (s : State) (c t l : Nat) (f : Thread → Thread) : (s.modThread c t l f).warm = s.warm := rfl
@[simp] theorem modThread_meas (s : State) (c t l : Nat) (f : Thread → Thread) : (s.modThread c t l f).meas = s.meas := rfl
@[simp] theorem modThread_spares (s : State) (c t l : Nat) (f : Thread → Thread) : (s.modThread c t l f).spares = s.spares := rfl
@[simp] theorem modThread_moved (s : State) (c t l : Nat) (f : Thread → Thread) : (s.modThread c t l f).moved = s.moved := rfl
@[simp] theorem modThread_selfTest (s : State) (c t l : Nat) (f : Thread → Thread) : (s.modThread c t l f).selfTest = s.selfTest := rfl
@[simp] theorem modThread_suspects (s : State) (c t l : Nat) (f : Thread → Thread) : (s.modThread c t l f).suspects = s.suspects := rfl
@[simp] theorem modThread_lostSram (s : State) (c t l : Nat) (f : Thread → Thread) : (s.modThread c t l f).lostSram = s.lostSram := rfl
@[simp] theorem modThread_restarts (s : State) (c t l : Nat) (f : Thread → Thread) : (s.modThread c t l f).restarts = s.restarts := rfl
@[simp] theorem modThread_repair (s : State) (c t l : Nat) (f : Thread → Thread) : (s.modThread c t l f).repair = s.repair := rfl
@[simp] theorem modThread_attest (s : State) (c t l : Nat) (f : Thread → Thread) : (s.modThread c t l f).attest = s.attest := rfl
@[simp] theorem modThread_crepair (s : State) (c t l : Nat) (f : Thread → Thread) : (s.modThread c t l f).crepair = s.crepair := rfl
@[simp] theorem modThread_rsaved (s : State) (c t l : Nat) (f : Thread → Thread) : (s.modThread c t l f).rsaved = s.rsaved := rfl
@[simp] theorem modThread_pcieVis (s : State) (c t l : Nat) (f : Thread → Thread) : (s.modThread c t l f).pcieVis = s.pcieVis := rfl
@[simp] theorem modThread_inbox (s : State) (c t l : Nat) (f : Thread → Thread) : (s.modThread c t l f).inbox = s.inbox := rfl
@[simp] theorem modThread_nextId (s : State) (c t l : Nat) (f : Thread → Thread) : (s.modThread c t l f).nextId = s.nextId := rfl
@[simp] theorem modThread_fresh (s : State) (c t l : Nat) (f : Thread → Thread) : (s.modThread c t l f).fresh = s.fresh := rfl

/-! ## `modThreads` -/

@[simp] theorem modThreads_cur (s : State) (c t : Nat) (m : Mask) (f : Nat → Thread → Thread) : (s.modThreads c t m f).cur = s.cur := rfl
@[simp] theorem modThreads_cls (s : State) (c t : Nat) (m : Mask) (f : Nat → Thread → Thread) : (s.modThreads c t m f).cls = s.cls := rfl
@[simp] theorem modThreads_crs (s : State) (c t : Nat) (m : Mask) (f : Nat → Thread → Thread) : (s.modThreads c t m f).crs = s.crs := rfl
@[simp] theorem modThreads_lease (s : State) (c t : Nat) (m : Mask) (f : Nat → Thread → Thread) : (s.modThreads c t m f).lease = s.lease := rfl
@[simp] theorem modThreads_sram (s : State) (c t : Nat) (m : Mask) (f : Nat → Thread → Thread) : (s.modThreads c t m f).sram = s.sram := rfl
@[simp] theorem modThreads_hbm (s : State) (c t : Nat) (m : Mask) (f : Nat → Thread → Thread) : (s.modThreads c t m f).hbm = s.hbm := rfl
@[simp] theorem modThreads_sramTag (s : State) (c t : Nat) (m : Mask) (f : Nat → Thread → Thread) : (s.modThreads c t m f).sramTag = s.sramTag := rfl
@[simp] theorem modThreads_hbmTag (s : State) (c t : Nat) (m : Mask) (f : Nat → Thread → Thread) : (s.modThreads c t m f).hbmTag = s.hbmTag := rfl
@[simp] theorem modThreads_lx (s : State) (c t : Nat) (m : Mask) (f : Nat → Thread → Thread) : (s.modThreads c t m f).lx = s.lx := rfl
@[simp] theorem modThreads_badHbm (s : State) (c t : Nat) (m : Mask) (f : Nat → Thread → Thread) : (s.modThreads c t m f).badHbm = s.badHbm := rfl
@[simp] theorem modThreads_badSram (s : State) (c t : Nat) (m : Mask) (f : Nat → Thread → Thread) : (s.modThreads c t m f).badSram = s.badSram := rfl
@[simp] theorem modThreads_softHbm (s : State) (c t : Nat) (m : Mask) (f : Nat → Thread → Thread) : (s.modThreads c t m f).softHbm = s.softHbm := rfl
@[simp] theorem modThreads_hbanks (s : State) (c t : Nat) (m : Mask) (f : Nat → Thread → Thread) : (s.modThreads c t m f).hbanks = s.hbanks := rfl
@[simp] theorem modThreads_rowCnt (s : State) (c t : Nat) (m : Mask) (f : Nat → Thread → Thread) : (s.modThreads c t m f).rowCnt = s.rowCnt := rfl
@[simp] theorem modThreads_remap (s : State) (c t : Nat) (m : Mask) (f : Nat → Thread → Thread) : (s.modThreads c t m f).remap = s.remap := rfl
@[simp] theorem modThreads_hub (s : State) (c t : Nat) (m : Mask) (f : Nat → Thread → Thread) : (s.modThreads c t m f).hub = s.hub := rfl
@[simp] theorem modThreads_reloadAt (s : State) (c t : Nat) (m : Mask) (f : Nat → Thread → Thread) : (s.modThreads c t m f).reloadAt = s.reloadAt := rfl
@[simp] theorem modThreads_mig (s : State) (c t : Nat) (m : Mask) (f : Nat → Thread → Thread) : (s.modThreads c t m f).mig = s.mig := rfl
@[simp] theorem modThreads_hwin (s : State) (c t : Nat) (m : Mask) (f : Nat → Thread → Thread) : (s.modThreads c t m f).hwin = s.hwin := rfl
@[simp] theorem modThreads_prods (s : State) (c t : Nat) (m : Mask) (f : Nat → Thread → Thread) : (s.modThreads c t m f).prods = s.prods := rfl
@[simp] theorem modThreads_stores (s : State) (c t : Nat) (m : Mask) (f : Nat → Thread → Thread) : (s.modThreads c t m f).stores = s.stores := rfl
@[simp] theorem modThreads_copies (s : State) (c t : Nat) (m : Mask) (f : Nat → Thread → Thread) : (s.modThreads c t m f).copies = s.copies := rfl
@[simp] theorem modThreads_drains (s : State) (c t : Nat) (m : Mask) (f : Nat → Thread → Thread) : (s.modThreads c t m f).drains = s.drains := rfl
@[simp] theorem modThreads_bars (s : State) (c t : Nat) (m : Mask) (f : Nat → Thread → Thread) : (s.modThreads c t m f).bars = s.bars := rfl
@[simp] theorem modThreads_summary (s : State) (c t : Nat) (m : Mask) (f : Nat → Thread → Thread) : (s.modThreads c t m f).summary = s.summary := rfl
@[simp] theorem modThreads_sumQ (s : State) (c t : Nat) (m : Mask) (f : Nat → Thread → Thread) : (s.modThreads c t m f).sumQ = s.sumQ := rfl
@[simp] theorem modThreads_lxl (s : State) (c t : Nat) (m : Mask) (f : Nat → Thread → Thread) : (s.modThreads c t m f).lxl = s.lxl := rfl
@[simp] theorem modThreads_recalls (s : State) (c t : Nat) (m : Mask) (f : Nat → Thread → Thread) : (s.modThreads c t m f).recalls = s.recalls := rfl
@[simp] theorem modThreads_ways (s : State) (c t : Nat) (m : Mask) (f : Nat → Thread → Thread) : (s.modThreads c t m f).ways = s.ways := rfl
@[simp] theorem modThreads_saves (s : State) (c t : Nat) (m : Mask) (f : Nat → Thread → Thread) : (s.modThreads c t m f).saves = s.saves := rfl
@[simp] theorem modThreads_peers (s : State) (c t : Nat) (m : Mask) (f : Nat → Thread → Thread) : (s.modThreads c t m f).peers = s.peers := rfl
@[simp] theorem modThreads_netOps (s : State) (c t : Nat) (m : Mask) (f : Nat → Thread → Thread) : (s.modThreads c t m f).netOps = s.netOps := rfl
@[simp] theorem modThreads_netMsgs (s : State) (c t : Nat) (m : Mask) (f : Nat → Thread → Thread) : (s.modThreads c t m f).netMsgs = s.netMsgs := rfl
@[simp] theorem modThreads_ethUp (s : State) (c t : Nat) (m : Mask) (f : Nat → Thread → Thread) : (s.modThreads c t m f).ethUp = s.ethUp := rfl
@[simp] theorem modThreads_syncGood (s : State) (c t : Nat) (m : Mask) (f : Nat → Thread → Thread) : (s.modThreads c t m f).syncGood = s.syncGood := rfl
@[simp] theorem modThreads_syncLast (s : State) (c t : Nat) (m : Mask) (f : Nat → Thread → Thread) : (s.modThreads c t m f).syncLast = s.syncLast := rfl
@[simp] theorem modThreads_syncAt (s : State) (c t : Nat) (m : Mask) (f : Nat → Thread → Thread) : (s.modThreads c t m f).syncAt = s.syncAt := rfl
@[simp] theorem modThreads_syncT1 (s : State) (c t : Nat) (m : Mask) (f : Nat → Thread → Thread) : (s.modThreads c t m f).syncT1 = s.syncT1 := rfl
@[simp] theorem modThreads_shards (s : State) (c t : Nat) (m : Mask) (f : Nat → Thread → Thread) : (s.modThreads c t m f).shards = s.shards := rfl
@[simp] theorem modThreads_update (s : State) (c t : Nat) (m : Mask) (f : Nat → Thread → Thread) : (s.modThreads c t m f).update = s.update := rfl
@[simp] theorem modThreads_files (s : State) (c t : Nat) (m : Mask) (f : Nat → Thread → Thread) : (s.modThreads c t m f).files = s.files := rfl
@[simp] theorem modThreads_handles (s : State) (c t : Nat) (m : Mask) (f : Nat → Thread → Thread) : (s.modThreads c t m f).handles = s.handles := rfl
@[simp] theorem modThreads_out (s : State) (c t : Nat) (m : Mask) (f : Nat → Thread → Thread) : (s.modThreads c t m f).out = s.out := rfl
@[simp] theorem modThreads_drives (s : State) (c t : Nat) (m : Mask) (f : Nat → Thread → Thread) : (s.modThreads c t m f).drives = s.drives := rfl
@[simp] theorem modThreads_running (s : State) (c t : Nat) (m : Mask) (f : Nat → Thread → Thread) : (s.modThreads c t m f).running = s.running := rfl
@[simp] theorem modThreads_warm (s : State) (c t : Nat) (m : Mask) (f : Nat → Thread → Thread) : (s.modThreads c t m f).warm = s.warm := rfl
@[simp] theorem modThreads_meas (s : State) (c t : Nat) (m : Mask) (f : Nat → Thread → Thread) : (s.modThreads c t m f).meas = s.meas := rfl
@[simp] theorem modThreads_spares (s : State) (c t : Nat) (m : Mask) (f : Nat → Thread → Thread) : (s.modThreads c t m f).spares = s.spares := rfl
@[simp] theorem modThreads_moved (s : State) (c t : Nat) (m : Mask) (f : Nat → Thread → Thread) : (s.modThreads c t m f).moved = s.moved := rfl
@[simp] theorem modThreads_selfTest (s : State) (c t : Nat) (m : Mask) (f : Nat → Thread → Thread) : (s.modThreads c t m f).selfTest = s.selfTest := rfl
@[simp] theorem modThreads_suspects (s : State) (c t : Nat) (m : Mask) (f : Nat → Thread → Thread) : (s.modThreads c t m f).suspects = s.suspects := rfl
@[simp] theorem modThreads_lostSram (s : State) (c t : Nat) (m : Mask) (f : Nat → Thread → Thread) : (s.modThreads c t m f).lostSram = s.lostSram := rfl
@[simp] theorem modThreads_restarts (s : State) (c t : Nat) (m : Mask) (f : Nat → Thread → Thread) : (s.modThreads c t m f).restarts = s.restarts := rfl
@[simp] theorem modThreads_repair (s : State) (c t : Nat) (m : Mask) (f : Nat → Thread → Thread) : (s.modThreads c t m f).repair = s.repair := rfl
@[simp] theorem modThreads_attest (s : State) (c t : Nat) (m : Mask) (f : Nat → Thread → Thread) : (s.modThreads c t m f).attest = s.attest := rfl
@[simp] theorem modThreads_crepair (s : State) (c t : Nat) (m : Mask) (f : Nat → Thread → Thread) : (s.modThreads c t m f).crepair = s.crepair := rfl
@[simp] theorem modThreads_rsaved (s : State) (c t : Nat) (m : Mask) (f : Nat → Thread → Thread) : (s.modThreads c t m f).rsaved = s.rsaved := rfl
@[simp] theorem modThreads_pcieVis (s : State) (c t : Nat) (m : Mask) (f : Nat → Thread → Thread) : (s.modThreads c t m f).pcieVis = s.pcieVis := rfl
@[simp] theorem modThreads_inbox (s : State) (c t : Nat) (m : Mask) (f : Nat → Thread → Thread) : (s.modThreads c t m f).inbox = s.inbox := rfl
@[simp] theorem modThreads_nextId (s : State) (c t : Nat) (m : Mask) (f : Nat → Thread → Thread) : (s.modThreads c t m f).nextId = s.nextId := rfl
@[simp] theorem modThreads_fresh (s : State) (c t : Nat) (m : Mask) (f : Nat → Thread → Thread) : (s.modThreads c t m f).fresh = s.fresh := rfl

/-! ## `modCl` -/

@[simp] theorem modCl_cur (s : State) (c : Nat) (f : Cluster → Cluster) : (s.modCl c f).cur = s.cur := rfl
@[simp] theorem modCl_cores (s : State) (c : Nat) (f : Cluster → Cluster) : (s.modCl c f).cores = s.cores := rfl
@[simp] theorem modCl_crs (s : State) (c : Nat) (f : Cluster → Cluster) : (s.modCl c f).crs = s.crs := rfl
@[simp] theorem modCl_lease (s : State) (c : Nat) (f : Cluster → Cluster) : (s.modCl c f).lease = s.lease := rfl
@[simp] theorem modCl_sram (s : State) (c : Nat) (f : Cluster → Cluster) : (s.modCl c f).sram = s.sram := rfl
@[simp] theorem modCl_hbm (s : State) (c : Nat) (f : Cluster → Cluster) : (s.modCl c f).hbm = s.hbm := rfl
@[simp] theorem modCl_sramTag (s : State) (c : Nat) (f : Cluster → Cluster) : (s.modCl c f).sramTag = s.sramTag := rfl
@[simp] theorem modCl_hbmTag (s : State) (c : Nat) (f : Cluster → Cluster) : (s.modCl c f).hbmTag = s.hbmTag := rfl
@[simp] theorem modCl_lx (s : State) (c : Nat) (f : Cluster → Cluster) : (s.modCl c f).lx = s.lx := rfl
@[simp] theorem modCl_badHbm (s : State) (c : Nat) (f : Cluster → Cluster) : (s.modCl c f).badHbm = s.badHbm := rfl
@[simp] theorem modCl_badSram (s : State) (c : Nat) (f : Cluster → Cluster) : (s.modCl c f).badSram = s.badSram := rfl
@[simp] theorem modCl_softHbm (s : State) (c : Nat) (f : Cluster → Cluster) : (s.modCl c f).softHbm = s.softHbm := rfl
@[simp] theorem modCl_hbanks (s : State) (c : Nat) (f : Cluster → Cluster) : (s.modCl c f).hbanks = s.hbanks := rfl
@[simp] theorem modCl_rowCnt (s : State) (c : Nat) (f : Cluster → Cluster) : (s.modCl c f).rowCnt = s.rowCnt := rfl
@[simp] theorem modCl_remap (s : State) (c : Nat) (f : Cluster → Cluster) : (s.modCl c f).remap = s.remap := rfl
@[simp] theorem modCl_hub (s : State) (c : Nat) (f : Cluster → Cluster) : (s.modCl c f).hub = s.hub := rfl
@[simp] theorem modCl_reloadAt (s : State) (c : Nat) (f : Cluster → Cluster) : (s.modCl c f).reloadAt = s.reloadAt := rfl
@[simp] theorem modCl_mig (s : State) (c : Nat) (f : Cluster → Cluster) : (s.modCl c f).mig = s.mig := rfl
@[simp] theorem modCl_hwin (s : State) (c : Nat) (f : Cluster → Cluster) : (s.modCl c f).hwin = s.hwin := rfl
@[simp] theorem modCl_prods (s : State) (c : Nat) (f : Cluster → Cluster) : (s.modCl c f).prods = s.prods := rfl
@[simp] theorem modCl_stores (s : State) (c : Nat) (f : Cluster → Cluster) : (s.modCl c f).stores = s.stores := rfl
@[simp] theorem modCl_copies (s : State) (c : Nat) (f : Cluster → Cluster) : (s.modCl c f).copies = s.copies := rfl
@[simp] theorem modCl_drains (s : State) (c : Nat) (f : Cluster → Cluster) : (s.modCl c f).drains = s.drains := rfl
@[simp] theorem modCl_bars (s : State) (c : Nat) (f : Cluster → Cluster) : (s.modCl c f).bars = s.bars := rfl
@[simp] theorem modCl_summary (s : State) (c : Nat) (f : Cluster → Cluster) : (s.modCl c f).summary = s.summary := rfl
@[simp] theorem modCl_sumQ (s : State) (c : Nat) (f : Cluster → Cluster) : (s.modCl c f).sumQ = s.sumQ := rfl
@[simp] theorem modCl_lxl (s : State) (c : Nat) (f : Cluster → Cluster) : (s.modCl c f).lxl = s.lxl := rfl
@[simp] theorem modCl_recalls (s : State) (c : Nat) (f : Cluster → Cluster) : (s.modCl c f).recalls = s.recalls := rfl
@[simp] theorem modCl_ways (s : State) (c : Nat) (f : Cluster → Cluster) : (s.modCl c f).ways = s.ways := rfl
@[simp] theorem modCl_saves (s : State) (c : Nat) (f : Cluster → Cluster) : (s.modCl c f).saves = s.saves := rfl
@[simp] theorem modCl_peers (s : State) (c : Nat) (f : Cluster → Cluster) : (s.modCl c f).peers = s.peers := rfl
@[simp] theorem modCl_netOps (s : State) (c : Nat) (f : Cluster → Cluster) : (s.modCl c f).netOps = s.netOps := rfl
@[simp] theorem modCl_netMsgs (s : State) (c : Nat) (f : Cluster → Cluster) : (s.modCl c f).netMsgs = s.netMsgs := rfl
@[simp] theorem modCl_ethUp (s : State) (c : Nat) (f : Cluster → Cluster) : (s.modCl c f).ethUp = s.ethUp := rfl
@[simp] theorem modCl_syncGood (s : State) (c : Nat) (f : Cluster → Cluster) : (s.modCl c f).syncGood = s.syncGood := rfl
@[simp] theorem modCl_syncLast (s : State) (c : Nat) (f : Cluster → Cluster) : (s.modCl c f).syncLast = s.syncLast := rfl
@[simp] theorem modCl_syncAt (s : State) (c : Nat) (f : Cluster → Cluster) : (s.modCl c f).syncAt = s.syncAt := rfl
@[simp] theorem modCl_syncT1 (s : State) (c : Nat) (f : Cluster → Cluster) : (s.modCl c f).syncT1 = s.syncT1 := rfl
@[simp] theorem modCl_shards (s : State) (c : Nat) (f : Cluster → Cluster) : (s.modCl c f).shards = s.shards := rfl
@[simp] theorem modCl_update (s : State) (c : Nat) (f : Cluster → Cluster) : (s.modCl c f).update = s.update := rfl
@[simp] theorem modCl_files (s : State) (c : Nat) (f : Cluster → Cluster) : (s.modCl c f).files = s.files := rfl
@[simp] theorem modCl_handles (s : State) (c : Nat) (f : Cluster → Cluster) : (s.modCl c f).handles = s.handles := rfl
@[simp] theorem modCl_out (s : State) (c : Nat) (f : Cluster → Cluster) : (s.modCl c f).out = s.out := rfl
@[simp] theorem modCl_drives (s : State) (c : Nat) (f : Cluster → Cluster) : (s.modCl c f).drives = s.drives := rfl
@[simp] theorem modCl_running (s : State) (c : Nat) (f : Cluster → Cluster) : (s.modCl c f).running = s.running := rfl
@[simp] theorem modCl_warm (s : State) (c : Nat) (f : Cluster → Cluster) : (s.modCl c f).warm = s.warm := rfl
@[simp] theorem modCl_meas (s : State) (c : Nat) (f : Cluster → Cluster) : (s.modCl c f).meas = s.meas := rfl
@[simp] theorem modCl_spares (s : State) (c : Nat) (f : Cluster → Cluster) : (s.modCl c f).spares = s.spares := rfl
@[simp] theorem modCl_moved (s : State) (c : Nat) (f : Cluster → Cluster) : (s.modCl c f).moved = s.moved := rfl
@[simp] theorem modCl_selfTest (s : State) (c : Nat) (f : Cluster → Cluster) : (s.modCl c f).selfTest = s.selfTest := rfl
@[simp] theorem modCl_suspects (s : State) (c : Nat) (f : Cluster → Cluster) : (s.modCl c f).suspects = s.suspects := rfl
@[simp] theorem modCl_lostSram (s : State) (c : Nat) (f : Cluster → Cluster) : (s.modCl c f).lostSram = s.lostSram := rfl
@[simp] theorem modCl_restarts (s : State) (c : Nat) (f : Cluster → Cluster) : (s.modCl c f).restarts = s.restarts := rfl
@[simp] theorem modCl_repair (s : State) (c : Nat) (f : Cluster → Cluster) : (s.modCl c f).repair = s.repair := rfl
@[simp] theorem modCl_attest (s : State) (c : Nat) (f : Cluster → Cluster) : (s.modCl c f).attest = s.attest := rfl
@[simp] theorem modCl_crepair (s : State) (c : Nat) (f : Cluster → Cluster) : (s.modCl c f).crepair = s.crepair := rfl
@[simp] theorem modCl_rsaved (s : State) (c : Nat) (f : Cluster → Cluster) : (s.modCl c f).rsaved = s.rsaved := rfl
@[simp] theorem modCl_pcieVis (s : State) (c : Nat) (f : Cluster → Cluster) : (s.modCl c f).pcieVis = s.pcieVis := rfl
@[simp] theorem modCl_inbox (s : State) (c : Nat) (f : Cluster → Cluster) : (s.modCl c f).inbox = s.inbox := rfl
@[simp] theorem modCl_nextId (s : State) (c : Nat) (f : Cluster → Cluster) : (s.modCl c f).nextId = s.nextId := rfl
@[simp] theorem modCl_fresh (s : State) (c : Nat) (f : Cluster → Cluster) : (s.modCl c f).fresh = s.fresh := rfl

/-! ## `setCrT` -/

@[simp] theorem setCrT_cur (s : State) (cl thr num : Nat) (v : DWord) : (s.setCrT cl thr num v).cur = s.cur := rfl
@[simp] theorem setCrT_cores (s : State) (cl thr num : Nat) (v : DWord) : (s.setCrT cl thr num v).cores = s.cores := rfl
@[simp] theorem setCrT_cls (s : State) (cl thr num : Nat) (v : DWord) : (s.setCrT cl thr num v).cls = s.cls := rfl
@[simp] theorem setCrT_lease (s : State) (cl thr num : Nat) (v : DWord) : (s.setCrT cl thr num v).lease = s.lease := rfl
@[simp] theorem setCrT_sram (s : State) (cl thr num : Nat) (v : DWord) : (s.setCrT cl thr num v).sram = s.sram := rfl
@[simp] theorem setCrT_hbm (s : State) (cl thr num : Nat) (v : DWord) : (s.setCrT cl thr num v).hbm = s.hbm := rfl
@[simp] theorem setCrT_sramTag (s : State) (cl thr num : Nat) (v : DWord) : (s.setCrT cl thr num v).sramTag = s.sramTag := rfl
@[simp] theorem setCrT_hbmTag (s : State) (cl thr num : Nat) (v : DWord) : (s.setCrT cl thr num v).hbmTag = s.hbmTag := rfl
@[simp] theorem setCrT_lx (s : State) (cl thr num : Nat) (v : DWord) : (s.setCrT cl thr num v).lx = s.lx := rfl
@[simp] theorem setCrT_badHbm (s : State) (cl thr num : Nat) (v : DWord) : (s.setCrT cl thr num v).badHbm = s.badHbm := rfl
@[simp] theorem setCrT_badSram (s : State) (cl thr num : Nat) (v : DWord) : (s.setCrT cl thr num v).badSram = s.badSram := rfl
@[simp] theorem setCrT_softHbm (s : State) (cl thr num : Nat) (v : DWord) : (s.setCrT cl thr num v).softHbm = s.softHbm := rfl
@[simp] theorem setCrT_hbanks (s : State) (cl thr num : Nat) (v : DWord) : (s.setCrT cl thr num v).hbanks = s.hbanks := rfl
@[simp] theorem setCrT_rowCnt (s : State) (cl thr num : Nat) (v : DWord) : (s.setCrT cl thr num v).rowCnt = s.rowCnt := rfl
@[simp] theorem setCrT_remap (s : State) (cl thr num : Nat) (v : DWord) : (s.setCrT cl thr num v).remap = s.remap := rfl
@[simp] theorem setCrT_hub (s : State) (cl thr num : Nat) (v : DWord) : (s.setCrT cl thr num v).hub = s.hub := rfl
@[simp] theorem setCrT_reloadAt (s : State) (cl thr num : Nat) (v : DWord) : (s.setCrT cl thr num v).reloadAt = s.reloadAt := rfl
@[simp] theorem setCrT_mig (s : State) (cl thr num : Nat) (v : DWord) : (s.setCrT cl thr num v).mig = s.mig := rfl
@[simp] theorem setCrT_hwin (s : State) (cl thr num : Nat) (v : DWord) : (s.setCrT cl thr num v).hwin = s.hwin := rfl
@[simp] theorem setCrT_prods (s : State) (cl thr num : Nat) (v : DWord) : (s.setCrT cl thr num v).prods = s.prods := rfl
@[simp] theorem setCrT_stores (s : State) (cl thr num : Nat) (v : DWord) : (s.setCrT cl thr num v).stores = s.stores := rfl
@[simp] theorem setCrT_copies (s : State) (cl thr num : Nat) (v : DWord) : (s.setCrT cl thr num v).copies = s.copies := rfl
@[simp] theorem setCrT_drains (s : State) (cl thr num : Nat) (v : DWord) : (s.setCrT cl thr num v).drains = s.drains := rfl
@[simp] theorem setCrT_bars (s : State) (cl thr num : Nat) (v : DWord) : (s.setCrT cl thr num v).bars = s.bars := rfl
@[simp] theorem setCrT_summary (s : State) (cl thr num : Nat) (v : DWord) : (s.setCrT cl thr num v).summary = s.summary := rfl
@[simp] theorem setCrT_sumQ (s : State) (cl thr num : Nat) (v : DWord) : (s.setCrT cl thr num v).sumQ = s.sumQ := rfl
@[simp] theorem setCrT_lxl (s : State) (cl thr num : Nat) (v : DWord) : (s.setCrT cl thr num v).lxl = s.lxl := rfl
@[simp] theorem setCrT_recalls (s : State) (cl thr num : Nat) (v : DWord) : (s.setCrT cl thr num v).recalls = s.recalls := rfl
@[simp] theorem setCrT_ways (s : State) (cl thr num : Nat) (v : DWord) : (s.setCrT cl thr num v).ways = s.ways := rfl
@[simp] theorem setCrT_saves (s : State) (cl thr num : Nat) (v : DWord) : (s.setCrT cl thr num v).saves = s.saves := rfl
@[simp] theorem setCrT_peers (s : State) (cl thr num : Nat) (v : DWord) : (s.setCrT cl thr num v).peers = s.peers := rfl
@[simp] theorem setCrT_netOps (s : State) (cl thr num : Nat) (v : DWord) : (s.setCrT cl thr num v).netOps = s.netOps := rfl
@[simp] theorem setCrT_netMsgs (s : State) (cl thr num : Nat) (v : DWord) : (s.setCrT cl thr num v).netMsgs = s.netMsgs := rfl
@[simp] theorem setCrT_ethUp (s : State) (cl thr num : Nat) (v : DWord) : (s.setCrT cl thr num v).ethUp = s.ethUp := rfl
@[simp] theorem setCrT_syncGood (s : State) (cl thr num : Nat) (v : DWord) : (s.setCrT cl thr num v).syncGood = s.syncGood := rfl
@[simp] theorem setCrT_syncLast (s : State) (cl thr num : Nat) (v : DWord) : (s.setCrT cl thr num v).syncLast = s.syncLast := rfl
@[simp] theorem setCrT_syncAt (s : State) (cl thr num : Nat) (v : DWord) : (s.setCrT cl thr num v).syncAt = s.syncAt := rfl
@[simp] theorem setCrT_syncT1 (s : State) (cl thr num : Nat) (v : DWord) : (s.setCrT cl thr num v).syncT1 = s.syncT1 := rfl
@[simp] theorem setCrT_shards (s : State) (cl thr num : Nat) (v : DWord) : (s.setCrT cl thr num v).shards = s.shards := rfl
@[simp] theorem setCrT_update (s : State) (cl thr num : Nat) (v : DWord) : (s.setCrT cl thr num v).update = s.update := rfl
@[simp] theorem setCrT_files (s : State) (cl thr num : Nat) (v : DWord) : (s.setCrT cl thr num v).files = s.files := rfl
@[simp] theorem setCrT_handles (s : State) (cl thr num : Nat) (v : DWord) : (s.setCrT cl thr num v).handles = s.handles := rfl
@[simp] theorem setCrT_out (s : State) (cl thr num : Nat) (v : DWord) : (s.setCrT cl thr num v).out = s.out := rfl
@[simp] theorem setCrT_drives (s : State) (cl thr num : Nat) (v : DWord) : (s.setCrT cl thr num v).drives = s.drives := rfl
@[simp] theorem setCrT_running (s : State) (cl thr num : Nat) (v : DWord) : (s.setCrT cl thr num v).running = s.running := rfl
@[simp] theorem setCrT_warm (s : State) (cl thr num : Nat) (v : DWord) : (s.setCrT cl thr num v).warm = s.warm := rfl
@[simp] theorem setCrT_meas (s : State) (cl thr num : Nat) (v : DWord) : (s.setCrT cl thr num v).meas = s.meas := rfl
@[simp] theorem setCrT_spares (s : State) (cl thr num : Nat) (v : DWord) : (s.setCrT cl thr num v).spares = s.spares := rfl
@[simp] theorem setCrT_moved (s : State) (cl thr num : Nat) (v : DWord) : (s.setCrT cl thr num v).moved = s.moved := rfl
@[simp] theorem setCrT_selfTest (s : State) (cl thr num : Nat) (v : DWord) : (s.setCrT cl thr num v).selfTest = s.selfTest := rfl
@[simp] theorem setCrT_suspects (s : State) (cl thr num : Nat) (v : DWord) : (s.setCrT cl thr num v).suspects = s.suspects := rfl
@[simp] theorem setCrT_lostSram (s : State) (cl thr num : Nat) (v : DWord) : (s.setCrT cl thr num v).lostSram = s.lostSram := rfl
@[simp] theorem setCrT_restarts (s : State) (cl thr num : Nat) (v : DWord) : (s.setCrT cl thr num v).restarts = s.restarts := rfl
@[simp] theorem setCrT_repair (s : State) (cl thr num : Nat) (v : DWord) : (s.setCrT cl thr num v).repair = s.repair := rfl
@[simp] theorem setCrT_attest (s : State) (cl thr num : Nat) (v : DWord) : (s.setCrT cl thr num v).attest = s.attest := rfl
@[simp] theorem setCrT_crepair (s : State) (cl thr num : Nat) (v : DWord) : (s.setCrT cl thr num v).crepair = s.crepair := rfl
@[simp] theorem setCrT_rsaved (s : State) (cl thr num : Nat) (v : DWord) : (s.setCrT cl thr num v).rsaved = s.rsaved := rfl
@[simp] theorem setCrT_pcieVis (s : State) (cl thr num : Nat) (v : DWord) : (s.setCrT cl thr num v).pcieVis = s.pcieVis := rfl
@[simp] theorem setCrT_inbox (s : State) (cl thr num : Nat) (v : DWord) : (s.setCrT cl thr num v).inbox = s.inbox := rfl
@[simp] theorem setCrT_nextId (s : State) (cl thr num : Nat) (v : DWord) : (s.setCrT cl thr num v).nextId = s.nextId := rfl
@[simp] theorem setCrT_fresh (s : State) (cl thr num : Nat) (v : DWord) : (s.setCrT cl thr num v).fresh = s.fresh := rfl

/-! ## `wrSram` -/

@[simp] theorem wrSram_cur (s : State) (a : Nat) (bs : List Byte) : (s.wrSram a bs).cur = s.cur := rfl
@[simp] theorem wrSram_cores (s : State) (a : Nat) (bs : List Byte) : (s.wrSram a bs).cores = s.cores := rfl
@[simp] theorem wrSram_cls (s : State) (a : Nat) (bs : List Byte) : (s.wrSram a bs).cls = s.cls := rfl
@[simp] theorem wrSram_crs (s : State) (a : Nat) (bs : List Byte) : (s.wrSram a bs).crs = s.crs := rfl
@[simp] theorem wrSram_lease (s : State) (a : Nat) (bs : List Byte) : (s.wrSram a bs).lease = s.lease := rfl
@[simp] theorem wrSram_hbm (s : State) (a : Nat) (bs : List Byte) : (s.wrSram a bs).hbm = s.hbm := rfl
@[simp] theorem wrSram_sramTag (s : State) (a : Nat) (bs : List Byte) : (s.wrSram a bs).sramTag = s.sramTag := rfl
@[simp] theorem wrSram_hbmTag (s : State) (a : Nat) (bs : List Byte) : (s.wrSram a bs).hbmTag = s.hbmTag := rfl
@[simp] theorem wrSram_lx (s : State) (a : Nat) (bs : List Byte) : (s.wrSram a bs).lx = s.lx := rfl
@[simp] theorem wrSram_badHbm (s : State) (a : Nat) (bs : List Byte) : (s.wrSram a bs).badHbm = s.badHbm := rfl
@[simp] theorem wrSram_badSram (s : State) (a : Nat) (bs : List Byte) : (s.wrSram a bs).badSram = s.badSram := rfl
@[simp] theorem wrSram_softHbm (s : State) (a : Nat) (bs : List Byte) : (s.wrSram a bs).softHbm = s.softHbm := rfl
@[simp] theorem wrSram_hbanks (s : State) (a : Nat) (bs : List Byte) : (s.wrSram a bs).hbanks = s.hbanks := rfl
@[simp] theorem wrSram_rowCnt (s : State) (a : Nat) (bs : List Byte) : (s.wrSram a bs).rowCnt = s.rowCnt := rfl
@[simp] theorem wrSram_remap (s : State) (a : Nat) (bs : List Byte) : (s.wrSram a bs).remap = s.remap := rfl
@[simp] theorem wrSram_hub (s : State) (a : Nat) (bs : List Byte) : (s.wrSram a bs).hub = s.hub := rfl
@[simp] theorem wrSram_reloadAt (s : State) (a : Nat) (bs : List Byte) : (s.wrSram a bs).reloadAt = s.reloadAt := rfl
@[simp] theorem wrSram_mig (s : State) (a : Nat) (bs : List Byte) : (s.wrSram a bs).mig = s.mig := rfl
@[simp] theorem wrSram_hwin (s : State) (a : Nat) (bs : List Byte) : (s.wrSram a bs).hwin = s.hwin := rfl
@[simp] theorem wrSram_prods (s : State) (a : Nat) (bs : List Byte) : (s.wrSram a bs).prods = s.prods := rfl
@[simp] theorem wrSram_stores (s : State) (a : Nat) (bs : List Byte) : (s.wrSram a bs).stores = s.stores := rfl
@[simp] theorem wrSram_copies (s : State) (a : Nat) (bs : List Byte) : (s.wrSram a bs).copies = s.copies := rfl
@[simp] theorem wrSram_drains (s : State) (a : Nat) (bs : List Byte) : (s.wrSram a bs).drains = s.drains := rfl
@[simp] theorem wrSram_bars (s : State) (a : Nat) (bs : List Byte) : (s.wrSram a bs).bars = s.bars := rfl
@[simp] theorem wrSram_summary (s : State) (a : Nat) (bs : List Byte) : (s.wrSram a bs).summary = s.summary := rfl
@[simp] theorem wrSram_sumQ (s : State) (a : Nat) (bs : List Byte) : (s.wrSram a bs).sumQ = s.sumQ := rfl
@[simp] theorem wrSram_lxl (s : State) (a : Nat) (bs : List Byte) : (s.wrSram a bs).lxl = s.lxl := rfl
@[simp] theorem wrSram_recalls (s : State) (a : Nat) (bs : List Byte) : (s.wrSram a bs).recalls = s.recalls := rfl
@[simp] theorem wrSram_ways (s : State) (a : Nat) (bs : List Byte) : (s.wrSram a bs).ways = s.ways := rfl
@[simp] theorem wrSram_saves (s : State) (a : Nat) (bs : List Byte) : (s.wrSram a bs).saves = s.saves := rfl
@[simp] theorem wrSram_peers (s : State) (a : Nat) (bs : List Byte) : (s.wrSram a bs).peers = s.peers := rfl
@[simp] theorem wrSram_netOps (s : State) (a : Nat) (bs : List Byte) : (s.wrSram a bs).netOps = s.netOps := rfl
@[simp] theorem wrSram_netMsgs (s : State) (a : Nat) (bs : List Byte) : (s.wrSram a bs).netMsgs = s.netMsgs := rfl
@[simp] theorem wrSram_ethUp (s : State) (a : Nat) (bs : List Byte) : (s.wrSram a bs).ethUp = s.ethUp := rfl
@[simp] theorem wrSram_syncGood (s : State) (a : Nat) (bs : List Byte) : (s.wrSram a bs).syncGood = s.syncGood := rfl
@[simp] theorem wrSram_syncLast (s : State) (a : Nat) (bs : List Byte) : (s.wrSram a bs).syncLast = s.syncLast := rfl
@[simp] theorem wrSram_syncAt (s : State) (a : Nat) (bs : List Byte) : (s.wrSram a bs).syncAt = s.syncAt := rfl
@[simp] theorem wrSram_syncT1 (s : State) (a : Nat) (bs : List Byte) : (s.wrSram a bs).syncT1 = s.syncT1 := rfl
@[simp] theorem wrSram_shards (s : State) (a : Nat) (bs : List Byte) : (s.wrSram a bs).shards = s.shards := rfl
@[simp] theorem wrSram_update (s : State) (a : Nat) (bs : List Byte) : (s.wrSram a bs).update = s.update := rfl
@[simp] theorem wrSram_files (s : State) (a : Nat) (bs : List Byte) : (s.wrSram a bs).files = s.files := rfl
@[simp] theorem wrSram_handles (s : State) (a : Nat) (bs : List Byte) : (s.wrSram a bs).handles = s.handles := rfl
@[simp] theorem wrSram_out (s : State) (a : Nat) (bs : List Byte) : (s.wrSram a bs).out = s.out := rfl
@[simp] theorem wrSram_drives (s : State) (a : Nat) (bs : List Byte) : (s.wrSram a bs).drives = s.drives := rfl
@[simp] theorem wrSram_running (s : State) (a : Nat) (bs : List Byte) : (s.wrSram a bs).running = s.running := rfl
@[simp] theorem wrSram_warm (s : State) (a : Nat) (bs : List Byte) : (s.wrSram a bs).warm = s.warm := rfl
@[simp] theorem wrSram_meas (s : State) (a : Nat) (bs : List Byte) : (s.wrSram a bs).meas = s.meas := rfl
@[simp] theorem wrSram_spares (s : State) (a : Nat) (bs : List Byte) : (s.wrSram a bs).spares = s.spares := rfl
@[simp] theorem wrSram_moved (s : State) (a : Nat) (bs : List Byte) : (s.wrSram a bs).moved = s.moved := rfl
@[simp] theorem wrSram_selfTest (s : State) (a : Nat) (bs : List Byte) : (s.wrSram a bs).selfTest = s.selfTest := rfl
@[simp] theorem wrSram_suspects (s : State) (a : Nat) (bs : List Byte) : (s.wrSram a bs).suspects = s.suspects := rfl
@[simp] theorem wrSram_lostSram (s : State) (a : Nat) (bs : List Byte) : (s.wrSram a bs).lostSram = s.lostSram := rfl
@[simp] theorem wrSram_restarts (s : State) (a : Nat) (bs : List Byte) : (s.wrSram a bs).restarts = s.restarts := rfl
@[simp] theorem wrSram_repair (s : State) (a : Nat) (bs : List Byte) : (s.wrSram a bs).repair = s.repair := rfl
@[simp] theorem wrSram_attest (s : State) (a : Nat) (bs : List Byte) : (s.wrSram a bs).attest = s.attest := rfl
@[simp] theorem wrSram_crepair (s : State) (a : Nat) (bs : List Byte) : (s.wrSram a bs).crepair = s.crepair := rfl
@[simp] theorem wrSram_rsaved (s : State) (a : Nat) (bs : List Byte) : (s.wrSram a bs).rsaved = s.rsaved := rfl
@[simp] theorem wrSram_pcieVis (s : State) (a : Nat) (bs : List Byte) : (s.wrSram a bs).pcieVis = s.pcieVis := rfl
@[simp] theorem wrSram_inbox (s : State) (a : Nat) (bs : List Byte) : (s.wrSram a bs).inbox = s.inbox := rfl
@[simp] theorem wrSram_nextId (s : State) (a : Nat) (bs : List Byte) : (s.wrSram a bs).nextId = s.nextId := rfl
@[simp] theorem wrSram_fresh (s : State) (a : Nat) (bs : List Byte) : (s.wrSram a bs).fresh = s.fresh := rfl

end Sys2Proof.Machine
end

