-- ==== Sys2Proof/Laws/Table.lean ====
section
/-! SUPPORT. Reading a sparse table after writing it. -/

namespace Sys2Proof.Machine

@[simp] theorem getK_nil {α : Type} (d : α) (k : Nat) : getK d [] k = d := rfl

@[simp] theorem getK_insK_same {α : Type} (d : α) (m : List (Nat × α)) (k : Nat) (v : α) : getK d (insK m k v) k = v := by
  induction m with
  | nil => simp [insK, getK]
  | cons p t ih =>
    obtain ⟨k', v'⟩ := p
    simp only [insK]
    split
    · simp [getK]
    · split
      · simp [getK]
      · simp only [getK, ih]
        rw [if_neg ‹_›]

theorem getK_insK_other {α : Type} (d : α) (m : List (Nat × α)) {k j : Nat} (v : α) (h : j ≠ k) :
    getK d (insK m k v) j = getK d m j := by
  induction m with
  | nil => simp [insK, getK, h]
  | cons p t ih =>
    obtain ⟨k', v'⟩ := p
    simp only [insK]
    split
    · simp [getK, h]
    · split
      · subst k'; simp [getK, h]
      · simp only [getK, ih]

theorem getK_insK {α : Type} (d : α) (m : List (Nat × α)) (k j : Nat) (v : α) :
    getK d (insK m k v) j = if j = k then v else getK d m j := by
  split
  · subst j; exact getK_insK_same d m k v
  · exact getK_insK_other d m v ‹_›

@[simp] theorem getK_putK_same {α : Type} [DecidableEq α] (d : α) (m : List (Nat × α)) (k : Nat) (v : α) :
    getK d (putK d m k v) k = v := by
  induction m with
  | nil => simp only [putK]; split <;> simp_all [getK]
  | cons p t ih =>
    obtain ⟨k', v'⟩ := p
    simp only [putK]
    split
    · split
      · rename_i h1 h2
        simp only [getK]
        rw [if_neg (by omega), h2.1, h2.2]
      · simp [getK]
    · split
      · split
        · rename_i h
          rw [h.1, h.2]
        · simp [getK]
      · simp only [getK, ih]
        rw [if_neg ‹_›]

theorem getK_putK_other {α : Type} [DecidableEq α] (d : α) (m : List (Nat × α)) {k j : Nat} (v : α) (hj : j ≠ k) :
    getK d (putK d m k v) j = getK d m j := by
  induction m with
  | nil => simp only [putK]; split <;> simp [getK, hj]
  | cons p t ih =>
    obtain ⟨k', v'⟩ := p
    simp only [putK]
    split
    · split
      · rfl
      · simp [getK, hj]
    · split
      · subst k'
        split <;> simp [getK, hj]
      · simp only [getK, ih]
theorem getK_putK {α : Type} [DecidableEq α] (d : α) (m : List (Nat × α)) (k j : Nat) (v : α) :
    getK d (putK d m k v) j = if j = k then v else getK d m j := by
  split
  · subst j; exact getK_putK_same d m k v
  · exact getK_putK_other d m v ‹_›

/-- Entries dropped by their keys. -/
theorem getK_filter {α : Type} (d : α) (m : List (Nat × α)) (P : Nat → Bool) (k : Nat) :
    getK d (m.filter fun p => P p.1) k = if P k then getK d m k else d := by
  induction m with
  | nil => simp
  | cons p t ih =>
    obtain ⟨k', v'⟩ := p
    simp only [List.filter_cons, getK]
    by_cases hk : k = k'
    · subst k'
      by_cases hp : P k = true
      · simp [hp, getK]
      · simp [hp, ih]
    · by_cases hp : P k' = true
      · simp [hp, getK, hk, ih]
      · simp [hp, hk, ih]
/-- All entries changed alike. -/
theorem getK_map {α : Type} (d : α) (m : List (Nat × α)) (f : α → α) (hf : f d = d) (k : Nat) :
    getK d (m.map fun p => (p.1, f p.2)) k = f (getK d m k) := by
  induction m with
  | nil => simp [hf]
  | cons p t ih =>
    simp only [List.map_cons, getK]
    split
    · rfl
    · exact ih

/-! ## The parts of the package -/

@[simp] theorem core_modCore_same (s : State) (c : Nat) (f : Core → Core) : (s.modCore c f).core c = f (s.core c) := by
  simp [State.modCore, State.core]
theorem core_modCore_other (s : State) {c j : Nat} (f : Core → Core) (h : j ≠ c) : (s.modCore c f).core j = s.core j := by
  simp [State.modCore, State.core, getK_insK, h]
theorem core_modCore (s : State) (c j : Nat) (f : Core → Core) : (s.modCore c f).core j = if j = c then f (s.core c) else s.core j := by
  simp [State.modCore, State.core, getK_insK]
@[simp] theorem wave_modWave_same (k : Core) (t : Nat) (f : Wave → Wave) : (k.modWave t f).wave t = f (k.wave t) := by
  simp [Core.modWave, Core.wave]
theorem wave_modWave_other (k : Core) {t j : Nat} (f : Wave → Wave) (h : j ≠ t) : (k.modWave t f).wave j = k.wave j := by
  simp [Core.modWave, Core.wave, getK_insK, h]
@[simp] theorem thread_modThread_same (w : Wave) (l : Nat) (f : Thread → Thread) : (w.modThread l f).thread l = f (w.thread l) := by
  simp [Wave.modThread, Wave.thread]
theorem thread_modThread_other (w : Wave) {l j : Nat} (f : Thread → Thread) (h : j ≠ l) : (w.modThread l f).thread j = w.thread j := by
  simp [Wave.modThread, Wave.thread, getK_insK, h]
@[simp] theorem cl_modCl_same (s : State) (c : Nat) (f : Cluster → Cluster) : (s.modCl c f).cl c = f (s.cl c) := by
  simp [State.modCl, State.cl]
theorem cl_modCl_other (s : State) {c j : Nat} (f : Cluster → Cluster) (h : j ≠ c) : (s.modCl c f).cl j = s.cl j := by
  simp [State.modCl, State.cl, getK_insK, h]

/-- A thread after its wave has changed. -/
theorem thread_modWave (s : State) (c t c' t' l : Nat) (f : Wave → Wave) :
    (s.modWave c t f).thread c' t' l = if c' = c ∧ t' = t then (f (s.wave c t)).thread l else s.thread c' t' l := by
  by_cases hc : c' = c
  · subst c'
    by_cases ht : t' = t
    · subst t'; simp [State.thread, State.wave, State.modWave]
    · simp [State.thread, State.wave, State.modWave, wave_modWave_other _ _ ht, ht]
  · simp [State.thread, State.wave, State.modWave, core_modCore_other _ _ hc, hc]

/-- A thread after one thread has changed. -/
theorem thread_modThread (s : State) (c t l c' t' l' : Nat) (f : Thread → Thread) :
    (s.modThread c t l f).thread c' t' l' = if c' = c ∧ t' = t ∧ l' = l then f (s.thread c t l) else s.thread c' t' l' := by
  rw [State.modThread, thread_modWave]
  by_cases h : c' = c ∧ t' = t
  · obtain ⟨rfl, rfl⟩ := h
    by_cases hl : l' = l
    · subst hl; simp [State.thread]
    · simp [thread_modThread_other _ _ hl, hl, State.thread]
  · rw [if_neg h, if_neg (fun x => h ⟨x.1, x.2.1⟩)]

/-! ## Masks and lanes -/

theorem mem_lanes (m : Mask) (l : Nat) : l ∈ m.lanes ↔ l < 32 ∧ m.getLsbD l = true := by
  simp [Mask.lanes]
theorem lanes_nodup (m : Mask) : m.lanes.Nodup := List.Pairwise.filter _ List.nodup_range
theorem getLsbD_ofLanes (ls : List Nat) (l : Nat) : (Mask.ofLanes ls).getLsbD l = (decide (l < 32) && decide (l ∈ ls)) := by
  have key : ∀ (ls : List Nat) (m : Mask),
      (ls.foldl (fun m l => m ||| Mask.single l) m).getLsbD l = (m.getLsbD l || (decide (l < 32) && decide (l ∈ ls))) := by
    intro ls
    induction ls with
    | nil => simp
    | cons x xs ih =>
      intro m
      rw [List.foldl_cons, ih]
      simp only [Mask.single, BitVec.getLsbD_or, BitVec.getLsbD_twoPow, List.mem_cons]
      by_cases hx : l = x
      · subst hx
        by_cases hl : l < 32 <;> simp [hl]
      · simp [hx, Ne.symm hx]
  simp [Mask.ofLanes, key]
theorem mem_lanes_ofLanes (ls : List Nat) (l : Nat) : l ∈ (Mask.ofLanes ls).lanes ↔ l < 32 ∧ l ∈ ls := by
  rw [mem_lanes, getLsbD_ofLanes]
  simp +contextual
theorem lanes_zero : Mask.lanes 0 = [] := by decide
theorem mask_eq_zero (m : Mask) (h : m.lanes = []) : m = 0 := by
  ext l hl
  have : l ∉ m.lanes := by simp [h]
  rw [mem_lanes] at this
  simp only [BitVec.getLsbD_eq_getElem hl, not_and, Bool.not_eq_true] at this
  simp [this hl]

theorem thread_foldl_modThread (f : Nat → Thread → Thread) (ls : List Nat) (hn : ls.Nodup) (w : Wave) (j : Nat) :
    (ls.foldl (fun w l => w.modThread l (f l)) w).thread j = if j ∈ ls then f j (w.thread j) else w.thread j := by
  induction ls generalizing w with
  | nil => simp
  | cons x xs ih =>
    have hx := (List.nodup_cons.1 hn).1
    rw [List.foldl_cons, ih (List.nodup_cons.1 hn).2]
    by_cases hj : j = x
    · subst hj; simp [hx]
    · simp [hj, thread_modThread_other _ _ hj]
/-- A thread after the threads of some lanes of a wave have changed. -/
theorem thread_modThreads (s : State) (c t c' t' l : Nat) (m : Mask) (f : Nat → Thread → Thread) :
    (s.modThreads c t m f).thread c' t' l = if c' = c ∧ t' = t ∧ l ∈ m.lanes then f l (s.thread c t l) else s.thread c' t' l := by
  rw [State.modThreads, thread_modWave]
  by_cases h : c' = c ∧ t' = t
  · obtain ⟨rfl, rfl⟩ := h
    rw [thread_foldl_modThread _ _ (lanes_nodup m)]
    by_cases hl : l ∈ m.lanes <;> simp [hl, State.thread]
  · rw [if_neg h, if_neg (fun x => h ⟨x.1, x.2.1⟩)]
/-- A thread after its core has changed in what is no thread. -/
theorem thread_modCore (s : State) (c c' t l : Nat) (f : Core → Core) (hf : ∀ k, (f k).waves = k.waves) :
    (s.modCore c f).thread c' t l = s.thread c' t l := by
  simp only [State.thread, State.wave, core_modCore]
  split
  · rename_i h; subst h; simp [Core.wave, hf]
  · rfl

end Sys2Proof.Machine
end

