-- ==== Sys2Proof/Laws/Memory.lean ====
section
/-! SUPPORT. Memory: every operation keeps the canonical form, a byte read after a write is the byte written, and a write
leaves every other byte as it was. -/

namespace Sys2Proof.Machine

/-! ## The canonical form -/

theorem wf_cons {a : Nat} {b : Byte} {m : List Host.Cell} :
    Memory.wf ((a, b) :: m) = true ↔ b ≠ 0 ∧ (∀ p ∈ m, a < p.1) ∧ Memory.wf m = true := by
  induction m generalizing a b with
  | nil => simp [Memory.wf]
  | cons p t ih =>
    obtain ⟨a', b'⟩ := p
    simp only [Memory.wf, Bool.and_eq_true, decide_eq_true_eq, bne_iff_ne, ne_eq, List.mem_cons, forall_eq_or_imp]
    rw [ih]
    constructor
    · rintro ⟨⟨h1, h2⟩, h3, h4, h5⟩
      exact ⟨h2, ⟨h1, fun p hp => Nat.lt_trans h1 (h4 p hp)⟩, h3, h4, h5⟩
    · rintro ⟨h1, ⟨h2, _⟩, h3⟩
      exact ⟨⟨h2, h1⟩, h3⟩

/-- Below every listed key a table reads as its default. -/
theorem getK_below {m : List Host.Cell} {a : Nat} (h : ∀ p ∈ m, a < p.1) : getK 0 m a = 0 := by
  induction m with
  | nil => rfl
  | cons p t ih =>
    obtain ⟨a', b'⟩ := p
    simp only [getK]
    rw [if_neg (Nat.ne_of_lt (h (a', b') (by simp))), ih fun p hp => h p (List.mem_cons_of_mem _ hp)]

theorem mem_putK {m : List Host.Cell} {k : Nat} {v : Byte} {p : Host.Cell} (h : p ∈ putK 0 m k v) : p = (k, v) ∨ p ∈ m := by
  induction m with
  | nil => simp only [putK] at h; split at h <;> simp_all
  | cons q t ih =>
    obtain ⟨k', v'⟩ := q
    simp only [putK] at h
    repeat' split at h
    all_goals grind

theorem wf_putK {m : List Host.Cell} (h : Memory.wf m = true) (k : Nat) (v : Byte) : Memory.wf (putK 0 m k v) = true := by
  induction m with
  | nil => simp only [putK]; split <;> simp_all [Memory.wf]
  | cons p t ih =>
    obtain ⟨k', v'⟩ := p
    have hc := wf_cons.1 h
    simp only [putK]
    by_cases h1 : k < k'
    · rw [if_pos h1]
      have h0 : getK 0 t k = 0 := getK_below fun p hp => Nat.lt_trans h1 (hc.2.1 p hp)
      split
      · exact h
      · rename_i hn
        exact wf_cons.2 ⟨fun hv => hn ⟨hv, h0⟩, fun p hp => by
          simp only [List.mem_cons] at hp
          rcases hp with rfl | hp
          · exact h1
          · exact Nat.lt_trans h1 (hc.2.1 p hp), h⟩
    · rw [if_neg h1]
      by_cases h2 : k = k'
      · subst k'
        rw [if_pos rfl]
        have h0 : getK 0 t k = 0 := getK_below hc.2.1
        split
        · exact hc.2.2
        · rename_i hn
          exact wf_cons.2 ⟨fun hv => hn ⟨hv, h0⟩, hc.2⟩
      · rw [if_neg h2]
        refine wf_cons.2 ⟨hc.1, fun p hp => ?_, ih hc.2.2⟩
        rcases mem_putK hp with rfl | hp
        · show k' < k; omega
        · exact hc.2.1 p hp

theorem wf_putBytes {m : List Host.Cell} (h : Memory.wf m = true) (a : Nat) (bs : List Byte) : Memory.wf (putBytes m a bs) = true := by
  induction bs generalizing m a with
  | nil => exact h
  | cons b bs ih => exact ih (wf_putK h a b) (a + 1)

theorem wf_filter {m : List Host.Cell} (h : Memory.wf m = true) (f : Host.Cell → Bool) : Memory.wf (m.filter f) = true := by
  induction m with
  | nil => rfl
  | cons p t ih =>
    obtain ⟨a, b⟩ := p
    have hc := wf_cons.1 h
    simp only [List.filter]
    split
    · exact wf_cons.2 ⟨hc.1, fun p hp => hc.2.1 p (List.mem_filter.1 hp).1, ih hc.2.2⟩
    · exact ih hc.2.2

/-! ## Reading after writing -/

/-- A byte of memory after bytes have been written. -/
theorem getK_putBytes (m : List Host.Cell) (a : Nat) (bs : List Byte) (j : Nat) :
    getK 0 (putBytes m a bs) j = if a ≤ j ∧ j < a + bs.length then bs.getD (j - a) 0 else getK 0 m j := by
  induction bs generalizing m a with
  | nil => simp [putBytes] <;> omega
  | cons b bs ih =>
    rw [putBytes, ih]
    by_cases h1 : j = a
    · subst j
      rw [if_neg (by omega), if_pos (by simp), getK_putK_same]
      simp
    · rw [getK_putK_other _ _ _ h1]
      by_cases h2 : a + 1 ≤ j ∧ j < a + 1 + bs.length
      · rw [if_pos h2, if_pos (by simp only [List.length_cons]; omega)]
        rw [show j - a = (j - (a + 1)) + 1 by omega]
        simp
      · rw [if_neg h2, if_neg (by simp only [List.length_cons]; omega)]

/-! ## The memories of the package -/

theorem wrSram_wf (s : State) (a : Nat) (bs : List Byte) (h : Memory.wf s.sram = true) : Memory.wf (s.wrSram a bs).sram = true :=
  wf_putBytes h a bs
theorem wrHbm_wf (s : State) (da : Nat) (bs : List Byte) (h : Memory.wf s.hbm = true) : Memory.wf (s.wrHbm da bs).hbm = true := by
  induction bs generalizing s da with
  | nil => exact h
  | cons b bs ih => exact ih _ _ (wf_putK h _ _)
@[simp] theorem wrHbm_sram (s : State) (da : Nat) (bs : List Byte) : (s.wrHbm da bs).sram = s.sram := by
  induction bs generalizing s da with
  | nil => rfl
  | cons b bs ih => rw [State.wrHbm, ih]

/-- Every write at a home keeps both memories in canonical form. -/
theorem wrHome_wf (s : State) (p : Place) (bs : List Byte) (h1 : Memory.wf s.sram = true) (h2 : Memory.wf s.hbm = true) :
    Memory.wf (s.wrHome p bs).sram = true ∧ Memory.wf (s.wrHome p bs).hbm = true := by
  cases p with
  | sram a => exact ⟨wrSram_wf s a _ h1, h2⟩
  | hbm d => exact ⟨by rw [State.wrHome, wrHbm_sram]; exact h1, wrHbm_wf s d bs h2⟩
  | far b o => exact ⟨h1, h2⟩

/-- A read of a byte of core storage after a write. -/
theorem rdSram_wrSram (s : State) (a : Nat) (bs : List Byte) (j : Nat) :
    (s.wrSram a bs).rdSram j 1 = [if a ≤ j ∧ j < a + bs.length then bs.getD (j - a) 0 else getK 0 s.sram j] := by
  simp only [State.rdSram, State.wrSram, getBytes, getK_putBytes]

end Sys2Proof.Machine
end

