-- ==== Sys2Proof/Laws/Frame.lean ====
section
/-! SUPPORT. What the shared operations of instructions leave: faults, blocking, transfers and the advance keep memory and
what every thread holds. -/

namespace Sys2Proof.Machine

theorem SameMemory.of_eq {s t : State} (h1 : t.sram = s.sram) (h2 : t.hbm = s.hbm) (h3 : t.sramTag = s.sramTag) (h4 : t.hbmTag = s.hbmTag) :
    SameMemory s t :=
  ⟨fun a => by rw [State.sramByte, h1]; rfl, fun a => by rw [State.hbmByte, h2]; rfl, fun b => by rw [h3], fun b => by rw [h4]⟩
theorem Keeps.refl (s : State) : Keeps s s := ⟨rfl, .of_eq rfl rfl rfl rfl, fun _ _ _ => rfl⟩
theorem SameMemory.trans {s t u : State} (h1 : SameMemory s t) (h2 : SameMemory t u) : SameMemory s u :=
  ⟨fun a => (h2.sram a).trans (h1.sram a), fun a => (h2.hbm a).trans (h1.hbm a),
   fun a => (h2.sramTag a).trans (h1.sramTag a), fun a => (h2.hbmTag a).trans (h1.hbmTag a)⟩
theorem Keeps.trans {s t u : State} (h1 : Keeps s t) (h2 : Keeps t u) : Keeps s u :=
  ⟨h2.cur.trans h1.cur, h1.memory.trans h2.memory, fun c n l => (h2.held c n l).trans (h1.held c n l)⟩
/-- An update that touches neither memory nor cores. -/
theorem Keeps.of_eq {s t : State} (h1 : t.sram = s.sram) (h2 : t.hbm = s.hbm) (h3 : t.sramTag = s.sramTag) (h4 : t.hbmTag = s.hbmTag)
    (h5 : t.cores = s.cores) (h6 : t.cur = s.cur) : Keeps s t :=
  ⟨h6, .of_eq h1 h2 h3 h4, fun c n l => by simp only [State.thread, State.wave, State.core, h5]⟩
theorem keeps_foldl {β : Type} (f : State → β → State) (hf : ∀ s b, Keeps s (f s b)) (l : List β) (s : State) : Keeps s (l.foldl f s) := by
  induction l generalizing s with
  | nil => exact .refl s
  | cons b l ih => exact (hf s b).trans (ih _)
theorem keeps_ite {p : Prop} [Decidable p] {s t u : State} (h1 : p → Keeps s t) (h2 : ¬p → Keeps s u) : Keeps s (if p then t else u) := by
  split
  · exact h1 ‹_›
  · exact h2 ‹_›

/-! ## Updates of a wave and of threads -/

theorem keeps_modWave (s : State) (c t : Nat) (f : Wave → Wave) (hf : ∀ w l, ((f w).thread l).held = (w.thread l).held) :
    Keeps s (s.modWave c t f) :=
  ⟨rfl, .of_eq rfl rfl rfl rfl, fun c' n l => by
    rw [thread_modWave]
    split
    · rename_i h; obtain ⟨rfl, rfl⟩ := h; exact hf _ _
    · rfl⟩
theorem keeps_modThread (s : State) (c t l : Nat) (f : Thread → Thread) (hf : ∀ t, (f t).held = t.held) :
    Keeps s (s.modThread c t l f) :=
  keeps_modWave s c t _ fun w l' => by
    by_cases h : l' = l
    · subst h; rw [thread_modThread_same]; exact hf _
    · rw [thread_modThread_other _ _ h]
theorem held_foldl_modThread (f : Nat → Thread → Thread) (hf : ∀ l t, (f l t).held = t.held) (ls : List Nat) (w : Wave) (j : Nat) :
    ((ls.foldl (fun w l => w.modThread l (f l)) w).thread j).held = (w.thread j).held := by
  induction ls generalizing w with
  | nil => rfl
  | cons a ls ih =>
    rw [List.foldl_cons, ih]
    by_cases h : j = a
    · subst h; rw [thread_modThread_same]; exact hf _ _
    · rw [thread_modThread_other _ _ h]
theorem keeps_modThreads (s : State) (c t : Nat) (m : Mask) (f : Nat → Thread → Thread) (hf : ∀ l t, (f l t).held = t.held) :
    Keeps s (s.modThreads c t m f) :=
  keeps_modWave s c t _ fun w l => held_foldl_modThread f hf _ w l
/-- An update of a core that leaves its waves. -/
theorem keeps_modCore (s : State) (c : Nat) (f : Core → Core) (hf : ∀ k, (f k).waves = k.waves) : Keeps s (s.modCore c f) :=
  ⟨rfl, .of_eq rfl rfl rfl rfl, fun c' n l => by
    simp only [State.thread, State.wave]
    rw [core_modCore]
    split
    · subst c'; simp only [Core.wave, hf]
    · rfl⟩
theorem keeps_modCl (s : State) (c : Nat) (f : Cluster → Cluster) : Keeps s (s.modCl c f) := .of_eq rfl rfl rfl rfl rfl rfl
theorem keeps_setCrT (s : State) (cl thr num : Nat) (v : DWord) : Keeps s (s.setCrT cl thr num v) := .of_eq rfl rfl rfl rfl rfl rfl
theorem keeps_setCr (s : State) (cl num : Nat) (v : DWord) : Keeps s (s.setCr cl num v) := .of_eq rfl rfl rfl rfl rfl rfl
theorem keeps_modCr (s : State) (cl num : Nat) (f : DWord → DWord) : Keeps s (s.modCr cl num f) := .of_eq rfl rfl rfl rfl rfl rfl
theorem keeps_crCount (s : State) (cl num hi lo n : Nat) : Keeps s (s.crCount cl num hi lo n) := keeps_modCr _ _ _ _

/-! ## Events, faults and blocking -/

theorem keeps_unissued (s : State) : Keeps s s.unissued := keeps_modCore _ _ _ fun _ => rfl
theorem keeps_block (s : State) (st : Status) (w : Wait) : Keeps s (s.block st w) :=
  (keeps_unissued s).trans (keeps_modThreads _ _ _ _ _ fun _ t => by split <;> rfl)
theorem keeps_wantLine (s : State) (c t : Nat) (pc : DWord) : Keeps s (s.wantLine c t pc) := by
  unfold State.wantLine
  exact keeps_modCore s c _ fun k => by split <;> rfl
theorem keeps_raise (s : State) (cl source kind : Nat) (p : List Word) : Keeps s (s.raise cl source kind p) := .of_eq rfl rfl rfl rfl rfl rfl
theorem keeps_raiseOpen (s : State) (cl source kind : Nat) : Keeps s (s.raiseOpen cl source kind) := .of_eq rfl rfl rfl rfl rfl rfl
theorem keeps_toRestart (s : State) (cl : Nat) : Keeps s (s.toRestart cl) :=
  keeps_ite (fun _ => .refl s) fun _ => .of_eq rfl rfl rfl rfl rfl rfl
theorem keeps_monitorFault (s : State) (cl : Nat) : Keeps s (s.monitorFault cl) := by
  unfold State.monitorFault
  split
  · exact (keeps_raiseOpen _ _ _ _).trans (keeps_toRestart _ _)
  · exact keeps_toRestart s cl
theorem keeps_enterMonitor (s : State) (cl turn : Nat) (ret : DWord) (code : Nat) (info : Word) : Keeps s (s.enterMonitor cl turn ret code info) := by
  unfold State.enterMonitor State.setSmode
  exact (((keeps_setCrT _ _ _ _ _).trans (keeps_setCrT _ _ _ _ _)).trans (keeps_setCrT _ _ _ _ _)).trans
    (keeps_modThread _ _ _ _ _ fun _ => rfl)
theorem keeps_suspect (s : State) (cl kind target : Nat) : Keeps s (s.suspect cl kind target) := by
  unfold State.suspect
  exact keeps_ite (fun _ => .refl s) fun _ => .of_eq rfl rfl rfl rfl rfl rfl
theorem keeps_foundSram (s : State) (cl code : Nat) (finfo : Word) (extra : DWord) : Keeps s (s.foundSram cl code finfo extra) := by
  unfold State.foundSram
  refine keeps_ite (fun _ => ?_) fun _ => .refl s
  refine Keeps.trans ?_ (keeps_suspect _ _ _ _)
  exact .of_eq rfl rfl rfl rfl rfl rfl
theorem unrecon_thread (w : Wave) (l j : Nat) : (w.unrecon l).thread j = w.thread j := rfl
/-- A fault of a lane keeps memory and what every thread holds (R32). -/
theorem keeps_faultAt (s : State) (c t l issue code : Nat) (finfo : Word) (extra pc word : DWord) :
    Keeps s (s.faultAt c t l issue code finfo extra pc word) := by
  unfold State.faultAt
  refine Keeps.trans (t := if code = 6 then s.crCount (clusterOf c) nTBSTAT 31 16 1 else s) ?_ ?_
  · exact keeps_ite (fun _ => keeps_crCount _ _ _ _ _ _) fun _ => .refl s
  · generalize (if code = 6 then s.crCount (clusterOf c) nTBSTAT 31 16 1 else s) = s
    refine keeps_ite (fun _ => (keeps_foundSram s _ code finfo extra).trans
      (keeps_ite (fun _ => ?_) fun _ => keeps_enterMonitor _ _ _ _ _ _)) fun _ => ?_
    · exact Keeps.trans (by apply keeps_modThread; exact fun _ => rfl) (keeps_monitorFault _ _)
    · refine Keeps.trans (keeps_modWave s c t _ fun w j => ?_) (keeps_modCl _ _ _)
      rw [unrecon_thread]
      by_cases h : j = l
      · subst h; rw [thread_modThread_same]; rfl
      · rw [thread_modThread_other _ _ h]
theorem keeps_takeFault (s : State) (l code : Nat) (finfo : Word) (extra : DWord) : Keeps s (s.takeFault l code finfo extra) :=
  keeps_faultAt _ _ _ _ _ _ _ _ _ _
theorem keeps_takeFaults (s : State) (m : Mask) (code : Nat) (finfo : Word) (extra : DWord) : Keeps s (s.takeFaults m code finfo extra) :=
  keeps_foldl _ (fun s l => keeps_takeFault s l code finfo extra) _ _
theorem keeps_undefined (s : State) (m : Mask) (opc cause : Nat) (extra : DWord) : Keeps s (s.undefined m opc cause extra) :=
  keeps_takeFaults _ _ _ _ _

/-! ## Headers, transfers and the advance -/

theorem held_arrive (w : Wave) (a : DWord) (m : Mask) (j : Nat) : ((w.arrive a m).thread j).held = (w.thread j).held := by
  unfold Wave.arrive
  suffices h : ∀ (ls : List Nat) (w0 : Wave), ((ls.foldl (fun w l =>
      if w.recon.any (fun p => p.2.raddr == a && p.2.members.getLsbD l && (p.2.members &&& ~~~p.2.arrived) != 0) then
        w.modThread l fun t => { t with status := .parkedRecon, pc := a } else w) w0).thread j).held = (w0.thread j).held from
    h _ _
  intro ls
  induction ls with
  | nil => exact fun _ => rfl
  | cons x ls ih =>
    intro w0
    rw [List.foldl_cons, ih]
    split
    · by_cases h : j = x
      · subst h; rw [thread_modThread_same]; rfl
      · rw [thread_modThread_other _ _ h]
    · rfl
/-- Going on from a header changes no thread. -/
theorem threads_leaveHeader (w : Wave) (a : DWord) (conv : Bool) (m : Mask) : (w.leaveHeader a conv m).threads = w.threads := by
  unfold Wave.leaveHeader
  generalize m.lanes = ls
  induction ls generalizing w with
  | nil => rfl
  | cons x ls ih => rw [List.foldl_cons, ih]; split <;> rfl
theorem keeps_enterHeader (s : State) (c t : Nat) (m : Mask) (issue : Nat) (a w : DWord) : Keeps s (s.enterHeader c t m issue a w) := by
  unfold State.enterHeader
  dsimp only
  split
  · exact Keeps.trans (by apply keeps_modThreads; exact fun _ _ => rfl) (keeps_foldl _ (fun s l => keeps_faultAt _ _ _ _ _ _ _ _ _ _) _ _)
  · refine (keeps_modThreads s c t m (fun _ th => { th with pc := caAdd a 8, hdr := a, hdrW := w, la2 := false }) fun _ _ => rfl).trans ?_
    generalize s.modThreads c t m (fun _ th => { th with pc := caAdd a 8, hdr := a, hdrW := w, la2 := false }) = s
    refine Keeps.trans (keeps_modWave s c t (fun wv => (if (Header.ofWord w).conv then wv.arrive a m else wv).leaveHeader a (Header.ofWord w).conv m) fun wv l => ?_) ?_
    · rw [Wave.thread, threads_leaveHeader]
      split
      · exact held_arrive wv a m l
      · rfl
    · exact keeps_ite (fun _ => .refl _) fun _ => keeps_ite (fun _ => .refl _) fun _ => keeps_wantLine _ _ _ _
theorem keeps_fallTo (s : State) (c t : Nat) (m : Mask) (issue : Nat) (a : DWord) : Keeps s (s.fallTo c t m issue a) := by
  unfold State.fallTo
  split
  · exact keeps_modThreads _ _ _ _ _ fun _ _ => rfl
  · refine keeps_ite (fun _ => keeps_modThreads _ _ _ _ _ fun _ _ => rfl) fun _ => keeps_ite (fun _ => ?_) fun _ => keeps_enterHeader _ _ _ _ _ _ _
    exact Keeps.trans (by apply keeps_modThreads; exact fun _ _ => rfl) (keeps_foldl _ (fun s l => keeps_faultAt _ _ _ _ _ _ _ _ _ _) _ _)
theorem threads_leave (w : Wave) (l : Nat) (a b : DWord) : (w.leave l a b).threads = w.threads := rfl
theorem keeps_moveLanes (s : State) (m : Mask) (call : Bool) (d : DWord) : Keeps s (s.moveLanes m call d) := by
  unfold State.moveLanes
  refine keeps_ite (fun _ => .refl s) fun _ => keeps_modWave _ _ _ _ fun w j => ?_
  suffices h : ∀ (ls : List Nat) (w : Wave), (ls.foldl (fun w l => w.leave l s.cur.pc d) w).threads = w.threads by
    simp only [Wave.thread, h]
  intro ls
  induction ls with
  | nil => exact fun _ => rfl
  | cons x ls ih => intro w; rw [List.foldl_cons, ih]; rfl
theorem keeps_goTo (s : State) (m : Mask) (call : Bool) (d w : DWord) (la2 : Bool) : Keeps s (s.goTo m call d w la2) := by
  unfold State.goTo
  refine (keeps_moveLanes s m call d).trans (keeps_ite (fun _ => keeps_modThreads _ _ _ _ _ fun _ _ => rfl) fun _ => keeps_enterHeader _ _ _ _ _ _ _)
/-- The advance keeps memory and what every thread holds (R47, R137). -/
theorem keeps_advance (s : State) (m : Mask) : Keeps s (s.advance m) := by
  unfold State.advance
  refine Keeps.trans (t := s.modThreads s.cur.core s.cur.turn m fun _ t =>
    { t with repCnt := if t.repCnt = 0 then 0 else t.repCnt - 1, wait := .none, walked := [] }) ?_ ?_
  · exact keeps_modThreads _ _ _ _ _ fun _ _ => rfl
  · generalize s.modThreads s.cur.core s.cur.turn m (fun _ t =>
      { t with repCnt := if t.repCnt = 0 then 0 else t.repCnt - 1, wait := .none, walked := [] }) = u
    dsimp only
    refine Keeps.trans ?_ (keeps_ite (fun _ => .refl _) fun _ => keeps_fallTo _ _ _ _ _ _)
    exact Keeps.trans (by apply keeps_modThreads; exact fun _ _ => rfl) (keeps_moveLanes _ _ _ _)
theorem keeps_issued (s : State) : Keeps s s.issued := keeps_modWave _ _ _ _ fun _ _ => rfl
theorem keeps_finish (s : State) : Keeps s s.finish := by
  unfold State.finish
  exact keeps_ite (fun _ => .refl s) fun _ => (keeps_issued s).trans (keeps_advance _ _)
theorem keeps_modCoreWaves (s : State) (c : Nat) (f : Core → Core)
    (hf : ∀ k n l, (((f k).wave n).thread l).held = ((k.wave n).thread l).held) : Keeps s (s.modCore c f) :=
  ⟨rfl, .of_eq rfl rfl rfl rfl, fun c' n l => by
    simp only [State.thread, State.wave]
    rw [core_modCore]
    split
    · subst c'; exact hf _ _ _
    · rfl⟩
theorem held_satf (k : Core) (t : Nat) (fl : Flags) (n l : Nat) :
    (((k.modWave t fun w => { w with satf := w.satf ||| fl }).wave n).thread l).held = ((k.wave n).thread l).held := by
  by_cases h : n = t
  · subst h; rw [wave_modWave_same]; rfl
  · rw [wave_modWave_other _ _ h]
theorem keeps_addFlags (s : State) (c t : Nat) (fl : Flags) : Keeps s (s.addFlags c t fl) := by
  unfold State.addFlags
  exact keeps_ite (fun _ => .refl s) fun _ => keeps_modCoreWaves _ _ _ fun k n l => held_satf k t fl n l
theorem keeps_curFlags (s : State) (fl : Flags) : Keeps s (s.curFlags fl) := keeps_addFlags _ _ _ _
theorem keeps_blockPage (s : State) (bti page : Nat) : Keeps s (s.blockPage bti page) := by
  unfold State.blockPage State.addWalk
  refine Keeps.trans ?_ (keeps_block _ _ _)
  refine (keeps_crCount s s.curCl nTBSTAT 15 0 1).trans (keeps_ite (fun _ => .refl _) fun _ => ?_)
  exact Keeps.trans (keeps_ite (fun _ => keeps_crCount _ _ _ _ _ _) fun _ => .refl _) (keeps_modCl _ _ _)

/-! ## Operands -/

/-- An instruction that does not issue changes neither memory nor what a thread holds (R28, R32). -/
theorem keeps_prep_stop {s t : State} {g : Guard} {sp : Spec} {mov : Bool} {x : Extra} (h : prep s g sp mov x = .stop t) : Keeps s t := by
  have fin {t : State} (h : Keeps s t) : Keeps s t.finish := h.trans (keeps_finish t)
  unfold prep at h
  repeat' first | split at h | extract_lets at h
  all_goals try (injection h with h; subst h)
  all_goals first
    | exact keeps_block _ _ _
    | exact fin (.refl _)
    | exact fin (keeps_takeFaults _ _ _ _ _)
    | exact fin (keeps_foldl _ (fun s p => keeps_takeFault _ _ _ _ _) _ _)
    | exact fin ((keeps_foldl _ (fun s p => keeps_takeFault _ _ _ _ _) _ _).trans (keeps_takeFaults _ _ _ _ _))
    | exact fin ((keeps_foldl _ (fun s p => keeps_takeFault _ _ _ _ _) _ _).trans
        (keeps_foldl _ (fun s p => keeps_takeFault _ _ _ _ _) _ _))
    | cases h

theorem keeps_moved {s u : State} (h : Keeps s u) (c : Nat) (q : Sparse (List QEntry)) (ws : Sparse Walker) :
    Keeps s ((u.modCore c fun k => { k with queues := q }).modCurWave fun wv => { wv with walkers := ws }) :=
  h.trans ((keeps_modCore u c (fun k => { k with queues := q }) fun _ => rfl).trans
    (keeps_modWave _ _ _ (fun wv => { wv with walkers := ws }) fun _ _ => rfl))

/-- What issuing does before the instruction's own effect: it pops queues and moves walkers on, and lanes may fault alone; the
rows are active lanes, at least one, each once. -/
theorem prep_go {s s0 s1 : State} {g : Guard} {sp : Spec} {mov : Bool} {x : Extra} {rows : List (Nat × List (List Word))}
    (h : prep s g sp mov x = .go s0 s1 rows) :
    Keeps s s0 ∧ Keeps s s1 ∧ rows ≠ [] ∧ ∀ p ∈ rows, p.1 ∈ (s.active g).lanes := by
  unfold prep at h
  repeat' first | split at h | extract_lets at h
  all_goals try (cases h; done)
  all_goals
    injection h with h1 h2 h3
    have k0 : Keeps s s0 := by
      rw [← h1]
      exact (keeps_foldl _ (fun s p => keeps_takeFault _ _ _ _ _) _ s).trans (keeps_foldl _ (fun s p => keeps_takeFault _ _ _ _ _) _ _)
    refine ⟨k0, by rw [← h2]; exact keeps_moved (h1 ▸ k0) _ _ _, fun hn => ?_, fun p hp => ?_⟩
    · subst hn
      rename_i hne
      exact hne (by rw [h3]; rfl)
    · rw [← h3] at hp
      obtain ⟨x, hx, he⟩ := List.mem_filterMap.1 hp
      split at he
      · cases he
      · simp only [Option.some.injEq] at he
        subst he
        exact (List.mem_filter.1 (List.of_mem_zip hx).1).1

end Sys2Proof.Machine
end

