-- ==== Sys2Proof/Laws/Ops.lean ====
section
/-! SUPPORT. The shared frames of instructions, as equations for a path that issues: what the provers cite in place of unfolding
them. -/

namespace Sys2Proof.Machine

theorem foldl_pure {α β γ : Type} (f : β → γ × Flags) (key : β → α) (s : State) (rows : List β) (o : List (α × γ)) (fl : Flags) :
    rows.foldl (fun (a : State × List (α × γ) × Flags) p => (a.1, a.2.1 ++ [(key p, (f p).1)], a.2.2 ||| (f p).2)) (s, o, fl) =
      (s, o ++ rows.map (fun p => (key p, (f p).1)), rows.foldl (fun a p => a ||| (f p).2) fl) := by
  induction rows generalizing o fl with
  | nil => simp
  | cons p ps ih => simp [ih]

/-- The frame of an instruction that reads nothing but its operands. -/
theorem pureOp_go {s s0 s1 : State} {g : Guard} {sp : Spec} {d : DstReq} {rows : List (Nat × List (List Word))}
    (f : List (List Word) → List Word × Flags) (hd : sp.dst = some d) (h : prep s g sp = .go s0 s1 rows) :
    pureOp s g sp f = laneResult s1 d rows f := by
  have := foldl_pure (fun p : Nat × List (List Word) => f p.2) (·.1) s1 rows [] 0
  simp only [pureOp, laneOp, h, hd, laneResult]
  simp only [this, List.nil_append]

/-- A lane instruction whose body draws nothing and raises no flag. -/
theorem laneOp_go {s s0 s1 : State} {g : Guard} {sp : Spec} {d : DstReq} {rows : List (Nat × List (List Word))}
    (f : State → Nat → List (List Word) → List Word) (hd : sp.dst = some d) (h : prep s g sp = .go s0 s1 rows) :
    laneOp s g sp (fun s l vs => (s, f s l vs, 0)) = laneValue s1 d rows (f s1) := by
  have key : ∀ (rows : List (Nat × List (List Word))) o,
      rows.foldl (fun (a : State × List (Nat × List Word) × Flags) p => (a.1, a.2.1 ++ [(p.1, f a.1 p.1 p.2)], a.2.2 ||| 0)) (s1, o, 0) =
        (s1, o ++ rows.map (fun p => (p.1, f s1 p.1 p.2)), 0) := by
    intro rows
    induction rows with
    | nil => simp
    | cons p ps ih => intro o; simp only [List.foldl_cons]; rw [show (0 ||| 0 : Flags) = 0 from rfl, ih]; simp
  simp only [laneOp, h, hd]
  rw [key]
  simp [laneValue, State.curFlags, State.addFlags]

/-- The frame of an instruction that writes predicates. -/
theorem predOp_go {s s0 s1 : State} {g : Guard} {sp : Spec} {rows : List (Nat × List (List Word))}
    (k : BitVec 3) (f : State → Nat → List (List Word) → Bool × Flags) (h : prep s g sp = .go s0 s1 rows) :
    predOp s g sp k f = predResult s1 k rows (f s1) := by
  simp only [predOp, h, predResult, List.foldl_map]

/-- An instruction that acts once, with the sources of the lowest-numbered lane. -/
theorem onceOp_go {s s0 s1 : State} {g : Guard} {sp : Spec} {rows : List (Nat × List (List Word))}
    (body : State → List Nat → List (List Word) → State) (h : prep s g sp = .go s0 s1 rows) :
    onceOp s g sp body = (body s1 (rows.map (·.1)) (firstRow rows)).finish := by
  obtain ⟨-, -, hr, -⟩ := prep_go h
  simp only [onceOp, h]
  cases rows with
  | nil => exact absurd rfl hr
  | cons r rs => rfl

/-- The same for one that a BINDING fault may refuse. -/
theorem bindOp_go {s s0 s1 : State} {g : Guard} {sp : Spec} {rows : List (Nat × List (List Word))}
    (body : State → List (List Word) → State ⊕ Word) (pre : Option Word)
    (h : prep s g sp false (bindOwn s pre body) = .go s0 s1 rows) :
    bindOp s g sp body pre = match body s1 (firstRow rows) with
      | .inl t => t.finish
      | .inr info => faultRows s0 rows 0x0E info := by
  obtain ⟨-, -, hr, -⟩ := prep_go h
  simp only [bindOp, h]
  cases rows with
  | nil => exact absurd rfl hr
  | cons r rs => rfl

/-- A cross-lane instruction. -/
theorem crossOp_go {s s0 s1 : State} {g : Guard} {sp : Spec} {d : DstReq} {rows : List (Nat × List (List Word))}
    (f : Nat → List (Nat × List (List Word)) → Nat → List (List Word) → List Word × Flags) (hd : sp.dst = some d)
    (h : prep s g sp = .go s0 s1 rows) :
    crossOp s g sp f =
      ((s1.writeDst d (rows.map fun p => (p.1, (f s1.tileNow (tileRows s1.tileNow (tileBase s1.tileNow p.1) rows) p.1 p.2).1))).curFlags
        (rows.foldl (fun a p => a ||| (f s1.tileNow (tileRows s1.tileNow (tileBase s1.tileNow p.1) rows) p.1 p.2).2) 0)).finish := by
  simp only [crossOp, h, hd, List.map_map, List.foldl_map]
  rfl

/-- An instruction whose body changes the state in each lane and writes no destination. -/
theorem laneOp_state {s s0 s1 : State} {g : Guard} {sp : Spec} {rows : List (Nat × List (List Word))}
    (f : State → Nat → List (List Word) → State) (hd : sp.dst = none) (h : prep s g sp = .go s0 s1 rows) :
    laneOp s g sp (fun s l vs => (f s l vs, [], 0)) = (rows.foldl (fun s p => f s p.1 p.2) s1).finish := by
  have key : ∀ (rows : List (Nat × List (List Word))) s o,
      (rows.foldl (fun (a : State × List (Nat × List Word) × Flags) p => (f a.1 p.1 p.2, a.2.1 ++ [(p.1, ([] : List Word))], a.2.2 ||| 0)) (s, o, 0)).1 =
        rows.foldl (fun s p => f s p.1 p.2) s ∧
      (rows.foldl (fun (a : State × List (Nat × List Word) × Flags) p => (f a.1 p.1 p.2, a.2.1 ++ [(p.1, ([] : List Word))], a.2.2 ||| 0)) (s, o, 0)).2.2 = 0 := by
    intro rows
    induction rows with
    | nil => simp
    | cons p ps ih => intro s o; simp only [List.foldl_cons]; rw [show (0 ||| 0 : Flags) = 0 from rfl]; exact ih _ _
  simp only [laneOp, h, hd]
  rw [(key rows s1 []).1, (key rows s1 []).2]
  simp [State.curFlags, State.addFlags]

theorem mem_ranges_filter {sp : Spec} {t : Thread} {P : SrcReq → Bool} {p : Nat × Nat × Nat}
    (h : p ∈ ({ srcs := sp.srcs.filter P } : Spec).ranges t) : p ∈ sp.ranges t := by
  simp only [Spec.ranges, List.mem_append, List.mem_flatMap, List.mem_filter, List.not_mem_nil, false_or] at h ⊢
  rcases h with ((⟨r, ⟨hr, -⟩, hp⟩ | ⟨r, ⟨hr, -⟩, hp⟩) | ⟨r, ⟨hr, -⟩, hp⟩) | ⟨r, ⟨hr, -⟩, hp⟩
  · exact .inl (.inl (.inl (.inr ⟨r, hr, hp⟩)))
  · exact .inl (.inl (.inr ⟨r, hr, hp⟩))
  · exact .inl (.inr ⟨r, hr, hp⟩)
  · exact .inr ⟨r, hr, hp⟩
theorem mem_ranges_dst {sp : Spec} {t : Thread} {p : Nat × Nat × Nat} (h : p ∈ ({ dst := sp.dst } : Spec).ranges t) : p ∈ sp.ranges t := by
  simp only [Spec.ranges, List.mem_append, List.flatMap_nil, List.not_mem_nil, or_false] at h ⊢
  exact .inl (.inl (.inl (.inl h)))
theorem firstOut_none {q dead : Nat} {rs : List (Nat × Nat × Nat)} : firstOut q dead rs = none ↔
    ∀ p ∈ rs, firstOut q dead [p] = none := by
  simp only [firstOut, List.findSome?_eq_none_iff, List.mem_singleton, forall_eq]

theorem filterMap_congr_mem {α β : Type} {l : List α} {f f' : α → Option β} (h : ∀ x ∈ l, f x = f' x) : l.filterMap f = l.filterMap f' := by
  induction l with
  | nil => rfl
  | cons x xs ih => rw [List.filterMap_cons, List.filterMap_cons, h x (by simp), ih fun y hy => h y (by simp [hy])]
/-- Checks of an instruction's own that find nothing in an active lane change nothing. -/
theorem prep_hole {s : State} {g : Guard} {sp : Spec} {mov : Bool} {hole : Nat → Option (Nat × Nat)}
    (h : ∀ l ∈ (s.active g).lanes, hole l = none) : prep s g sp mov { hole } = prep s g sp mov := by
  have key : ((s.active g).lanes.filterMap fun l => ((hole l).or (sp.srcs.findSome? fun r =>
      (r.emptyRegs (s.curThread l)).head?.map fun x => (r.pos, x))).map fun p => (l, p)) =
      (s.active g).lanes.filterMap fun l => ((none : Option (Nat × Nat)).or (sp.srcs.findSome? fun r =>
        (r.emptyRegs (s.curThread l)).head?.map fun x => (r.pos, x))).map fun p => (l, p) :=
    filterMap_congr_mem fun l hl => by rw [h l hl]
  unfold prep
  simp only [key]

/-- `cvtn` and `cvtw`, where no lane fails a check of its long range. -/
theorem tagOp_go {s s0 s1 : State} {g : Guard} {sp : Spec} {d : DstReq} {b : Src} {w field base : Nat} {e : Option Bool}
    {rows : List (Nat × List (List Word))} (body : State → Nat → Nat → List (List Word) → State × List Word × Flags)
    (hd : sp.dst = some d)
    (ho : operandFault s (if field = 0 then { srcs := sp.srcs } else { srcs := sp.srcs.filter fun r => r.pos == 1, dst := sp.dst }) (s.active g) = none)
    (hb : b.e = false → ∀ l ∈ (s.active g).lanes, SrcReq.emptyRegs { pos := 1, src := b } (s.curThread l) = [])
    (hr : ∀ l ∈ (s.active g).lanes, firstOut (s.quotaOf s.cur.core s.cur.turn) (s.deadBelow s.cur.core s.cur.turn)
      (if field = 0 then ((s.curThread l).step field base, s.tagRange l w b, 1) :: sp.ranges (s.curThread l)
        else sp.ranges (s.curThread l) ++ [((s.curThread l).step field base, s.tagRange l w b, 1)]) = none)
    (hf : e ≠ none → ∀ l ∈ (s.active g).lanes, ∀ i < s.tagRange l w b,
      (s.curThread l).isEmpty ((s.curThread l).step field base + i) = false)
    (h : prep s g sp = .go s0 s1 rows) :
    tagOp s g sp b w field base e body = laneFold s1 d rows fun st l vs => body st l (s.tagRange l w b) vs := by
  have hact : ¬ s.active g = 0 := by
    intro hc
    simp [prep, hc] at h
  have hrep : repCause s sp (s.active g) = none := by
    revert h
    unfold prep
    simp only [hact, if_false]
    cases repCause s sp (s.active g) <;> simp
  obtain ⟨-, -, hne, hm⟩ := prep_go h
  have hlanes : (s.active g).lanes ≠ [] := by
    cases rows with
    | nil => exact absurd rfl hne
    | cons p ps => exact List.ne_nil_of_mem (hm p (by simp))
  have hw : (if b.e = true then [] else (s.active g).lanes.flatMap fun l =>
      (SrcReq.emptyRegs { pos := 1, src := b } (s.curThread l)).map fun x => (l, x)) = [] := by
    split
    · rfl
    · rename_i hbe
      simp only [List.flatMap_eq_nil_iff, List.map_eq_nil_iff]
      exact hb (by simpa using hbe)
  have hall : ∀ l ∈ (s.active g).lanes, ∀ p, p ∈ sp.ranges (s.curThread l) ∨ p = ((s.curThread l).step field base, s.tagRange l w b, 1) →
      firstOut (s.quotaOf s.cur.core s.cur.turn) (s.deadBelow s.cur.core s.cur.turn) [p] = none := by
    intro l hl p hp
    have := firstOut_none.1 (hr l hl) p
    refine this ?_
    split
    · exact List.mem_cons.2 hp.symm
    · exact List.mem_append.2 (hp.imp_right List.mem_singleton.2)
  have htag : ∀ l ∈ (s.active g).lanes, (firstOut (s.quotaOf s.cur.core s.cur.turn) (s.deadBelow s.cur.core s.cur.turn)
      (({ srcs := sp.srcs.filter fun r => r.pos == 1 } : Spec).ranges (s.curThread l))).isSome = false := by
    intro l hl
    rw [firstOut_none.2 fun p hp => hall l hl p (.inl (mem_ranges_filter hp))]
    rfl
  have hout : ((s.active g).lanes.filterMap fun l => (firstOut (s.quotaOf s.cur.core s.cur.turn) (s.deadBelow s.cur.core s.cur.turn)
      (if field = 0 then ((s.curThread l).step field base, if (firstOut (s.quotaOf s.cur.core s.cur.turn) (s.deadBelow s.cur.core s.cur.turn)
          (({ srcs := sp.srcs.filter fun r => r.pos == 1 } : Spec).ranges (s.curThread l))).isSome = true then 1 else s.tagRange l w b, 1) :: sp.ranges (s.curThread l)
        else ({ dst := sp.dst } : Spec).ranges (s.curThread l) ++ ((s.curThread l).step field base, if (firstOut (s.quotaOf s.cur.core s.cur.turn)
          (s.deadBelow s.cur.core s.cur.turn) (({ srcs := sp.srcs.filter fun r => r.pos == 1 } : Spec).ranges (s.curThread l))).isSome = true
            then 1 else s.tagRange l w b, 1) :: ({ srcs := sp.srcs.filter fun r => r.pos == 1 } : Spec).ranges (s.curThread l))).map fun r => (l, r)) = [] := by
    simp only [List.filterMap_eq_nil_iff, Option.map_eq_none_iff]
    intro l hl
    rw [htag l hl]
    refine firstOut_none.2 fun p hp => hall l hl p ?_
    split at hp
    · exact (List.mem_cons.1 hp).symm
    · rcases List.mem_append.1 hp with hp | hp
      · exact .inl (mem_ranges_dst hp)
      · rcases List.mem_cons.1 hp with hp | hp
        · exact .inr hp
        · exact .inl (mem_ranges_filter hp)
  have hhole : e ≠ none → ∀ l ∈ (s.active g).lanes,
      ((List.range (s.tagRange l w b)).map ((s.curThread l).step field base + ·)).filter (s.curThread l).isEmpty = [] := by
    intro he l hl
    simp only [List.filter_eq_nil_iff, List.mem_map, List.mem_range]
    rintro x ⟨i, hi, rfl⟩
    simp [hf he l hl i hi]
  have hwait : (if (e == some false) = true then (s.active g).lanes.flatMap fun l =>
      (((List.range (s.tagRange l w b)).map ((s.curThread l).step field base + ·)).filter (s.curThread l).isEmpty).map fun x => (l, x)
      else []) = [] := by
    split
    · rename_i he
      simp only [List.flatMap_eq_nil_iff, List.map_eq_nil_iff]
      exact hhole (by rintro rfl; simp at he)
    · rfl
  have hprep : prep s g sp false { hole := fun l => if (e == some true) = true then
      ((((List.range (s.tagRange l w b)).map ((s.curThread l).step field base + ·)).filter (s.curThread l).isEmpty).head?).map (fun x => (0, x))
      else none } = .go s0 s1 rows := by
    rw [prep_hole, h]
    intro l hl
    split
    · rename_i he
      rw [hhole (by rintro rfl; simp at he) l hl]
      rfl
    · rfl
  have hall : ∀ {α : Type} (l : List α), l.filter (fun _ => true) = l := fun l => by simp
  rw [hd] at ho hout
  simp only [tagOp, if_neg hact, hrep, ho, hw, hout, List.isEmpty_nil, Bool.not_true, Bool.false_eq_true, if_false, List.foldl_nil,
    List.any_nil, Bool.not_false, hall, List.isEmpty_iff, hlanes, if_true, hwait, hprep, hd, laneFold]

end Sys2Proof.Machine
end

