-- ==== Sys2Proof/Laws/Control.lean ====
section
/-! SUPPORT. What moving on, transferring and exiting do to the threads of a path. -/

namespace Sys2Proof.Machine

theorem mem_ofLanes_filter (m : Mask) (p : Nat → Bool) (j : Nat) : j ∈ (Mask.ofLanes (m.lanes.filter p)).lanes ↔ j ∈ m.lanes ∧ p j = true := by
  rw [mem_lanes_ofLanes, List.mem_filter]
  exact ⟨fun h => h.2, fun h => ⟨((mem_lanes _ _).1 h.1).1, h⟩⟩
theorem ofLanes_filter_ne {m : Mask} {p : Nat → Bool} {l : Nat} (hl : l ∈ m.lanes) (hp : p l = true) : Mask.ofLanes (m.lanes.filter p) ≠ 0 := by
  intro h
  have := (mem_ofLanes_filter m p l).2 ⟨hl, hp⟩
  rw [h] at this
  exact absurd this (by rw [lanes_zero]; exact List.not_mem_nil)

theorem thread_issued (s : State) (c t l : Nat) : s.issued.thread c t l = s.thread c t l := by
  simp only [State.issued, State.modCurWave, thread_modWave]
  split
  · rename_i h; obtain ⟨rfl, rfl⟩ := h; rfl
  · rfl
theorem threads_foldl_leave (ls : List Nat) (w : Wave) (a b : DWord) : (ls.foldl (fun w l => w.leave l a b) w).threads = w.threads := by
  induction ls generalizing w with
  | nil => rfl
  | cons x xs ih => rw [List.foldl_cons, ih]; rfl
theorem thread_moveLanes (s : State) (m : Mask) (call : Bool) (d : DWord) (c t l : Nat) :
    (s.moveLanes m call d).thread c t l = s.thread c t l := by
  unfold State.moveLanes
  split
  · rfl
  · simp only [State.modCurWave, thread_modWave]
    split
    · rename_i h; obtain ⟨rfl, rfl⟩ := h; simp only [Wave.thread, threads_foldl_leave]; rfl
    · rfl
theorem cur_moveLanes (s : State) (m : Mask) (call : Bool) (d : DWord) : (s.moveLanes m call d).cur = s.cur := (keeps_moveLanes s m call d).cur
theorem thread_wantLine (s : State) (a b : Nat) (d : DWord) (c t l : Nat) : (s.wantLine a b d).thread c t l = s.thread c t l := by
  unfold State.wantLine
  apply thread_modCore
  intro k
  split <;> rfl
/-- Entering a well-formed header that is no reconvergence point. -/
theorem thread_enterHeader (s : State) (c t : Nat) (m : Mask) (n : Nat) (addr w : DWord) (hok : (Header.ofWord w).ok = true)
    (hc : (Header.ofWord w).conv = false) (c' t' l : Nat) :
    (s.enterHeader c t m n addr w).thread c' t' l =
      if c' = c ∧ t' = t ∧ l ∈ m.lanes then { s.thread c t l with pc := caAdd addr 8, hdr := addr, hdrW := w, la2 := false }
      else s.thread c' t' l := by
  have : (s.enterHeader c t m n addr w).thread c' t' l =
      (s.modThreads c t m fun _ th => { th with pc := caAdd addr 8, hdr := addr, hdrW := w, la2 := false }).thread c' t' l := by
    have hl : ∀ s : State, (s.modWave c t fun wv => wv.leaveHeader addr false m).thread c' t' l = s.thread c' t' l := fun s => by
      rw [thread_modWave]
      split
      · rename_i h; obtain ⟨rfl, rfl⟩ := h; rw [Wave.thread, threads_leaveHeader]; rfl
      · rfl
    simp only [State.enterHeader, hok, hc, Bool.not_true, Bool.false_eq_true, if_false]
    split
    · exact hl _
    · split
      · exact hl _
      · exact (thread_wantLine _ _ _ _ _ _ _).trans (hl _)
  rw [this, thread_modThreads]
theorem codeLine_modWave (s : State) (c t : Nat) (f : Wave → Wave) (c' t' : Nat) (pc : DWord) :
    (s.modWave c t f).codeLine c' t' pc = s.codeLine c' t' pc := by
  simp only [State.codeLine, State.localCode, State.modWave]
  rw [core_modCore]
  have : ∀ (cl tt : Nat), (s.modCore c fun k => k.modWave t f).isMonitor cl tt = s.isMonitor cl tt := fun _ _ => rfl
  rw [this]
  split
  · rename_i h; subst h; rfl
  · rfl
theorem codeLine_modThreads (s : State) (c t : Nat) (m : Mask) (f : Nat → Thread → Thread) (c' t' : Nat) (pc : DWord) :
    (s.modThreads c t m f).codeLine c' t' pc = s.codeLine c' t' pc := codeLine_modWave _ _ _ _ _ _ _
theorem codeLine_moveLanes (s : State) (m : Mask) (call : Bool) (d : DWord) (c' t' : Nat) (pc : DWord) :
    (s.moveLanes m call d).codeLine c' t' pc = s.codeLine c' t' pc := by
  unfold State.moveLanes
  split
  · rfl
  · exact codeLine_modWave _ _ _ _ _ _ _

theorem retireBanks_waves (k : Core) (t : Nat) : (k.retireBanks t).waves = k.waves := by
  have g1 : ∀ (l : List Nat) (k : Core) (F : Core → Nat → Core), (∀ k b, (F k b).waves = k.waves) → (l.foldl F k).waves = k.waves := by
    intro l
    induction l with
    | nil => intros; rfl
    | cons x xs ih => intro k F hF; rw [List.foldl_cons, ih _ _ hF, hF]
  unfold Core.retireBanks
  rw [g1 _ _ _ (by intro k b; dsimp only; split <;> first | rfl | (rw [g1 _ _ _ (by intros; rfl)])),
    g1 _ _ _ (by intro k b; split <;> rfl), g1 _ _ _ (by intro k b; dsimp only; split <;> rfl)]
theorem wave_retireWave (s : State) (c t : Nat) : (s.retireWave c t).wave c t = { uid := (s.wave c t).uid } := by
  simp only [State.retireWave, State.roomFreed, State.wave, State.modCl, State.core, State.modCore]
  simp only [getK_insK_same, Core.wave, retireBanks_waves]

/-- The lanes that exit, in the order they are taken. -/
theorem foldl_exited (ls : List Nat) (hn : ls.Nodup) (w : Wave) :
    (ls.foldl (fun w l => (w.modThread l Thread.exited).unrecon l) w).uid = w.uid ∧
    (ls.foldl (fun w l => (w.modThread l Thread.exited).unrecon l) w).busy = w.busy ∧
    (ls.foldl (fun w l => (w.modThread l Thread.exited).unrecon l) w).live = w.live ∧
    ∀ j, (ls.foldl (fun w l => (w.modThread l Thread.exited).unrecon l) w).thread j =
      if j ∈ ls then (w.thread j).exited else w.thread j := by
  induction ls generalizing w with
  | nil => simp
  | cons x xs ih =>
    obtain ⟨h1, h2, h3, h4⟩ := ih (List.nodup_cons.1 hn).2 ((w.modThread x Thread.exited).unrecon x)
    have hx := (List.nodup_cons.1 hn).1
    refine ⟨h1, h2, h3, fun j => ?_⟩
    rw [List.foldl_cons, h4, unrecon_thread]
    by_cases hj : j = x
    · subst hj; simp [hx]
    · simp [hj, thread_modThread_other _ _ hj]

/-- Lanes that complete an instruction none of which is the last of its block. -/
theorem thread_advance (s : State) (m : Mask) (hm : ∀ j ∈ m.lanes, (s.curThread j).atEnd s.cur = false) (l : Nat) :
    (s.advance m).curThread l =
      if l ∈ m.lanes then
        { s.curThread l with
          repCnt := if (s.curThread l).repCnt = 0 then 0 else (s.curThread l).repCnt - 1, wait := .none, walked := [],
          pc := if (s.curThread l).repCnt.toNat ≤ 1 then s.cur.nextPc else (s.curThread l).pc }
      else s.curThread l := by
  have hcur : ∀ j, (s.wave s.cur.core s.cur.turn).thread j = s.curThread j := fun _ => rfl
  have hf : Mask.ofLanes ((Mask.ofLanes (m.lanes.filter fun l => decide ((s.curThread l).repCnt.toNat ≤ 1))).lanes.filter
      fun l => (s.curThread l).atEnd s.cur) = 0 := by
    apply mask_eq_zero
    apply List.eq_nil_iff_forall_not_mem.2
    intro j hj
    have h1 := (mem_ofLanes_filter _ _ _).1 hj
    have h2 := (mem_ofLanes_filter _ _ _).1 h1.1
    rw [hm j h2.1] at h1
    exact absurd h1.2 (by simp)
  have hadv : s.advance m = ((s.modThreads s.cur.core s.cur.turn m fun _ t =>
      { t with repCnt := if t.repCnt = 0 then 0 else t.repCnt - 1, wait := .none, walked := [] }).modThreads s.cur.core s.cur.turn
      (Mask.ofLanes (m.lanes.filter fun l => decide ((s.curThread l).repCnt.toNat ≤ 1)) &&& ~~~(0 : Mask)) fun _ t => { t with pc := s.cur.nextPc }).moveLanes
      (Mask.ofLanes (m.lanes.filter fun l => decide ((s.curThread l).repCnt.toNat ≤ 1))) false s.cur.nextPc := by
    unfold State.advance
    dsimp only
    refine (if_pos ?_).trans ?_
    · exact hf
    · rw [← hf]
      rfl
  rw [hadv]
  simp only [State.curThread]
  simp only [(keeps_moveLanes _ _ _ _).cur, modThreads_cur]
  rw [thread_moveLanes, thread_modThreads, thread_modThreads]
  have h0 : ∀ x : Mask, x &&& ~~~(0 : Mask) = x := fun x => BitVec.and_allOnes
  simp only [h0, true_and, mem_ofLanes_filter]
  by_cases hl : l ∈ m.lanes
  · simp only [hl, true_and, if_true]
    by_cases hr : (s.thread s.cur.core s.cur.turn l).repCnt.toNat ≤ 1
    · simp only [hr, if_true]; rfl
    · simp only [hr, if_false]; rfl
  · simp only [hl, if_false, false_and]

/-- Lanes that complete the last instruction of their block, where the next block's header is present and well formed and is no
reconvergence point. -/
theorem thread_advance_end (s : State) (m : Mask) (hm : ∀ j ∈ m.lanes, (s.curThread j).atEnd s.cur = true) (ln : ILine)
    (hln : s.codeLine s.cur.core s.cur.turn s.cur.nextPc = some ln) (hl2 : ln.la2 = false) (hh : isHeader (ln.at s.cur.nextPc) = true)
    (hok : (Header.ofWord (ln.at s.cur.nextPc)).ok = true) (hc : (Header.ofWord (ln.at s.cur.nextPc)).conv = false)
    (l : Nat) (hl : l ∈ m.lanes) (hr : (s.curThread l).repCnt.toNat ≤ 1) :
    (s.advance m).curThread l =
      { s.curThread l with
        repCnt := if (s.curThread l).repCnt = 0 then 0 else (s.curThread l).repCnt - 1, wait := .none, walked := [],
        pc := caAdd s.cur.nextPc 8, hdr := s.cur.nextPc, hdrW := ln.at s.cur.nextPc, la2 := false } := by
  have key : ∀ (moved falling : Mask), l ∈ falling.lanes →
      moved = falling → ∀ (s2 : State), s2 = ((s.modThreads s.cur.core s.cur.turn m fun _ t =>
          { t with repCnt := if t.repCnt = 0 then 0 else t.repCnt - 1, wait := .none, walked := [] }).modThreads s.cur.core s.cur.turn
          (moved &&& ~~~falling) fun _ t => { t with pc := s.cur.nextPc }) →
      (if falling = 0 then s2.moveLanes moved false s.cur.nextPc else (s2.moveLanes moved false s.cur.nextPc).fallTo s.cur.core s.cur.turn falling s.cur.n s.cur.nextPc).thread
          s.cur.core s.cur.turn l =
        { s.curThread l with
          repCnt := if (s.curThread l).repCnt = 0 then 0 else (s.curThread l).repCnt - 1, wait := .none, walked := [],
          pc := caAdd s.cur.nextPc 8, hdr := s.cur.nextPc, hdrW := ln.at s.cur.nextPc, la2 := false } := by
    intro moved falling hfl he s2 hs2
    rw [if_neg (by rintro rfl; rw [lanes_zero] at hfl; exact absurd hfl List.not_mem_nil)]
    have hcl : (s2.moveLanes moved false s.cur.nextPc).codeLine s.cur.core s.cur.turn s.cur.nextPc = some ln := by
      rw [codeLine_moveLanes, hs2, codeLine_modThreads, codeLine_modThreads, hln]
    simp only [State.fallTo, hcl, hl2, hh, Bool.not_true, Bool.false_eq_true, if_false]
    rw [thread_enterHeader _ _ _ _ _ _ _ hok hc, if_pos ⟨rfl, rfl, hfl⟩, thread_moveLanes, hs2, thread_modThreads, thread_modThreads]
    have hz : moved &&& ~~~falling = 0 := by
      subst he
      ext i hi
      simp
    simp only [hz, lanes_zero, List.not_mem_nil, and_false, if_false, true_and, hl, if_true]
    rfl
  have hmoved : Mask.ofLanes (m.lanes.filter fun l => decide ((s.curThread l).repCnt.toNat ≤ 1)) =
      Mask.ofLanes ((Mask.ofLanes (m.lanes.filter fun l => decide ((s.curThread l).repCnt.toNat ≤ 1))).lanes.filter
        fun l => (s.curThread l).atEnd s.cur) := by
    ext i hi
    rw [← BitVec.getLsbD_eq_getElem, ← BitVec.getLsbD_eq_getElem, getLsbD_ofLanes, getLsbD_ofLanes]
    have : i ∈ (Mask.ofLanes (m.lanes.filter fun l => decide ((s.curThread l).repCnt.toNat ≤ 1))).lanes.filter
        (fun l => (s.curThread l).atEnd s.cur) ↔ i ∈ m.lanes.filter fun l => decide ((s.curThread l).repCnt.toNat ≤ 1) := by
      rw [List.mem_filter, mem_ofLanes_filter, List.mem_filter]
      exact ⟨fun h => h.1, fun h => ⟨h, hm i h.1⟩⟩
    simp only [this]
  refine Eq.trans ?_ (key _ _ ?_ hmoved _ rfl)
  · rw [State.curThread, (keeps_advance s m).cur]
    rfl
  · rw [← hmoved]
    exact (mem_ofLanes_filter _ _ _).2 ⟨hl, by simpa using hr⟩

end Sys2Proof.Machine
end

