-- ==== Sys2Proof/Laws/Encoding.lean ====
section
/-! SUPPORT. Fields and words: a word has the fields it is made of, an operand code names its operand, and what each build
function gives for fields that an encoding has put together. -/

namespace Sys2Proof

/-! ## Fields -/

theorem extract_append_high {w v : Nat} (a : BitVec w) (b : BitVec v) (k n : Nat) (h : v ≤ k) :
    (a ++ b).extractLsb' k n = a.extractLsb' (k - v) n := by
  apply BitVec.eq_of_getLsbD_eq
  intro i hi
  simp only [BitVec.getLsbD_extractLsb', BitVec.getLsbD_append]
  rw [if_neg (by omega), show k + i - v = k - v + i by omega]

theorem extract_append_low {w v : Nat} (a : BitVec w) (b : BitVec v) (k n : Nat) (h : k + n ≤ v) :
    (a ++ b).extractLsb' k n = b.extractLsb' k n := by
  apply BitVec.eq_of_getLsbD_eq
  intro i hi
  simp only [BitVec.getLsbD_extractLsb', BitVec.getLsbD_append]
  rw [if_pos (by omega)]

theorem Raw.ofWord_toWord (r : Raw) : Raw.ofWord r.toWord = r := by
  cases r
  simp (disch := decide) only [Raw.ofWord, Raw.toWord, extract_append_high, extract_append_low, Nat.reduceSub,
    BitVec.extractLsb'_eq_self]

theorem TRaw.ofWord_toWord (r : TRaw) : TRaw.ofWord r.toWord = r := by
  cases r
  simp (disch := decide) only [TRaw.ofWord, TRaw.toWord, extract_append_high, extract_append_low, Nat.reduceSub,
    BitVec.extractLsb'_eq_self]

theorem Raw.toWord_ln (r : Raw) : r.toWord.extractLsb' 62 2 = r.ln := congrArg Raw.ln r.ofWord_toWord

/-! ## Operands, modes and modifiers -/

theorem Operand.ofCode_code (o : Operand) (h : o.inRange = true) : Operand.ofCode o.code = some o := by
  cases o <;> simp only [Operand.inRange, decide_eq_true_eq] at h <;>
    simp (disch := omega) only [Operand.ofCode, Operand.code, BitVec.toNat_ofNat, Nat.mod_eq_of_lt, if_pos, if_neg,
      Nat.add_sub_cancel_left]

theorem Operand.isDest_inRange (o : Operand) (h : o.isDest = true) : o.inRange = true := by
  cases o <;> simp_all [Operand.isDest, Operand.inRange]
theorem Operand.isReg_inRange (o : Operand) (h : o.isReg = true) : o.inRange = true := by
  cases o <;> simp_all [Operand.isReg, Operand.inRange]
theorem Operand.isProducerDest_inRange (b : Bool) (o : Operand) (h : o.isProducerDest b = true) : o.inRange = true := by
  cases o <;> simp_all [Operand.isProducerDest, Operand.inRange]

theorem ite_inRange {p : Prop} [Decidable p] {x y z : Bool} (hx : x = true → z = true) (hy : y = true → z = true)
    (h : (if p then x else y) = true) : z = true := by
  split at h
  · exact hx h
  · exact hy h

@[simp] theorem bit1_eq_one (b : Bool) : (bit1 b == 1#1) = b := by cases b <;> rfl
@[simp] theorem bit1_getLsbD (b : Bool) : (bit1 b).getLsbD 0 = b := by cases b <;> rfl
theorem RMode.ofBits_bits (m : RMode) : RMode.ofBits m.bits = some m := by cases m <;> rfl
theorem AMode.ofBits_bits (m : AMode) : AMode.ofBits m.bits = m := by cases m <;> rfl
theorem EngClass.ofBits_code (c : EngClass) : EngClass.ofBits ((clsMod c).extractLsb' 0 3) = some c := by cases c <;> rfl
theorem Modx.ofWord_word (m : Modx) : Modx.ofWord m.word = some m := by
  obtain ⟨r, f, i⟩ := m
  cases r <;> cases f <;> cases i <;> decide

/-! ## What the build functions give -/

theorem Raw.guard_eq {r : Raw} {g : Guard} (h1 : r.pneg = bit1 g.neg) (h2 : r.pred = g.pred) : r.guard = g := by
  simp [Raw.guard, h1, h2]
theorem Raw.ty_eq {r : Raw} {t : IntTy} (h : r.mod = (0 : BitVec 1) ++ bit1 t.sat ++ bit1 t.uns ++ t.wid) : r.ty = t := by
  obtain ⟨w, u, s⟩ := t
  simp only [Raw.ty, h]
  clear h
  revert w u s
  decide
theorem Raw.dst_eq {r : Raw} {d : Operand} (h : r.d = d.code) (hd : d.inRange = true) : r.dst = some d := by
  rw [Raw.dst, h, Operand.ofCode_code d hd]
theorem Raw.dsrc_eq {r : Raw} {a : Src} (h : r.d = a.o.code) (he : r.e2 = bit1 a.e) (ha : a.inRange = true) : r.dsrc = some a := by
  rw [Raw.dsrc, h, he, Operand.ofCode_code a.o ha]; simp
theorem Raw.src1_eq {r : Raw} {a : Src} (h : r.s1 = a.o.code) (he : r.e1 = bit1 a.e) (ha : a.inRange = true) : r.src1 = some a := by
  rw [Raw.src1, h, he, Operand.ofCode_code a.o ha]; simp
theorem Raw.src2_eq {r : Raw} {a : Src} (h : r.s2 = a.o.code) (he : r.e2 = bit1 a.e) (ha : a.inRange = true) : r.src2 = some a := by
  rw [Raw.src2, h, he, Operand.ofCode_code a.o ha]; simp
theorem Raw.src3_eq {r : Raw} {a : Src} (h : r.s3 = a.o.code) (he : r.e3 = bit1 a.e) (ha : a.inRange = true) : r.src3 = some a := by
  rw [Raw.src3, h, he, Operand.ofCode_code a.o ha]; simp
theorem setWidth_extract (w : BitVec 32) : (w.setWidth 64).extractLsb' 0 32 = w := by
  apply BitVec.eq_of_getLsbD_eq
  intro i hi
  simp only [BitVec.getLsbD_extractLsb', BitVec.getLsbD_setWidth, hi, decide_true, Bool.true_and, Nat.zero_add]
  simp; omega
theorem Raw.encImm_imm (r : Raw) (i : Imm) : (r.encImm i).imm = i := by
  cases i with
  | short v =>
    simp only [Raw.encImm, Raw.enc, Raw.withImm20, Enc.imm, Raw.imm20]
    rw [BitVec.extractLsb'_append_extractLsb'_eq_extractLsb' (by decide)]
    simp
  | long w => rfl
theorem Raw.withImm20_imm20 (r : Raw) (v : BitVec 20) : (r.withImm20 v).imm20 = v := by
  simp only [Raw.withImm20, Raw.imm20]
  rw [BitVec.extractLsb'_append_extractLsb'_eq_extractLsb' (by decide)]
  simp
theorem Raw.encTarget_target (r : Raw) (t : Target) : (r.encTarget t).target = t := by
  cases t with
  | short v =>
    simp only [Raw.encTarget, Raw.enc, Raw.withImm20, Enc.target, Raw.imm20]
    rw [BitVec.extractLsb'_append_extractLsb'_eq_extractLsb' (by decide)]
    simp
  | long w => simp [Raw.encTarget, Raw.encX, Enc.target, setWidth_extract]
theorem Raw.encModx_modx (r : Raw) (x : Option Modx) : (r.encModx x).modx = some x := by
  cases x with
  | none => rfl
  | some m => simp [Raw.encModx, Raw.encX, Enc.modx, Modx.ofWord_word]
theorem Raw.encMem_memOp (r : Raw) (m : MemOp) (h : m.idx.inRange = true) : (r.encMem m).memOp = some m := by
  obtain ⟨mode, slot, idx, disp⟩ := m
  have hs (r : Raw) (h1 : r.s1 = idx.o.code) (h2 : r.e1 = bit1 idx.e) : r.src1 = some idx := Raw.src1_eq h1 h2 h
  cases disp with
  | short v =>
    simp only [Raw.encMem, Raw.enc, Enc.memOp, Enc.disp, Raw.off12]
    rw [hs _ rfl rfl]
    simp only [Option.map_some]
    rw [extract_append_low _ _ 6 2 (by decide), extract_append_low _ _ 0 6 (by decide), extract_append_high _ _ 8 2 (by decide),
      extract_append_high _ _ 6 2 (by decide), extract_append_low _ _ 0 6 (by decide)]
    have hv : v.extractLsb' 2 10 ++ v.extractLsb' 0 2 = v := by
      rw [BitVec.extractLsb'_append_extractLsb'_eq_extractLsb' (by decide)]; simp
    simp [AMode.ofBits_bits, hv]
  | long w =>
    simp only [Raw.encMem, Raw.encX, Enc.memOp, Enc.disp]
    rw [hs _ rfl rfl]
    simp (disch := decide) only [extract_append_low, extract_append_high, Nat.reduceSub, BitVec.extractLsb'_eq_self, AMode.ofBits_bits,
      Option.map_some, setWidth_extract]

theorem buildA1_ok {c : Enc} {mk : Guard → Operand → Src → Instr} {i : Instr} {d : Operand} {a : Src}
    (hd : c.raw.d = d.code) (dk : d.inRange = true)
    (h1 : c.raw.s1 = a.o.code) (g1 : c.raw.e1 = bit1 a.e) (k1 : a.inRange = true)
    (hi : mk c.raw.guard d a = i) : buildA1 c mk = .ok i := by
  simp [buildA1, orCause4, Raw.dst_eq hd dk, Raw.src1_eq h1 g1 k1, hi]
theorem buildA2_ok {c : Enc} {mk : Guard → Operand → Src → Src → Instr} {i : Instr} {d : Operand} {a : Src} {b : Src}
    (hd : c.raw.d = d.code) (dk : d.inRange = true)
    (h1 : c.raw.s1 = a.o.code) (g1 : c.raw.e1 = bit1 a.e) (k1 : a.inRange = true)
    (h2 : c.raw.s2 = b.o.code) (g2 : c.raw.e2 = bit1 b.e) (k2 : b.inRange = true)
    (hi : mk c.raw.guard d a b = i) : buildA2 c mk = .ok i := by
  simp [buildA2, orCause4, Raw.dst_eq hd dk, Raw.src1_eq h1 g1 k1, Raw.src2_eq h2 g2 k2, hi]
theorem buildA3_ok {c : Enc} {mk : Guard → Operand → Src → Src → Src → Instr} {i : Instr} {d : Operand} {a : Src} {b : Src} {e : Src}
    (hd : c.raw.d = d.code) (dk : d.inRange = true)
    (h1 : c.raw.s1 = a.o.code) (g1 : c.raw.e1 = bit1 a.e) (k1 : a.inRange = true)
    (h2 : c.raw.s2 = b.o.code) (g2 : c.raw.e2 = bit1 b.e) (k2 : b.inRange = true)
    (h3 : c.raw.s3 = e.o.code) (g3 : c.raw.e3 = bit1 e.e) (k3 : e.inRange = true)
    (hi : mk c.raw.guard d a b e = i) : buildA3 c mk = .ok i := by
  simp [buildA3, orCause4, Raw.dst_eq hd dk, Raw.src1_eq h1 g1 k1, Raw.src2_eq h2 g2 k2, Raw.src3_eq h3 g3 k3, hi]
theorem buildD_ok {c : Enc} {mk : Guard → Operand → Instr} {i : Instr} {d : Operand}
    (hd : c.raw.d = d.code) (dk : d.inRange = true)
    (hi : mk c.raw.guard d = i) : buildD c mk = .ok i := by
  simp [buildD, orCause4, Raw.dst_eq hd dk, hi]
theorem buildS1_ok {c : Enc} {mk : Guard → Src → Instr} {i : Instr} {a : Src}
    (h1 : c.raw.s1 = a.o.code) (g1 : c.raw.e1 = bit1 a.e) (k1 : a.inRange = true)
    (hi : mk c.raw.guard a = i) : buildS1 c mk = .ok i := by
  simp [buildS1, orCause4, Raw.src1_eq h1 g1 k1, hi]
theorem buildS2_ok {c : Enc} {mk : Guard → Src → Src → Instr} {i : Instr} {a : Src} {b : Src}
    (h1 : c.raw.s1 = a.o.code) (g1 : c.raw.e1 = bit1 a.e) (k1 : a.inRange = true)
    (h2 : c.raw.s2 = b.o.code) (g2 : c.raw.e2 = bit1 b.e) (k2 : b.inRange = true)
    (hi : mk c.raw.guard a b = i) : buildS2 c mk = .ok i := by
  simp [buildS2, orCause4, Raw.src1_eq h1 g1 k1, Raw.src2_eq h2 g2 k2, hi]
theorem buildB_ok {c : Enc} {mk : Guard → Operand → Src → Imm → Instr} {i : Instr} {d : Operand} {a : Src}
    (hd : c.raw.d = d.code) (dk : d.inRange = true)
    (h1 : c.raw.s1 = a.o.code) (g1 : c.raw.e1 = bit1 a.e) (k1 : a.inRange = true)
    (hi : mk c.raw.guard d a c.imm = i) : buildB c mk = .ok i := by
  simp [buildB, orCause4, Raw.dst_eq hd dk, Raw.src1_eq h1 g1 k1, hi]
theorem buildM_ok {c : Enc} {mk : Guard → Operand → MemOp → Instr} {i : Instr} {d : Operand} {m : MemOp}
    (hd : c.raw.d = d.code) (dk : d.inRange = true)
    (hm : c.memOp = some m)
    (hi : mk c.raw.guard d m = i) : buildM c mk = .ok i := by
  simp [buildM, orCause4, Raw.dst_eq hd dk, hm, hi]
theorem buildMs_ok {c : Enc} {mk : Guard → Src → MemOp → Instr} {i : Instr} {a : Src} {m : MemOp}
    (hd : c.raw.d = a.o.code) (he : c.raw.e2 = bit1 a.e) (dk : a.inRange = true)
    (hm : c.memOp = some m)
    (hi : mk c.raw.guard a m = i) : buildMs c mk = .ok i := by
  simp [buildMs, orCause4, Raw.dsrc_eq hd he dk, hm, hi]
theorem buildF1_ok {c : Enc} {mk : Guard → Operand → Src → Option Modx → Instr} {i : Instr} {d : Operand} {a : Src} {x : Option Modx}
    (hd : c.raw.d = d.code) (dk : d.inRange = true)
    (h1 : c.raw.s1 = a.o.code) (g1 : c.raw.e1 = bit1 a.e) (k1 : a.inRange = true)
    (hx : c.modx = some x)
    (hi : mk c.raw.guard d a x = i) : buildF1 c mk = .ok i := by
  simp [buildF1, orCause4, hx, Raw.dst_eq hd dk, Raw.src1_eq h1 g1 k1, hi]
theorem buildF2_ok {c : Enc} {mk : Guard → Operand → Src → Src → Option Modx → Instr} {i : Instr} {d : Operand} {a : Src} {b : Src} {x : Option Modx}
    (hd : c.raw.d = d.code) (dk : d.inRange = true)
    (h1 : c.raw.s1 = a.o.code) (g1 : c.raw.e1 = bit1 a.e) (k1 : a.inRange = true)
    (h2 : c.raw.s2 = b.o.code) (g2 : c.raw.e2 = bit1 b.e) (k2 : b.inRange = true)
    (hx : c.modx = some x)
    (hi : mk c.raw.guard d a b x = i) : buildF2 c mk = .ok i := by
  simp [buildF2, orCause4, hx, Raw.dst_eq hd dk, Raw.src1_eq h1 g1 k1, Raw.src2_eq h2 g2 k2, hi]
theorem buildF3_ok {c : Enc} {mk : Guard → Operand → Src → Src → Src → Option Modx → Instr} {i : Instr} {d : Operand} {a : Src} {b : Src} {e : Src} {x : Option Modx}
    (hd : c.raw.d = d.code) (dk : d.inRange = true)
    (h1 : c.raw.s1 = a.o.code) (g1 : c.raw.e1 = bit1 a.e) (k1 : a.inRange = true)
    (h2 : c.raw.s2 = b.o.code) (g2 : c.raw.e2 = bit1 b.e) (k2 : b.inRange = true)
    (h3 : c.raw.s3 = e.o.code) (g3 : c.raw.e3 = bit1 e.e) (k3 : e.inRange = true)
    (hx : c.modx = some x)
    (hi : mk c.raw.guard d a b e x = i) : buildF3 c mk = .ok i := by
  simp [buildF3, orCause4, hx, Raw.dst_eq hd dk, Raw.src1_eq h1 g1 k1, Raw.src2_eq h2 g2 k2, Raw.src3_eq h3 g3 k3, hi]

/-! ## Bits of the fields -/

theorem pb_toNat {pb : Nat} (h : decide (pb < 640) = true) : (BitVec.ofNat 10 pb).toNat = pb := by
  simp only [decide_eq_true_eq] at h
  rw [BitVec.toNat_ofNat, Nat.mod_eq_of_lt (by omega)]
theorem portOf_code {p : Nat} (h : p < 32) : portOf (portCode p) = .ok p := by
  rw [portOf, show portCode p = (Operand.port p).code from rfl, Operand.ofCode_code _ (by simpa [Operand.inRange] using h)]
theorem viaq_port (p : BitVec 5) : ((0 : BitVec 4) ++ (1 : BitVec 1) ++ p : BitVec 10).getLsbD 5 = true := by revert p; decide
theorem viaq_none : (0 : BitVec 10).getLsbD 5 = false := by decide
theorem portNo_port (p : BitVec 5) : ((0 : BitVec 4) ++ (1 : BitVec 1) ++ p : BitVec 10).extractLsb' 0 5 = p := by revert p; decide
theorem buildCls_ok {c : Enc} {mk : EngClass → Except Nat Instr} {k : EngClass} (h : c.raw.mod = clsMod k) : buildCls c mk = mk k := by
  rw [buildCls, h, EngClass.ofBits_code]
theorem mod2_low (b : BitVec 2) : (mod2 b).extractLsb' 0 2 = b := by revert b; decide
theorem mod3_low (b : BitVec 3) : (mod3 b).extractLsb' 0 3 = b := by revert b; decide
theorem modBit_low (b : Bool) : (modBit b).getLsbD 0 = b := by revert b; decide
theorem modAtom_op (o : BitVec 4) (w : Bool) : (modAtom o w).extractLsb' 0 4 = o := by revert o w; decide
theorem modAtom_w64 (o : BitVec 4) (w : Bool) : (modAtom o w).getLsbD 4 = w := by revert o w; decide
theorem condD_cond (x k : BitVec 3) : (condD x k).extractLsb' 3 3 = x := by revert x k; decide
theorem condD_k (x k : BitVec 3) : (condD x k).extractLsb' 0 3 = k := by revert x k; decide
theorem predD_low (k : BitVec 3) : (predD k).extractLsb' 0 3 = k := by revert k; decide
theorem selMod_p (p : BitVec 3) (b : Bool) : (p ++ (0 : BitVec 1) ++ bit1 b : BitVec 5).extractLsb' 2 3 = p := by revert p b; decide
theorem selMod_dbl (p : BitVec 3) (b : Bool) : (p ++ (0 : BitVec 1) ++ bit1 b : BitVec 5).getLsbD 0 = b := by revert p b; decide
theorem breMod_dim (n : Bool) (x : BitVec 2) : ((0 : BitVec 2) ++ bit1 n ++ x : BitVec 5).extractLsb' 0 2 = x := by revert n x; decide
theorem breMod_neg (n : Bool) (x : BitVec 2) : ((0 : BitVec 2) ++ bit1 n ++ x : BitVec 5).getLsbD 2 = n := by revert n x; decide
theorem fmaMod_ft (n m : Bool) (x : BitVec 2) : ((0 : BitVec 1) ++ bit1 n ++ bit1 m ++ x : BitVec 5).extractLsb' 0 2 = x := by
  revert n m x; decide
theorem fmaMod_np (n m : Bool) (x : BitVec 2) : ((0 : BitVec 1) ++ bit1 n ++ bit1 m ++ x : BitVec 5).getLsbD 2 = m := by
  revert n m x; decide
theorem fmaMod_nc (n m : Bool) (x : BitVec 2) : ((0 : BitVec 1) ++ bit1 n ++ bit1 m ++ x : BitVec 5).getLsbD 3 = n := by
  revert n m x; decide
theorem dotMod_0 (n m k : Bool) : ((0 : BitVec 2) ++ bit1 n ++ bit1 m ++ bit1 k : BitVec 5).getLsbD 0 = k := by revert n m k; decide
theorem dotMod_1 (n m k : Bool) : ((0 : BitVec 2) ++ bit1 n ++ bit1 m ++ bit1 k : BitVec 5).getLsbD 1 = m := by revert n m k; decide
theorem dotMod_2 (n m k : Bool) : ((0 : BitVec 2) ++ bit1 n ++ bit1 m ++ bit1 k : BitVec 5).getLsbD 2 = n := by revert n m k; decide
theorem cvtS3_dt (x y : BitVec 4) : ((0 : BitVec 2) ++ x ++ y : BitVec 10).extractLsb' 0 4 = y := by revert x y; decide
theorem cvtS3_st (x y : BitVec 4) : ((0 : BitVec 2) ++ x ++ y : BitVec 10).extractLsb' 4 4 = x := by revert x y; decide
theorem shflMod_mode (b : Bool) (x : BitVec 2) : ((0 : BitVec 2) ++ bit1 b ++ x : BitVec 5).extractLsb' 0 2 = x := by revert b x; decide
theorem shflMod_dbl (b : Bool) (x : BitVec 2) : ((0 : BitVec 2) ++ bit1 b ++ x : BitVec 5).getLsbD 2 = b := by revert b x; decide
theorem brkImm (x : BitVec 16) : ((0 : BitVec 4) ++ x : BitVec 20).extractLsb' 0 16 = x := by
  rw [extract_append_low _ _ 0 16 (by decide), BitVec.extractLsb'_eq_self]
theorem mcMod_nb (n m : Bool) : ((0 : BitVec 3) ++ bit1 n ++ bit1 m : BitVec 5).getLsbD 1 = n := by revert n m; decide
theorem mcMod_op (n m : Bool) : ((0 : BitVec 3) ++ bit1 n ++ bit1 m : BitVec 5).getLsbD 0 = m := by revert n m; decide
theorem relMod_sc (x : BitVec 2) (y : BitVec 3) : (x ++ y : BitVec 5).extractLsb' 3 2 = x := by revert x y; decide
theorem relMod_size (x : BitVec 2) (y : BitVec 3) : (x ++ y : BitVec 5).extractLsb' 0 3 = y := by revert x y; decide
theorem repImm_count (x : BitVec 2) (y : BitVec 4) (z : BitVec 7) :
    ((0 : BitVec 7) ++ x ++ y ++ z : BitVec 20).extractLsb' 0 7 = z := by
  simp (disch := decide) only [extract_append_low, BitVec.extractLsb'_eq_self]
theorem repImm_mask (x : BitVec 2) (y : BitVec 4) (z : BitVec 7) :
    ((0 : BitVec 7) ++ x ++ y ++ z : BitVec 20).extractLsb' 7 4 = y := by
  simp (disch := decide) only [extract_append_high, extract_append_low, BitVec.extractLsb'_eq_self, Nat.reduceSub]
theorem repImm_step (x : BitVec 2) (y : BitVec 4) (z : BitVec 7) :
    ((0 : BitVec 7) ++ x ++ y ++ z : BitVec 20).extractLsb' 11 2 = x := by
  simp (disch := decide) only [extract_append_high, extract_append_low, BitVec.extractLsb'_eq_self, Nat.reduceSub]

theorem movi_parts (i : BitVec 22) : i.extractLsb' 8 14 ++ i.extractLsb' 4 4 ++ i.extractLsb' 0 4 = i := by
  have h : i.extractLsb' 8 14 ++ i.extractLsb' 4 4 = i.extractLsb' 4 18 :=
    BitVec.extractLsb'_append_extractLsb'_eq_extractLsb' (by decide)
  rw [h, BitVec.extractLsb'_append_extractLsb'_eq_extractLsb' (by decide), BitVec.extractLsb'_eq_self]
theorem movhi_parts (i : BitVec 16) :
    (0#6 ++ i.extractLsb' 8 8 : BitVec 14).extractLsb' 0 8 ++ i.extractLsb' 4 4 ++ i.extractLsb' 0 4 = i := by
  rw [extract_append_low _ _ 0 8 (by decide), BitVec.extractLsb'_eq_self]
  have h : i.extractLsb' 8 8 ++ i.extractLsb' 4 4 = i.extractLsb' 4 12 :=
    BitVec.extractLsb'_append_extractLsb'_eq_extractLsb' (by decide)
  rw [h, BitVec.extractLsb'_append_extractLsb'_eq_extractLsb' (by decide), BitVec.extractLsb'_eq_self]
theorem imm14_low (x : BitVec 4) (y : BitVec 10) : (x ++ y : BitVec 14).extractLsb' 0 10 = y := by
  rw [extract_append_low _ _ 0 10 (by decide), BitVec.extractLsb'_eq_self]
theorem imm14_top (y : BitVec 10) : (0#4 ++ y : BitVec 14).extractLsb' 11 3 = 0#3 := by
  rw [extract_append_high _ _ 11 3 (by decide)]; rfl
theorem imm14_top1 (y : BitVec 10) : (1#4 ++ y : BitVec 14).extractLsb' 11 3 = 0#3 := by
  rw [extract_append_high _ _ 11 3 (by decide)]; rfl
theorem imm14_bit (y : BitVec 10) : (0#4 ++ y : BitVec 14)[10] = false := by
  rw [BitVec.getElem_append]; rfl
theorem imm14_bit1 (y : BitVec 10) : (1#4 ++ y : BitVec 14)[10] = true := by
  rw [BitVec.getElem_append]; rfl
theorem imm14_high (y : BitVec 3) : (0#11 ++ y : BitVec 14).extractLsb' 3 11 = 0#11 := by
  rw [extract_append_high _ _ 3 11 (by decide)]; rfl
theorem imm14_field (y : BitVec 3) : (0#11 ++ y : BitVec 14).extractLsb' 0 3 = y := by
  rw [extract_append_low _ _ 0 3 (by decide), BitVec.extractLsb'_eq_self]

end Sys2Proof
end

