-- ==== Sys2Proof/Laws/PerInstr.lean ====
section
/-! SUPPORT. For every instruction: the decoder reads the words of a well-formed instruction as that instruction. One lemma per
constructor of `Instr`. -/

namespace Sys2Proof.Laws
-- one proof after the other: side by side they need more memory than the check has
set_option Elab.async false

/-- Decoding the LA3 words, or the tariff word, of a well-formed instruction gives the instruction back. -/
def RoundTrip.Statement (i : Instr) : Prop :=
  i.wf = true →
    (∀ c, encode i = some c → decodeWord c.raw.toWord (c.ext.getD 0) = .ok i) ∧
    (∀ r, tEncode i = some r → tDecode r.toWord = .ok i)

/-- An instruction with no word of either kind. -/
theorem RoundTrip.noWord {i : Instr} (he : encode i = none) (ht : tEncode i = none) : Statement i := fun _ =>
  ⟨fun c h => by simp [he] at h, fun r h => by simp [ht] at h⟩

/-- The opcodes that `decode` does not refuse by number. -/
def RoundTrip.opcOk (n : Nat) : Bool := n != 0 && !(decide (0x380 ≤ n) && decide (n ≤ 0x3BF)) && n != 0x3FF
/-- LN says whether there is an extension word. -/
def RoundTrip.lnOk (c : Enc) : Prop := c.raw.ln = match c.ext with | none => 0 | some _ => 1

theorem RoundTrip.lnOk_enc (r : Raw) (h : r.ln = 0) : lnOk r.enc := h
theorem RoundTrip.lnOk_encX (r : Raw) (w : DWord) : lnOk (r.encX w) := rfl
theorem RoundTrip.lnOk_encModx (r : Raw) (x : Option Modx) (h : r.ln = 0) : lnOk (r.encModx x) := by
  cases x with
  | none => exact h
  | some m => rfl
theorem RoundTrip.lnOk_encImm (r : Raw) (i : Imm) (h : r.ln = 0) : lnOk (r.encImm i) := by
  cases i with
  | short v => exact h
  | long w => rfl
theorem RoundTrip.lnOk_encTarget (r : Raw) (t : Target) (h : r.ln = 0) : lnOk (r.encTarget t) := by
  cases t with
  | short v => exact h
  | long w => rfl
theorem RoundTrip.lnOk_encMem (r : Raw) (m : MemOp) (h : r.ln = 0) : lnOk (r.encMem m) := by
  obtain ⟨mode, slot, idx, disp⟩ := m
  cases disp with
  | short v => exact h
  | long w => rfl

/-- `decodeWord` on the words of fields is `decode` on the fields. -/
theorem RoundTrip.decodeWord_toWord (c : Enc) (h : lnOk c) : decodeWord c.raw.toWord (c.ext.getD 0) = decode c := by
  obtain ⟨r, x⟩ := c
  cases x with
  | none => simp_all [decodeWord, Raw.ofWord_toWord, hasExt, Raw.toWord_ln, lnOk]
  | some w => simp_all [decodeWord, Raw.ofWord_toWord, hasExt, Raw.toWord_ln, lnOk]

/-- An LA3 instruction whose fields build it. -/
theorem RoundTrip.ofBuild {i : Instr} {c : Enc} (he : encode i = some c) (ht : tEncode i = none) (hl : lnOk c)
    (ho : opcOk c.raw.opc.toNat = true) (hb : i.opsOk = true → build c = .ok i) : Statement i := by
  intro hw
  simp only [Instr.wf, Bool.and_eq_true] at hw
  refine ⟨fun c' h => ?_, fun r h => by simp [ht] at h⟩
  obtain rfl : c = c' := by simpa [he] using h
  rw [decodeWord_toWord c hl]
  simp only [opcOk, Bool.and_eq_true, Bool.not_eq_true', bne_iff_ne, ne_eq, Bool.and_eq_false_iff, decide_eq_false_iff_not] at ho
  simp only [decode]
  rw [if_neg ho.1.1, if_neg (by omega), if_neg ho.2, hb hw.2]
  simp [he, hw.1, hw.2]

theorem RoundTrip.ofTBuild {i : Instr} {r : TRaw} (he : encode i = none) (ht : tEncode i = some r) (hb : tBuild r = .ok i) : Statement i := by
  intro hw
  simp only [Instr.wf, Bool.and_eq_true] at hw
  refine ⟨fun c h => by simp [he] at h, fun r' h => ?_⟩
  obtain rfl : r = r' := by simpa [ht] using h
  simp [tDecode, TRaw.ofWord_toWord, hb, ht, hw.1]
theorem RoundTrip.add (g : Guard) (ty : IntTy) (d : Operand) (a b : Src) : Statement (.add g ty d a b) := by
  let cc := (encI3 0x001 g ty d a b)
  refine ofBuild (c := cc) rfl rfl rfl rfl fun h =>
    (show build cc = buildA2 cc fun g => .add g cc.raw.ty from rfl).trans ?_
  replace h : (d.isDest && a.inRange && b.inRange) = true := h
  simp only [Bool.and_eq_true] at h
  exact (buildA2_ok (c := cc) rfl (Operand.isDest_inRange _ h.1.1) rfl rfl h.1.2 rfl rfl h.2
    (by congr 1 <;> first | exact Raw.guard_eq rfl rfl | exact Raw.ty_eq rfl))
theorem RoundTrip.addImm (g : Guard) (ty : IntTy) (d : Operand) (a : Src) (i : Imm) : Statement (.addImm g ty d a i) := by
  let cc := (encIi 0x031 g ty d a i)
  refine ofBuild (c := cc) rfl rfl (lnOk_encImm _ _ rfl) (by cases i <;> rfl) fun h =>
    (show build cc = buildB cc fun g => .addImm g cc.raw.ty from (by cases i <;> rfl)).trans ?_
  replace h : (d.isDest && a.inRange) = true := h
  simp only [Bool.and_eq_true] at h
  exact (buildB_ok (c := cc) (by cases i <;> rfl) (Operand.isDest_inRange _ h.1) (by cases i <;> rfl) (by cases i <;> rfl) h.2
    (by congr 1 <;> first | exact Raw.guard_eq (by cases i <;> rfl) (by cases i <;> rfl) | exact Raw.ty_eq (by cases i <;> rfl) | exact Raw.encImm_imm _ _ | (cases i <;> rfl)))
theorem RoundTrip.sub (g : Guard) (ty : IntTy) (d : Operand) (a b : Src) : Statement (.sub g ty d a b) := by
  let cc := (encI3 0x002 g ty d a b)
  refine ofBuild (c := cc) rfl rfl rfl rfl fun h =>
    (show build cc = buildA2 cc fun g => .sub g cc.raw.ty from rfl).trans ?_
  replace h : (d.isDest && a.inRange && b.inRange) = true := h
  simp only [Bool.and_eq_true] at h
  exact (buildA2_ok (c := cc) rfl (Operand.isDest_inRange _ h.1.1) rfl rfl h.1.2 rfl rfl h.2
    (by congr 1 <;> first | exact Raw.guard_eq rfl rfl | exact Raw.ty_eq rfl))
theorem RoundTrip.subImm (g : Guard) (ty : IntTy) (d : Operand) (a : Src) (i : Imm) : Statement (.subImm g ty d a i) := by
  let cc := (encIi 0x032 g ty d a i)
  refine ofBuild (c := cc) rfl rfl (lnOk_encImm _ _ rfl) (by cases i <;> rfl) fun h =>
    (show build cc = buildB cc fun g => .subImm g cc.raw.ty from (by cases i <;> rfl)).trans ?_
  replace h : (d.isDest && a.inRange) = true := h
  simp only [Bool.and_eq_true] at h
  exact (buildB_ok (c := cc) (by cases i <;> rfl) (Operand.isDest_inRange _ h.1) (by cases i <;> rfl) (by cases i <;> rfl) h.2
    (by congr 1 <;> first | exact Raw.guard_eq (by cases i <;> rfl) (by cases i <;> rfl) | exact Raw.ty_eq (by cases i <;> rfl) | exact Raw.encImm_imm _ _ | (cases i <;> rfl)))
theorem RoundTrip.mul (g : Guard) (ty : IntTy) (d : Operand) (a b : Src) : Statement (.mul g ty d a b) := by
  let cc := (encI3 0x003 g ty d a b)
  refine ofBuild (c := cc) rfl rfl rfl rfl fun h =>
    (show build cc = buildA2 cc fun g => .mul g cc.raw.ty from rfl).trans ?_
  replace h : (d.isDest && a.inRange && b.inRange) = true := h
  simp only [Bool.and_eq_true] at h
  exact (buildA2_ok (c := cc) rfl (Operand.isDest_inRange _ h.1.1) rfl rfl h.1.2 rfl rfl h.2
    (by congr 1 <;> first | exact Raw.guard_eq rfl rfl | exact Raw.ty_eq rfl))
theorem RoundTrip.mulImm (g : Guard) (ty : IntTy) (d : Operand) (a : Src) (i : Imm) : Statement (.mulImm g ty d a i) := by
  let cc := (encIi 0x033 g ty d a i)
  refine ofBuild (c := cc) rfl rfl (lnOk_encImm _ _ rfl) (by cases i <;> rfl) fun h =>
    (show build cc = buildB cc fun g => .mulImm g cc.raw.ty from (by cases i <;> rfl)).trans ?_
  replace h : (d.isDest && a.inRange) = true := h
  simp only [Bool.and_eq_true] at h
  exact (buildB_ok (c := cc) (by cases i <;> rfl) (Operand.isDest_inRange _ h.1) (by cases i <;> rfl) (by cases i <;> rfl) h.2
    (by congr 1 <;> first | exact Raw.guard_eq (by cases i <;> rfl) (by cases i <;> rfl) | exact Raw.ty_eq (by cases i <;> rfl) | exact Raw.encImm_imm _ _ | (cases i <;> rfl)))
theorem RoundTrip.mulhi (g : Guard) (ty : IntTy) (d : Operand) (a b : Src) : Statement (.mulhi g ty d a b) := by
  let cc := (encI3 0x004 g ty d a b)
  refine ofBuild (c := cc) rfl rfl rfl rfl fun h =>
    (show build cc = buildA2 cc fun g => .mulhi g cc.raw.ty from rfl).trans ?_
  replace h : (d.isDest && a.inRange && b.inRange) = true := h
  simp only [Bool.and_eq_true] at h
  exact (buildA2_ok (c := cc) rfl (Operand.isDest_inRange _ h.1.1) rfl rfl h.1.2 rfl rfl h.2
    (by congr 1 <;> first | exact Raw.guard_eq rfl rfl | exact Raw.ty_eq rfl))
theorem RoundTrip.mad (g : Guard) (ty : IntTy) (d : Operand) (a b c : Src) : Statement (.mad g ty d a b c) := by
  let cc := ((((((rawOf 0x005 g).withTy ty).withD d).withS1 a).withS2 b).withS3 c).enc
  refine ofBuild (c := cc) rfl rfl rfl rfl fun h =>
    (show build cc = buildA3 cc fun g => .mad g cc.raw.ty from rfl).trans ?_
  replace h : (d.isDest && a.inRange && b.inRange && c.inRange) = true := h
  simp only [Bool.and_eq_true] at h
  exact (buildA3_ok (c := cc) rfl (Operand.isDest_inRange _ h.1.1.1) rfl rfl h.1.1.2 rfl rfl h.1.2 rfl rfl h.2
    (by congr 1 <;> first | exact Raw.guard_eq rfl rfl | exact Raw.ty_eq rfl))
theorem RoundTrip.div (g : Guard) (ty : IntTy) (d : Operand) (a b : Src) : Statement (.div g ty d a b) := by
  let cc := (encI3 0x006 g ty d a b)
  refine ofBuild (c := cc) rfl rfl rfl rfl fun h =>
    (show build cc = buildA2 cc fun g => .div g cc.raw.ty from rfl).trans ?_
  replace h : (d.isDest && a.inRange && b.inRange) = true := h
  simp only [Bool.and_eq_true] at h
  exact (buildA2_ok (c := cc) rfl (Operand.isDest_inRange _ h.1.1) rfl rfl h.1.2 rfl rfl h.2
    (by congr 1 <;> first | exact Raw.guard_eq rfl rfl | exact Raw.ty_eq rfl))
theorem RoundTrip.rem (g : Guard) (ty : IntTy) (d : Operand) (a b : Src) : Statement (.rem g ty d a b) := by
  let cc := (encI3 0x007 g ty d a b)
  refine ofBuild (c := cc) rfl rfl rfl rfl fun h =>
    (show build cc = buildA2 cc fun g => .rem g cc.raw.ty from rfl).trans ?_
  replace h : (d.isDest && a.inRange && b.inRange) = true := h
  simp only [Bool.and_eq_true] at h
  exact (buildA2_ok (c := cc) rfl (Operand.isDest_inRange _ h.1.1) rfl rfl h.1.2 rfl rfl h.2
    (by congr 1 <;> first | exact Raw.guard_eq rfl rfl | exact Raw.ty_eq rfl))
theorem RoundTrip.neg (g : Guard) (ty : IntTy) (d : Operand) (a : Src) : Statement (.neg g ty d a) := by
  let cc := (encI2 0x008 g ty d a)
  refine ofBuild (c := cc) rfl rfl rfl rfl fun h =>
    (show build cc = buildA1 cc fun g => .neg g cc.raw.ty from rfl).trans ?_
  replace h : (d.isDest && a.inRange) = true := h
  simp only [Bool.and_eq_true] at h
  exact (buildA1_ok (c := cc) rfl (Operand.isDest_inRange _ h.1) rfl rfl h.2
    (by congr 1 <;> first | exact Raw.guard_eq rfl rfl | exact Raw.ty_eq rfl))
theorem RoundTrip.abs (g : Guard) (ty : IntTy) (d : Operand) (a : Src) : Statement (.abs g ty d a) := by
  let cc := (encI2 0x009 g ty d a)
  refine ofBuild (c := cc) rfl rfl rfl rfl fun h =>
    (show build cc = buildA1 cc fun g => .abs g cc.raw.ty from rfl).trans ?_
  replace h : (d.isDest && a.inRange) = true := h
  simp only [Bool.and_eq_true] at h
  exact (buildA1_ok (c := cc) rfl (Operand.isDest_inRange _ h.1) rfl rfl h.2
    (by congr 1 <;> first | exact Raw.guard_eq rfl rfl | exact Raw.ty_eq rfl))
theorem RoundTrip.min (g : Guard) (ty : IntTy) (d : Operand) (a b : Src) : Statement (.min g ty d a b) := by
  let cc := (encI3 0x00A g ty d a b)
  refine ofBuild (c := cc) rfl rfl rfl rfl fun h =>
    (show build cc = buildA2 cc fun g => .min g cc.raw.ty from rfl).trans ?_
  replace h : (d.isDest && a.inRange && b.inRange) = true := h
  simp only [Bool.and_eq_true] at h
  exact (buildA2_ok (c := cc) rfl (Operand.isDest_inRange _ h.1.1) rfl rfl h.1.2 rfl rfl h.2
    (by congr 1 <;> first | exact Raw.guard_eq rfl rfl | exact Raw.ty_eq rfl))
theorem RoundTrip.minImm (g : Guard) (ty : IntTy) (d : Operand) (a : Src) (i : Imm) : Statement (.minImm g ty d a i) := by
  let cc := (encIi 0x03A g ty d a i)
  refine ofBuild (c := cc) rfl rfl (lnOk_encImm _ _ rfl) (by cases i <;> rfl) fun h =>
    (show build cc = buildB cc fun g => .minImm g cc.raw.ty from (by cases i <;> rfl)).trans ?_
  replace h : (d.isDest && a.inRange) = true := h
  simp only [Bool.and_eq_true] at h
  exact (buildB_ok (c := cc) (by cases i <;> rfl) (Operand.isDest_inRange _ h.1) (by cases i <;> rfl) (by cases i <;> rfl) h.2
    (by congr 1 <;> first | exact Raw.guard_eq (by cases i <;> rfl) (by cases i <;> rfl) | exact Raw.ty_eq (by cases i <;> rfl) | exact Raw.encImm_imm _ _ | (cases i <;> rfl)))
theorem RoundTrip.max (g : Guard) (ty : IntTy) (d : Operand) (a b : Src) : Statement (.max g ty d a b) := by
  let cc := (encI3 0x00B g ty d a b)
  refine ofBuild (c := cc) rfl rfl rfl rfl fun h =>
    (show build cc = buildA2 cc fun g => .max g cc.raw.ty from rfl).trans ?_
  replace h : (d.isDest && a.inRange && b.inRange) = true := h
  simp only [Bool.and_eq_true] at h
  exact (buildA2_ok (c := cc) rfl (Operand.isDest_inRange _ h.1.1) rfl rfl h.1.2 rfl rfl h.2
    (by congr 1 <;> first | exact Raw.guard_eq rfl rfl | exact Raw.ty_eq rfl))
theorem RoundTrip.maxImm (g : Guard) (ty : IntTy) (d : Operand) (a : Src) (i : Imm) : Statement (.maxImm g ty d a i) := by
  let cc := (encIi 0x03B g ty d a i)
  refine ofBuild (c := cc) rfl rfl (lnOk_encImm _ _ rfl) (by cases i <;> rfl) fun h =>
    (show build cc = buildB cc fun g => .maxImm g cc.raw.ty from (by cases i <;> rfl)).trans ?_
  replace h : (d.isDest && a.inRange) = true := h
  simp only [Bool.and_eq_true] at h
  exact (buildB_ok (c := cc) (by cases i <;> rfl) (Operand.isDest_inRange _ h.1) (by cases i <;> rfl) (by cases i <;> rfl) h.2
    (by congr 1 <;> first | exact Raw.guard_eq (by cases i <;> rfl) (by cases i <;> rfl) | exact Raw.ty_eq (by cases i <;> rfl) | exact Raw.encImm_imm _ _ | (cases i <;> rfl)))
theorem RoundTrip.and (g : Guard) (ty : IntTy) (d : Operand) (a b : Src) : Statement (.and g ty d a b) := by
  let cc := (encI3 0x00C g ty d a b)
  refine ofBuild (c := cc) rfl rfl rfl rfl fun h =>
    (show build cc = buildA2 cc fun g => .and g cc.raw.ty from rfl).trans ?_
  replace h : (d.isDest && a.inRange && b.inRange) = true := h
  simp only [Bool.and_eq_true] at h
  exact (buildA2_ok (c := cc) rfl (Operand.isDest_inRange _ h.1.1) rfl rfl h.1.2 rfl rfl h.2
    (by congr 1 <;> first | exact Raw.guard_eq rfl rfl | exact Raw.ty_eq rfl))
theorem RoundTrip.andImm (g : Guard) (ty : IntTy) (d : Operand) (a : Src) (i : Imm) : Statement (.andImm g ty d a i) := by
  let cc := (encIi 0x03C g ty d a i)
  refine ofBuild (c := cc) rfl rfl (lnOk_encImm _ _ rfl) (by cases i <;> rfl) fun h =>
    (show build cc = buildB cc fun g => .andImm g cc.raw.ty from (by cases i <;> rfl)).trans ?_
  replace h : (d.isDest && a.inRange) = true := h
  simp only [Bool.and_eq_true] at h
  exact (buildB_ok (c := cc) (by cases i <;> rfl) (Operand.isDest_inRange _ h.1) (by cases i <;> rfl) (by cases i <;> rfl) h.2
    (by congr 1 <;> first | exact Raw.guard_eq (by cases i <;> rfl) (by cases i <;> rfl) | exact Raw.ty_eq (by cases i <;> rfl) | exact Raw.encImm_imm _ _ | (cases i <;> rfl)))
theorem RoundTrip.or (g : Guard) (ty : IntTy) (d : Operand) (a b : Src) : Statement (.or g ty d a b) := by
  let cc := (encI3 0x00D g ty d a b)
  refine ofBuild (c := cc) rfl rfl rfl rfl fun h =>
    (show build cc = buildA2 cc fun g => .or g cc.raw.ty from rfl).trans ?_
  replace h : (d.isDest && a.inRange && b.inRange) = true := h
  simp only [Bool.and_eq_true] at h
  exact (buildA2_ok (c := cc) rfl (Operand.isDest_inRange _ h.1.1) rfl rfl h.1.2 rfl rfl h.2
    (by congr 1 <;> first | exact Raw.guard_eq rfl rfl | exact Raw.ty_eq rfl))
theorem RoundTrip.orImm (g : Guard) (ty : IntTy) (d : Operand) (a : Src) (i : Imm) : Statement (.orImm g ty d a i) := by
  let cc := (encIi 0x03D g ty d a i)
  refine ofBuild (c := cc) rfl rfl (lnOk_encImm _ _ rfl) (by cases i <;> rfl) fun h =>
    (show build cc = buildB cc fun g => .orImm g cc.raw.ty from (by cases i <;> rfl)).trans ?_
  replace h : (d.isDest && a.inRange) = true := h
  simp only [Bool.and_eq_true] at h
  exact (buildB_ok (c := cc) (by cases i <;> rfl) (Operand.isDest_inRange _ h.1) (by cases i <;> rfl) (by cases i <;> rfl) h.2
    (by congr 1 <;> first | exact Raw.guard_eq (by cases i <;> rfl) (by cases i <;> rfl) | exact Raw.ty_eq (by cases i <;> rfl) | exact Raw.encImm_imm _ _ | (cases i <;> rfl)))
theorem RoundTrip.xor (g : Guard) (ty : IntTy) (d : Operand) (a b : Src) : Statement (.xor g ty d a b) := by
  let cc := (encI3 0x00E g ty d a b)
  refine ofBuild (c := cc) rfl rfl rfl rfl fun h =>
    (show build cc = buildA2 cc fun g => .xor g cc.raw.ty from rfl).trans ?_
  replace h : (d.isDest && a.inRange && b.inRange) = true := h
  simp only [Bool.and_eq_true] at h
  exact (buildA2_ok (c := cc) rfl (Operand.isDest_inRange _ h.1.1) rfl rfl h.1.2 rfl rfl h.2
    (by congr 1 <;> first | exact Raw.guard_eq rfl rfl | exact Raw.ty_eq rfl))
theorem RoundTrip.xorImm (g : Guard) (ty : IntTy) (d : Operand) (a : Src) (i : Imm) : Statement (.xorImm g ty d a i) := by
  let cc := (encIi 0x03E g ty d a i)
  refine ofBuild (c := cc) rfl rfl (lnOk_encImm _ _ rfl) (by cases i <;> rfl) fun h =>
    (show build cc = buildB cc fun g => .xorImm g cc.raw.ty from (by cases i <;> rfl)).trans ?_
  replace h : (d.isDest && a.inRange) = true := h
  simp only [Bool.and_eq_true] at h
  exact (buildB_ok (c := cc) (by cases i <;> rfl) (Operand.isDest_inRange _ h.1) (by cases i <;> rfl) (by cases i <;> rfl) h.2
    (by congr 1 <;> first | exact Raw.guard_eq (by cases i <;> rfl) (by cases i <;> rfl) | exact Raw.ty_eq (by cases i <;> rfl) | exact Raw.encImm_imm _ _ | (cases i <;> rfl)))
theorem RoundTrip.andn (g : Guard) (ty : IntTy) (d : Operand) (a b : Src) : Statement (.andn g ty d a b) := by
  let cc := (encI3 0x00F g ty d a b)
  refine ofBuild (c := cc) rfl rfl rfl rfl fun h =>
    (show build cc = buildA2 cc fun g => .andn g cc.raw.ty from rfl).trans ?_
  replace h : (d.isDest && a.inRange && b.inRange) = true := h
  simp only [Bool.and_eq_true] at h
  exact (buildA2_ok (c := cc) rfl (Operand.isDest_inRange _ h.1.1) rfl rfl h.1.2 rfl rfl h.2
    (by congr 1 <;> first | exact Raw.guard_eq rfl rfl | exact Raw.ty_eq rfl))
theorem RoundTrip.not (g : Guard) (ty : IntTy) (d : Operand) (a : Src) : Statement (.not g ty d a) := by
  let cc := (encI2 0x010 g ty d a)
  refine ofBuild (c := cc) rfl rfl rfl rfl fun h =>
    (show build cc = buildA1 cc fun g => .not g cc.raw.ty from rfl).trans ?_
  replace h : (d.isDest && a.inRange) = true := h
  simp only [Bool.and_eq_true] at h
  exact (buildA1_ok (c := cc) rfl (Operand.isDest_inRange _ h.1) rfl rfl h.2
    (by congr 1 <;> first | exact Raw.guard_eq rfl rfl | exact Raw.ty_eq rfl))
theorem RoundTrip.shl (g : Guard) (ty : IntTy) (d : Operand) (a b : Src) : Statement (.shl g ty d a b) := by
  let cc := (encI3 0x011 g ty d a b)
  refine ofBuild (c := cc) rfl rfl rfl rfl fun h =>
    (show build cc = buildA2 cc fun g => .shl g cc.raw.ty from rfl).trans ?_
  replace h : (d.isDest && a.inRange && b.inRange) = true := h
  simp only [Bool.and_eq_true] at h
  exact (buildA2_ok (c := cc) rfl (Operand.isDest_inRange _ h.1.1) rfl rfl h.1.2 rfl rfl h.2
    (by congr 1 <;> first | exact Raw.guard_eq rfl rfl | exact Raw.ty_eq rfl))
theorem RoundTrip.shr (g : Guard) (ty : IntTy) (d : Operand) (a b : Src) : Statement (.shr g ty d a b) := by
  let cc := (encI3 0x012 g ty d a b)
  refine ofBuild (c := cc) rfl rfl rfl rfl fun h =>
    (show build cc = buildA2 cc fun g => .shr g cc.raw.ty from rfl).trans ?_
  replace h : (d.isDest && a.inRange && b.inRange) = true := h
  simp only [Bool.and_eq_true] at h
  exact (buildA2_ok (c := cc) rfl (Operand.isDest_inRange _ h.1.1) rfl rfl h.1.2 rfl rfl h.2
    (by congr 1 <;> first | exact Raw.guard_eq rfl rfl | exact Raw.ty_eq rfl))
theorem RoundTrip.rot (g : Guard) (ty : IntTy) (d : Operand) (a b : Src) : Statement (.rot g ty d a b) := by
  let cc := (encI3 0x013 g ty d a b)
  refine ofBuild (c := cc) rfl rfl rfl rfl fun h =>
    (show build cc = buildA2 cc fun g => .rot g cc.raw.ty from rfl).trans ?_
  replace h : (d.isDest && a.inRange && b.inRange) = true := h
  simp only [Bool.and_eq_true] at h
  exact (buildA2_ok (c := cc) rfl (Operand.isDest_inRange _ h.1.1) rfl rfl h.1.2 rfl rfl h.2
    (by congr 1 <;> first | exact Raw.guard_eq rfl rfl | exact Raw.ty_eq rfl))
theorem RoundTrip.bext (g : Guard) (ty : IntTy) (d : Operand) (a b : Src) : Statement (.bext g ty d a b) := by
  let cc := (encI3 0x014 g ty d a b)
  refine ofBuild (c := cc) rfl rfl rfl rfl fun h =>
    (show build cc = buildA2 cc fun g => .bext g cc.raw.ty from rfl).trans ?_
  replace h : (d.isDest && a.inRange && b.inRange) = true := h
  simp only [Bool.and_eq_true] at h
  exact (buildA2_ok (c := cc) rfl (Operand.isDest_inRange _ h.1.1) rfl rfl h.1.2 rfl rfl h.2
    (by congr 1 <;> first | exact Raw.guard_eq rfl rfl | exact Raw.ty_eq rfl))
theorem RoundTrip.bins (g : Guard) (ty : IntTy) (d : Operand) (a b c : Src) : Statement (.bins g ty d a b c) := by
  let cc := ((((((rawOf 0x015 g).withTy ty).withD d).withS1 a).withS2 b).withS3 c).enc
  refine ofBuild (c := cc) rfl rfl rfl rfl fun h =>
    (show build cc = buildA3 cc fun g => .bins g cc.raw.ty from rfl).trans ?_
  replace h : (d.isDest && a.inRange && b.inRange && c.inRange) = true := h
  simp only [Bool.and_eq_true] at h
  exact (buildA3_ok (c := cc) rfl (Operand.isDest_inRange _ h.1.1.1) rfl rfl h.1.1.2 rfl rfl h.1.2 rfl rfl h.2
    (by congr 1 <;> first | exact Raw.guard_eq rfl rfl | exact Raw.ty_eq rfl))
theorem RoundTrip.popc (g : Guard) (ty : IntTy) (d : Operand) (a : Src) : Statement (.popc g ty d a) := by
  let cc := (encI2 0x016 g ty d a)
  refine ofBuild (c := cc) rfl rfl rfl rfl fun h =>
    (show build cc = buildA1 cc fun g => .popc g cc.raw.ty from rfl).trans ?_
  replace h : (d.isDest && a.inRange) = true := h
  simp only [Bool.and_eq_true] at h
  exact (buildA1_ok (c := cc) rfl (Operand.isDest_inRange _ h.1) rfl rfl h.2
    (by congr 1 <;> first | exact Raw.guard_eq rfl rfl | exact Raw.ty_eq rfl))
theorem RoundTrip.clz (g : Guard) (ty : IntTy) (d : Operand) (a : Src) : Statement (.clz g ty d a) := by
  let cc := (encI2 0x017 g ty d a)
  refine ofBuild (c := cc) rfl rfl rfl rfl fun h =>
    (show build cc = buildA1 cc fun g => .clz g cc.raw.ty from rfl).trans ?_
  replace h : (d.isDest && a.inRange) = true := h
  simp only [Bool.and_eq_true] at h
  exact (buildA1_ok (c := cc) rfl (Operand.isDest_inRange _ h.1) rfl rfl h.2
    (by congr 1 <;> first | exact Raw.guard_eq rfl rfl | exact Raw.ty_eq rfl))
theorem RoundTrip.ctz (g : Guard) (ty : IntTy) (d : Operand) (a : Src) : Statement (.ctz g ty d a) := by
  let cc := (encI2 0x018 g ty d a)
  refine ofBuild (c := cc) rfl rfl rfl rfl fun h =>
    (show build cc = buildA1 cc fun g => .ctz g cc.raw.ty from rfl).trans ?_
  replace h : (d.isDest && a.inRange) = true := h
  simp only [Bool.and_eq_true] at h
  exact (buildA1_ok (c := cc) rfl (Operand.isDest_inRange _ h.1) rfl rfl h.2
    (by congr 1 <;> first | exact Raw.guard_eq rfl rfl | exact Raw.ty_eq rfl))
theorem RoundTrip.brev (g : Guard) (ty : IntTy) (d : Operand) (a : Src) : Statement (.brev g ty d a) := by
  let cc := (encI2 0x019 g ty d a)
  refine ofBuild (c := cc) rfl rfl rfl rfl fun h =>
    (show build cc = buildA1 cc fun g => .brev g cc.raw.ty from rfl).trans ?_
  replace h : (d.isDest && a.inRange) = true := h
  simp only [Bool.and_eq_true] at h
  exact (buildA1_ok (c := cc) rfl (Operand.isDest_inRange _ h.1) rfl rfl h.2
    (by congr 1 <;> first | exact Raw.guard_eq rfl rfl | exact Raw.ty_eq rfl))
theorem RoundTrip.cmp (g : Guard) (ty : IntTy) (cond k : BitVec 3) (a b : Src) : Statement (.cmp g ty cond k a b) := by
  let cc := ((({ (rawOf 0x01A g).withTy ty with d := condD cond k }).withS1 a).withS2 b).enc
  refine ofBuild (c := cc) rfl rfl rfl rfl fun h =>
    (show build cc = buildS2 cc fun g => .cmp g cc.raw.ty (cc.raw.d.extractLsb' 3 3) (cc.raw.d.extractLsb' 0 3) from rfl).trans ?_
  replace h : (a.inRange && b.inRange) = true := h
  simp only [Bool.and_eq_true] at h
  exact (buildS2_ok (c := cc) rfl rfl h.1 rfl rfl h.2
    (by congr 1 <;> first | exact Raw.guard_eq rfl rfl | exact Raw.ty_eq rfl | exact condD_cond _ _ | exact condD_k _ _))
theorem RoundTrip.cmpImm (g : Guard) (ty : IntTy) (cond k : BitVec 3) (a : Src) (i : Imm) : Statement (.cmpImm g ty cond k a i) := by
  let cc := (({ (rawOf 0x04A g).withTy ty with d := condD cond k }).withS1 a |>.encImm i)
  refine ofBuild (c := cc) rfl rfl (lnOk_encImm _ _ rfl) (by cases i <;> rfl) fun h =>
    (show build cc = buildS1 cc fun g a => .cmpImm g cc.raw.ty (cc.raw.d.extractLsb' 3 3) (cc.raw.d.extractLsb' 0 3) a cc.imm from (by cases i <;> rfl)).trans ?_
  replace h : (a.inRange) = true := h
  exact (buildS1_ok (c := cc) (by cases i <;> rfl) (by cases i <;> rfl) h
    (by congr 1 <;> first | exact Raw.guard_eq (by cases i <;> rfl) (by cases i <;> rfl) | exact Raw.ty_eq (by cases i <;> rfl) | (cases i <;> exact condD_cond _ _) | (cases i <;> exact condD_k _ _) | exact Raw.encImm_imm _ _ | (cases i <;> rfl)))
theorem RoundTrip.sel (g : Guard) (dbl : Bool) (p : BitVec 3) (d : Operand) (a b : Src) : Statement (.sel g dbl p d a b) := by
  let cc := (encA3 0x01B g (p ++ (0 : BitVec 1) ++ bit1 dbl) d a b)
  refine ofBuild (c := cc) rfl rfl rfl rfl fun h =>
    (show build cc = buildA2 cc fun g => .sel g (cc.raw.mod.getLsbD 0) (cc.raw.mod.extractLsb' 2 3) from rfl).trans ?_
  replace h : (d.isDest && a.inRange && b.inRange) = true := h
  simp only [Bool.and_eq_true] at h
  exact (buildA2_ok (c := cc) rfl (Operand.isDest_inRange _ h.1.1) rfl rfl h.1.2 rfl rfl h.2
    (by congr 1 <;> first | exact Raw.guard_eq rfl rfl | exact mod2_low _ | exact selMod_p _ _ | exact selMod_dbl _ _))
theorem RoundTrip.mov (g : Guard) (dbl : Bool) (d : Operand) (a : Src) : Statement (.mov g dbl d a) := by
  let cc := (encA2 0x01C g (modBit dbl) d a)
  refine ofBuild (c := cc) rfl rfl rfl rfl fun h =>
    (show build cc = buildA1 cc fun g => .mov g (cc.raw.mod.getLsbD 0) from rfl).trans ?_
  replace h : (d.isDest && a.inRange) = true := h
  simp only [Bool.and_eq_true] at h
  exact (buildA1_ok (c := cc) rfl (Operand.isDest_inRange _ h.1) rfl rfl h.2
    (by congr 1 <;> first | exact Raw.guard_eq rfl rfl | exact mod2_low _ | exact modBit_low _))
theorem RoundTrip.movImm (g : Guard) (dbl : Bool) (d : Operand) (i : Imm) : Statement (.movImm g dbl d i) := by
  let cc := ((((rawOf 0x04C g).withMod (modBit dbl)).withD d).encImm i)
  refine ofBuild (c := cc) rfl rfl (lnOk_encImm _ _ rfl) (by cases i <;> rfl) fun h =>
    (show build cc = buildD cc fun g d => .movImm g (cc.raw.mod.getLsbD 0) d cc.imm from (by cases i <;> rfl)).trans ?_
  replace h : (d.isDest) = true := h
  exact (buildD_ok (c := cc) (by cases i <;> rfl) (Operand.isDest_inRange _ h)
    (by congr 1 <;> first | exact Raw.guard_eq (by cases i <;> rfl) (by cases i <;> rfl) | (cases i <;> exact modBit_low _) | exact Raw.encImm_imm _ _ | (cases i <;> rfl)))
theorem RoundTrip.lea (g : Guard) (d : Operand) (m : MemOp) : Statement (.lea g d m) := by
  let cc := (((rawOf 0x01E g).withD d).encMem m)
  refine ofBuild (c := cc) rfl rfl (lnOk_encMem _ _ rfl) (by obtain ⟨_, _, _, _ | _⟩ := m <;> rfl) fun h =>
    (show build cc = buildM cc .lea from (by obtain ⟨_, _, _, _ | _⟩ := m <;> rfl)).trans ?_
  replace h : (d.isDest && m.idx.inRange) = true := h
  simp only [Bool.and_eq_true] at h
  exact (buildM_ok (c := cc) (by obtain ⟨_, _, _, _ | _⟩ := m <;> rfl) (Operand.isDest_inRange _ h.1) (Raw.encMem_memOp _ _ h.2)
    (by congr 1 <;> first | exact Raw.guard_eq (by obtain ⟨_, _, _, _ | _⟩ := m <;> rfl) (by obtain ⟨_, _, _, _ | _⟩ := m <;> rfl) | (obtain ⟨_, _, _, _ | _⟩ := m <;> rfl)))
theorem RoundTrip.plog (g : Guard) (op : BitVec 5) (kd ka kb : BitVec 3) : Statement (.plog g op kd ka kb) := by
  let cc := ({ rawOf 0x080 g with mod := op, d := predD kd, s1 := predD ka, s2 := predD kb } : Raw).enc
  refine ofBuild (c := cc) rfl rfl rfl rfl fun h =>
    (show build cc = .ok (.plog cc.raw.guard cc.raw.mod (cc.raw.d.extractLsb' 0 3) (cc.raw.s1.extractLsb' 0 3) (cc.raw.s2.extractLsb' 0 3)) from rfl).trans ?_
  exact (congrArg Except.ok
    (by congr 1 <;> first | exact Raw.guard_eq rfl rfl | exact predD_low _))
theorem RoundTrip.pget (g : Guard) (d : Operand) : Statement (.pget g d) := by
  let cc := ((rawOf 0x081 g).withD d).enc
  refine ofBuild (c := cc) rfl rfl rfl rfl fun h =>
    (show build cc = buildD cc .pget from rfl).trans ?_
  replace h : (d.isDest) = true := h
  exact (buildD_ok (c := cc) rfl (Operand.isDest_inRange _ h)
    (by congr 1 <;> first | exact Raw.guard_eq rfl rfl))
theorem RoundTrip.pput (g : Guard) (a b : Src) : Statement (.pput g a b) := by
  let cc := (((rawOf 0x082 g).withS1 a).withS2 b).enc
  refine ofBuild (c := cc) rfl rfl rfl rfl fun h =>
    (show build cc = buildS2 cc .pput from rfl).trans ?_
  replace h : (a.inRange && b.inRange) = true := h
  simp only [Bool.and_eq_true] at h
  exact (buildS2_ok (c := cc) rfl rfl h.1 rfl rfl h.2
    (by congr 1 <;> first | exact Raw.guard_eq rfl rfl))
theorem RoundTrip.pbit (g : Guard) (dbl : Bool) (kd : BitVec 3) (a b : Src) : Statement (.pbit g dbl kd a b) := by
  let cc := ((({ rawOf 0x083 g with mod := modBit dbl, d := predD kd } : Raw).withS1 a).withS2 b).enc
  refine ofBuild (c := cc) rfl rfl rfl rfl fun h =>
    (show build cc = buildS2 cc fun g => .pbit g (cc.raw.mod.getLsbD 0) (cc.raw.d.extractLsb' 0 3) from rfl).trans ?_
  replace h : (a.inRange && b.inRange) = true := h
  simp only [Bool.and_eq_true] at h
  exact (buildS2_ok (c := cc) rfl rfl h.1 rfl rfl h.2
    (by congr 1 <;> first | exact Raw.guard_eq rfl rfl | exact modBit_low _ | exact predD_low _))
theorem RoundTrip.br (g : Guard) (t : Target) : Statement (.br g t) := by
  let cc := ((rawOf 0x060 g).encTarget t)
  refine ofBuild (c := cc) rfl rfl (lnOk_encTarget _ _ rfl) (by cases t <;> rfl) fun h =>
    (show build cc = .ok (.br cc.raw.guard cc.target) from (by cases t <;> rfl)).trans ?_
  exact (congrArg Except.ok
    (by congr 1 <;> first | exact Raw.guard_eq (by cases t <;> rfl) (by cases t <;> rfl) | exact Raw.encTarget_target _ _ | (cases t <;> rfl)))
theorem RoundTrip.bre (g : Guard) (dim : BitVec 2) (neg : Bool) (w : Nat) (t : Target) : Statement (.bre g dim neg w t) := by
  let cc := ({ rawOf 0x061 g with mod := (0 : BitVec 2) ++ bit1 neg ++ dim, s1 := walkerCode w } : Raw).encTarget t
  refine ofBuild (c := cc) rfl rfl (lnOk_encTarget _ _ rfl) (by cases t <;> rfl) fun h =>
    (show build cc = (match Operand.ofCode cc.raw.s1 with
      | some (.walker w) => .ok (.bre cc.raw.guard (cc.raw.mod.extractLsb' 0 2) (cc.raw.mod.getLsbD 2) w cc.target)
      | _ => .error 4) from by cases t <;> rfl).trans ?_
  have hs : cc.raw.s1 = (Operand.walker w).code := by cases t <;> rfl
  rw [hs, Operand.ofCode_code (.walker w) h]
  show Except.ok _ = _
  refine congrArg Except.ok ?_
  congr 1
  · exact Raw.guard_eq (by cases t <;> rfl) (by cases t <;> rfl)
  · cases t <;> exact breMod_dim _ _
  · cases t <;> exact breMod_neg _ _
  · exact Raw.encTarget_target _ _
theorem RoundTrip.jmp (g : Guard) (a : Src) : Statement (.jmp g a) := by
  let cc := ((rawOf 0x062 g).withS1 a).enc
  refine ofBuild (c := cc) rfl rfl rfl rfl fun h =>
    (show build cc = buildS1 cc .jmp from rfl).trans ?_
  replace h : (a.inRange) = true := h
  exact (buildS1_ok (c := cc) rfl rfl h
    (by congr 1 <;> first | exact Raw.guard_eq rfl rfl))
theorem RoundTrip.call (g : Guard) (d : Operand) (t : Target) : Statement (.call g d t) := by
  let cc := (((rawOf 0x063 g).withD d).encTarget t)
  refine ofBuild (c := cc) rfl rfl (lnOk_encTarget _ _ rfl) (by cases t <;> rfl) fun h =>
    (show build cc = buildD cc fun g d => .call g d cc.target from (by cases t <;> rfl)).trans ?_
  replace h : (d.isDest) = true := h
  exact (buildD_ok (c := cc) (by cases t <;> rfl) (Operand.isDest_inRange _ h)
    (by congr 1 <;> first | exact Raw.guard_eq (by cases t <;> rfl) (by cases t <;> rfl) | exact Raw.encTarget_target _ _ | (cases t <;> rfl)))
theorem RoundTrip.callr (g : Guard) (d : Operand) (a : Src) : Statement (.callr g d a) := by
  let cc := (encA2 0x064 g 0 d a)
  refine ofBuild (c := cc) rfl rfl rfl rfl fun h =>
    (show build cc = buildA1 cc .callr from rfl).trans ?_
  replace h : (d.isDest && a.inRange) = true := h
  simp only [Bool.and_eq_true] at h
  exact (buildA1_ok (c := cc) rfl (Operand.isDest_inRange _ h.1) rfl rfl h.2
    (by congr 1 <;> first | exact Raw.guard_eq rfl rfl | exact mod2_low _))
theorem RoundTrip.ret (g : Guard) (a : Src) : Statement (.ret g a) := by
  let cc := ((rawOf 0x065 g).withS1 a).enc
  refine ofBuild (c := cc) rfl rfl rfl rfl fun h =>
    (show build cc = buildS1 cc .ret from rfl).trans ?_
  replace h : (a.inRange) = true := h
  exact (buildS1_ok (c := cc) rfl rfl h
    (by congr 1 <;> first | exact Raw.guard_eq rfl rfl))
theorem RoundTrip.exit (g : Guard) : Statement (.exit g) := by
  let cc := (rawOf 0x066 g).enc
  refine ofBuild (c := cc) rfl rfl rfl rfl fun h =>
    (show build cc = .ok (.exit cc.raw.guard) from rfl).trans ?_
  exact (congrArg Except.ok
    (by congr 1 <;> first | exact Raw.guard_eq rfl rfl))
theorem RoundTrip.yield (g : Guard) : Statement (.yield g) := by
  let cc := (rawOf 0x067 g).enc
  refine ofBuild (c := cc) rfl rfl rfl rfl fun h =>
    (show build cc = .ok (.yield cc.raw.guard) from rfl).trans ?_
  exact (congrArg Except.ok
    (by congr 1 <;> first | exact Raw.guard_eq rfl rfl))
theorem RoundTrip.brk (g : Guard) (code : BitVec 16) : Statement (.brk g code) := by
  let cc := ((rawOf 0x068 g).withImm20 ((0 : BitVec 4) ++ code)).enc
  refine ofBuild (c := cc) rfl rfl rfl rfl fun _ =>
    (show build cc = .ok (.brk cc.raw.guard (cc.raw.imm20.extractLsb' 0 16)) from rfl).trans ?_
  rw [Raw.guard_eq (g := g) rfl rfl, show cc.raw.imm20 = (0 : BitVec 4) ++ code from Raw.withImm20_imm20 _ _, brkImm]
theorem RoundTrip.rep (g : Guard) (count : BitVec 7) (mask : BitVec 4) (step : BitVec 2) : Statement (.rep g count mask step) := by
  let cc := ((rawOf 0x069 g).withImm20 ((0 : BitVec 7) ++ step ++ mask ++ count)).enc
  refine ofBuild (c := cc) rfl rfl rfl rfl fun _ =>
    (show build cc = .ok (.rep cc.raw.guard (cc.raw.imm20.extractLsb' 0 7)
    (cc.raw.imm20.extractLsb' 7 4) (cc.raw.imm20.extractLsb' 11 2)) from rfl).trans ?_
  rw [Raw.guard_eq (g := g) rfl rfl,
    show cc.raw.imm20 = (0 : BitVec 7) ++ step ++ mask ++ count from Raw.withImm20_imm20 _ _, repImm_count, repImm_mask, repImm_step]
theorem RoundTrip.nop (g : Guard) : Statement (.nop g) := by
  let cc := (rawOf 0x06A g).enc
  refine ofBuild (c := cc) rfl rfl rfl rfl fun h =>
    (show build cc = .ok (.nop cc.raw.guard) from rfl).trans ?_
  exact (congrArg Except.ok
    (by congr 1 <;> first | exact Raw.guard_eq rfl rfl))
theorem RoundTrip.fadd (g : Guard) (ft : BitVec 2) (d : Operand) (a b : Src) (x : Option Modx) : Statement (.fadd g ft d a b x) := by
  let cc := (encF3 0x090 g (mod2 ft) d a b x)
  refine ofBuild (c := cc) rfl rfl (lnOk_encModx _ _ rfl) (by cases x <;> rfl) fun h =>
    (show build cc = buildF2 cc fun g => .fadd g (cc.raw.mod.extractLsb' 0 2) from (by cases x <;> rfl)).trans ?_
  replace h : (d.isDest && a.inRange && b.inRange) = true := h
  simp only [Bool.and_eq_true] at h
  exact (buildF2_ok (c := cc) (by cases x <;> rfl) (Operand.isDest_inRange _ h.1.1) (by cases x <;> rfl) (by cases x <;> rfl) h.1.2 (by cases x <;> rfl) (by cases x <;> rfl) h.2 (Raw.encModx_modx _ _)
    (by congr 1 <;> first | exact Raw.guard_eq (by cases x <;> rfl) (by cases x <;> rfl) | (cases x <;> exact mod2_low _) | (cases x <;> rfl)))
theorem RoundTrip.fsub (g : Guard) (ft : BitVec 2) (d : Operand) (a b : Src) (x : Option Modx) : Statement (.fsub g ft d a b x) := by
  let cc := (encF3 0x091 g (mod2 ft) d a b x)
  refine ofBuild (c := cc) rfl rfl (lnOk_encModx _ _ rfl) (by cases x <;> rfl) fun h =>
    (show build cc = buildF2 cc fun g => .fsub g (cc.raw.mod.extractLsb' 0 2) from (by cases x <;> rfl)).trans ?_
  replace h : (d.isDest && a.inRange && b.inRange) = true := h
  simp only [Bool.and_eq_true] at h
  exact (buildF2_ok (c := cc) (by cases x <;> rfl) (Operand.isDest_inRange _ h.1.1) (by cases x <;> rfl) (by cases x <;> rfl) h.1.2 (by cases x <;> rfl) (by cases x <;> rfl) h.2 (Raw.encModx_modx _ _)
    (by congr 1 <;> first | exact Raw.guard_eq (by cases x <;> rfl) (by cases x <;> rfl) | (cases x <;> exact mod2_low _) | (cases x <;> rfl)))
theorem RoundTrip.fmul (g : Guard) (ft : BitVec 2) (d : Operand) (a b : Src) (x : Option Modx) : Statement (.fmul g ft d a b x) := by
  let cc := (encF3 0x092 g (mod2 ft) d a b x)
  refine ofBuild (c := cc) rfl rfl (lnOk_encModx _ _ rfl) (by cases x <;> rfl) fun h =>
    (show build cc = buildF2 cc fun g => .fmul g (cc.raw.mod.extractLsb' 0 2) from (by cases x <;> rfl)).trans ?_
  replace h : (d.isDest && a.inRange && b.inRange) = true := h
  simp only [Bool.and_eq_true] at h
  exact (buildF2_ok (c := cc) (by cases x <;> rfl) (Operand.isDest_inRange _ h.1.1) (by cases x <;> rfl) (by cases x <;> rfl) h.1.2 (by cases x <;> rfl) (by cases x <;> rfl) h.2 (Raw.encModx_modx _ _)
    (by congr 1 <;> first | exact Raw.guard_eq (by cases x <;> rfl) (by cases x <;> rfl) | (cases x <;> exact mod2_low _) | (cases x <;> rfl)))
theorem RoundTrip.fma (g : Guard) (ft : BitVec 2) (np nc : Bool) (d : Operand) (a b c : Src) (x : Option Modx) : Statement (.fma g ft np nc d a b c x) := by
  let cc := ((((((rawOf 0x093 g).withMod ((0 : BitVec 1) ++ bit1 nc ++ bit1 np ++ ft)).withD d).withS1 a).withS2 b).withS3 c |>.encModx x)
  refine ofBuild (c := cc) rfl rfl (lnOk_encModx _ _ rfl) (by cases x <;> rfl) fun h =>
    (show build cc = buildF3 cc fun g => .fma g (cc.raw.mod.extractLsb' 0 2) (cc.raw.mod.getLsbD 2) (cc.raw.mod.getLsbD 3) from (by cases x <;> rfl)).trans ?_
  replace h : (d.isDest && a.inRange && b.inRange && c.inRange) = true := h
  simp only [Bool.and_eq_true] at h
  exact (buildF3_ok (c := cc) (by cases x <;> rfl) (Operand.isDest_inRange _ h.1.1.1) (by cases x <;> rfl) (by cases x <;> rfl) h.1.1.2 (by cases x <;> rfl) (by cases x <;> rfl) h.1.2 (by cases x <;> rfl) (by cases x <;> rfl) h.2 (Raw.encModx_modx _ _)
    (by congr 1 <;> first | exact Raw.guard_eq (by cases x <;> rfl) (by cases x <;> rfl) | (cases x <;> exact fmaMod_ft _ _ _) | (cases x <;> exact fmaMod_np _ _ _) | (cases x <;> exact fmaMod_nc _ _ _) | (cases x <;> rfl)))
theorem RoundTrip.fdiv (g : Guard) (d : Operand) (a b : Src) (x : Option Modx) : Statement (.fdiv g d a b x) := by
  let cc := (encF3 0x094 g 0 d a b x)
  refine ofBuild (c := cc) rfl rfl (lnOk_encModx _ _ rfl) (by cases x <;> rfl) fun h =>
    (show build cc = buildF2 cc .fdiv from (by cases x <;> rfl)).trans ?_
  replace h : (d.isDest && a.inRange && b.inRange) = true := h
  simp only [Bool.and_eq_true] at h
  exact (buildF2_ok (c := cc) (by cases x <;> rfl) (Operand.isDest_inRange _ h.1.1) (by cases x <;> rfl) (by cases x <;> rfl) h.1.2 (by cases x <;> rfl) (by cases x <;> rfl) h.2 (Raw.encModx_modx _ _)
    (by congr 1 <;> first | exact Raw.guard_eq (by cases x <;> rfl) (by cases x <;> rfl) | (cases x <;> exact mod2_low _) | (cases x <;> rfl)))
theorem RoundTrip.fsqrt (g : Guard) (d : Operand) (a : Src) (x : Option Modx) : Statement (.fsqrt g d a x) := by
  let cc := (encF2 0x095 g 0 d a x)
  refine ofBuild (c := cc) rfl rfl (lnOk_encModx _ _ rfl) (by cases x <;> rfl) fun h =>
    (show build cc = buildF1 cc .fsqrt from (by cases x <;> rfl)).trans ?_
  replace h : (d.isDest && a.inRange) = true := h
  simp only [Bool.and_eq_true] at h
  exact (buildF1_ok (c := cc) (by cases x <;> rfl) (Operand.isDest_inRange _ h.1) (by cases x <;> rfl) (by cases x <;> rfl) h.2 (Raw.encModx_modx _ _)
    (by congr 1 <;> first | exact Raw.guard_eq (by cases x <;> rfl) (by cases x <;> rfl) | (cases x <;> exact mod2_low _) | (cases x <;> rfl)))
theorem RoundTrip.fneg (g : Guard) (ft : BitVec 2) (d : Operand) (a : Src) : Statement (.fneg g ft d a) := by
  let cc := (encA2 0x096 g (mod2 ft) d a)
  refine ofBuild (c := cc) rfl rfl rfl rfl fun h =>
    (show build cc = buildA1 cc fun g => .fneg g (cc.raw.mod.extractLsb' 0 2) from rfl).trans ?_
  replace h : (d.isDest && a.inRange) = true := h
  simp only [Bool.and_eq_true] at h
  exact (buildA1_ok (c := cc) rfl (Operand.isDest_inRange _ h.1) rfl rfl h.2
    (by congr 1 <;> first | exact Raw.guard_eq rfl rfl | exact mod2_low _))
theorem RoundTrip.fabs (g : Guard) (ft : BitVec 2) (d : Operand) (a : Src) : Statement (.fabs g ft d a) := by
  let cc := (encA2 0x097 g (mod2 ft) d a)
  refine ofBuild (c := cc) rfl rfl rfl rfl fun h =>
    (show build cc = buildA1 cc fun g => .fabs g (cc.raw.mod.extractLsb' 0 2) from rfl).trans ?_
  replace h : (d.isDest && a.inRange) = true := h
  simp only [Bool.and_eq_true] at h
  exact (buildA1_ok (c := cc) rfl (Operand.isDest_inRange _ h.1) rfl rfl h.2
    (by congr 1 <;> first | exact Raw.guard_eq rfl rfl | exact mod2_low _))
theorem RoundTrip.fmin (g : Guard) (ft : BitVec 2) (d : Operand) (a b : Src) : Statement (.fmin g ft d a b) := by
  let cc := (encA3 0x098 g (mod2 ft) d a b)
  refine ofBuild (c := cc) rfl rfl rfl rfl fun h =>
    (show build cc = buildA2 cc fun g => .fmin g (cc.raw.mod.extractLsb' 0 2) from rfl).trans ?_
  replace h : (d.isDest && a.inRange && b.inRange) = true := h
  simp only [Bool.and_eq_true] at h
  exact (buildA2_ok (c := cc) rfl (Operand.isDest_inRange _ h.1.1) rfl rfl h.1.2 rfl rfl h.2
    (by congr 1 <;> first | exact Raw.guard_eq rfl rfl | exact mod2_low _))
theorem RoundTrip.fmax (g : Guard) (ft : BitVec 2) (d : Operand) (a b : Src) : Statement (.fmax g ft d a b) := by
  let cc := (encA3 0x099 g (mod2 ft) d a b)
  refine ofBuild (c := cc) rfl rfl rfl rfl fun h =>
    (show build cc = buildA2 cc fun g => .fmax g (cc.raw.mod.extractLsb' 0 2) from rfl).trans ?_
  replace h : (d.isDest && a.inRange && b.inRange) = true := h
  simp only [Bool.and_eq_true] at h
  exact (buildA2_ok (c := cc) rfl (Operand.isDest_inRange _ h.1.1) rfl rfl h.1.2 rfl rfl h.2
    (by congr 1 <;> first | exact Raw.guard_eq rfl rfl | exact mod2_low _))
theorem RoundTrip.fminp (g : Guard) (ft : BitVec 2) (d : Operand) (a b : Src) : Statement (.fminp g ft d a b) := by
  let cc := (encA3 0x09A g (mod2 ft) d a b)
  refine ofBuild (c := cc) rfl rfl rfl rfl fun h =>
    (show build cc = buildA2 cc fun g => .fminp g (cc.raw.mod.extractLsb' 0 2) from rfl).trans ?_
  replace h : (d.isDest && a.inRange && b.inRange) = true := h
  simp only [Bool.and_eq_true] at h
  exact (buildA2_ok (c := cc) rfl (Operand.isDest_inRange _ h.1.1) rfl rfl h.1.2 rfl rfl h.2
    (by congr 1 <;> first | exact Raw.guard_eq rfl rfl | exact mod2_low _))
theorem RoundTrip.fmaxp (g : Guard) (ft : BitVec 2) (d : Operand) (a b : Src) : Statement (.fmaxp g ft d a b) := by
  let cc := (encA3 0x09B g (mod2 ft) d a b)
  refine ofBuild (c := cc) rfl rfl rfl rfl fun h =>
    (show build cc = buildA2 cc fun g => .fmaxp g (cc.raw.mod.extractLsb' 0 2) from rfl).trans ?_
  replace h : (d.isDest && a.inRange && b.inRange) = true := h
  simp only [Bool.and_eq_true] at h
  exact (buildA2_ok (c := cc) rfl (Operand.isDest_inRange _ h.1.1) rfl rfl h.1.2 rfl rfl h.2
    (by congr 1 <;> first | exact Raw.guard_eq rfl rfl | exact mod2_low _))
theorem RoundTrip.fcmp (g : Guard) (cond k : BitVec 3) (a b : Src) (x : Option Modx) : Statement (.fcmp g cond k a b x) := by
  let cc := ((({ rawOf 0x09C g with d := condD cond k } : Raw).withS1 a).withS2 b |>.encModx x)
  refine ofBuild (c := cc) rfl rfl (lnOk_encModx _ _ rfl) (by cases x <;> rfl) fun h => ?_
  replace h : (a.inRange && b.inRange) = true := h
  simp only [Bool.and_eq_true] at h
  have hb : build cc = (match cc.modx with
    | none => .error 3
    | some x => buildS2 cc fun g a b => .fcmp g (cc.raw.d.extractLsb' 3 3) (cc.raw.d.extractLsb' 0 3) a b x) := by cases x <;> rfl
  rw [hb, show cc.modx = some x from Raw.encModx_modx _ _]
  refine buildS2_ok (c := cc) (by cases x <;> rfl) (by cases x <;> rfl) h.1 (by cases x <;> rfl) (by cases x <;> rfl) h.2 ?_
  congr 1
  · exact Raw.guard_eq (by cases x <;> rfl) (by cases x <;> rfl)
  · cases x <;> exact condD_cond _ _
  · cases x <;> exact condD_k _ _
theorem RoundTrip.fclass (g : Guard) (ft : BitVec 2) (d : Operand) (a : Src) : Statement (.fclass g ft d a) := by
  let cc := (encA2 0x09D g (mod2 ft) d a)
  refine ofBuild (c := cc) rfl rfl rfl rfl fun h =>
    (show build cc = buildA1 cc fun g => .fclass g (cc.raw.mod.extractLsb' 0 2) from rfl).trans ?_
  replace h : (d.isDest && a.inRange) = true := h
  simp only [Bool.and_eq_true] at h
  exact (buildA1_ok (c := cc) rfl (Operand.isDest_inRange _ h.1) rfl rfl h.2
    (by congr 1 <;> first | exact Raw.guard_eq rfl rfl | exact mod2_low _))
theorem RoundTrip.frcp (g : Guard) (ft : BitVec 2) (d : Operand) (a : Src) (x : Option Modx) : Statement (.frcp g ft d a x) := by
  let cc := (encF2 0x09E g (mod2 ft) d a x)
  refine ofBuild (c := cc) rfl rfl (lnOk_encModx _ _ rfl) (by cases x <;> rfl) fun h =>
    (show build cc = buildF1 cc fun g => .frcp g (cc.raw.mod.extractLsb' 0 2) from (by cases x <;> rfl)).trans ?_
  replace h : (d.isDest && a.inRange) = true := h
  simp only [Bool.and_eq_true] at h
  exact (buildF1_ok (c := cc) (by cases x <;> rfl) (Operand.isDest_inRange _ h.1) (by cases x <;> rfl) (by cases x <;> rfl) h.2 (Raw.encModx_modx _ _)
    (by congr 1 <;> first | exact Raw.guard_eq (by cases x <;> rfl) (by cases x <;> rfl) | (cases x <;> exact mod2_low _) | (cases x <;> rfl)))
theorem RoundTrip.frsq (g : Guard) (ft : BitVec 2) (d : Operand) (a : Src) (x : Option Modx) : Statement (.frsq g ft d a x) := by
  let cc := (encF2 0x09F g (mod2 ft) d a x)
  refine ofBuild (c := cc) rfl rfl (lnOk_encModx _ _ rfl) (by cases x <;> rfl) fun h =>
    (show build cc = buildF1 cc fun g => .frsq g (cc.raw.mod.extractLsb' 0 2) from (by cases x <;> rfl)).trans ?_
  replace h : (d.isDest && a.inRange) = true := h
  simp only [Bool.and_eq_true] at h
  exact (buildF1_ok (c := cc) (by cases x <;> rfl) (Operand.isDest_inRange _ h.1) (by cases x <;> rfl) (by cases x <;> rfl) h.2 (Raw.encModx_modx _ _)
    (by congr 1 <;> first | exact Raw.guard_eq (by cases x <;> rfl) (by cases x <;> rfl) | (cases x <;> exact mod2_low _) | (cases x <;> rfl)))
theorem RoundTrip.fexp2 (g : Guard) (ft : BitVec 2) (d : Operand) (a : Src) (x : Option Modx) : Statement (.fexp2 g ft d a x) := by
  let cc := (encF2 0x0A0 g (mod2 ft) d a x)
  refine ofBuild (c := cc) rfl rfl (lnOk_encModx _ _ rfl) (by cases x <;> rfl) fun h =>
    (show build cc = buildF1 cc fun g => .fexp2 g (cc.raw.mod.extractLsb' 0 2) from (by cases x <;> rfl)).trans ?_
  replace h : (d.isDest && a.inRange) = true := h
  simp only [Bool.and_eq_true] at h
  exact (buildF1_ok (c := cc) (by cases x <;> rfl) (Operand.isDest_inRange _ h.1) (by cases x <;> rfl) (by cases x <;> rfl) h.2 (Raw.encModx_modx _ _)
    (by congr 1 <;> first | exact Raw.guard_eq (by cases x <;> rfl) (by cases x <;> rfl) | (cases x <;> exact mod2_low _) | (cases x <;> rfl)))
theorem RoundTrip.flog2 (g : Guard) (ft : BitVec 2) (d : Operand) (a : Src) (x : Option Modx) : Statement (.flog2 g ft d a x) := by
  let cc := (encF2 0x0A1 g (mod2 ft) d a x)
  refine ofBuild (c := cc) rfl rfl (lnOk_encModx _ _ rfl) (by cases x <;> rfl) fun h =>
    (show build cc = buildF1 cc fun g => .flog2 g (cc.raw.mod.extractLsb' 0 2) from (by cases x <;> rfl)).trans ?_
  replace h : (d.isDest && a.inRange) = true := h
  simp only [Bool.and_eq_true] at h
  exact (buildF1_ok (c := cc) (by cases x <;> rfl) (Operand.isDest_inRange _ h.1) (by cases x <;> rfl) (by cases x <;> rfl) h.2 (Raw.encModx_modx _ _)
    (by congr 1 <;> first | exact Raw.guard_eq (by cases x <;> rfl) (by cases x <;> rfl) | (cases x <;> exact mod2_low _) | (cases x <;> rfl)))
theorem RoundTrip.fsinpi (g : Guard) (ft : BitVec 2) (d : Operand) (a : Src) (x : Option Modx) : Statement (.fsinpi g ft d a x) := by
  let cc := (encF2 0x0A2 g (mod2 ft) d a x)
  refine ofBuild (c := cc) rfl rfl (lnOk_encModx _ _ rfl) (by cases x <;> rfl) fun h =>
    (show build cc = buildF1 cc fun g => .fsinpi g (cc.raw.mod.extractLsb' 0 2) from (by cases x <;> rfl)).trans ?_
  replace h : (d.isDest && a.inRange) = true := h
  simp only [Bool.and_eq_true] at h
  exact (buildF1_ok (c := cc) (by cases x <;> rfl) (Operand.isDest_inRange _ h.1) (by cases x <;> rfl) (by cases x <;> rfl) h.2 (Raw.encModx_modx _ _)
    (by congr 1 <;> first | exact Raw.guard_eq (by cases x <;> rfl) (by cases x <;> rfl) | (cases x <;> exact mod2_low _) | (cases x <;> rfl)))
theorem RoundTrip.fcospi (g : Guard) (ft : BitVec 2) (d : Operand) (a : Src) (x : Option Modx) : Statement (.fcospi g ft d a x) := by
  let cc := (encF2 0x0A3 g (mod2 ft) d a x)
  refine ofBuild (c := cc) rfl rfl (lnOk_encModx _ _ rfl) (by cases x <;> rfl) fun h =>
    (show build cc = buildF1 cc fun g => .fcospi g (cc.raw.mod.extractLsb' 0 2) from (by cases x <;> rfl)).trans ?_
  replace h : (d.isDest && a.inRange) = true := h
  simp only [Bool.and_eq_true] at h
  exact (buildF1_ok (c := cc) (by cases x <;> rfl) (Operand.isDest_inRange _ h.1) (by cases x <;> rfl) (by cases x <;> rfl) h.2 (Raw.encModx_modx _ _)
    (by congr 1 <;> first | exact Raw.guard_eq (by cases x <;> rfl) (by cases x <;> rfl) | (cases x <;> exact mod2_low _) | (cases x <;> rfl)))
theorem RoundTrip.ftanh (g : Guard) (ft : BitVec 2) (d : Operand) (a : Src) (x : Option Modx) : Statement (.ftanh g ft d a x) := by
  let cc := (encF2 0x0A4 g (mod2 ft) d a x)
  refine ofBuild (c := cc) rfl rfl (lnOk_encModx _ _ rfl) (by cases x <;> rfl) fun h =>
    (show build cc = buildF1 cc fun g => .ftanh g (cc.raw.mod.extractLsb' 0 2) from (by cases x <;> rfl)).trans ?_
  replace h : (d.isDest && a.inRange) = true := h
  simp only [Bool.and_eq_true] at h
  exact (buildF1_ok (c := cc) (by cases x <;> rfl) (Operand.isDest_inRange _ h.1) (by cases x <;> rfl) (by cases x <;> rfl) h.2 (Raw.encModx_modx _ _)
    (by congr 1 <;> first | exact Raw.guard_eq (by cases x <;> rfl) (by cases x <;> rfl) | (cases x <;> exact mod2_low _) | (cases x <;> rfl)))
theorem RoundTrip.cvt (g : Guard) (dt st : BitVec 4) (d : Operand) (a : Src) (x : Option Modx) : Statement (.cvt g dt st d a x) := by
  let cc := (((({ rawOf 0x0A8 g with s3 := (0 : BitVec 2) ++ st ++ dt } : Raw).withD d).withS1 a).encModx x)
  refine ofBuild (c := cc) rfl rfl (lnOk_encModx _ _ rfl) (by cases x <;> rfl) fun h =>
    (show build cc = buildF1 cc fun g => .cvt g (cc.raw.s3.extractLsb' 0 4) (cc.raw.s3.extractLsb' 4 4) from (by cases x <;> rfl)).trans ?_
  replace h : (let n := cvtCount (cvtWidth st) (cvtWidth dt); (if n * cvtWidth dt ≤ 32 || cvtWidth dt == 64 && n == 1 then d.isDest else d.isReg) && (if n * cvtWidth st ≤ 32 || cvtWidth st == 64 && n == 1 then a.inRange else a.isReg)) = true := h
  simp only [Bool.and_eq_true] at h
  obtain ⟨h1, h2⟩ := h
  have hk_d : d.inRange = true := ite_inRange (Operand.isDest_inRange d) (Operand.isReg_inRange d) h1
  have hk_a : a.inRange = true := ite_inRange id (Operand.isReg_inRange a.o) h2
  exact (buildF1_ok (c := cc) (by cases x <;> rfl) (hk_d) (by cases x <;> rfl) (by cases x <;> rfl) (hk_a) (Raw.encModx_modx _ _)
    (by congr 1 <;> first | exact Raw.guard_eq (by cases x <;> rfl) (by cases x <;> rfl) | (cases x <;> exact cvtS3_dt _ _) | (cases x <;> exact cvtS3_st _ _) | (cases x <;> rfl)))
theorem RoundTrip.cvtn (g : Guard) (st : BitVec 2) (d : Operand) (a b : Src) (x : Option Modx) : Statement (.cvtn g st d a b x) := by
  let cc := (encF3 0x0A9 g (mod2 st) d a b x)
  refine ofBuild (c := cc) rfl rfl (lnOk_encModx _ _ rfl) (by cases x <;> rfl) fun h =>
    (show build cc = buildF2 cc fun g => .cvtn g (cc.raw.mod.extractLsb' 0 2) from (by cases x <;> rfl)).trans ?_
  replace h : (d.isDest && a.isReg && b.inRange) = true := h
  simp only [Bool.and_eq_true] at h
  exact (buildF2_ok (c := cc) (by cases x <;> rfl) (Operand.isDest_inRange _ h.1.1) (by cases x <;> rfl) (by cases x <;> rfl) (Operand.isReg_inRange _ h.1.2) (by cases x <;> rfl) (by cases x <;> rfl) h.2 (Raw.encModx_modx _ _)
    (by congr 1 <;> first | exact Raw.guard_eq (by cases x <;> rfl) (by cases x <;> rfl) | (cases x <;> exact mod2_low _) | (cases x <;> rfl)))
theorem RoundTrip.cvtw (g : Guard) (dt : BitVec 2) (d : Operand) (a b : Src) (x : Option Modx) : Statement (.cvtw g dt d a b x) := by
  let cc := (encF3 0x0AA g (mod2 dt) d a b x)
  refine ofBuild (c := cc) rfl rfl (lnOk_encModx _ _ rfl) (by cases x <;> rfl) fun h =>
    (show build cc = buildF2 cc fun g => .cvtw g (cc.raw.mod.extractLsb' 0 2) from (by cases x <;> rfl)).trans ?_
  replace h : (d.isReg && a.inRange && b.inRange) = true := h
  simp only [Bool.and_eq_true] at h
  exact (buildF2_ok (c := cc) (by cases x <;> rfl) (Operand.isReg_inRange _ h.1.1) (by cases x <;> rfl) (by cases x <;> rfl) h.1.2 (by cases x <;> rfl) (by cases x <;> rfl) h.2 (Raw.encModx_modx _ _)
    (by congr 1 <;> first | exact Raw.guard_eq (by cases x <;> rfl) (by cases x <;> rfl) | (cases x <;> exact mod2_low _) | (cases x <;> rfl)))
theorem RoundTrip.fscl (g : Guard) (d : Operand) (a b : Src) : Statement (.fscl g d a b) := by
  let cc := (encA3 0x0AB g 0 d a b)
  refine ofBuild (c := cc) rfl rfl rfl rfl fun h =>
    (show build cc = buildA2 cc .fscl from rfl).trans ?_
  replace h : (d.isDest && a.inRange && b.inRange) = true := h
  simp only [Bool.and_eq_true] at h
  exact (buildA2_ok (c := cc) rfl (Operand.isDest_inRange _ h.1.1) rfl rfl h.1.2 rfl rfl h.2
    (by congr 1 <;> first | exact Raw.guard_eq rfl rfl | exact mod2_low _))
theorem RoundTrip.dot4 (g : Guard) (ua ub sat : Bool) (d : Operand) (a b c : Src) : Statement (.dot4 g ua ub sat d a b c) := by
  let cc := ((((((rawOf 0x0B0 g).withMod ((0 : BitVec 2) ++ bit1 sat ++ bit1 ub ++ bit1 ua)).withD d).withS1 a).withS2 b).withS3 c).enc
  refine ofBuild (c := cc) rfl rfl rfl rfl fun h =>
    (show build cc = buildA3 cc fun g => .dot4 g (cc.raw.mod.getLsbD 0) (cc.raw.mod.getLsbD 1) (cc.raw.mod.getLsbD 2) from rfl).trans ?_
  replace h : (d.isDest && a.inRange && b.inRange && c.inRange) = true := h
  simp only [Bool.and_eq_true] at h
  exact (buildA3_ok (c := cc) rfl (Operand.isDest_inRange _ h.1.1.1) rfl rfl h.1.1.2 rfl rfl h.1.2 rfl rfl h.2
    (by congr 1 <;> first | exact Raw.guard_eq rfl rfl | exact dotMod_0 _ _ _ | exact dotMod_1 _ _ _ | exact dotMod_2 _ _ _))
theorem RoundTrip.fdot2 (g : Guard) (ft : BitVec 2) (d : Operand) (a b c : Src) (x : Option Modx) : Statement (.fdot2 g ft d a b c x) := by
  let cc := ((((((rawOf 0x0B1 g).withMod (mod2 ft)).withD d).withS1 a).withS2 b).withS3 c |>.encModx x)
  refine ofBuild (c := cc) rfl rfl (lnOk_encModx _ _ rfl) (by cases x <;> rfl) fun h =>
    (show build cc = buildF3 cc fun g => .fdot2 g (cc.raw.mod.extractLsb' 0 2) from (by cases x <;> rfl)).trans ?_
  replace h : (d.isDest && a.inRange && b.inRange && c.inRange) = true := h
  simp only [Bool.and_eq_true] at h
  exact (buildF3_ok (c := cc) (by cases x <;> rfl) (Operand.isDest_inRange _ h.1.1.1) (by cases x <;> rfl) (by cases x <;> rfl) h.1.1.2 (by cases x <;> rfl) (by cases x <;> rfl) h.1.2 (by cases x <;> rfl) (by cases x <;> rfl) h.2 (Raw.encModx_modx _ _)
    (by congr 1 <;> first | exact Raw.guard_eq (by cases x <;> rfl) (by cases x <;> rfl) | (cases x <;> exact mod2_low _) | (cases x <;> rfl)))
theorem RoundTrip.wfu (g : Guard) (d : Operand) (a b : Src) (x : Option Modx) : Statement (.wfu g d a b x) := by
  let cc := (encF3 0x0B4 g 0 d a b x)
  refine ofBuild (c := cc) rfl rfl (lnOk_encModx _ _ rfl) (by cases x <;> rfl) fun h =>
    (show build cc = buildF2 cc .wfu from (by cases x <;> rfl)).trans ?_
  replace h : (d.isReg && a.isReg && b.inRange) = true := h
  simp only [Bool.and_eq_true] at h
  exact (buildF2_ok (c := cc) (by cases x <;> rfl) (Operand.isReg_inRange _ h.1.1) (by cases x <;> rfl) (by cases x <;> rfl) (Operand.isReg_inRange _ h.1.2) (by cases x <;> rfl) (by cases x <;> rfl) h.2 (Raw.encModx_modx _ _)
    (by congr 1 <;> first | exact Raw.guard_eq (by cases x <;> rfl) (by cases x <;> rfl) | (cases x <;> exact mod2_low _) | (cases x <;> rfl)))
theorem RoundTrip.wfm (g : Guard) (d : Operand) (a b : Src) (x : Option Modx) : Statement (.wfm g d a b x) := by
  let cc := (encF3 0x0B5 g 0 d a b x)
  refine ofBuild (c := cc) rfl rfl (lnOk_encModx _ _ rfl) (by cases x <;> rfl) fun h =>
    (show build cc = buildF2 cc .wfm from (by cases x <;> rfl)).trans ?_
  replace h : (d.isReg && a.isReg && b.isReg) = true := h
  simp only [Bool.and_eq_true] at h
  exact (buildF2_ok (c := cc) (by cases x <;> rfl) (Operand.isReg_inRange _ h.1.1) (by cases x <;> rfl) (by cases x <;> rfl) (Operand.isReg_inRange _ h.1.2) (by cases x <;> rfl) (by cases x <;> rfl) (Operand.isReg_inRange _ h.2) (Raw.encModx_modx _ _)
    (by congr 1 <;> first | exact Raw.guard_eq (by cases x <;> rfl) (by cases x <;> rfl) | (cases x <;> exact mod2_low _) | (cases x <;> rfl)))
theorem RoundTrip.seed (g : Guard) (a : Src) : Statement (.seed g a) := by
  let cc := ((rawOf 0x0B8 g).withS1 a).enc
  refine ofBuild (c := cc) rfl rfl rfl rfl fun h =>
    (show build cc = buildS1 cc .seed from rfl).trans ?_
  replace h : (a.inRange) = true := h
  exact (buildS1_ok (c := cc) rfl rfl h
    (by congr 1 <;> first | exact Raw.guard_eq rfl rfl))
theorem RoundTrip.sfget (g : Guard) (d : Operand) : Statement (.sfget g d) := by
  let cc := ((rawOf 0x0BC g).withD d).enc
  refine ofBuild (c := cc) rfl rfl rfl rfl fun h =>
    (show build cc = buildD cc .sfget from rfl).trans ?_
  replace h : (d.isDest) = true := h
  exact (buildD_ok (c := cc) rfl (Operand.isDest_inRange _ h)
    (by congr 1 <;> first | exact Raw.guard_eq rfl rfl))
theorem RoundTrip.sfclr (g : Guard) (a : Src) : Statement (.sfclr g a) := by
  let cc := ((rawOf 0x0BD g).withS1 a).enc
  refine ofBuild (c := cc) rfl rfl rfl rfl fun h =>
    (show build cc = buildS1 cc .sfclr from rfl).trans ?_
  replace h : (a.inRange) = true := h
  exact (buildS1_ok (c := cc) rfl rfl h
    (by congr 1 <;> first | exact Raw.guard_eq rfl rfl))
theorem RoundTrip.sfarm (g : Guard) (a : Src) : Statement (.sfarm g a) := by
  let cc := ((rawOf 0x0BE g).withS1 a).enc
  refine ofBuild (c := cc) rfl rfl rfl rfl fun h =>
    (show build cc = buildS1 cc .sfarm from rfl).trans ?_
  replace h : (a.inRange) = true := h
  exact (buildS1_ok (c := cc) rfl rfl h
    (by congr 1 <;> first | exact Raw.guard_eq rfl rfl))
theorem RoundTrip.vote (g : Guard) (form : BitVec 2) (kd ka : BitVec 3) : Statement (.vote g form kd ka) := by
  let cc := ({ rawOf 0x100 g with mod := mod2 form, d := predD kd, s1 := predD ka } : Raw).enc
  refine ofBuild (c := cc) rfl rfl rfl rfl fun h =>
    (show build cc = .ok (.vote cc.raw.guard (cc.raw.mod.extractLsb' 0 2) (cc.raw.d.extractLsb' 0 3) (cc.raw.s1.extractLsb' 0 3)) from rfl).trans ?_
  exact (congrArg Except.ok
    (by congr 1 <;> first | exact Raw.guard_eq rfl rfl | exact mod2_low _ | exact predD_low _))
theorem RoundTrip.vmask (g : Guard) (d : Operand) (ka : BitVec 3) : Statement (.vmask g d ka) := by
  let cc := ({ (rawOf 0x101 g).withD d with s1 := predD ka } : Raw).enc
  refine ofBuild (c := cc) rfl rfl rfl rfl fun h =>
    (show build cc = buildD cc fun g d => .vmask g d (cc.raw.s1.extractLsb' 0 3) from rfl).trans ?_
  replace h : (d.isDest) = true := h
  exact (buildD_ok (c := cc) rfl (Operand.isDest_inRange _ h)
    (by congr 1 <;> first | exact Raw.guard_eq rfl rfl | exact predD_low _))
theorem RoundTrip.shfl (g : Guard) (mode : BitVec 2) (dbl : Bool) (d : Operand) (a b c : Src) : Statement (.shfl g mode dbl d a b c) := by
  let cc := ((((((rawOf 0x102 g).withMod ((0 : BitVec 2) ++ bit1 dbl ++ mode)).withD d).withS1 a).withS2 b).withS3 c).enc
  refine ofBuild (c := cc) rfl rfl rfl rfl fun h =>
    (show build cc = buildA3 cc fun g => .shfl g (cc.raw.mod.extractLsb' 0 2) (cc.raw.mod.getLsbD 2) from rfl).trans ?_
  replace h : (d.isDest && a.inRange && b.inRange && c.inRange) = true := h
  simp only [Bool.and_eq_true] at h
  exact (buildA3_ok (c := cc) rfl (Operand.isDest_inRange _ h.1.1.1) rfl rfl h.1.1.2 rfl rfl h.1.2 rfl rfl h.2
    (by congr 1 <;> first | exact Raw.guard_eq rfl rfl | exact shflMod_mode _ _ | exact shflMod_dbl _ _))
theorem RoundTrip.red (g : Guard) (op : BitVec 5) (d : Operand) (a : Src) (x : Option Modx) : Statement (.red g op d a x) := by
  let cc := (encF2 0x103 g op d a x)
  refine ofBuild (c := cc) rfl rfl (lnOk_encModx _ _ rfl) (by cases x <;> rfl) fun h =>
    (show build cc = buildF1 cc fun g => .red g cc.raw.mod from (by cases x <;> rfl)).trans ?_
  replace h : (d.isDest && a.inRange) = true := h
  simp only [Bool.and_eq_true] at h
  exact (buildF1_ok (c := cc) (by cases x <;> rfl) (Operand.isDest_inRange _ h.1) (by cases x <;> rfl) (by cases x <;> rfl) h.2 (Raw.encModx_modx _ _)
    (by congr 1 <;> first | exact Raw.guard_eq (by cases x <;> rfl) (by cases x <;> rfl) | (cases x <;> exact mod2_low _) | (cases x <;> rfl)))
theorem RoundTrip.scan (g : Guard) (op : BitVec 5) (d : Operand) (a : Src) (x : Option Modx) : Statement (.scan g op d a x) := by
  let cc := (encF2 0x104 g op d a x)
  refine ofBuild (c := cc) rfl rfl (lnOk_encModx _ _ rfl) (by cases x <;> rfl) fun h =>
    (show build cc = buildF1 cc fun g => .scan g cc.raw.mod from (by cases x <;> rfl)).trans ?_
  replace h : (d.isDest && a.inRange) = true := h
  simp only [Bool.and_eq_true] at h
  exact (buildF1_ok (c := cc) (by cases x <;> rfl) (Operand.isDest_inRange _ h.1) (by cases x <;> rfl) (by cases x <;> rfl) h.2 (Raw.encModx_modx _ _)
    (by congr 1 <;> first | exact Raw.guard_eq (by cases x <;> rfl) (by cases x <;> rfl) | (cases x <;> exact mod2_low _) | (cases x <;> rfl)))
theorem RoundTrip.scanx (g : Guard) (op : BitVec 5) (d : Operand) (a : Src) (x : Option Modx) : Statement (.scanx g op d a x) := by
  let cc := (encF2 0x105 g op d a x)
  refine ofBuild (c := cc) rfl rfl (lnOk_encModx _ _ rfl) (by cases x <;> rfl) fun h =>
    (show build cc = buildF1 cc fun g => .scanx g cc.raw.mod from (by cases x <;> rfl)).trans ?_
  replace h : (d.isDest && a.inRange) = true := h
  simp only [Bool.and_eq_true] at h
  exact (buildF1_ok (c := cc) (by cases x <;> rfl) (Operand.isDest_inRange _ h.1) (by cases x <;> rfl) (by cases x <;> rfl) h.2 (Raw.encModx_modx _ _)
    (by congr 1 <;> first | exact Raw.guard_eq (by cases x <;> rfl) (by cases x <;> rfl) | (cases x <;> exact mod2_low _) | (cases x <;> rfl)))
theorem RoundTrip.elect (g : Guard) (kd : BitVec 3) : Statement (.elect g kd) := by
  let cc := ({ rawOf 0x106 g with d := predD kd } : Raw).enc
  refine ofBuild (c := cc) rfl rfl rfl rfl fun h =>
    (show build cc = .ok (.elect cc.raw.guard (cc.raw.d.extractLsb' 0 3)) from rfl).trans ?_
  exact (congrArg Except.ok
    (by congr 1 <;> first | exact Raw.guard_eq rfl rfl | exact predD_low _))
theorem RoundTrip.part (g : Guard) (a : Src) : Statement (.part g a) := by
  let cc := ((rawOf 0x107 g).withS1 a).enc
  refine ofBuild (c := cc) rfl rfl rfl rfl fun h =>
    (show build cc = buildS1 cc .part from rfl).trans ?_
  replace h : (a.inRange) = true := h
  exact (buildS1_ok (c := cc) rfl rfl h
    (by congr 1 <;> first | exact Raw.guard_eq rfl rfl))
theorem RoundTrip.pqset (g : Guard) (a : Src) : Statement (.pqset g a) := by
  let cc := ((rawOf 0x108 g).withS1 a).enc
  refine ofBuild (c := cc) rfl rfl rfl rfl fun h =>
    (show build cc = buildS1 cc .pqset from rfl).trans ?_
  replace h : (a.inRange) = true := h
  exact (buildS1_ok (c := cc) rfl rfl h
    (by congr 1 <;> first | exact Raw.guard_eq rfl rfl))
theorem RoundTrip.pqget (g : Guard) (d : Operand) : Statement (.pqget g d) := by
  let cc := ((rawOf 0x109 g).withD d).enc
  refine ofBuild (c := cc) rfl rfl rfl rfl fun h =>
    (show build cc = buildD cc .pqget from rfl).trans ?_
  replace h : (d.isDest) = true := h
  exact (buildD_ok (c := cc) rfl (Operand.isDest_inRange _ h)
    (by congr 1 <;> first | exact Raw.guard_eq rfl rfl))
theorem RoundTrip.partget (g : Guard) (d : Operand) : Statement (.partget g d) := by
  let cc := ((rawOf 0x10A g).withD d).enc
  refine ofBuild (c := cc) rfl rfl rfl rfl fun h =>
    (show build cc = buildD cc .partget from rfl).trans ?_
  replace h : (d.isDest) = true := h
  exact (buildD_ok (c := cc) rfl (Operand.isDest_inRange _ h)
    (by congr 1 <;> first | exact Raw.guard_eq rfl rfl))
theorem RoundTrip.lds (g : Guard) (size : BitVec 3) (d : Operand) (m : MemOp) : Statement (.lds g size d m) := by
  let cc := ((((rawOf 0x120 g).withMod (mod3 size)).withD d).encMem m)
  refine ofBuild (c := cc) rfl rfl (lnOk_encMem _ _ rfl) (by obtain ⟨_, _, _, _ | _⟩ := m <;> rfl) fun h =>
    (show build cc = buildM cc fun g => .lds g (cc.raw.mod.extractLsb' 0 3) from (by obtain ⟨_, _, _, _ | _⟩ := m <;> rfl)).trans ?_
  replace h : ((if sizeRegs size = 4 then d.isReg else if m.mode == .pw then d.isProducerDest (size.toNat ≤ 4) else d.isDest) && m.idx.inRange) = true := h
  simp only [Bool.and_eq_true] at h
  have hk_m := h.2
  have hk_d : d.inRange = true := ite_inRange (Operand.isReg_inRange d)
    (ite_inRange (Operand.isProducerDest_inRange _ d) (Operand.isDest_inRange d)) h.1
  exact (buildM_ok (c := cc) (by obtain ⟨_, _, _, _ | _⟩ := m <;> rfl) (hk_d) (Raw.encMem_memOp _ _ (hk_m))
    (by congr 1 <;> first | exact Raw.guard_eq (by obtain ⟨_, _, _, _ | _⟩ := m <;> rfl) (by obtain ⟨_, _, _, _ | _⟩ := m <;> rfl) | (obtain ⟨_, _, _, _ | _⟩ := m <;> exact mod3_low _) | (obtain ⟨_, _, _, _ | _⟩ := m <;> rfl)))
theorem RoundTrip.sts (g : Guard) (size : BitVec 3) (d : Src) (m : MemOp) : Statement (.sts g size d m) := by
  let cc := ((((rawOf 0x121 g).withMod (mod3 size)).withDs d).encMem m)
  refine ofBuild (c := cc) rfl rfl (lnOk_encMem _ _ rfl) (by obtain ⟨_, _, _, _ | _⟩ := m <;> rfl) fun h =>
    (show build cc = buildMs cc fun g => .sts g (cc.raw.mod.extractLsb' 0 3) from (by obtain ⟨_, _, _, _ | _⟩ := m <;> rfl)).trans ?_
  replace h : ((if sizeRegs size = 4 then d.isReg else d.inRange) && m.idx.inRange) = true := h
  simp only [Bool.and_eq_true] at h
  have hk_m := h.2
  have hk_d : d.inRange = true := ite_inRange (Operand.isReg_inRange d.o) id h.1
  exact (buildMs_ok (c := cc) (by obtain ⟨_, _, _, _ | _⟩ := m <;> rfl) (by obtain ⟨_, _, _, _ | _⟩ := m <;> rfl) (hk_d) (Raw.encMem_memOp _ _ (hk_m))
    (by congr 1 <;> first | exact Raw.guard_eq (by obtain ⟨_, _, _, _ | _⟩ := m <;> rfl) (by obtain ⟨_, _, _, _ | _⟩ := m <;> rfl) | (obtain ⟨_, _, _, _ | _⟩ := m <;> exact mod3_low _) | (obtain ⟨_, _, _, _ | _⟩ := m <;> rfl)))
theorem RoundTrip.rquota (g : Guard) (a : Src) : Statement (.rquota g a) := by
  let cc := ((rawOf 0x124 g).withS1 a).enc
  refine ofBuild (c := cc) rfl rfl rfl rfl fun h =>
    (show build cc = buildS1 cc .rquota from rfl).trans ?_
  replace h : (a.inRange) = true := h
  exact (buildS1_ok (c := cc) rfl rfl h
    (by congr 1 <;> first | exact Raw.guard_eq rfl rfl))
theorem RoundTrip.rdead (g : Guard) (a : Src) : Statement (.rdead g a) := by
  let cc := ((rawOf 0x125 g).withS1 a).enc
  refine ofBuild (c := cc) rfl rfl rfl rfl fun h =>
    (show build cc = buildS1 cc .rdead from rfl).trans ?_
  replace h : (a.inRange) = true := h
  exact (buildS1_ok (c := cc) rfl rfl h
    (by congr 1 <;> first | exact Raw.guard_eq rfl rfl))
theorem RoundTrip.rgrant (g : Guard) (a : Src) : Statement (.rgrant g a) := by
  let cc := ((rawOf 0x126 g).withS1 a).enc
  refine ofBuild (c := cc) rfl rfl rfl rfl fun h =>
    (show build cc = buildS1 cc .rgrant from rfl).trans ?_
  replace h : (a.inRange) = true := h
  exact (buildS1_ok (c := cc) rfl rfl h
    (by congr 1 <;> first | exact Raw.guard_eq rfl rfl))
theorem RoundTrip.wbind (g : Guard) (w : BitVec 3) (a : Src) : Statement (.wbind g w a) := by
  let cc := (((rawOf 0x128 g).withMod (mod3 w)).withS1 a).enc
  refine ofBuild (c := cc) rfl rfl rfl rfl fun h =>
    (show build cc = buildS1 cc fun g => .wbind g (cc.raw.mod.extractLsb' 0 3) from rfl).trans ?_
  replace h : (a.isReg) = true := h
  exact (buildS1_ok (c := cc) rfl rfl (Operand.isReg_inRange _ h)
    (by congr 1 <;> first | exact Raw.guard_eq rfl rfl | exact mod3_low _))
theorem RoundTrip.wunb (g : Guard) (w : BitVec 3) : Statement (.wunb g w) := by
  let cc := ((rawOf 0x129 g).withMod (mod3 w)).enc
  refine ofBuild (c := cc) rfl rfl rfl rfl fun h =>
    (show build cc = .ok (.wunb cc.raw.guard (cc.raw.mod.extractLsb' 0 3)) from rfl).trans ?_
  exact (congrArg Except.ok
    (by congr 1 <;> first | exact Raw.guard_eq rfl rfl | exact mod3_low _))
theorem RoundTrip.wseek (g : Guard) (w : BitVec 3) (a b : Src) : Statement (.wseek g w a b) := by
  let cc := ((((rawOf 0x12A g).withMod (mod3 w)).withS1 a).withS2 b).enc
  refine ofBuild (c := cc) rfl rfl rfl rfl fun h =>
    (show build cc = buildS2 cc fun g => .wseek g (cc.raw.mod.extractLsb' 0 3) from rfl).trans ?_
  replace h : (a.inRange && b.inRange) = true := h
  simp only [Bool.and_eq_true] at h
  exact (buildS2_ok (c := cc) rfl rfl h.1 rfl rfl h.2
    (by congr 1 <;> first | exact Raw.guard_eq rfl rfl | exact mod3_low _))
theorem RoundTrip.qbind (g : Guard) (port : BitVec 5) (a : Src) : Statement (.qbind g port a) := by
  let cc := (((rawOf 0x130 g).withMod port).withS1 a).enc
  refine ofBuild (c := cc) rfl rfl rfl rfl fun h =>
    (show build cc = buildS1 cc fun g => .qbind g cc.raw.mod from rfl).trans ?_
  replace h : (a.inRange) = true := h
  exact (buildS1_ok (c := cc) rfl rfl h
    (by congr 1 <;> first | exact Raw.guard_eq rfl rfl))
theorem RoundTrip.qpop (g : Guard) (cnt : BitVec 3) (d : Operand) (port : Nat) (e : Bool) : Statement (.qpop g cnt d port e) := by
  let cc := ({ ((rawOf 0x131 g).withMod (mod3 cnt)).withD d with s1 := portCode port, e1 := bit1 e } : Raw).enc
  refine ofBuild (c := cc) rfl rfl rfl rfl fun h => ?_
  replace h : (d.isProducerDest (cnt == 0) && decide (port < 32)) = true := h
  simp only [Bool.and_eq_true, decide_eq_true_eq] at h
  have hb : build cc = (portOf cc.raw.s1).bind fun p =>
    buildD cc fun g d => .qpop g (cc.raw.mod.extractLsb' 0 3) d p (cc.raw.e1 == 1) := rfl
  rw [hb, show portOf cc.raw.s1 = .ok port from portOf_code h.2]
  simp only [Except.bind]
  refine buildD_ok (c := cc) rfl (Operand.isProducerDest_inRange _ d h.1) ?_
  congr 1
  · exact Raw.guard_eq rfl rfl
  · exact mod3_low cnt
  · exact bit1_eq_one e
theorem RoundTrip.qpush (g : Guard) (cnt : BitVec 3) (port : Nat) (a : Src) : Statement (.qpush g cnt port a) := by
  let cc := ({ ((rawOf 0x132 g).withMod (mod3 cnt)).withS1 a with d := portCode port } : Raw).enc
  refine ofBuild (c := cc) rfl rfl rfl rfl fun h => ?_
  replace h : (decide (port < 32) && (if cnt.toNat = 0 then a.inRange else a.isReg)) = true := h
  simp only [Bool.and_eq_true, decide_eq_true_eq] at h
  have ha : a.inRange = true := ite_inRange id (Operand.isReg_inRange a.o) h.2
  have hb : build cc = (portOf cc.raw.d).bind fun p => buildS1 cc fun g a => .qpush g (cc.raw.mod.extractLsb' 0 3) p a := rfl
  rw [hb, show portOf cc.raw.d = .ok port from portOf_code h.1]
  simp only [Except.bind]
  refine buildS1_ok (c := cc) rfl rfl ha ?_
  congr 1
  · exact Raw.guard_eq rfl rfl
  · exact mod3_low cnt
theorem RoundTrip.qlen (g : Guard) (d : Operand) (port : Nat) (e : Bool) : Statement (.qlen g d port e) := by
  let cc := ({ (rawOf 0x133 g).withD d with s1 := portCode port, e1 := bit1 e } : Raw).enc
  refine ofBuild (c := cc) rfl rfl rfl rfl fun h => ?_
  replace h : (d.isDest && decide (port < 32)) = true := h
  simp only [Bool.and_eq_true, decide_eq_true_eq] at h
  have hb : build cc = (portOf cc.raw.s1).bind fun p => buildD cc fun g d => .qlen g d p (cc.raw.e1 == 1) := rfl
  rw [hb, show portOf cc.raw.s1 = .ok port from portOf_code h.2]
  simp only [Except.bind]
  refine buildD_ok (c := cc) rfl (Operand.isDest_inRange d h.1) ?_
  congr 1
  · exact Raw.guard_eq rfl rfl
  · exact bit1_eq_one e
theorem RoundTrip.lmma (g : Guard) (pb : Nat) (e : Bool) : Statement (.lmma g pb e) := by
  let cc := (rawOf 0x160 g).encEng pb e none
  refine ofBuild (c := cc) rfl rfl rfl rfl fun h => ?_
  have hv : cc.raw.viaq = false := viaq_none
  have hb : build cc = (if cc.raw.viaq then .ok (.lmmaQueued cc.raw.guard cc.raw.s1.toNat (cc.raw.e1 == 1) cc.raw.portNo)
    else .ok (.lmma cc.raw.guard cc.raw.s1.toNat (cc.raw.e1 == 1))) := rfl
  rw [hb, hv, if_neg (by decide)]
  refine congrArg Except.ok ?_
  congr 1
  · exact Raw.guard_eq rfl rfl
  · exact pb_toNat h
  · exact bit1_eq_one e
theorem RoundTrip.lmmaQueued (g : Guard) (pb : Nat) (e : Bool) (port : BitVec 5) : Statement (.lmmaQueued g pb e port) := by
  let cc := (rawOf 0x160 g).encEng pb e (some port)
  refine ofBuild (c := cc) rfl rfl rfl rfl fun h => ?_
  have hv : cc.raw.viaq = true := viaq_port port
  have hb : build cc = (if cc.raw.viaq then .ok (.lmmaQueued cc.raw.guard cc.raw.s1.toNat (cc.raw.e1 == 1) cc.raw.portNo)
    else .ok (.lmma cc.raw.guard cc.raw.s1.toNat (cc.raw.e1 == 1))) := rfl
  rw [hb, hv, if_pos rfl]
  refine congrArg Except.ok ?_
  congr 1
  · exact Raw.guard_eq rfl rfl
  · exact pb_toNat h
  · exact bit1_eq_one e
  · exact portNo_port port
theorem RoundTrip.aalloc (g : Guard) (d : Operand) (a : Src) : Statement (.aalloc g d a) := by
  let cc := (encA2 0x161 g 0 d a)
  refine ofBuild (c := cc) rfl rfl rfl rfl fun h =>
    (show build cc = buildA1 cc .aalloc from rfl).trans ?_
  replace h : (d.isDest && a.inRange) = true := h
  simp only [Bool.and_eq_true] at h
  exact (buildA1_ok (c := cc) rfl (Operand.isDest_inRange _ h.1) rfl rfl h.2
    (by congr 1 <;> first | exact Raw.guard_eq rfl rfl | exact mod2_low _))
theorem RoundTrip.afree (g : Guard) (a : Src) : Statement (.afree g a) := by
  let cc := ((rawOf 0x162 g).withS1 a).enc
  refine ofBuild (c := cc) rfl rfl rfl rfl fun h =>
    (show build cc = buildS1 cc .afree from rfl).trans ?_
  replace h : (a.inRange) = true := h
  exact (buildS1_ok (c := cc) rfl rfl h
    (by congr 1 <;> first | exact Raw.guard_eq rfl rfl))
theorem RoundTrip.aband (g : Guard) (a : Src) : Statement (.aband g a) := by
  let cc := ((rawOf 0x163 g).withS1 a).enc
  refine ofBuild (c := cc) rfl rfl rfl rfl fun h =>
    (show build cc = buildS1 cc .aband from rfl).trans ?_
  replace h : (a.inRange) = true := h
  exact (buildS1_ok (c := cc) rfl rfl h
    (by congr 1 <;> first | exact Raw.guard_eq rfl rfl))
theorem RoundTrip.arel (g : Guard) (a : Src) : Statement (.arel g a) := by
  let cc := ((rawOf 0x164 g).withS1 a).enc
  refine ofBuild (c := cc) rfl rfl rfl rfl fun h =>
    (show build cc = buildS1 cc .arel from rfl).trans ?_
  replace h : (a.inRange) = true := h
  exact (buildS1_ok (c := cc) rfl rfl h
    (by congr 1 <;> first | exact Raw.guard_eq rfl rfl))
theorem RoundTrip.ald (g : Guard) (d : Operand) (a : Src) : Statement (.ald g d a) := by
  let cc := (encA2 0x165 g 0 d a)
  refine ofBuild (c := cc) rfl rfl rfl rfl fun h =>
    (show build cc = buildA1 cc .ald from rfl).trans ?_
  replace h : (d.isProducerDest false && a.inRange) = true := h
  simp only [Bool.and_eq_true] at h
  exact (buildA1_ok (c := cc) rfl (Operand.isProducerDest_inRange _ _ h.1) rfl rfl h.2
    (by congr 1 <;> first | exact Raw.guard_eq rfl rfl | exact mod2_low _))
theorem RoundTrip.ast (g : Guard) (a b : Src) : Statement (.ast g a b) := by
  let cc := (((rawOf 0x166 g).withS1 a).withS2 b).enc
  refine ofBuild (c := cc) rfl rfl rfl rfl fun h =>
    (show build cc = buildS2 cc .ast from rfl).trans ?_
  replace h : (a.inRange && b.inRange) = true := h
  simp only [Bool.and_eq_true] at h
  exact (buildS2_ok (c := cc) rfl rfl h.1 rfl rfl h.2
    (by congr 1 <;> first | exact Raw.guard_eq rfl rfl))
theorem RoundTrip.ainfo (g : Guard) (d : Operand) (a : Src) : Statement (.ainfo g d a) := by
  let cc := (encA2 0x167 g 0 d a)
  refine ofBuild (c := cc) rfl rfl rfl rfl fun h =>
    (show build cc = buildA1 cc .ainfo from rfl).trans ?_
  replace h : (d.isDest && a.inRange) = true := h
  simp only [Bool.and_eq_true] at h
  exact (buildA1_ok (c := cc) rfl (Operand.isDest_inRange _ h.1) rfl rfl h.2
    (by congr 1 <;> first | exact Raw.guard_eq rfl rfl | exact mod2_low _))
theorem RoundTrip.seal (g : Guard) (c : EngClass) : Statement (.seal g c) := by
  let cc := ((rawOf 0x170 g).withMod (clsMod c)).enc
  refine ofBuild (c := cc) rfl rfl rfl rfl fun _ =>
    (show build cc = buildCls cc fun k => .ok (.seal cc.raw.guard k) from rfl).trans ?_
  exact (buildCls_ok rfl).trans (congrArg Except.ok (by rw [Raw.guard_eq (g := g) rfl rfl]))
theorem RoundTrip.waitb (g : Guard) (c : EngClass) (a : Src) : Statement (.waitb g c a) := by
  let cc := (((rawOf 0x171 g).withMod (clsMod c)).withS1 a).enc
  refine ofBuild (c := cc) rfl rfl rfl rfl fun h =>
    (show build cc = buildCls cc fun k => buildS1 cc fun g => .waitb g k from rfl).trans ?_
  exact (buildCls_ok rfl).trans (buildS1_ok (c := cc) rfl rfl h (by rw [Raw.guard_eq (g := g) rfl rfl]))
theorem RoundTrip.bstat (g : Guard) (c : EngClass) (d : Operand) : Statement (.bstat g c d) := by
  let cc := (((rawOf 0x172 g).withMod (clsMod c)).withD d).enc
  refine ofBuild (c := cc) rfl rfl rfl rfl fun h =>
    (show build cc = buildCls cc fun k => buildD cc fun g => .bstat g k from rfl).trans ?_
  exact (buildCls_ok rfl).trans (buildD_ok (c := cc) rfl (Operand.isDest_inRange d h) (by rw [Raw.guard_eq (g := g) rfl rfl]))
theorem RoundTrip.cpy (g : Guard) (pb : Nat) (e : Bool) : Statement (.cpy g pb e) := by
  let cc := (rawOf 0x180 g).encEng pb e none
  refine ofBuild (c := cc) rfl rfl rfl rfl fun h => ?_
  have hv : cc.raw.viaq = false := viaq_none
  have hb : build cc = (if cc.raw.viaq then .ok (.cpyQueued cc.raw.guard cc.raw.s1.toNat (cc.raw.e1 == 1) cc.raw.portNo)
    else .ok (.cpy cc.raw.guard cc.raw.s1.toNat (cc.raw.e1 == 1))) := rfl
  rw [hb, hv, if_neg (by decide)]
  refine congrArg Except.ok ?_
  congr 1
  · exact Raw.guard_eq rfl rfl
  · exact pb_toNat h
  · exact bit1_eq_one e
theorem RoundTrip.cpyQueued (g : Guard) (pb : Nat) (e : Bool) (port : BitVec 5) : Statement (.cpyQueued g pb e port) := by
  let cc := (rawOf 0x180 g).encEng pb e (some port)
  refine ofBuild (c := cc) rfl rfl rfl rfl fun h => ?_
  have hv : cc.raw.viaq = true := viaq_port port
  have hb : build cc = (if cc.raw.viaq then .ok (.cpyQueued cc.raw.guard cc.raw.s1.toNat (cc.raw.e1 == 1) cc.raw.portNo)
    else .ok (.cpy cc.raw.guard cc.raw.s1.toNat (cc.raw.e1 == 1))) := rfl
  rw [hb, hv, if_pos rfl]
  refine congrArg Except.ok ?_
  congr 1
  · exact Raw.guard_eq rfl rfl
  · exact pb_toNat h
  · exact bit1_eq_one e
  · exact portNo_port port
theorem RoundTrip.cpymc (g : Guard) (pb : Nat) (e : Bool) : Statement (.cpymc g pb e) := by
  let cc := (rawOf 0x181 g).encEng pb e none
  refine ofBuild (c := cc) rfl rfl rfl rfl fun h => ?_
  have hv : cc.raw.viaq = false := viaq_none
  have hb : build cc = (if cc.raw.viaq then .error 3
    else .ok (.cpymc cc.raw.guard cc.raw.s1.toNat (cc.raw.e1 == 1))) := rfl
  rw [hb, hv, if_neg (by decide)]
  refine congrArg Except.ok ?_
  congr 1
  · exact Raw.guard_eq rfl rfl
  · exact pb_toNat h
  · exact bit1_eq_one e
theorem RoundTrip.mcdrain (g : Guard) (nb : Bool) (d : Operand) (a b : Src) : Statement (.mcdrain g nb d a b) := by
  let cc := encA3 0x182 g ((0 : BitVec 3) ++ bit1 nb ++ (0 : BitVec 1)) d a b
  refine ofBuild (c := cc) rfl rfl rfl rfl fun h => ?_
  replace h : (d.isDest && a.inRange && b.inRange) = true := h
  simp only [Bool.and_eq_true] at h
  have hm : cc.raw.mod.getLsbD 0 = false := mcMod_op nb false
  have hb : build cc = (if cc.raw.mod.getLsbD 0 then buildA1 cc fun g => .mcdrop g (cc.raw.mod.getLsbD 1)
    else buildA2 cc fun g => .mcdrain g (cc.raw.mod.getLsbD 1)) := rfl
  rw [hb, hm, if_neg (by decide)]
  refine buildA2_ok (c := cc) rfl (Operand.isDest_inRange d h.1.1) rfl rfl h.1.2 rfl rfl h.2 ?_
  congr 1
  · exact Raw.guard_eq rfl rfl
  · exact mcMod_nb nb false
theorem RoundTrip.mcdrop (g : Guard) (nb : Bool) (d : Operand) (a : Src) : Statement (.mcdrop g nb d a) := by
  let cc := encA2 0x182 g ((0 : BitVec 3) ++ bit1 nb ++ (1 : BitVec 1)) d a
  refine ofBuild (c := cc) rfl rfl rfl rfl fun h => ?_
  replace h : (d.isDest && a.inRange) = true := h
  simp only [Bool.and_eq_true] at h
  have hm : cc.raw.mod.getLsbD 0 = true := mcMod_op nb true
  have hb : build cc = (if cc.raw.mod.getLsbD 0 then buildA1 cc fun g => .mcdrop g (cc.raw.mod.getLsbD 1)
    else buildA2 cc fun g => .mcdrain g (cc.raw.mod.getLsbD 1)) := rfl
  rw [hb, hm, if_pos rfl]
  refine buildA1_ok (c := cc) rfl (Operand.isDest_inRange d h.1) rfl rfl h.2 ?_
  congr 1
  · exact Raw.guard_eq rfl rfl
  · exact mcMod_nb nb true
theorem RoundTrip.mcinfo (g : Guard) (d : Operand) (a : Src) : Statement (.mcinfo g d a) := by
  let cc := (encA2 0x183 g 0 d a)
  refine ofBuild (c := cc) rfl rfl rfl rfl fun h =>
    (show build cc = buildA1 cc .mcinfo from rfl).trans ?_
  replace h : (d.isDest && a.inRange) = true := h
  simp only [Bool.and_eq_true] at h
  exact (buildA1_ok (c := cc) rfl (Operand.isDest_inRange _ h.1) rfl rfl h.2
    (by congr 1 <;> first | exact Raw.guard_eq rfl rfl | exact mod2_low _))
theorem RoundTrip.trap (g : Guard) (d : Operand) (a : Src) : Statement (.trap g d a) := by
  let cc := (encA2 0x190 g 0 d a)
  refine ofBuild (c := cc) rfl rfl rfl rfl fun h =>
    (show build cc = buildA1 cc .trap from rfl).trans ?_
  replace h : (d.isProducerDest false && a.isReg) = true := h
  simp only [Bool.and_eq_true] at h
  exact (buildA1_ok (c := cc) rfl (Operand.isProducerDest_inRange _ _ h.1) rfl rfl (Operand.isReg_inRange _ h.2)
    (by congr 1 <;> first | exact Raw.guard_eq rfl rfl | exact mod2_low _))
theorem RoundTrip.resume (g : Guard) (d : Operand) (a b : Src) : Statement (.resume g d a b) := by
  let cc := encA3 0x194 g 0 d a b
  refine ofBuild (c := cc) rfl rfl rfl rfl fun h => ?_
  have hv : cc.raw.mod.getLsbD 0 = false := (by decide : (0 : BitVec 5).getLsbD 0 = false)
  have hb : build cc = (if cc.raw.mod.getLsbD 0 then buildA3 cc .resumeB else buildA2 cc .resume) := rfl
  rw [hb, hv, if_neg (by decide)]
  replace h : (d.isProducerDest true && a.inRange && b.inRange) = true := h
  simp only [Bool.and_eq_true] at h
  exact buildA2_ok (c := cc) rfl (Operand.isProducerDest_inRange _ d h.1.1) rfl rfl h.1.2 rfl rfl h.2
    (by rw [Raw.guard_eq (g := g) rfl rfl])
theorem RoundTrip.resumeB (g : Guard) (d : Operand) (a b c : Src) : Statement (.resumeB g d a b c) := by
  let cc := ((((((rawOf 0x194 g).withMod 1).withD d).withS1 a).withS2 b).withS3 c).enc
  refine ofBuild (c := cc) rfl rfl rfl rfl fun h => ?_
  have hv : cc.raw.mod.getLsbD 0 = true := (by decide : (1 : BitVec 5).getLsbD 0 = true)
  have hb : build cc = (if cc.raw.mod.getLsbD 0 then buildA3 cc .resumeB else buildA2 cc .resume) := rfl
  rw [hb, hv, if_pos rfl]
  replace h : (d.isProducerDest true && a.inRange && b.inRange && c.inRange) = true := h
  simp only [Bool.and_eq_true] at h
  exact buildA3_ok (c := cc) rfl (Operand.isProducerDest_inRange _ d h.1.1.1) rfl rfl h.1.1.2 rfl rfl h.1.2 rfl rfl h.2
    (by rw [Raw.guard_eq (g := g) rfl rfl])
theorem RoundTrip.kill (g : Guard) (rec : Bool) (d : Operand) (a b : Src) : Statement (.kill g rec d a b) := by
  let cc := (encA3 0x195 g (modBit rec) d a b)
  refine ofBuild (c := cc) rfl rfl rfl rfl fun h =>
    (show build cc = buildA2 cc fun g => .kill g (cc.raw.mod.getLsbD 0) from rfl).trans ?_
  replace h : (d.isDest && a.inRange && b.inRange) = true := h
  simp only [Bool.and_eq_true] at h
  exact (buildA2_ok (c := cc) rfl (Operand.isDest_inRange _ h.1.1) rfl rfl h.1.2 rfl rfl h.2
    (by congr 1 <;> first | exact Raw.guard_eq rfl rfl | exact mod2_low _ | exact modBit_low _))
theorem RoundTrip.xres (g : Guard) (step : Bool) (d : Operand) (a b : Src) : Statement (.xres g step d a b) := by
  let cc := (encA3 0x196 g (modBit step) d a b)
  refine ofBuild (c := cc) rfl rfl rfl rfl fun h =>
    (show build cc = buildA2 cc fun g => .xres g (cc.raw.mod.getLsbD 0) from rfl).trans ?_
  replace h : (d.isDest && a.inRange && b.inRange) = true := h
  simp only [Bool.and_eq_true] at h
  exact (buildA2_ok (c := cc) rfl (Operand.isDest_inRange _ h.1.1) rfl rfl h.1.2 rfl rfl h.2
    (by congr 1 <;> first | exact Raw.guard_eq rfl rfl | exact mod2_low _ | exact modBit_low _))
theorem RoundTrip.psave (g : Guard) (d : Operand) (a b : Src) : Statement (.psave g d a b) := by
  let cc := (encA3 0x197 g 0 d a b)
  refine ofBuild (c := cc) rfl rfl rfl rfl fun h =>
    (show build cc = buildA2 cc .psave from rfl).trans ?_
  replace h : (d.isProducerDest true && a.inRange && b.inRange) = true := h
  simp only [Bool.and_eq_true] at h
  exact (buildA2_ok (c := cc) rfl (Operand.isProducerDest_inRange _ _ h.1.1) rfl rfl h.1.2 rfl rfl h.2
    (by congr 1 <;> first | exact Raw.guard_eq rfl rfl | exact mod2_low _))
theorem RoundTrip.prest (g : Guard) (d : Operand) (a b : Src) : Statement (.prest g d a b) := by
  let cc := (encA3 0x198 g 0 d a b)
  refine ofBuild (c := cc) rfl rfl rfl rfl fun h =>
    (show build cc = buildA2 cc .prest from rfl).trans ?_
  replace h : (d.isProducerDest true && a.inRange && b.inRange) = true := h
  simp only [Bool.and_eq_true] at h
  exact (buildA2_ok (c := cc) rfl (Operand.isProducerDest_inRange _ _ h.1.1) rfl rfl h.1.2 rfl rfl h.2
    (by congr 1 <;> first | exact Raw.guard_eq rfl rfl | exact mod2_low _))
theorem RoundTrip.crget (g : Guard) (d : Operand) (a : Src) : Statement (.crget g d a) := by
  let cc := (encA2 0x199 g 0 d a)
  refine ofBuild (c := cc) rfl rfl rfl rfl fun h =>
    (show build cc = buildA1 cc .crget from rfl).trans ?_
  replace h : (d.isDest && a.inRange) = true := h
  simp only [Bool.and_eq_true] at h
  exact (buildA1_ok (c := cc) rfl (Operand.isDest_inRange _ h.1) rfl rfl h.2
    (by congr 1 <;> first | exact Raw.guard_eq rfl rfl | exact mod2_low _))
theorem RoundTrip.crset (g : Guard) (a b : Src) : Statement (.crset g a b) := by
  let cc := (((rawOf 0x19A g).withS1 a).withS2 b).enc
  refine ofBuild (c := cc) rfl rfl rfl rfl fun h =>
    (show build cc = buildS2 cc .crset from rfl).trans ?_
  replace h : (a.inRange && b.inRange) = true := h
  simp only [Bool.and_eq_true] at h
  exact (buildS2_ok (c := cc) rfl rfl h.1 rfl rfl h.2
    (by congr 1 <;> first | exact Raw.guard_eq rfl rfl))
theorem RoundTrip.icinv (g : Guard) (d : Operand) (a b c : Src) : Statement (.icinv g d a b c) := by
  let cc := (((((rawOf 0x19B g).withD d).withS1 a).withS2 b).withS3 c).enc
  refine ofBuild (c := cc) rfl rfl rfl rfl fun h =>
    (show build cc = buildA3 cc .icinv from rfl).trans ?_
  replace h : (d.isProducerDest true && a.inRange && b.inRange && c.inRange) = true := h
  simp only [Bool.and_eq_true] at h
  exact (buildA3_ok (c := cc) rfl (Operand.isProducerDest_inRange _ _ h.1.1.1) rfl rfl h.1.1.2 rfl rfl h.1.2 rfl rfl h.2
    (by congr 1 <;> first | exact Raw.guard_eq rfl rfl))
theorem RoundTrip.mcall (g : Guard) (a : Src) : Statement (.mcall g a) := by
  let cc := ((rawOf 0x19C g).withS1 a).enc
  refine ofBuild (c := cc) rfl rfl rfl rfl fun h =>
    (show build cc = buildS1 cc .mcall from rfl).trans ?_
  replace h : (a.inRange) = true := h
  exact (buildS1_ok (c := cc) rfl rfl h
    (by congr 1 <;> first | exact Raw.guard_eq rfl rfl))
theorem RoundTrip.mret (g : Guard) : Statement (.mret g) := by
  let cc := (rawOf 0x19D g).enc
  refine ofBuild (c := cc) rfl rfl rfl rfl fun h =>
    (show build cc = .ok (.mret cc.raw.guard) from rfl).trans ?_
  exact (congrArg Except.ok
    (by congr 1 <;> first | exact Raw.guard_eq rfl rfl))
theorem RoundTrip.spawn (g : Guard) (d : Operand) (a : Src) : Statement (.spawn g d a) := by
  let cc := (encA2 0x1B0 g 0 d a)
  refine ofBuild (c := cc) rfl rfl rfl rfl fun h =>
    (show build cc = buildA1 cc .spawn from rfl).trans ?_
  replace h : (d.isProducerDest true && a.isReg) = true := h
  simp only [Bool.and_eq_true] at h
  exact (buildA1_ok (c := cc) rfl (Operand.isProducerDest_inRange _ _ h.1) rfl rfl (Operand.isReg_inRange _ h.2)
    (by congr 1 <;> first | exact Raw.guard_eq rfl rfl | exact mod2_low _))
theorem RoundTrip.mset (g : Guard) (d : Operand) (a : Src) : Statement (.mset g d a) := by
  let cc := (encA2 0x1B1 g 0 d a)
  refine ofBuild (c := cc) rfl rfl rfl rfl fun h =>
    (show build cc = buildA1 cc .mset from rfl).trans ?_
  replace h : (d.isDest && a.isReg) = true := h
  simp only [Bool.and_eq_true] at h
  exact (buildA1_ok (c := cc) rfl (Operand.isDest_inRange _ h.1) rfl rfl (Operand.isReg_inRange _ h.2)
    (by congr 1 <;> first | exact Raw.guard_eq rfl rfl | exact mod2_low _))
theorem RoundTrip.mget (g : Guard) (d : Operand) (a : Src) : Statement (.mget g d a) := by
  let cc := (encA2 0x1B2 g 0 d a)
  refine ofBuild (c := cc) rfl rfl rfl rfl fun h =>
    (show build cc = buildA1 cc .mget from rfl).trans ?_
  replace h : (d.isReg && a.inRange) = true := h
  simp only [Bool.and_eq_true] at h
  exact (buildA1_ok (c := cc) rfl (Operand.isReg_inRange _ h.1) rfl rfl h.2
    (by congr 1 <;> first | exact Raw.guard_eq rfl rfl | exact mod2_low _))
theorem RoundTrip.mdrop (g : Guard) (d : Operand) (a b : Src) : Statement (.mdrop g d a b) := by
  let cc := (encA3 0x1B3 g 0 d a b)
  refine ofBuild (c := cc) rfl rfl rfl rfl fun h =>
    (show build cc = buildA2 cc .mdrop from rfl).trans ?_
  replace h : (d.isDest && a.inRange && b.inRange) = true := h
  simp only [Bool.and_eq_true] at h
  exact (buildA2_ok (c := cc) rfl (Operand.isDest_inRange _ h.1.1) rfl rfl h.1.2 rfl rfl h.2
    (by congr 1 <;> first | exact Raw.guard_eq rfl rfl | exact mod2_low _))
theorem RoundTrip.mfind (g : Guard) (d : Operand) (a b : Src) : Statement (.mfind g d a b) := by
  let cc := (encA3 0x1B4 g 0 d a b)
  refine ofBuild (c := cc) rfl rfl rfl rfl fun h =>
    (show build cc = buildA2 cc .mfind from rfl).trans ?_
  replace h : (d.isDest && a.inRange && b.inRange) = true := h
  simp only [Bool.and_eq_true] at h
  exact (buildA2_ok (c := cc) rfl (Operand.isDest_inRange _ h.1.1) rfl rfl h.1.2 rfl rfl h.2
    (by congr 1 <;> first | exact Raw.guard_eq rfl rfl | exact mod2_low _))
theorem RoundTrip.ld (g : Guard) (size : BitVec 3) (d : Operand) (m : MemOp) : Statement (.ld g size d m) := by
  let cc := (((rawOf 0x140 g).withMod (mod3 size)).withD d).encMem m
  refine ofBuild (c := cc) rfl rfl (lnOk_encMem _ _ rfl) (by obtain ⟨_, _, _, _ | _⟩ := m <;> rfl) fun h => ?_
  replace h : (d.isProducerDest (size.toNat ≤ 4) && m.idx.inRange) = true := h
  simp only [Bool.and_eq_true] at h
  have hm : cc.raw.mod = (0 : BitVec 2) ++ size := by obtain ⟨_, _, _, _ | _⟩ := m <;> rfl
  have hb : build cc = (match (cc.raw.mod.extractLsb' 3 2).toNat with
    | 0 => buildM cc fun g => .ld g (cc.raw.mod.extractLsb' 0 3)
    | 1 => buildM cc fun g => .ldNa g (cc.raw.mod.extractLsb' 0 3)
    | 2 => buildM cc fun g => .ldAcq g (cc.raw.mod.extractLsb' 0 3)
    | _ => .error 3) := by obtain ⟨_, _, _, _ | _⟩ := m <;> rfl
  rw [hb, hm, relMod_sc, relMod_size]
  refine buildM_ok (c := cc) (by obtain ⟨_, _, _, _ | _⟩ := m <;> rfl) (Operand.isProducerDest_inRange _ d h.1)
    (Raw.encMem_memOp _ m h.2) ?_
  rw [Raw.guard_eq (g := g) (by obtain ⟨_, _, _, _ | _⟩ := m <;> rfl) (by obtain ⟨_, _, _, _ | _⟩ := m <;> rfl)]
theorem RoundTrip.ldNa (g : Guard) (size : BitVec 3) (d : Operand) (m : MemOp) : Statement (.ldNa g size d m) := by
  let cc := (((rawOf 0x140 g).withMod (((1 : BitVec 2) ++ size))).withD d).encMem m
  refine ofBuild (c := cc) rfl rfl (lnOk_encMem _ _ rfl) (by obtain ⟨_, _, _, _ | _⟩ := m <;> rfl) fun h => ?_
  replace h : (d.isProducerDest (size.toNat ≤ 4) && m.idx.inRange) = true := h
  simp only [Bool.and_eq_true] at h
  have hm : cc.raw.mod = (1 : BitVec 2) ++ size := by obtain ⟨_, _, _, _ | _⟩ := m <;> rfl
  have hb : build cc = (match (cc.raw.mod.extractLsb' 3 2).toNat with
    | 0 => buildM cc fun g => .ld g (cc.raw.mod.extractLsb' 0 3)
    | 1 => buildM cc fun g => .ldNa g (cc.raw.mod.extractLsb' 0 3)
    | 2 => buildM cc fun g => .ldAcq g (cc.raw.mod.extractLsb' 0 3)
    | _ => .error 3) := by obtain ⟨_, _, _, _ | _⟩ := m <;> rfl
  rw [hb, hm, relMod_sc, relMod_size]
  refine buildM_ok (c := cc) (by obtain ⟨_, _, _, _ | _⟩ := m <;> rfl) (Operand.isProducerDest_inRange _ d h.1)
    (Raw.encMem_memOp _ m h.2) ?_
  rw [Raw.guard_eq (g := g) (by obtain ⟨_, _, _, _ | _⟩ := m <;> rfl) (by obtain ⟨_, _, _, _ | _⟩ := m <;> rfl)]
theorem RoundTrip.ldAcq (g : Guard) (size : BitVec 3) (d : Operand) (m : MemOp) : Statement (.ldAcq g size d m) := by
  let cc := (((rawOf 0x140 g).withMod (((2 : BitVec 2) ++ size))).withD d).encMem m
  refine ofBuild (c := cc) rfl rfl (lnOk_encMem _ _ rfl) (by obtain ⟨_, _, _, _ | _⟩ := m <;> rfl) fun h => ?_
  replace h : (d.isProducerDest (size.toNat ≤ 4) && m.idx.inRange) = true := h
  simp only [Bool.and_eq_true] at h
  have hm : cc.raw.mod = (2 : BitVec 2) ++ size := by obtain ⟨_, _, _, _ | _⟩ := m <;> rfl
  have hb : build cc = (match (cc.raw.mod.extractLsb' 3 2).toNat with
    | 0 => buildM cc fun g => .ld g (cc.raw.mod.extractLsb' 0 3)
    | 1 => buildM cc fun g => .ldNa g (cc.raw.mod.extractLsb' 0 3)
    | 2 => buildM cc fun g => .ldAcq g (cc.raw.mod.extractLsb' 0 3)
    | _ => .error 3) := by obtain ⟨_, _, _, _ | _⟩ := m <;> rfl
  rw [hb, hm, relMod_sc, relMod_size]
  refine buildM_ok (c := cc) (by obtain ⟨_, _, _, _ | _⟩ := m <;> rfl) (Operand.isProducerDest_inRange _ d h.1)
    (Raw.encMem_memOp _ m h.2) ?_
  rw [Raw.guard_eq (g := g) (by obtain ⟨_, _, _, _ | _⟩ := m <;> rfl) (by obtain ⟨_, _, _, _ | _⟩ := m <;> rfl)]
theorem RoundTrip.st (g : Guard) (size : BitVec 3) (d : Src) (m : MemOp) : Statement (.st g size d m) := by
  let cc := ((((rawOf 0x141 g).withMod (mod3 size)).withDs d).encMem m)
  refine ofBuild (c := cc) rfl rfl (lnOk_encMem _ _ rfl) (by obtain ⟨_, _, _, _ | _⟩ := m <;> rfl) fun h =>
    (show build cc = buildMs cc fun g => .st g (cc.raw.mod.extractLsb' 0 3) from (by obtain ⟨_, _, _, _ | _⟩ := m <;> rfl)).trans ?_
  replace h : ((if sizeRegs size = 4 then d.isReg else d.inRange) && m.idx.inRange) = true := h
  simp only [Bool.and_eq_true] at h
  have hk_m := h.2
  have hk_d : d.inRange = true := ite_inRange (Operand.isReg_inRange d.o) id h.1
  exact (buildMs_ok (c := cc) (by obtain ⟨_, _, _, _ | _⟩ := m <;> rfl) (by obtain ⟨_, _, _, _ | _⟩ := m <;> rfl) (hk_d) (Raw.encMem_memOp _ _ (hk_m))
    (by congr 1 <;> first | exact Raw.guard_eq (by obtain ⟨_, _, _, _ | _⟩ := m <;> rfl) (by obtain ⟨_, _, _, _ | _⟩ := m <;> rfl) | (obtain ⟨_, _, _, _ | _⟩ := m <;> exact mod3_low _) | (obtain ⟨_, _, _, _ | _⟩ := m <;> rfl)))
theorem RoundTrip.stRel (g : Guard) (size : BitVec 3) (sc : BitVec 2) (d : Src) (m : MemOp) : Statement (.stRel g size sc d m) := by
  let cc := ((((rawOf 0x142 g).withMod (sc ++ size)).withDs d).encMem m)
  refine ofBuild (c := cc) rfl rfl (lnOk_encMem _ _ rfl) (by obtain ⟨_, _, _, _ | _⟩ := m <;> rfl) fun h =>
    (show build cc = buildMs cc fun g => .stRel g (cc.raw.mod.extractLsb' 0 3) (cc.raw.mod.extractLsb' 3 2) from (by obtain ⟨_, _, _, _ | _⟩ := m <;> rfl)).trans ?_
  replace h : ((if sizeRegs size = 4 then d.isReg else d.inRange) && m.idx.inRange) = true := h
  simp only [Bool.and_eq_true] at h
  have hk_m := h.2
  have hk_d : d.inRange = true := ite_inRange (Operand.isReg_inRange d.o) id h.1
  exact (buildMs_ok (c := cc) (by obtain ⟨_, _, _, _ | _⟩ := m <;> rfl) (by obtain ⟨_, _, _, _ | _⟩ := m <;> rfl) (hk_d) (Raw.encMem_memOp _ _ (hk_m))
    (by congr 1 <;> first | exact Raw.guard_eq (by obtain ⟨_, _, _, _ | _⟩ := m <;> rfl) (by obtain ⟨_, _, _, _ | _⟩ := m <;> rfl) | (obtain ⟨_, _, _, _ | _⟩ := m <;> exact relMod_size _ _) | (obtain ⟨_, _, _, _ | _⟩ := m <;> exact relMod_sc _ _) | (obtain ⟨_, _, _, _ | _⟩ := m <;> rfl)))
theorem RoundTrip.atom (g : Guard) (op : BitVec 4) (w64 : Bool) (d : Src) (m : MemOp) : Statement (.atom g op w64 d m) := by
  let cc := ((((rawOf 0x144 g).withMod (modAtom op w64)).withDs d).encMem m)
  refine ofBuild (c := cc) rfl rfl (lnOk_encMem _ _ rfl) (by obtain ⟨_, _, _, _ | _⟩ := m <;> rfl) fun h =>
    (show build cc = buildMs cc fun g => .atom g (cc.raw.mod.extractLsb' 0 4) (cc.raw.mod.getLsbD 4) from (by obtain ⟨_, _, _, _ | _⟩ := m <;> rfl)).trans ?_
  replace h : (d.o.isProducerDest (atomRegs op w64 == 1) && m.idx.inRange) = true := h
  simp only [Bool.and_eq_true] at h
  exact (buildMs_ok (c := cc) (by obtain ⟨_, _, _, _ | _⟩ := m <;> rfl) (by obtain ⟨_, _, _, _ | _⟩ := m <;> rfl) (Operand.isProducerDest_inRange _ _ h.1) (Raw.encMem_memOp _ _ h.2)
    (by congr 1 <;> first | exact Raw.guard_eq (by obtain ⟨_, _, _, _ | _⟩ := m <;> rfl) (by obtain ⟨_, _, _, _ | _⟩ := m <;> rfl) | (obtain ⟨_, _, _, _ | _⟩ := m <;> exact modAtom_op _ _) | (obtain ⟨_, _, _, _ | _⟩ := m <;> exact modAtom_w64 _ _) | (obtain ⟨_, _, _, _ | _⟩ := m <;> rfl)))
theorem RoundTrip.atomAcq (g : Guard) (op : BitVec 4) (w64 : Bool) (d : Src) (m : MemOp) : Statement (.atomAcq g op w64 d m) := by
  let cc := ((((rawOf 0x145 g).withMod (modAtom op w64)).withDs d).encMem m)
  refine ofBuild (c := cc) rfl rfl (lnOk_encMem _ _ rfl) (by obtain ⟨_, _, _, _ | _⟩ := m <;> rfl) fun h =>
    (show build cc = buildMs cc fun g => .atomAcq g (cc.raw.mod.extractLsb' 0 4) (cc.raw.mod.getLsbD 4) from (by obtain ⟨_, _, _, _ | _⟩ := m <;> rfl)).trans ?_
  replace h : (d.o.isProducerDest (atomRegs op w64 == 1) && m.idx.inRange) = true := h
  simp only [Bool.and_eq_true] at h
  exact (buildMs_ok (c := cc) (by obtain ⟨_, _, _, _ | _⟩ := m <;> rfl) (by obtain ⟨_, _, _, _ | _⟩ := m <;> rfl) (Operand.isProducerDest_inRange _ _ h.1) (Raw.encMem_memOp _ _ h.2)
    (by congr 1 <;> first | exact Raw.guard_eq (by obtain ⟨_, _, _, _ | _⟩ := m <;> rfl) (by obtain ⟨_, _, _, _ | _⟩ := m <;> rfl) | (obtain ⟨_, _, _, _ | _⟩ := m <;> exact modAtom_op _ _) | (obtain ⟨_, _, _, _ | _⟩ := m <;> exact modAtom_w64 _ _) | (obtain ⟨_, _, _, _ | _⟩ := m <;> rfl)))
theorem RoundTrip.atomRel (g : Guard) (sc : BitVec 2) (op : BitVec 4) (w64 : Bool) (d : Src) (m : MemOp) : Statement (.atomRel g sc op w64 d m) := by
  obtain rfl | rfl | rfl | rfl : sc = 0 ∨ sc = 1 ∨ sc = 2 ∨ sc = 3 := by revert sc; decide
  · let cc := ((((rawOf (0x148 + (0 : BitVec 2).toNat) g).withMod (modAtom op w64)).withDs d).encMem m)
    refine ofBuild (c := cc) rfl rfl (lnOk_encMem _ _ rfl) (by obtain ⟨_, _, _, _ | _⟩ := m <;> rfl) fun h =>
    (show build cc = buildMs cc fun g => .atomRel g 0 (cc.raw.mod.extractLsb' 0 4) (cc.raw.mod.getLsbD 4) from (by obtain ⟨_, _, _, _ | _⟩ := m <;> rfl)).trans ?_
    replace h : (d.o.isProducerDest (atomRegs op w64 == 1) && m.idx.inRange) = true := h
    simp only [Bool.and_eq_true] at h
    exact (buildMs_ok (c := cc) (by obtain ⟨_, _, _, _ | _⟩ := m <;> rfl) (by obtain ⟨_, _, _, _ | _⟩ := m <;> rfl) (Operand.isProducerDest_inRange _ _ h.1) (Raw.encMem_memOp _ _ h.2)
    (by congr 1 <;> first | exact Raw.guard_eq (by obtain ⟨_, _, _, _ | _⟩ := m <;> rfl) (by obtain ⟨_, _, _, _ | _⟩ := m <;> rfl) | (obtain ⟨_, _, _, _ | _⟩ := m <;> exact modAtom_op _ _) | (obtain ⟨_, _, _, _ | _⟩ := m <;> exact modAtom_w64 _ _) | (obtain ⟨_, _, _, _ | _⟩ := m <;> rfl)))
  · let cc := ((((rawOf (0x148 + (1 : BitVec 2).toNat) g).withMod (modAtom op w64)).withDs d).encMem m)
    refine ofBuild (c := cc) rfl rfl (lnOk_encMem _ _ rfl) (by obtain ⟨_, _, _, _ | _⟩ := m <;> rfl) fun h =>
    (show build cc = buildMs cc fun g => .atomRel g 1 (cc.raw.mod.extractLsb' 0 4) (cc.raw.mod.getLsbD 4) from (by obtain ⟨_, _, _, _ | _⟩ := m <;> rfl)).trans ?_
    replace h : (d.o.isProducerDest (atomRegs op w64 == 1) && m.idx.inRange) = true := h
    simp only [Bool.and_eq_true] at h
    exact (buildMs_ok (c := cc) (by obtain ⟨_, _, _, _ | _⟩ := m <;> rfl) (by obtain ⟨_, _, _, _ | _⟩ := m <;> rfl) (Operand.isProducerDest_inRange _ _ h.1) (Raw.encMem_memOp _ _ h.2)
    (by congr 1 <;> first | exact Raw.guard_eq (by obtain ⟨_, _, _, _ | _⟩ := m <;> rfl) (by obtain ⟨_, _, _, _ | _⟩ := m <;> rfl) | (obtain ⟨_, _, _, _ | _⟩ := m <;> exact modAtom_op _ _) | (obtain ⟨_, _, _, _ | _⟩ := m <;> exact modAtom_w64 _ _) | (obtain ⟨_, _, _, _ | _⟩ := m <;> rfl)))
  · let cc := ((((rawOf (0x148 + (2 : BitVec 2).toNat) g).withMod (modAtom op w64)).withDs d).encMem m)
    refine ofBuild (c := cc) rfl rfl (lnOk_encMem _ _ rfl) (by obtain ⟨_, _, _, _ | _⟩ := m <;> rfl) fun h =>
    (show build cc = buildMs cc fun g => .atomRel g 2 (cc.raw.mod.extractLsb' 0 4) (cc.raw.mod.getLsbD 4) from (by obtain ⟨_, _, _, _ | _⟩ := m <;> rfl)).trans ?_
    replace h : (d.o.isProducerDest (atomRegs op w64 == 1) && m.idx.inRange) = true := h
    simp only [Bool.and_eq_true] at h
    exact (buildMs_ok (c := cc) (by obtain ⟨_, _, _, _ | _⟩ := m <;> rfl) (by obtain ⟨_, _, _, _ | _⟩ := m <;> rfl) (Operand.isProducerDest_inRange _ _ h.1) (Raw.encMem_memOp _ _ h.2)
    (by congr 1 <;> first | exact Raw.guard_eq (by obtain ⟨_, _, _, _ | _⟩ := m <;> rfl) (by obtain ⟨_, _, _, _ | _⟩ := m <;> rfl) | (obtain ⟨_, _, _, _ | _⟩ := m <;> exact modAtom_op _ _) | (obtain ⟨_, _, _, _ | _⟩ := m <;> exact modAtom_w64 _ _) | (obtain ⟨_, _, _, _ | _⟩ := m <;> rfl)))
  · let cc := ((((rawOf (0x148 + (3 : BitVec 2).toNat) g).withMod (modAtom op w64)).withDs d).encMem m)
    refine ofBuild (c := cc) rfl rfl (lnOk_encMem _ _ rfl) (by obtain ⟨_, _, _, _ | _⟩ := m <;> rfl) fun h =>
    (show build cc = buildMs cc fun g => .atomRel g 3 (cc.raw.mod.extractLsb' 0 4) (cc.raw.mod.getLsbD 4) from (by obtain ⟨_, _, _, _ | _⟩ := m <;> rfl)).trans ?_
    replace h : (d.o.isProducerDest (atomRegs op w64 == 1) && m.idx.inRange) = true := h
    simp only [Bool.and_eq_true] at h
    exact (buildMs_ok (c := cc) (by obtain ⟨_, _, _, _ | _⟩ := m <;> rfl) (by obtain ⟨_, _, _, _ | _⟩ := m <;> rfl) (Operand.isProducerDest_inRange _ _ h.1) (Raw.encMem_memOp _ _ h.2)
    (by congr 1 <;> first | exact Raw.guard_eq (by obtain ⟨_, _, _, _ | _⟩ := m <;> rfl) (by obtain ⟨_, _, _, _ | _⟩ := m <;> rfl) | (obtain ⟨_, _, _, _ | _⟩ := m <;> exact modAtom_op _ _) | (obtain ⟨_, _, _, _ | _⟩ := m <;> exact modAtom_w64 _ _) | (obtain ⟨_, _, _, _ | _⟩ := m <;> rfl)))
theorem RoundTrip.atomAr (g : Guard) (sc : BitVec 2) (op : BitVec 4) (w64 : Bool) (d : Src) (m : MemOp) : Statement (.atomAr g sc op w64 d m) := by
  obtain rfl | rfl | rfl | rfl : sc = 0 ∨ sc = 1 ∨ sc = 2 ∨ sc = 3 := by revert sc; decide
  · let cc := ((((rawOf (0x14C + (0 : BitVec 2).toNat) g).withMod (modAtom op w64)).withDs d).encMem m)
    refine ofBuild (c := cc) rfl rfl (lnOk_encMem _ _ rfl) (by obtain ⟨_, _, _, _ | _⟩ := m <;> rfl) fun h =>
    (show build cc = buildMs cc fun g => .atomAr g 0 (cc.raw.mod.extractLsb' 0 4) (cc.raw.mod.getLsbD 4) from (by obtain ⟨_, _, _, _ | _⟩ := m <;> rfl)).trans ?_
    replace h : (d.o.isProducerDest (atomRegs op w64 == 1) && m.idx.inRange) = true := h
    simp only [Bool.and_eq_true] at h
    exact (buildMs_ok (c := cc) (by obtain ⟨_, _, _, _ | _⟩ := m <;> rfl) (by obtain ⟨_, _, _, _ | _⟩ := m <;> rfl) (Operand.isProducerDest_inRange _ _ h.1) (Raw.encMem_memOp _ _ h.2)
    (by congr 1 <;> first | exact Raw.guard_eq (by obtain ⟨_, _, _, _ | _⟩ := m <;> rfl) (by obtain ⟨_, _, _, _ | _⟩ := m <;> rfl) | (obtain ⟨_, _, _, _ | _⟩ := m <;> exact modAtom_op _ _) | (obtain ⟨_, _, _, _ | _⟩ := m <;> exact modAtom_w64 _ _) | (obtain ⟨_, _, _, _ | _⟩ := m <;> rfl)))
  · let cc := ((((rawOf (0x14C + (1 : BitVec 2).toNat) g).withMod (modAtom op w64)).withDs d).encMem m)
    refine ofBuild (c := cc) rfl rfl (lnOk_encMem _ _ rfl) (by obtain ⟨_, _, _, _ | _⟩ := m <;> rfl) fun h =>
    (show build cc = buildMs cc fun g => .atomAr g 1 (cc.raw.mod.extractLsb' 0 4) (cc.raw.mod.getLsbD 4) from (by obtain ⟨_, _, _, _ | _⟩ := m <;> rfl)).trans ?_
    replace h : (d.o.isProducerDest (atomRegs op w64 == 1) && m.idx.inRange) = true := h
    simp only [Bool.and_eq_true] at h
    exact (buildMs_ok (c := cc) (by obtain ⟨_, _, _, _ | _⟩ := m <;> rfl) (by obtain ⟨_, _, _, _ | _⟩ := m <;> rfl) (Operand.isProducerDest_inRange _ _ h.1) (Raw.encMem_memOp _ _ h.2)
    (by congr 1 <;> first | exact Raw.guard_eq (by obtain ⟨_, _, _, _ | _⟩ := m <;> rfl) (by obtain ⟨_, _, _, _ | _⟩ := m <;> rfl) | (obtain ⟨_, _, _, _ | _⟩ := m <;> exact modAtom_op _ _) | (obtain ⟨_, _, _, _ | _⟩ := m <;> exact modAtom_w64 _ _) | (obtain ⟨_, _, _, _ | _⟩ := m <;> rfl)))
  · let cc := ((((rawOf (0x14C + (2 : BitVec 2).toNat) g).withMod (modAtom op w64)).withDs d).encMem m)
    refine ofBuild (c := cc) rfl rfl (lnOk_encMem _ _ rfl) (by obtain ⟨_, _, _, _ | _⟩ := m <;> rfl) fun h =>
    (show build cc = buildMs cc fun g => .atomAr g 2 (cc.raw.mod.extractLsb' 0 4) (cc.raw.mod.getLsbD 4) from (by obtain ⟨_, _, _, _ | _⟩ := m <;> rfl)).trans ?_
    replace h : (d.o.isProducerDest (atomRegs op w64 == 1) && m.idx.inRange) = true := h
    simp only [Bool.and_eq_true] at h
    exact (buildMs_ok (c := cc) (by obtain ⟨_, _, _, _ | _⟩ := m <;> rfl) (by obtain ⟨_, _, _, _ | _⟩ := m <;> rfl) (Operand.isProducerDest_inRange _ _ h.1) (Raw.encMem_memOp _ _ h.2)
    (by congr 1 <;> first | exact Raw.guard_eq (by obtain ⟨_, _, _, _ | _⟩ := m <;> rfl) (by obtain ⟨_, _, _, _ | _⟩ := m <;> rfl) | (obtain ⟨_, _, _, _ | _⟩ := m <;> exact modAtom_op _ _) | (obtain ⟨_, _, _, _ | _⟩ := m <;> exact modAtom_w64 _ _) | (obtain ⟨_, _, _, _ | _⟩ := m <;> rfl)))
  · let cc := ((((rawOf (0x14C + (3 : BitVec 2).toNat) g).withMod (modAtom op w64)).withDs d).encMem m)
    refine ofBuild (c := cc) rfl rfl (lnOk_encMem _ _ rfl) (by obtain ⟨_, _, _, _ | _⟩ := m <;> rfl) fun h =>
    (show build cc = buildMs cc fun g => .atomAr g 3 (cc.raw.mod.extractLsb' 0 4) (cc.raw.mod.getLsbD 4) from (by obtain ⟨_, _, _, _ | _⟩ := m <;> rfl)).trans ?_
    replace h : (d.o.isProducerDest (atomRegs op w64 == 1) && m.idx.inRange) = true := h
    simp only [Bool.and_eq_true] at h
    exact (buildMs_ok (c := cc) (by obtain ⟨_, _, _, _ | _⟩ := m <;> rfl) (by obtain ⟨_, _, _, _ | _⟩ := m <;> rfl) (Operand.isProducerDest_inRange _ _ h.1) (Raw.encMem_memOp _ _ h.2)
    (by congr 1 <;> first | exact Raw.guard_eq (by obtain ⟨_, _, _, _ | _⟩ := m <;> rfl) (by obtain ⟨_, _, _, _ | _⟩ := m <;> rfl) | (obtain ⟨_, _, _, _ | _⟩ := m <;> exact modAtom_op _ _) | (obtain ⟨_, _, _, _ | _⟩ := m <;> exact modAtom_w64 _ _) | (obtain ⟨_, _, _, _ | _⟩ := m <;> rfl)))
theorem RoundTrip.fence (g : Guard) (sc : BitVec 3) : Statement (.fence g sc) := by
  let cc := ((rawOf 0x150 g).withMod (mod3 sc)).enc
  refine ofBuild (c := cc) rfl rfl rfl rfl fun h =>
    (show build cc = .ok (.fence cc.raw.guard (cc.raw.mod.extractLsb' 0 3)) from rfl).trans ?_
  exact (congrArg Except.ok
    (by congr 1 <;> first | exact Raw.guard_eq rfl rfl | exact mod3_low _))
theorem RoundTrip.bar (g : Guard) (sc : BitVec 2) : Statement (.bar g sc) := by
  let cc := ((rawOf 0x151 g).withMod (mod2 sc)).enc
  refine ofBuild (c := cc) rfl rfl rfl rfl fun h =>
    (show build cc = .ok (.bar cc.raw.guard (cc.raw.mod.extractLsb' 0 2)) from rfl).trans ?_
  exact (congrArg Except.ok
    (by congr 1 <;> first | exact Raw.guard_eq rfl rfl | exact mod2_low _))
theorem RoundTrip.ss (g : Guard) (sc : BitVec 2) : Statement (.ss g sc) := by
  let cc := ((rawOf 0x152 g).withMod (mod2 sc)).enc
  refine ofBuild (c := cc) rfl rfl rfl rfl fun h =>
    (show build cc = .ok (.ss cc.raw.guard (cc.raw.mod.extractLsb' 0 2)) from rfl).trans ?_
  exact (congrArg Except.ok
    (by congr 1 <;> first | exact Raw.guard_eq rfl rfl | exact mod2_low _))
theorem RoundTrip.ldtag (g : Guard) (d : Operand) (m : MemOp) : Statement (.ldtag g d m) := by
  let cc := (((rawOf 0x154 g).withD d).encMem m)
  refine ofBuild (c := cc) rfl rfl (lnOk_encMem _ _ rfl) (by obtain ⟨_, _, _, _ | _⟩ := m <;> rfl) fun h =>
    (show build cc = buildM cc .ldtag from (by obtain ⟨_, _, _, _ | _⟩ := m <;> rfl)).trans ?_
  replace h : (d.isProducerDest true && m.idx.inRange) = true := h
  simp only [Bool.and_eq_true] at h
  exact (buildM_ok (c := cc) (by obtain ⟨_, _, _, _ | _⟩ := m <;> rfl) (Operand.isProducerDest_inRange _ _ h.1) (Raw.encMem_memOp _ _ h.2)
    (by congr 1 <;> first | exact Raw.guard_eq (by obtain ⟨_, _, _, _ | _⟩ := m <;> rfl) (by obtain ⟨_, _, _, _ | _⟩ := m <;> rfl) | (obtain ⟨_, _, _, _ | _⟩ := m <;> rfl)))
theorem RoundTrip.sttag (g : Guard) (d : Src) (m : MemOp) : Statement (.sttag g d m) := by
  let cc := (((rawOf 0x155 g).withDs d).encMem m)
  refine ofBuild (c := cc) rfl rfl (lnOk_encMem _ _ rfl) (by obtain ⟨_, _, _, _ | _⟩ := m <;> rfl) fun h =>
    (show build cc = buildMs cc .sttag from (by obtain ⟨_, _, _, _ | _⟩ := m <;> rfl)).trans ?_
  replace h : (d.inRange && m.idx.inRange) = true := h
  simp only [Bool.and_eq_true] at h
  exact (buildMs_ok (c := cc) (by obtain ⟨_, _, _, _ | _⟩ := m <;> rfl) (by obtain ⟨_, _, _, _ | _⟩ := m <;> rfl) h.1 (Raw.encMem_memOp _ _ h.2)
    (by congr 1 <;> first | exact Raw.guard_eq (by obtain ⟨_, _, _, _ | _⟩ := m <;> rfl) (by obtain ⟨_, _, _, _ | _⟩ := m <;> rfl) | (obtain ⟨_, _, _, _ | _⟩ := m <;> rfl)))
theorem RoundTrip.wcmd (g : Guard) (pb : Nat) (e : Bool) : Statement (.wcmd g pb e) := by
  let cc := (rawOf 0x1C0 g).encEng pb e none
  refine ofBuild (c := cc) rfl rfl rfl rfl fun h => ?_
  have hv : cc.raw.viaq = false := viaq_none
  have hb : build cc = (if cc.raw.viaq then .ok (.wcmdQueued cc.raw.guard cc.raw.s1.toNat (cc.raw.e1 == 1) cc.raw.portNo)
    else .ok (.wcmd cc.raw.guard cc.raw.s1.toNat (cc.raw.e1 == 1))) := rfl
  rw [hb, hv, if_neg (by decide)]
  refine congrArg Except.ok ?_
  congr 1
  · exact Raw.guard_eq rfl rfl
  · exact pb_toNat h
  · exact bit1_eq_one e
theorem RoundTrip.wcmdQueued (g : Guard) (pb : Nat) (e : Bool) (port : BitVec 5) : Statement (.wcmdQueued g pb e port) := by
  let cc := (rawOf 0x1C0 g).encEng pb e (some port)
  refine ofBuild (c := cc) rfl rfl rfl rfl fun h => ?_
  have hv : cc.raw.viaq = true := viaq_port port
  have hb : build cc = (if cc.raw.viaq then .ok (.wcmdQueued cc.raw.guard cc.raw.s1.toNat (cc.raw.e1 == 1) cc.raw.portNo)
    else .ok (.wcmd cc.raw.guard cc.raw.s1.toNat (cc.raw.e1 == 1))) := rfl
  rw [hb, hv, if_pos rfl]
  refine congrArg Except.ok ?_
  congr 1
  · exact Raw.guard_eq rfl rfl
  · exact pb_toNat h
  · exact bit1_eq_one e
  · exact portNo_port port
theorem RoundTrip.winfo (g : Guard) (d : Operand) (a : Src) : Statement (.winfo g d a) := by
  let cc := (encA2 0x1C1 g 0 d a)
  refine ofBuild (c := cc) rfl rfl rfl rfl fun h =>
    (show build cc = buildA1 cc .winfo from rfl).trans ?_
  replace h : (d.isDest && a.inRange) = true := h
  simp only [Bool.and_eq_true] at h
  exact (buildA1_ok (c := cc) rfl (Operand.isDest_inRange _ h.1) rfl rfl h.2
    (by congr 1 <;> first | exact Raw.guard_eq rfl rfl | exact mod2_low _))
theorem RoundTrip.nsend (g : Guard) (pb : Nat) (e : Bool) : Statement (.nsend g pb e) := by
  let cc := (rawOf 0x1C8 g).encEng pb e none
  refine ofBuild (c := cc) rfl rfl rfl rfl fun h => ?_
  have hv : cc.raw.viaq = false := viaq_none
  have hb : build cc = (if cc.raw.viaq then .error 3
    else .ok (.nsend cc.raw.guard cc.raw.s1.toNat (cc.raw.e1 == 1))) := rfl
  rw [hb, hv, if_neg (by decide)]
  refine congrArg Except.ok ?_
  congr 1
  · exact Raw.guard_eq rfl rfl
  · exact pb_toNat h
  · exact bit1_eq_one e
theorem RoundTrip.nput (g : Guard) (pb : Nat) (e : Bool) : Statement (.nput g pb e) := by
  let cc := (rawOf 0x1C9 g).encEng pb e none
  refine ofBuild (c := cc) rfl rfl rfl rfl fun h => ?_
  have hv : cc.raw.viaq = false := viaq_none
  have hb : build cc = (if cc.raw.viaq then .error 3
    else .ok (.nput cc.raw.guard cc.raw.s1.toNat (cc.raw.e1 == 1))) := rfl
  rw [hb, hv, if_neg (by decide)]
  refine congrArg Except.ok ?_
  congr 1
  · exact Raw.guard_eq rfl rfl
  · exact pb_toNat h
  · exact bit1_eq_one e
theorem RoundTrip.nget (g : Guard) (pb : Nat) (e : Bool) : Statement (.nget g pb e) := by
  let cc := (rawOf 0x1CA g).encEng pb e none
  refine ofBuild (c := cc) rfl rfl rfl rfl fun h => ?_
  have hv : cc.raw.viaq = false := viaq_none
  have hb : build cc = (if cc.raw.viaq then .error 3
    else .ok (.nget cc.raw.guard cc.raw.s1.toNat (cc.raw.e1 == 1))) := rfl
  rw [hb, hv, if_neg (by decide)]
  refine congrArg Except.ok ?_
  congr 1
  · exact Raw.guard_eq rfl rfl
  · exact pb_toNat h
  · exact bit1_eq_one e
theorem RoundTrip.natom (g : Guard) (pb : Nat) (e : Bool) : Statement (.natom g pb e) := by
  let cc := (rawOf 0x1CB g).encEng pb e none
  refine ofBuild (c := cc) rfl rfl rfl rfl fun h => ?_
  have hv : cc.raw.viaq = false := viaq_none
  have hb : build cc = (if cc.raw.viaq then .error 3
    else .ok (.natom cc.raw.guard cc.raw.s1.toNat (cc.raw.e1 == 1))) := rfl
  rw [hb, hv, if_neg (by decide)]
  refine congrArg Except.ok ?_
  congr 1
  · exact Raw.guard_eq rfl rfl
  · exact pb_toNat h
  · exact bit1_eq_one e
theorem RoundTrip.npost (g : Guard) (pb : Nat) (e : Bool) : Statement (.npost g pb e) := by
  let cc := (rawOf 0x1CC g).encEng pb e none
  refine ofBuild (c := cc) rfl rfl rfl rfl fun h => ?_
  have hv : cc.raw.viaq = false := viaq_none
  have hb : build cc = (if cc.raw.viaq then .error 3
    else .ok (.npost cc.raw.guard cc.raw.s1.toNat (cc.raw.e1 == 1))) := rfl
  rw [hb, hv, if_neg (by decide)]
  refine congrArg Except.ok ?_
  congr 1
  · exact Raw.guard_eq rfl rfl
  · exact pb_toNat h
  · exact bit1_eq_one e
theorem RoundTrip.nwait (g : Guard) (d : Operand) (a b : Src) : Statement (.nwait g d a b) := by
  let cc := (encA3 0x1CD g 0 d a b)
  refine ofBuild (c := cc) rfl rfl rfl rfl fun h =>
    (show build cc = buildA2 cc .nwait from rfl).trans ?_
  replace h : (d.isDest && a.inRange && b.inRange) = true := h
  simp only [Bool.and_eq_true] at h
  exact (buildA2_ok (c := cc) rfl (Operand.isDest_inRange _ h.1.1) rfl rfl h.1.2 rfl rfl h.2
    (by congr 1 <;> first | exact Raw.guard_eq rfl rfl | exact mod2_low _))
theorem RoundTrip.nctr (g : Guard) (d : Operand) (a : Src) : Statement (.nctr g d a) := by
  let cc := (encA2 0x1CE g 0 d a)
  refine ofBuild (c := cc) rfl rfl rfl rfl fun h =>
    (show build cc = buildA1 cc .nctr from rfl).trans ?_
  replace h : (d.isDest && a.inRange) = true := h
  simp only [Bool.and_eq_true] at h
  exact (buildA1_ok (c := cc) rfl (Operand.isDest_inRange _ h.1) rfl rfl h.2
    (by congr 1 <;> first | exact Raw.guard_eq rfl rfl | exact mod2_low _))
theorem RoundTrip.nset (g : Guard) (a b : Src) : Statement (.nset g a b) := by
  let cc := (((rawOf 0x1CF g).withS1 a).withS2 b).enc
  refine ofBuild (c := cc) rfl rfl rfl rfl fun h =>
    (show build cc = buildS2 cc .nset from rfl).trans ?_
  replace h : (a.inRange && b.inRange) = true := h
  simp only [Bool.and_eq_true] at h
  exact (buildS2_ok (c := cc) rfl rfl h.1 rfl rfl h.2
    (by congr 1 <;> first | exact Raw.guard_eq rfl rfl))
theorem RoundTrip.msend (g : Guard) (nb : Bool) (d : Operand) (a b : Src) : Statement (.msend g nb d a b) := by
  let cc := (encA3 0x1A0 g (modBit nb) d a b)
  refine ofBuild (c := cc) rfl rfl rfl rfl fun h =>
    (show build cc = buildA2 cc fun g => .msend g (cc.raw.mod.getLsbD 0) from rfl).trans ?_
  replace h : (d.isDest && a.isReg && b.inRange) = true := h
  simp only [Bool.and_eq_true] at h
  exact (buildA2_ok (c := cc) rfl (Operand.isDest_inRange _ h.1.1) rfl rfl (Operand.isReg_inRange _ h.1.2) rfl rfl h.2
    (by congr 1 <;> first | exact Raw.guard_eq rfl rfl | exact mod2_low _ | exact modBit_low _))
theorem RoundTrip.mrecv (g : Guard) (nb : Bool) (d : Operand) (a : Src) : Statement (.mrecv g nb d a) := by
  let cc := (encA2 0x1A1 g (modBit nb) d a)
  refine ofBuild (c := cc) rfl rfl rfl rfl fun h =>
    (show build cc = buildA1 cc fun g => .mrecv g (cc.raw.mod.getLsbD 0) from rfl).trans ?_
  replace h : (d.isReg && a.inRange) = true := h
  simp only [Bool.and_eq_true] at h
  exact (buildA1_ok (c := cc) rfl (Operand.isReg_inRange _ h.1) rfl rfl h.2
    (by congr 1 <;> first | exact Raw.guard_eq rfl rfl | exact mod2_low _ | exact modBit_low _))
theorem RoundTrip.mmiow (g : Guard) (a b : Src) : Statement (.mmiow g a b) := by
  let cc := (((rawOf 0x1A2 g).withS1 a).withS2 b).enc
  refine ofBuild (c := cc) rfl rfl rfl rfl fun h =>
    (show build cc = buildS2 cc .mmiow from rfl).trans ?_
  replace h : (a.inRange && b.inRange) = true := h
  simp only [Bool.and_eq_true] at h
  exact (buildS2_ok (c := cc) rfl rfl h.1 rfl rfl h.2
    (by congr 1 <;> first | exact Raw.guard_eq rfl rfl))
theorem RoundTrip.mmior (g : Guard) (d : Operand) (a : Src) : Statement (.mmior g d a) := by
  let cc := (encA2 0x1A3 g 0 d a)
  refine ofBuild (c := cc) rfl rfl rfl rfl fun h =>
    (show build cc = buildA1 cc .mmior from rfl).trans ?_
  replace h : (d.isProducerDest true && a.inRange) = true := h
  simp only [Bool.and_eq_true] at h
  exact (buildA1_ok (c := cc) rfl (Operand.isProducerDest_inRange _ _ h.1) rfl rfl h.2
    (by congr 1 <;> first | exact Raw.guard_eq rfl rfl | exact mod2_low _))
theorem RoundTrip.unassignedOpcode (op : BitVec 10) (cause : BitVec 3) : Statement (.unassignedOpcode op cause) := noWord rfl rfl
theorem RoundTrip.la2UntranslatableForm (word : DWord) : Statement (.la2UntranslatableForm word) := noWord rfl rfl
theorem RoundTrip.tAdd (d a b : BitVec 4) : Statement (.tAdd d a b) := ofTBuild rfl rfl (by simp [tBuild, tRaw3])
theorem RoundTrip.tSub (d a b : BitVec 4) : Statement (.tSub d a b) := ofTBuild rfl rfl (by simp [tBuild, tRaw3])
theorem RoundTrip.tAnd (d a b : BitVec 4) : Statement (.tAnd d a b) := ofTBuild rfl rfl (by simp [tBuild, tRaw3])
theorem RoundTrip.tOr (d a b : BitVec 4) : Statement (.tOr d a b) := ofTBuild rfl rfl (by simp [tBuild, tRaw3])
theorem RoundTrip.tXor (d a b : BitVec 4) : Statement (.tXor d a b) := ofTBuild rfl rfl (by simp [tBuild, tRaw3])
theorem RoundTrip.tShl (d a b : BitVec 4) : Statement (.tShl d a b) := ofTBuild rfl rfl (by simp [tBuild, tRaw3])
theorem RoundTrip.tShr (d a b : BitVec 4) : Statement (.tShr d a b) := ofTBuild rfl rfl (by simp [tBuild, tRaw3])
theorem RoundTrip.tMin (d a b : BitVec 4) : Statement (.tMin d a b) := ofTBuild rfl rfl (by simp [tBuild, tRaw3])
theorem RoundTrip.tMax (d a b : BitVec 4) : Statement (.tMax d a b) := ofTBuild rfl rfl (by simp [tBuild, tRaw3])
theorem RoundTrip.tMul (d a b : BitVec 4) : Statement (.tMul d a b) := ofTBuild rfl rfl (by simp [tBuild, tRaw3])
theorem RoundTrip.tSlt (d a b : BitVec 4) : Statement (.tSlt d a b) := ofTBuild rfl rfl (by simp [tBuild, tRaw3])
theorem RoundTrip.tAddi (d a : BitVec 4) (i : BitVec 14) : Statement (.tAddi d a i) := ofTBuild rfl rfl (by simp [tBuild, tRawI])
theorem RoundTrip.tAndi (d a : BitVec 4) (i : BitVec 14) : Statement (.tAndi d a i) := ofTBuild rfl rfl (by simp [tBuild, tRawI])
theorem RoundTrip.tShri (d a : BitVec 4) (i : BitVec 14) : Statement (.tShri d a i) := ofTBuild rfl rfl (by simp [tBuild, tRawI])
theorem RoundTrip.tMovi (d : BitVec 4) (i : BitVec 22) : Statement (.tMovi d i) := ofTBuild rfl rfl (by simp [tBuild, movi_parts])
theorem RoundTrip.tMovhi (d : BitVec 4) (i : BitVec 16) : Statement (.tMovhi d i) := ofTBuild rfl rfl (by simp [tBuild, movhi_parts])
theorem RoundTrip.tBeq (a b : BitVec 4) (i : BitVec 14) : Statement (.tBeq a b i) := ofTBuild rfl rfl (by simp [tBuild, tRawB])
theorem RoundTrip.tBne (a b : BitVec 4) (i : BitVec 14) : Statement (.tBne a b i) := ofTBuild rfl rfl (by simp [tBuild, tRawB])
theorem RoundTrip.tBlt (a b : BitVec 4) (i : BitVec 14) : Statement (.tBlt a b i) := ofTBuild rfl rfl (by simp [tBuild, tRawB])
theorem RoundTrip.tBge (a b : BitVec 4) (i : BitVec 14) : Statement (.tBge a b i) := ofTBuild rfl rfl (by simp [tBuild, tRawB])
theorem RoundTrip.tBr (i : BitVec 14) : Statement (.tBr i) := ofTBuild rfl rfl (by simp [tBuild, tRawB])
theorem RoundTrip.vget (d : BitVec 4) (sel : BitVec 10) : Statement (.vget d sel) := ofTBuild rfl rfl (by simp [tBuild, tRawI, imm14_top, imm14_bit, imm14_low])
theorem RoundTrip.vgetIndexed (d a : BitVec 4) (sel : BitVec 10) : Statement (.vgetIndexed d a sel) := ofTBuild rfl rfl (by simp [tBuild, tRawI, imm14_top1, imm14_bit1, imm14_low])
theorem RoundTrip.cget (d a : BitVec 4) (field : BitVec 3) : Statement (.cget d a field) := ofTBuild rfl rfl (by simp [tBuild, tRawI, imm14_high, imm14_field])
theorem RoundTrip.each (d : BitVec 4) (i : BitVec 14) : Statement (.each d i) := ofTBuild rfl rfl (by simp [tBuild, tRawI])
theorem RoundTrip.next (d : BitVec 4) (i : BitVec 14) : Statement (.next d i) := ofTBuild rfl rfl (by simp [tBuild, tRawI])
theorem RoundTrip.emitDisp (a : BitVec 4) : Statement (.emitDisp a) := ofTBuild rfl rfl (by simp [tBuild, tRawI])
theorem RoundTrip.emitDefer : Statement .emitDefer := ofTBuild rfl rfl (by simp [tBuild, tRawI])
theorem RoundTrip.emitPreempt (a : BitVec 4) : Statement (.emitPreempt a) := ofTBuild rfl rfl (by simp [tBuild, tRawI])
theorem RoundTrip.emitNone : Statement .emitNone := ofTBuild rfl rfl (by simp [tBuild, tRawI])
theorem RoundTrip.emitKill : Statement .emitKill := ofTBuild rfl rfl (by simp [tBuild, tRawI])
theorem RoundTrip.emitPark : Statement .emitPark := ofTBuild rfl rfl (by simp [tBuild, tRawI])
theorem RoundTrip.emitRetry : Statement .emitRetry := ofTBuild rfl rfl (by simp [tBuild, tRawI])
theorem RoundTrip.emitFallback : Statement .emitFallback := ofTBuild rfl rfl (by simp [tBuild, tRawI])
theorem RoundTrip.producerComplete (id : Nat) (remote : List Byte) : Statement (.producerComplete id remote) := noWord rfl rfl
theorem RoundTrip.blockedReady (core turn lane : Nat) : Statement (.blockedReady core turn lane) := noWord rfl rfl
theorem RoundTrip.exceptionRecordPost (core : Nat) : Statement (.exceptionRecordPost core) := noWord rfl rfl
theorem RoundTrip.rotationBegin (core turn : Nat) : Statement (.rotationBegin core turn) := noWord rfl rfl
theorem RoundTrip.rotationEnd (core turn : Nat) : Statement (.rotationEnd core turn) := noWord rfl rfl
theorem RoundTrip.reconvergenceRelease (core turn : Nat) : Statement (.reconvergenceRelease core turn) := noWord rfl rfl
theorem RoundTrip.coreClockGate (core : Nat) : Statement (.coreClockGate core) := noWord rfl rfl
theorem RoundTrip.icacheLineFill (core : Nat) (line : DWord) : Statement (.icacheLineFill core line) := noWord rfl rfl
theorem RoundTrip.walkerFetchArrive (core turn w : Nat) : Statement (.walkerFetchArrive core turn w) := noWord rfl rfl
theorem RoundTrip.latheCommandAccept (core : Nat) : Statement (.latheCommandAccept core) := noWord rfl rfl
theorem RoundTrip.latheStep (core : Nat) (err : LatheErr) : Statement (.latheStep core err) := noWord rfl rfl
theorem RoundTrip.latheCommandComplete (core : Nat) : Statement (.latheCommandComplete core) := noWord rfl rfl
theorem RoundTrip.astWriteComplete (core id : Nat) : Statement (.astWriteComplete core id) := noWord rfl rfl
theorem RoundTrip.copyIssueUnitServe (core : Nat) : Statement (.copyIssueUnitServe core) := noWord rfl rfl
theorem RoundTrip.copyQueueSlotTake (cl q : Nat) : Statement (.copyQueueSlotTake cl q) := noWord rfl rfl
theorem RoundTrip.copyPacketCopy (id : Nat) : Statement (.copyPacketCopy id) := noWord rfl rfl
theorem RoundTrip.copyPacketFill (id : Nat) : Statement (.copyPacketFill id) := noWord rfl rfl
theorem RoundTrip.copyPacketWarm (id : Nat) : Statement (.copyPacketWarm id) := noWord rfl rfl
theorem RoundTrip.copyPacketComplete (id : Nat) : Statement (.copyPacketComplete id) := noWord rfl rfl
theorem RoundTrip.depotSlotFull (cl slot : Nat) : Statement (.depotSlotFull cl slot) := noWord rfl rfl
theorem RoundTrip.depotSlotLost (cl slot : Nat) : Statement (.depotSlotLost cl slot) := noWord rfl rfl
theorem RoundTrip.mcdrainWritesDone (cl id : Nat) : Statement (.mcdrainWritesDone cl id) := noWord rfl rfl
theorem RoundTrip.depotSlotRelease (cl slot : Nat) : Statement (.depotSlotRelease cl slot) := noWord rfl rfl
theorem RoundTrip.trapRecordPost (core : Nat) : Statement (.trapRecordPost core) := noWord rfl rfl
theorem RoundTrip.trapRecordStash (core : Nat) : Statement (.trapRecordStash core) := noWord rfl rfl
theorem RoundTrip.psaveDone (id : Nat) : Statement (.psaveDone id) := noWord rfl rfl
theorem RoundTrip.prestDone (id : Nat) : Statement (.prestDone id) := noWord rfl rfl
theorem RoundTrip.eventPost (cl source : Nat) : Statement (.eventPost cl source) := noWord rfl rfl
theorem RoundTrip.eventDropCountPost (cl source : Nat) : Statement (.eventDropCountPost cl source) := noWord rfl rfl
theorem RoundTrip.taskRecordTake (cl : Nat) : Statement (.taskRecordTake cl) := noWord rfl rfl
theorem RoundTrip.summaryUpdate (cl tile : Nat) : Statement (.summaryUpdate cl tile) := noWord rfl rfl
theorem RoundTrip.spawnRecordWrite (core : Nat) : Statement (.spawnRecordWrite core) := noWord rfl rfl
theorem RoundTrip.preemptTick (cl : Nat) : Statement (.preemptTick cl) := noWord rfl rfl
theorem RoundTrip.decisionRetake (cl : Nat) : Statement (.decisionRetake cl) := noWord rfl rfl
theorem RoundTrip.tariffDecisionBegin (cl : Nat) : Statement (.tariffDecisionBegin cl) := noWord rfl rfl
theorem RoundTrip.tariffOverrun (cl : Nat) : Statement (.tariffOverrun cl) := noWord rfl rfl
theorem RoundTrip.tariffSwapRequest (cl : Nat) : Statement (.tariffSwapRequest cl) := noWord rfl rfl
theorem RoundTrip.tariffSwap (cl : Nat) : Statement (.tariffSwap cl) := noWord rfl rfl
theorem RoundTrip.clusterPartitionAssign (cl : Nat) (part : BitVec 4) : Statement (.clusterPartitionAssign cl part) := noWord rfl rfl
theorem RoundTrip.storePerform (id : Nat) (stage : StoreStage) : Statement (.storePerform id stage) := noWord rfl rfl
theorem RoundTrip.storeAcknowledge (id : Nat) : Statement (.storeAcknowledge id) := noWord rfl rfl
theorem RoundTrip.cacheLineFill (cl line : Nat) : Statement (.cacheLineFill cl line) := noWord rfl rfl
theorem RoundTrip.lineLeaseExpire (cl line : Nat) : Statement (.lineLeaseExpire cl line) := noWord rfl rfl
theorem RoundTrip.whAgeing (core turn lane : Nat) : Statement (.whAgeing core turn lane) := noWord rfl rfl
theorem RoundTrip.barrierRelease (key : Nat) : Statement (.barrierRelease key) := noWord rfl rfl
theorem RoundTrip.translationWalk (cl idx page : Nat) : Statement (.translationWalk cl idx page) := noWord rfl rfl
theorem RoundTrip.zbusyWaitTimeout (cl idx page : Nat) : Statement (.zbusyWaitTimeout cl idx page) := noWord rfl rfl
theorem RoundTrip.tbinvWrite (cl : Nat) (v : DWord) : Statement (.tbinvWrite cl v) := noWord rfl rfl
theorem RoundTrip.hmigStart : Statement .hmigStart := noWord rfl rfl
theorem RoundTrip.hashWindowEnd : Statement .hashWindowEnd := noWord rfl rfl
theorem RoundTrip.migrationUnitMove (group : Nat) : Statement (.migrationUnitMove group) := noWord rfl rfl
theorem RoundTrip.bankBlockEnd (bank : Nat) : Statement (.bankBlockEnd bank) := noWord rfl rfl
theorem RoundTrip.rowIdleClose (bank : Nat) : Statement (.rowIdleClose bank) := noWord rfl rfl
theorem RoundTrip.periodicRowRefresh (bank row : Nat) : Statement (.periodicRowRefresh bank row) := noWord rfl rfl
theorem RoundTrip.throttleEnd (core : Nat) : Statement (.throttleEnd core) := noWord rfl rfl
theorem RoundTrip.remapTableError (stack : Nat) : Statement (.remapTableError stack) := noWord rfl rfl
theorem RoundTrip.remapReloadDone (stack : Nat) : Statement (.remapReloadDone stack) := noWord rfl rfl
theorem RoundTrip.remapHoldTimeout (stack id : Nat) : Statement (.remapHoldTimeout stack id) := noWord rfl rfl
theorem RoundTrip.remapStackTimeout (stack : Nat) : Statement (.remapStackTimeout stack) := noWord rfl rfl
theorem RoundTrip.waysideIssueSend (core : Nat) : Statement (.waysideIssueSend core) := noWord rfl rfl
theorem RoundTrip.waysideAccept (stack : Nat) : Statement (.waysideAccept stack) := noWord rfl rfl
theorem RoundTrip.wnop (stack : Nat) : Statement (.wnop stack) := noWord rfl rfl
theorem RoundTrip.vload (stack : Nat) : Statement (.vload stack) := noWord rfl rfl
theorem RoundTrip.vfill (stack : Nat) : Statement (.vfill stack) := noWord rfl rfl
theorem RoundTrip.vscale (stack : Nat) : Statement (.vscale stack) := noWord rfl rfl
theorem RoundTrip.rzero (stack : Nat) : Statement (.rzero stack) := noWord rfl rfl
theorem RoundTrip.gemv (stack : Nat) : Statement (.gemv stack) := noWord rfl rfl
theorem RoundTrip.rscale (stack : Nat) : Statement (.rscale stack) := noWord rfl rfl
theorem RoundTrip.rbias (stack : Nat) : Statement (.rbias stack) := noWord rfl rfl
theorem RoundTrip.radd (stack : Nat) : Statement (.radd stack) := noWord rfl rfl
theorem RoundTrip.rclamp (stack : Nat) : Statement (.rclamp stack) := noWord rfl rfl
theorem RoundTrip.rtovec (stack : Nat) : Statement (.rtovec stack) := noWord rfl rfl
theorem RoundTrip.rstore (stack : Nat) : Statement (.rstore stack) := noWord rfl rfl
theorem RoundTrip.wcount (stack : Nat) : Statement (.wcount stack) := noWord rfl rfl
theorem RoundTrip.waysideCommandComplete (stack : Nat) : Statement (.waysideCommandComplete stack) := noWord rfl rfl
theorem RoundTrip.wctxWrite (stack : Nat) (v : DWord) : Statement (.wctxWrite stack v) := noWord rfl rfl
theorem RoundTrip.extreq (self peer : Nat) (xid : BitVec 16) (handle : Word) (off : DWord) (len : Word) : Statement (.extreq self peer xid handle off len) := noWord rfl rfl
theorem RoundTrip.extrep (self peer : Nat) (xid : BitVec 16) (handle : Word) (off : DWord) (len : Word) : Statement (.extrep self peer xid handle off len) := noWord rfl rfl
theorem RoundTrip.extinv (self peer : Nat) (xid : BitVec 16) (handle : Word) : Statement (.extinv self peer xid handle) := noWord rfl rfl
theorem RoundTrip.extack (self peer : Nat) (xid : BitVec 16) (handle : Word) : Statement (.extack self peer xid handle) := noWord rfl rfl
theorem RoundTrip.fwd (self peer : Nat) (xid : BitVec 16) (call : MsgWords) : Statement (.fwd self peer xid call) := noWord rfl rfl
theorem RoundTrip.fwdrep (self peer : Nat) (xid : BitVec 16) (res0 res1 : Word) : Statement (.fwdrep self peer xid res0 res1) := noWord rfl rfl
theorem RoundTrip.upd (bucket owner : Nat) : Statement (.upd bucket owner) := noWord rfl rfl
theorem RoundTrip.updack (shard : Nat) : Statement (.updack shard) := noWord rfl rfl
theorem RoundTrip.migrate (self peer : Nat) (obj : DWord) : Statement (.migrate self peer obj) := noWord rfl rfl
theorem RoundTrip.svcOpen (cl slot group : Nat) : Statement (.svcOpen cl slot group) := noWord rfl rfl
theorem RoundTrip.svcClose (cl slot group : Nat) : Statement (.svcClose cl slot group) := noWord rfl rfl
theorem RoundTrip.svcRead (cl slot group : Nat) : Statement (.svcRead cl slot group) := noWord rfl rfl
theorem RoundTrip.svcWrite (cl slot group : Nat) : Statement (.svcWrite cl slot group) := noWord rfl rfl
theorem RoundTrip.svcPmap (cl slot group : Nat) : Statement (.svcPmap cl slot group) := noWord rfl rfl
theorem RoundTrip.svcPunmap (cl slot group : Nat) : Statement (.svcPunmap cl slot group) := noWord rfl rfl
theorem RoundTrip.driveInboundWrite (port : Nat) (addr : DWord) (data : List Byte) : Statement (.driveInboundWrite port addr data) := noWord rfl rfl
theorem RoundTrip.msixMessage (port : Nat) (data : Word) : Statement (.msixMessage port data) := noWord rfl rfl
theorem RoundTrip.unsupportedRequest (port : Nat) (addr : DWord) : Statement (.unsupportedRequest port addr) := noWord rfl rfl
theorem RoundTrip.coldReset : Statement .coldReset := noWord rfl rfl
theorem RoundTrip.srunStart (mask : BitVec 16) : Statement (.srunStart mask) := noWord rfl rfl
theorem RoundTrip.rstctlWarm (retain : Bool) : Statement (.rstctlWarm retain) := noWord rfl rfl
theorem RoundTrip.warmResetQuiesced : Statement .warmResetQuiesced := noWord rfl rfl
theorem RoundTrip.warmResetRetrained (failed : BitVec 8) : Statement (.warmResetRetrained failed) := noWord rfl rfl
theorem RoundTrip.warmResetChecked : Statement .warmResetChecked := noWord rfl rfl
theorem RoundTrip.selfTestHbmRow (cl : Nat) (target : BitVec 40) (pass : Bool) : Statement (.selfTestHbmRow cl target pass) := noWord rfl rfl
theorem RoundTrip.selfTestCore (cl : Nat) (target : BitVec 40) (pass : Bool) : Statement (.selfTestCore cl target pass) := noWord rfl rfl
theorem RoundTrip.selfTestAmemBank (cl : Nat) (target : BitVec 40) (pass : Bool) : Statement (.selfTestAmemBank cl target pass) := noWord rfl rfl
theorem RoundTrip.selfTestCacheSet (cl : Nat) (target : BitVec 40) (pass : Bool) : Statement (.selfTestCacheSet cl target pass) := noWord rfl rfl
theorem RoundTrip.selfTestFabricLane (cl : Nat) (target : BitVec 40) (pass : Bool) : Statement (.selfTestFabricLane cl target pass) := noWord rfl rfl
theorem RoundTrip.selfTestSeraiSram (cl : Nat) (target : BitVec 40) (pass : Bool) : Statement (.selfTestSeraiSram cl target pass) := noWord rfl rfl
theorem RoundTrip.selfTestDone : Statement .selfTestDone := noWord rfl rfl
theorem RoundTrip.repairCoreToSpare (core : Nat) : Statement (.repairCoreToSpare core) := noWord rfl rfl
theorem RoundTrip.repairStackToService (stack : Nat) (ok : Bool) : Statement (.repairStackToService stack ok) := noWord rfl rfl
theorem RoundTrip.attestQuote (cl : Nat) (off : BitVec 20) : Statement (.attestQuote cl off) := noWord rfl rfl
theorem RoundTrip.attestExtend (cl : Nat) (off : BitVec 20) : Statement (.attestExtend cl off) := noWord rfl rfl
theorem RoundTrip.attestPubkey (cl : Nat) (off : BitVec 20) : Statement (.attestPubkey cl off) := noWord rfl rfl
theorem RoundTrip.shardRestart (shard : Nat) : Statement (.shardRestart shard) := noWord rfl rfl
theorem RoundTrip.clusterRepair (cl : Nat) : Statement (.clusterRepair cl) := noWord rfl rfl
theorem RoundTrip.clockSyncExchange (t1 t2 t3 t4 : Lease) : Statement (.clockSyncExchange t1 t2 t3 t4) := noWord rfl rfl
theorem RoundTrip.syncLossTimeout : Statement .syncLossTimeout := noWord rfl rfl
theorem RoundTrip.fabricRequestTimeout (id : Nat) : Statement (.fabricRequestTimeout id) := noWord rfl rfl
theorem RoundTrip.inboundRead (port : Nat) (src : BitVec 10) (addr : DWord) (len : Nat) : Statement (.inboundRead port src addr len) := noWord rfl rfl
theorem RoundTrip.inboundWrite (port : Nat) (src : BitVec 10) (addr : DWord) (data : List Byte) : Statement (.inboundWrite port src addr data) := noWord rfl rfl
theorem RoundTrip.inboundAtomic (port : Nat) (src : BitVec 10) (addr : DWord) (op : BitVec 4) (w64 : Bool) (o1 o2 : DWord) : Statement (.inboundAtomic port src addr op w64 o1 o2) := noWord rfl rfl
theorem RoundTrip.recallTimeout (id : Nat) : Statement (.recallTimeout id) := noWord rfl rfl
theorem RoundTrip.portWidthChange (port : Nat) (width : BitVec 2) : Statement (.portWidthChange port width) := noWord rfl rfl
theorem RoundTrip.ethernetPortChange (port : Nat) (up : Bool) : Statement (.ethernetPortChange port up) := noWord rfl rfl
theorem RoundTrip.netIssueUnitServe (core : Nat) : Statement (.netIssueUnitServe core) := noWord rfl rfl
theorem RoundTrip.netWrTake (cl q : Nat) : Statement (.netWrTake cl q) := noWord rfl rfl
theorem RoundTrip.netGateOpen (cl q : Nat) : Statement (.netGateOpen cl q) := noWord rfl rfl
theorem RoundTrip.netSend (id : Nat) : Statement (.netSend id) := noWord rfl rfl
theorem RoundTrip.netPut (id : Nat) : Statement (.netPut id) := noWord rfl rfl
theorem RoundTrip.netGet (id : Nat) : Statement (.netGet id) := noWord rfl rfl
theorem RoundTrip.netAtomic (id : Nat) : Statement (.netAtomic id) := noWord rfl rfl
theorem RoundTrip.netPostReceive (cl q : Nat) : Statement (.netPostReceive cl q) := noWord rfl rfl
theorem RoundTrip.netPacketArrive (p : NetPacket) : Statement (.netPacketArrive p) := noWord rfl rfl
theorem RoundTrip.netAckArrive (a : NetAck) : Statement (.netAckArrive a) := noWord rfl rfl
theorem RoundTrip.netRetransmitTimeout (peer : Nat) (psn : Word) : Statement (.netRetransmitTimeout peer psn) := noWord rfl rfl
theorem RoundTrip.netTargetComplete (id : Nat) : Statement (.netTargetComplete id) := noWord rfl rfl
theorem RoundTrip.netInitiatorComplete (id : Nat) : Statement (.netInitiatorComplete id) := noWord rfl rfl
theorem RoundTrip.peerTableWrite (entry : Nat) (word : BitVec 2) (v : DWord) : Statement (.peerTableWrite entry word v) := noWord rfl rfl
theorem RoundTrip.regActivate (cl r : Nat) : Statement (.regActivate cl r) := noWord rfl rfl
theorem RoundTrip.regRevoke (cl r : Nat) : Statement (.regRevoke cl r) := noWord rfl rfl
theorem RoundTrip.revocationComplete (cl r : Nat) : Statement (.revocationComplete cl r) := noWord rfl rfl
theorem RoundTrip.registerWrite (cl : Nat) (num : BitVec 24) (v : DWord) : Statement (.registerWrite cl num v) := noWord rfl rfl
theorem RoundTrip.driveInboundRead (port : Nat) (addr : DWord) (len : Nat) : Statement (.driveInboundRead port addr len) := noWord rfl rfl
theorem RoundTrip.leaseRecall (port line : Nat) : Statement (.leaseRecall port line) := noWord rfl rfl
theorem RoundTrip.clockSyncRequest (follower : BitVec 10) (t1 : Lease) : Statement (.clockSyncRequest follower t1) := noWord rfl rfl
end Sys2Proof.Laws
end

