-- ==== Sys2Proof/Tests/Slice0.lean ====
section
/-! SUPPORT. The model's own tests: ill-formed terms that WellFormed refuses, words written out from the encodings of the spec,
single instructions on small states, and a witness for every hypothesis of the statements. -/

namespace Sys2Proof.Tests
open Sys2Proof.Machine
-- one proof after the other: side by side they need more memory than the check has
set_option Elab.async false

/-- the guard of an unconditional instruction -/
def gd : Guard := { pred := 0, neg := false }
def rg (n : Nat) : Src := { o := .reg n, e := false }
def ic (k : Nat) : Src := { o := .intc (k + 64), e := false }
def s32 : IntTy := { wid := 0, uns := false, sat := false }
def mslot (slot : BitVec 6) (idx : Src) (d : BitVec 12) : MemOp := { mode := .slot, slot, idx, disp := .short d }
def msp (idx : Src) (d : BitVec 12) : MemOp := { mode := .sp, slot := 0, idx, disp := .short d }
def mpw (slot : BitVec 6) (idx : Src) (d : BitVec 12) : MemOp := { mode := .pw, slot, idx, disp := .short d }

/-! ## WellFormed -/

/-- every term of the list is refused -/
def refused (is : List Instr) : Bool := is.all fun i => !i.wf
def accepted (is : List Instr) : Bool := is.all fun i => i.wf

/-- R62: operand numbers outside their part of the name space, at the first number outside. -/
theorem test_wf_operands : refused
    [.add gd s32 (.reg 640) (rg 0) (rg 0), .add gd s32 (.reg 0) (rg 640) (rg 0), .add gd s32 (.reg 0) (rg 0) { o := .walker 8, e := false },
     .mov gd false (.port 32) (rg 0), .mov gd false (.reg 0) { o := .special 13, e := false }, .mov gd false (.reg 0) { o := .intc 192, e := false },
     .mov gd false (.reg 0) { o := .fltc 64, e := false }, .bre gd 0 false 8 (.short 0), .qpop gd 0 (.reg 0) 32 false, .lmma gd 640 false] = true := by
  decide
/-- R62: constants and special values other than `%zero` are no destination; R20: a producer's D is a register, or `%zero` for one word. -/
theorem test_wf_destinations : refused
    [.mov gd false (.intc 64) (rg 0), .mov gd false (.special 0) (rg 0), .mov gd false (.fltc 0) (rg 0),
     .ld gd 4 (.port 0) (mslot 0 (rg 0) 0), .ld gd 5 (.special 12) (mslot 0 (rg 0) 0), .trap gd (.special 12) (rg 0), .qpop gd 1 (.special 12) 0 false,
     .mget gd (.special 12) (rg 0)] = true := by
  decide
/-- R112: the integer types an instruction accepts. -/
theorem test_wf_integer_types : refused
    [.mulhi gd { s32 with sat := true } (.reg 0) (rg 0) (rg 0), .div gd { s32 with wid := 2 } (.reg 0) (rg 0) (rg 0),
     .rem gd { s32 with sat := true } (.reg 0) (rg 0) (rg 0), .neg gd { s32 with uns := true } (.reg 0) (rg 0),
     .min gd { s32 with sat := true } (.reg 0) (rg 0) (rg 0), .shr gd { s32 with sat := true } (.reg 0) (rg 0) (rg 0),
     .bext gd { s32 with wid := 3 } (.reg 0) (rg 0) (rg 0), .cmp gd s32 6 1 (rg 0) (rg 0), .cmpImm gd { s32 with wid := 2 } 0 1 (rg 0) (.short 0)] = true := by
  decide
/-- R60, R142, R145 to R165: formats, modifiers and groups of the floating instructions. -/
theorem test_wf_floating : refused
    [.fadd gd 3 (.reg 0) (rg 0) (rg 0) none, .fadd gd 0 (.reg 0) (rg 0) (rg 0) (some { round := .sr, ftz := false, inf := false }),
     .fsqrt gd (.reg 0) (rg 0) (some { round := .rne, ftz := false, inf := true }), .fcmp gd 0 1 (rg 0) (rg 0) (some { round := .rup, ftz := false, inf := false }),
     .frsq gd 0 (.reg 0) (rg 0) (some { round := .rne, ftz := false, inf := true }), .fdot2 gd 0 (.reg 0) (rg 0) (rg 0) (rg 0) none,
     .cvt gd 3 3 (.reg 0) (rg 0) none, .cvt gd 9 0 (.reg 0) (rg 0) none, .cvt gd 1 0 (.reg 0) (ic 1) none, .cvtn gd 0 (.reg 0) (ic 1) (rg 0) none,
     .cvtw gd 0 (.port 0) (rg 0) (rg 0) none, .wfu gd (.reg 0) (ic 1) (rg 0) none, .wfm gd (.reg 0) (rg 0) (.mk (.intc 64) false) none] = true := by
  decide
/-- R58, R59, R206, R386, R389, R394: the fields of memory operands, sizes, operations and scopes. -/
theorem test_wf_memory : refused
    [.ld gd 7 (.reg 0) (mslot 0 (rg 0) 0), .ld gd 4 (.reg 0) (msp (rg 0) 0), .lds gd 4 (.reg 0) (mslot 0 (rg 0) 0),
     .lds gd 4 (.reg 0) { msp (rg 0) 0 with slot := 1 }, .lds gd 4 (.reg 0) (mpw 8 (rg 0) 0), .lds gd 6 (.special 12) (msp (rg 0) 0),
     .sts gd 6 (ic 1) (msp (rg 0) 0), .atom gd 10 false (rg 0) (mslot 0 (rg 0) 0), .fence gd 5, .ss gd 0, .ldtag gd (.reg 0) (mpw 0 (rg 0) 0)] = true := by
  decide
/-- R124, R128, R136, R192, R194, R196, R352: the other fields with values that are not assigned. -/
theorem test_wf_fields : refused
    [.plog gd 5 1 0 0, .bre gd 3 false 0 (.short 0), .rep gd 0 0 0, .rep gd 65 0 0, .vote gd 3 1 0, .red gd 13 (.reg 0) (rg 0) none,
     .red gd 0 (.reg 0) (rg 0) (some { round := .rne, ftz := false, inf := false }), .wbind gd 0 (ic 1), .tShri 0 0 32] = true := by
  decide
/-- The same fields at the last value that is assigned. -/
theorem test_wf_accepts : accepted
    [.add gd s32 (.reg 639) (rg 639) { o := .walker 7, e := false }, .mov gd false (.port 31) { o := .special 12, e := false }, .mov gd false (.special 12) { o := .intc 191, e := false },
     .mov gd false (.reg 0) { o := .fltc 63, e := true }, .bre gd 2 true 7 (.short 0), .rep gd 64 15 3, .plog gd 4 7 7 7, .vote gd 2 1 0,
     .red gd 12 (.reg 0) (rg 0) none, .lds gd 6 (.reg 0) (mpw 7 (rg 0) 0), .atom gd 9 true (rg 0) (mslot 63 (rg 0) 0), .fence gd 4, .ss gd 3, .tShri 0 0 31,
     .mulhi gd { wid := 3, uns := true, sat := false } (.reg 0) (rg 0) (rg 0), .cvtn gd 2 (.reg 0) (rg 0) (rg 0) (some { round := .sr, ftz := true, inf := true })] = true := by
  decide

/-! ## Words written out from the spec's encodings -/

/-- the word decodes to the instruction -/
def reads (w : DWord) (i : Instr) : Bool :=
  match decodeWord w 0 with
  | .ok j => j == i
  | .error _ => false
def tReads (w : Word) (i : Instr) : Bool :=
  match tDecode w with
  | .ok j => j == i
  | .error _ => false

/-- R112, R122, R124, R126, R64: integer, predicate and control words, from the worked examples of chapters 2, 4 and 6. -/
theorem test_word_integer :
    reads 0x000000D040002001 (.add gd s32 (.reg 8) (rg 0) { o := .intc 65, e := false }) = true ∧
    reads 0x000000FA00002031 (.addImm gd s32 (.reg 8) (rg 0) (.short 1000)) = true ∧
    reads 0x0000006100000069 (.rep gd 4 3 0) = true ∧ reads 0x0000024400000069 (.rep gd 16 2 1) = true ∧
    reads 0x000000002800401C (.mov gd false (.reg 16) { o := .walker 0, e := false }) = true ∧
    reads 0x000000002890C01C (.mov gd false (.reg 48) { o := .port 1, e := false }) = true := by decide
/-- R51: the header of the example of chapter 2: LEN 6, LIVE 64, RECON 9, PFH 2, LAND. -/
theorem test_word_header :
    isHeader 0x0100200091001BFF = true ∧ (Header.ofWord 0x0100200091001BFF).ok = true ∧
    (Header.ofWord 0x0100200091001BFF).len = 6 ∧ (Header.ofWord 0x0100200091001BFF).live = 64 ∧ (Header.ofWord 0x0100200091001BFF).conv = false ∧
    (Header.ofWord 0x03000000010007FF).conv = true := by decide
/-- R145, R155, R190: floating and cross-lane words. -/
theorem test_word_float :
    reads 0x00000A0140402893 (.fma gd 0 false false (.reg 10) (rg 4) (rg 5) (rg 10) none) = true ∧
    reads 0x00000100020A24A8 (.cvt gd 1 0 (.port 1) (rg 32) none) = true ∧
    reads 0x1400000000901103 (.red gd 10 (.reg 4) (rg 9) none) = true := by decide
/-- R197, R226, R254, R292: storage, lathe, batch and copy words. -/
theorem test_word_engines :
    reads 0x0200000028B05131 (.qpop gd 1 (.reg 20) 3 false) = true ∧ reads 0x0000000001000160 (.lmma gd 16 false) = true ∧
    reads 0x0000000881000160 (.lmmaQueued gd 16 false 2) = true ∧ reads 0x000000000070A165 (.ald gd (.reg 40) (rg 7)) = true ∧
    reads 0x0200000000000170 (.seal gd .lathe) = true ∧ reads 0x0200000034000171 (.waitb gd .lathe (ic 0)) = true ∧
    reads 0x0000000002000180 (.cpy gd 32 false) = true ∧ reads 0x0000000942000180 (.cpyQueued gd 32 false 5) = true ∧
    reads 0x0000000002800181 (.cpymc gd 40 false) = true ∧ reads 0x0000000300B02982 (.mcdrain gd false (.reg 10) (rg 11) (rg 12)) = true ∧
    reads 0x0600000000B02982 (.mcdrop gd true (.reg 10) (rg 11)) = true ∧ reads 0x0000000000705183 (.mcinfo gd (.reg 20) (rg 7)) = true := by decide
/-- R305, R315, R340: trap, serai and task words. -/
theorem test_word_serai :
    reads 0x0000000001002990 (.trap gd (.reg 10) (rg 16)) = true ∧ reads 0x0000000140400994 (.resume gd (.reg 2) (rg 4) (rg 5)) = true ∧
    reads 0x0200060140400994 (.resumeB gd (.reg 2) (rg 4) (rg 5) (rg 6)) = true ∧ reads 0x0000000300800D97 (.psave gd (.reg 3) (rg 8) (rg 12)) = true ∧
    reads 0x00000000020009B0 (.spawn gd (.reg 2) (rg 32)) = true ∧ reads 0x0000000000800DB1 (.mset gd (.reg 3) (rg 8)) = true ∧
    reads 0x000000000070A1B2 (.mget gd (.reg 40) (rg 7)) = true ∧ reads 0x0000000140400DB3 (.mdrop gd (.reg 3) (rg 4) (rg 5)) = true ∧
    reads 0x0000000140400DB4 (.mfind gd (.reg 3) (rg 4) (rg 5)) = true := by decide
/-- R380, R427, R446: words of memory, ordering, the wayside, mail and MMIO. -/
theorem test_word_memory :
    reads 0x0800000080303140 (.ld gd 4 (.reg 12) (mslot 2 (rg 3) 0)) = true ∧
    reads 0x3800042000801542 (.stRel gd 4 3 (rg 5) { mode := .sa, slot := 0, idx := rg 8, disp := .short 16 }) = true ∧
    reads 0x0000000040405144 (.atom gd 0 false (rg 20) (mslot 1 (rg 4) 0)) = true ∧
    reads 0x2800000000201D40 (.ldAcq gd 4 (.reg 7) (mslot 0 (rg 2) 0)) = true ∧
    reads 0x0600000000000150 (.fence gd 3) = true ∧ reads 0x0200000000000151 (.bar gd 1) = true ∧ reads 0x0400000000000152 (.ss gd 2) = true ∧
    reads 0x00000000006015C1 (.winfo gd (.reg 5) (rg 6)) = true ∧ reads 0x00000001010009A0 (.msend gd false (.reg 2) (rg 16) (rg 4)) = true ∧
    reads 0x02000000005081A1 (.mrecv gd true (.reg 32) (rg 5)) = true ∧ reads 0x00000002808001A2 (.mmiow gd (rg 8) (rg 10)) = true ∧
    reads 0x00000000008031A3 (.mmior gd (.reg 12) (rg 8)) = true := by decide
/-- the tariff `cap` of chapter 14, in words -/
def cap : List Word :=
  [0x00000016, 0x0000004F, 0x00244012, 0x001C0098, 0x001808D7, 0x00104C11, 0x000808D7, 0x000B0C14, 0x0000081A, 0x00140099, 0x0004001A, 0x001C001A]
/-- R351, R352, R355: its words are the instructions of its listing, and R364 accepts it; a loop without its `next` is refused with 4. -/
theorem test_word_tariff :
    (cap.zip [.vget 0 0, .tMovi 1 0, .tBne 0 1 9, .each 2 7, .cget 3 2 6, .tBeq 3 1 4, .cget 3 2 2, .tBge 3 12 2, .emitDisp 2, .next 2 5,
      .emitDefer, .emitFallback]).map (fun p => tReads p.1 p.2) = List.replicate 12 true ∧
    loadCheck cap 0 cap = none ∧ loadCheck (cap.take 9) 0 (cap.take 9) = some (3, 2) := by decide
/-- R68: the opcodes that are never assigned, and a reserved LN. -/
theorem test_word_refused :
    decodeWord 0x0000000000000000 0 = .error 1 ∧ decodeWord 0x0000000000000380 0 = .error 2 ∧ decodeWord 0x00000000000003BF 0 = .error 2 ∧
    decodeWord 0x00000000000003FF 0 = .error 5 ∧ (∃ e, decodeWord 0x800000D040002001 0 = .error e) ∧ (∃ e, decodeWord 0xC00000D040002001 0 = .error e) :=
  ⟨rfl, rfl, rfl, rfl, ⟨_, rfl⟩, ⟨_, rfl⟩⟩

/-! ## Small states -/

/-- Lanes 0 and up of turn 0 of core `c`, each with the registers given, stand at offset 8 of a block and are to issue. -/
def wv (c : Nat) (ls : List (Sparse Word)) : State :=
  { State.reset with
    cur := { core := c, turn := 0, lanes := BitVec.ofNat 32 (2 ^ ls.length - 1), pc := 8, n := 7 }
    cores := [(c, { waves := [(0, { live := true, uid := 1, threads := (List.range ls.length).zip (ls.map fun r => { pc := 8, hdrW := 0x1FFF, status := .ready, regs := r }) })],
                    quotas := [(0, { base := 0, count := 20, valid := true })] })] }
/-- one lane of core 0 with the registers given; two lanes of core 0; the serai of cluster 0 -/
def w1 (r : Sparse Word) : State := wv 0 [r]
def w2 (a b : Sparse Word) : State := wv 0 [a, b]
def sr (r : Sparse Word) : State := wv 2048 [r]
/-- with an allocation of 64 KiB of the slice -/
def withSp (s : State) : State := s.setCr 0 (nSPALLOC 0) 0x1000000

/-- what `f` reads of the next state -/
def after {α : Type} (o : Host.Outcome State Fault Refusal) (f : State → α) : Option α :=
  match o with
  | .next t => some (f t)
  | _ => none
/-- register `r` of lane `l`, and SATF, after an instruction -/
def reg0 (l r : Nat) (t : State) : Nat := ((t.curThread l).reg r).toNat
def flags0 (t : State) : Nat := (t.wave t.cur.core t.cur.turn).satf.toNat

/-! ## Single instructions. Expected values by the rules named, worked out by hand or in the spec. -/

/-- R111, R113: 0xFFFFFFFF + 2 wraps to 1; saturating signed 2^31 - 1 + 1 stays and sets SAT (bit 5 by R36). -/
theorem test_add : after (exec (.add gd s32 (.reg 2) (rg 0) (rg 1)) (w1 [(0, 0xFFFFFFFF), (1, 2)])) (fun t => (reg0 0 2 t, flags0 t)) = some (1, 0) ∧
    after (exec (.add gd { s32 with sat := true } (.reg 2) (rg 0) (ic 1)) (w1 [(0, 0x7FFFFFFF)])) (reg0 0 2) = some 0x7FFFFFFF := by decide
/-- R109: packed bytes do not carry into each other; R23 and R22: a source that is also the destination is read first. -/
theorem test_sub_packed : after (exec (.sub gd { s32 with wid := 3 } (.reg 0) (rg 0) (rg 1)) (w1 [(0, 0x10000005), (1, 0x01010106)])) (reg0 0 0)
    = some 0x0FFFFFFF := by decide
/-- R109: a 64-bit pair: 2^32 * 3 in v2:v3. -/
theorem test_mul_pair : after (exec (.mul gd { s32 with wid := 1 } (.reg 2) (rg 0) (ic 3)) (w1 [(1, 1)])) (fun t => (reg0 0 2 t, reg0 0 3 t)) = some (0, 3) := by decide
/-- R117: shr of a negative number keeps its sign; R118: popc and clz. -/
theorem test_shift_count : after (exec (.shr gd s32 (.reg 2) (rg 0) (ic 4)) (w1 [(0, 0xFFFFFF80)])) (reg0 0 2) = some 0xFFFFFFF8 ∧
    after (exec (.popc gd s32 (.reg 2) (rg 0)) (w1 [(0, 0xF0)])) (reg0 0 2) = some 4 ∧
    after (exec (.clz gd s32 (.reg 2) (rg 0)) (w1 [(0, 0xF0)])) (reg0 0 2) = some 24 := by decide
/-- R119: a signed comparison; R124: k1 takes it and k0 does not change. -/
theorem test_cmp : after (exec (.cmp gd s32 2 1 (rg 0) (ic 1)) (w1 [(0, 0xFFFFFFFF)])) (fun t => (t.curThread 0).pred 1) = some true ∧
    after (exec (.cmp gd { s32 with uns := true } 2 1 (rg 0) (ic 1)) (w1 [(0, 0xFFFFFFFF)])) (fun t => (t.curThread 0).pred 1) = some false := by decide
/-- R14, R19: a lane whose predicate fails writes nothing and moves on. -/
theorem test_guard : after (exec (.mov { pred := 1, neg := false } false (.reg 2) (ic 9)) (w1 [(2, 5)])) (fun t => (reg0 0 2 t, (t.curThread 0).pc)) = some (5, 16) := by decide
/-- R159: `fscl` of 3.0 with #0x44 gives 0x7944 (the example of chapter 5). -/
theorem test_fscl : after (exec (.fscl gd (.reg 6) (rg 7) { o := .intc (0x44 + 64), e := false }) (w1 [(7, 0x40400000)])) (reg0 0 6) = some 0x7944 := by decide
/-- R157: `cvtn v20, v8, v6` of 3.0, -0.5, 0.3, 0.0 gives 0x0062E87C; R158: `cvtw` widens it back (the example of chapter 5). -/
theorem test_cvtn_cvtw : after (exec (.cvtn gd 0 (.reg 20) (rg 8) (rg 6) none) (w1 [(6, 0x7944), (8, 0x40400000), (9, 0xBF000000), (10, 0x3E99999A)])) (reg0 0 20)
      = some 0x0062E87C ∧
    after (exec (.cvtw gd 0 (.reg 24) (rg 20) (rg 6) none) (w1 [(6, 0x7944), (20, 0x0062E87C)])) (fun t => [reg0 0 24 t, reg0 0 25 t, reg0 0 26 t, reg0 0 27 t])
      = some [0x40400000, 0xBF000000, 0x3EA00000, 0] := by decide
/-- R163: the third sample of the example of chapter 5: (2, 3.0, 2.0) and 4.0 give (3, 0x40555555, 0x402AAAAB). -/
theorem test_wfu : after (exec (.wfu gd (.reg 0) (rg 0) (rg 3) none) (w1 [(0, 2), (1, 0x40400000), (2, 0x40000000), (3, 0x40800000)]))
    (fun t => [reg0 0 0 t, reg0 0 1 t, reg0 0 2 t]) = some [3, 0x40555555, 0x402AAAAB] := by decide
/-- R146: 1.5 * 2 + 0.5 = 3.5; R96: 2^24 + 1 rounds to even and sets INX. -/
theorem test_float : after (exec (.fma gd 0 false false (.reg 3) (rg 0) (rg 1) (rg 2) none) (w1 [(0, 0x3FC00000), (1, 0x40000000), (2, 0x3F000000)])) (reg0 0 3) = some 0x40600000 ∧
    after (exec (.fadd gd 0 (.reg 3) (rg 0) (rg 1) none) (w1 [(0, 0x4B800000), (1, 0x3F800000)])) (reg0 0 3) = some 0x4B800000 := by decide
/-- R160: 1 * 1 + (-1) * 2 + 10 = 9. -/
theorem test_dot4 : after (exec (.dot4 gd false false false (.reg 3) (rg 0) (rg 1) (rg 2)) (w1 [(0, 0x0000FF01), (1, 0x00000201), (2, 10)])) (reg0 0 3) = some 9 := by decide
/-- R193, R194: over two lanes of one tile `red.add` gives both lanes the sum, and the exclusive scan the sum of the lanes below. -/
theorem test_red_scan : after (exec (.red gd 0 (.reg 1) (rg 0) none) (w2 [(0, 5)] [(0, 7)])) (fun t => (reg0 0 1 t, reg0 1 1 t)) = some (12, 12) ∧
    after (exec (.scanx gd 0 (.reg 1) (rg 0) none) (w2 [(0, 5)] [(0, 7)])) (fun t => (reg0 0 1 t, reg0 1 1 t)) = some (0, 5) := by decide
/-- R191: the mask of the lanes whose predicate holds, and an election of the lowest. -/
theorem test_vmask_elect : after (exec (.vmask gd (.reg 1) 0) (w2 [] [])) (fun t => (reg0 0 1 t, reg0 1 1 t)) = some (3, 3) ∧
    after (exec (.elect gd 1) (w2 [] [])) (fun t => ((t.curThread 0).pred 1, (t.curThread 1).pred 1)) = some (true, false) := by decide
/-- R133, R32: `brk #7` leaves the thread faulted at its instruction, with 0x0B and 7 in the record. -/
theorem test_brk : after (exec (.brk gd 7) (w1 [])) (fun t => ((t.curThread 0).status, (t.curThread 0).pc, (t.curThread 0).xrec.map fun r => (r.code, r.finfo)))
    = some (.faulted, 8, some (0x0B, 7)) := by decide
/-- R135, R137: `rep #4, d+s1` sets the repeat state; an `add` in it names registers 3 further on, stays at its place and counts down. -/
theorem test_rep : after (exec (.rep gd 4 3 0) (w1 [])) (fun t => ((t.curThread 0).repCnt, (t.curThread 0).repMask, (t.curThread 0).pc)) = some (4, 3, 16) ∧
    after (exec (.mov gd false (.reg 9) (rg 8)) ((w1 [(8, 10), (11, 40)]).modThread 0 0 0 fun t => { t with repCnt := 4, repMask := 3 }))
      (fun t => (reg0 0 12 t, (t.curThread 0).repCnt, (t.curThread 0).pc)) = some (40, 3, 8) := by decide
set_option maxRecDepth 8000 in
/-- R131, R187: the last thread exits and its wave retires. -/
theorem test_exit : after (exec (.exit gd) (w1 [])) (fun t => ((t.curThread 0).status, (t.wave 0 0).live)) = some (.exited, false) := by decide
/-- R206 to R208: `sts` writes the low bytes in the own slice, lowest first; `lds` reads them sign extended. -/
theorem test_sts : after (exec (.sts gd 2 (rg 0) (msp (rg 1) 4)) (withSp (w1 [(0, 0x12349ABC), (1, 8)]))) (fun t => (t.rdSram (sliceAddr 0 12) 3).map (·.toNat))
    = some [0xBC, 0x9A, 0] := by decide
theorem test_lds : after (exec (.lds gd 3 (.reg 3) (msp (rg 1) 4)) ((withSp (w1 [(1, 8)])).wrSram (sliceAddr 0 12) [0xBC, 0x9A])) (reg0 0 3)
    = some 0xFFFF9ABC := by decide
/-- R203: turn 3 grants the two dead blocks of the example of chapter 7 to turn 2. -/
theorem test_rgrant :
    let s := (wv 0 [[(0, 2)]]).modCore 0 fun k =>
      { k with waves := [(3, k.wave 0)], quotas := [(2, { base := 10, count := 4, valid := true }), (3, { base := 14, count := 6, valid := true, dead := 2 })] }
    let s : State := { s.modCore 0 fun k => k.modWave 3 fun w => w.modThread 0 fun t => { t with regs := [(64, 2)] } with cur := { s.cur with turn := 3 } }
    after (exec (.rgrant gd (rg 64)) s) (fun t => ((t.quota 0 2).count, (t.quota 0 3).base, (t.quota 0 3).count, (t.quota 0 3).dead, (t.thread 0 3 0).reg 0))
      = some (6, 16, 4, 0, 2) := by decide
/-- R216, R220: a queue takes a word of each lane and gives it back. -/
theorem test_queue : after (exec (.qpush gd 0 3 (rg 0)) ((w2 [(0, 5)] [(0, 7)]).modCore 0 fun k => { k with ports := [(3, 0)] }))
    (fun t => ((t.core 0).queue 0)) = some [.fifo [(0, 5), (1, 7)]] := by decide
/-- R229, R228: the first `aalloc` of two banks answers 0 and writes VALID, OWNER 0, ABASE 0, ACNT 2. -/
theorem test_aalloc : after (exec (.aalloc gd (.reg 1) (ic 2)) (w1 [])) (fun t => (reg0 0 1 t, ((t.core 0).bank 1).word.toNat)) = some (0, 1 + 2 * 2 ^ 14) := by decide
/-- R250: `ald` of a bank that is not held reads the canonical NaN with AMU when the bank is the wave's and poisoned without REPORT. -/
theorem test_ald_poison : after (exec (.ald gd (.reg 2) (rg 0)) ((w1 [(0, 0x200)]).modCore 0 fun k => { k with banks := [(0, { word := 0x84001 })] }))
    (fun t => (t.prods.map (fun p => p.2.src), flags0 t)) = some ([.vals [0x7FC00000]], 0x40) := by decide
/-- R255, R256, R259: an operation joins the open batch; `seal` closes it, and the counter word shows one sealed batch. -/
theorem test_seal_bstat : after (exec (.seal gd .copy) ((w1 []).joinOp 1 0 5)) (fun t => ((t.curThread 0).batch 0).word.toNat) = some 0x10000 := by decide
/-- R298: the drain of the example of chapter 11 answers D = 0x0004_2001, for slot 0 with 32 blocks from core index 4. -/
theorem test_mcdrain :
    let s := (wv 1 [[(11, 7), (12, 0x4000)]]).modCl 0 fun k => { k with depot := [(0, { state := 1, sender := 4, chan := 7, nblk := 32, npend := 3, mask := 14 })] }
    after (exec (.mcdrain gd false (.reg 10) (rg 11) (rg 12)) s) (fun t => (reg0 0 10 t, ((t.cl 0).slot 0).npend, ((t.cl 0).slot 0).ndrain))
      = some (0x42001, 2, 1) := by decide
/-- R315: `crset` of SRCLS0 to 5 and `crget` of it on the serai in monitor mode, which it is at reset. -/
theorem test_crset_crget : after (exec (.crset gd (rg 0) (rg 2)) (sr [(0, 0x30), (2, 5)])) (fun t => t.cr 0 (nSRCLS 0)) = some 5 ∧
    after (exec (.crget gd (.reg 4) (rg 0)) (sr [(0, 0x10000)])) (reg0 0 4) = some 2000 := by decide
/-- R302: a serai's fault in shard mode enters monitor mode at MVEC. -/
theorem test_serai_fault : after (exec (.brk gd 7) (((sr []).setSmode 0 0 false none).setCr 0 nMVEC 0x4000))
    (fun t => ((t.curThread 0).pc, t.isMonitor 0 0, t.crT 0 1 nMEPC, (t.curThread 0).status)) = some (0x4000, true, 8, .ready) := by decide
/-- R67, R302: a privileged opcode on a compute core takes UNDEFINED with cause 7 and its opcode. -/
theorem test_privileged : after (exec (.mret gd) (((w1 [] : State)).modThread 0 0 0 id |> fun s => { s with cur := { s.cur with word := 0x19D } }))
    (fun t => (t.curThread 0).xrec.map fun r => (r.code, r.finfo.toNat)) = some (some (1, 0x19D + 7 * 1024)) := by decide
/-- R386, R387: `atom.add` in the own slice writes the sum, and D gets the old value. -/
theorem test_atom : after (exec (.atom gd 0 false (rg 0) { mode := .sa, slot := 0, idx := rg 2, disp := .short 0 })
      ((withSp (w1 [(0, 5), (2, 0x40)])).wrSram 0x40 [3])) (fun t => ((t.rdSram 0x40 4).map (·.toNat), t.prods.map fun p => p.2.src))
    = some ([8, 0, 0, 0], [.vals [3, 0]]) := by decide
/-- R351, R353: `addi` of a tariff wraps, and the index moves on. -/
theorem test_tariff : after (exec (.tAddi 1 2 0x3FFF) (State.reset.modCl 0 fun k => { k with alen := 8, decision := some { evkind := 0, scal := [], depth := [], age := [], cands := [], t := List.replicate 16 0, time := 0 } }))
    (fun t => (t.cl 0).decision.map fun d => ((d.r 1).toNat, d.idx, d.cycles)) = some (some (0xFFFFFFFF, 1, 1)) := by decide
/-- R51, R57: the step that follows `withFetchWord` issues the `add` of the example of chapter 4. -/
theorem test_step_runs : after (step (State.reset.withFetchWord 64 0x000000D040002001)) (fun t => (((t.thread 0 0 0).reg 8).toNat, (t.thread 0 0 0).pc)) = some (1, 16) := by
  decide
/-- R459: the first step after reset is the boot sequence, and the state stays in canonical form. -/
theorem test_boot_first : State.reset.phase = 0 ∧ State.reset.memWf = true := by decide

/-! ## Witnesses: states and operands that meet the hypotheses of the statements -/

/-- The instruction issues, and `P` holds of what it issues with. -/
def Goes (s : State) (sp : Spec) (P : State → State → List (Nat × List (List Word)) → Prop) : Prop :=
  ∃ s0 s1 rows, prep s gd sp = .go s0 s1 rows ∧ P s0 s1 rows
def meets (p : Prep) (P : State → State → List (Nat × List (List Word)) → Prop) [∀ a b r, Decidable (P a b r)] : Bool :=
  match p with
  | .go a b r => decide (P a b r)
  | .stop _ => false
theorem goes {s : State} {sp : Spec} {P : State → State → List (Nat × List (List Word)) → Prop} [∀ a b r, Decidable (P a b r)]
    (h : meets (prep s gd sp) P = true) : Goes s sp P := by
  unfold meets at h
  split at h
  · exact ⟨_, _, _, ‹_›, of_decide_eq_true h⟩
  · cases h
/-- The instruction issues. -/
abbrev Ready (s : State) (sp : Spec) : Prop := Goes s sp fun _ _ _ => True

/-- two lanes with some registers -/
def ws : State := w2 [(0, 5), (1, 7), (2, 9)] [(0, 0xFFFFFFFF), (1, 3)]
/-- the same with an allocation, walker 0 on the own slice and walker 1 on the slice of core 1, port 0 to queue 0, which holds an
entry, and ports 1 to 3 to the engines' queues -/
def wb : State := (withSp ws).modCore 0 fun k => { k.modWave 0 (fun w => { w with walkers :=
    [(0, { bound := true, desc := BitVec.ofNat 256 (2 * 2 ^ 48 + 4 * 2 ^ 64 + 2 ^ 128 + 2 ^ 192 + 4 * 2 ^ 80) }),
     (1, { bound := true, desc := BitVec.ofNat 256 (sliceAddr 1 0 + 2 * 2 ^ 48 + 4 * 2 ^ 64 + 2 ^ 128 + 2 ^ 192 + 4 * 2 ^ 80) })] }) with
  ports := [(0, 0), (1, 32), (2, 33), (3, 34)], queues := [(0, [.fifo [(0, 5)]])] }
def wk (i : Nat) : Src := { o := .walker i, e := false }
def pt (i : Nat) : Src := { o := .port i, e := false }
abbrev Rows := List (Nat × List (List Word))

theorem witness_EncodedInstructionsDecode :
    (Instr.nop gd).wf = true ∧ (encodeWords (.nop gd)).isSome = true ∧ (Instr.tMovi 15 0x3FFFFF).wf = true ∧ (tEncode (.tMovi 15 0x3FFFFF)).isSome = true := by
  decide
theorem witness_DecodedWordsAreEncodings : reads 0x000000D040002001 (.add gd s32 (.reg 8) (rg 0) { o := .intc 65, e := false }) = true ∧
    (0x380 : DWord).extractLsb' 0 10 = 0x380 ∧ (0x8000000000000001 : DWord).extractLsb' 62 2 = 2 := by decide
theorem witness_RegisterOperandsIssue :
    let sp := spec2 s32 (.reg 8) (rg 0) (ic 1)
    ws.plain gd sp = true ∧ ws.active gd ≠ 0 ∧ repCause ws sp (ws.active gd) = none ∧
    (∀ l ∈ (ws.active gd).lanes, ∀ p ∈ sp.ranges (ws.curThread l), p.1 % p.2.2 = 0 ∧
      ∀ i < p.2.1, ws.deadBelow 0 0 ≤ p.1 + i ∧ p.1 + i < ws.quotaOf 0 0) ∧
    ∀ l ∈ (ws.active gd).lanes, ∀ i < 1, (ws.curThread l).isEmpty ((ws.curThread l).step 1 0 + i) = false := by decide
/-- a pair whose upper half is out of quota, an odd pair, and v0 of lane 0 pending: without the E bit, and with it -/
theorem witness_RegisterOperandsIssue_faults :
    let d : IntTy := { s32 with wid := 1 }
    let s := ws.modThread 0 0 0 fun t => { t with empty := [(0, 9)] }
    let hit : Src := { o := .reg 0, e := true }
    (0 ∈ (ws.active gd).lanes ∧ (639, 2, 2) ∈ (spec2 d (.reg 8) (rg 639) (rg 2)).ranges (ws.curThread 0) ∧ ws.quotaOf 0 0 = 640) ∧
    ((1, 2, 2) ∈ (spec2 d (.reg 8) (rg 1) (rg 2)).ranges (ws.curThread 0) ∧ operandFault ws (spec2 d (.reg 8) (rg 1) (rg 2)) 3 = some (4, 2)) ∧
    (operandFault s (spec2 s32 (.reg 8) (rg 0) (rg 1)) (s.active gd) = none ∧ (tySrc s32 0 (rg 0)).emptyRegs (s.curThread 0) = [0] ∧ (rg 0).e = false) ∧
    (s.active gd).lanes = [0, 1] ∧ (tySrc s32 0 hit).emptyRegs (s.curThread 0) = [0] ∧ (tySrc s32 0 hit).emptyRegs (s.curThread 1) = [] := by decide
theorem witness_ResultFrames : ([(0, [[5]]), (31, [[7]])].map (·.1)).Nodup ∧ isSerai ws.cur.core = false ∧ isSerai (sr []).cur.core = true := by decide
/-- a port bound to a queue, and a walker whose element lies in the own slice -/
theorem witness_ResultFrames_ports : (wb.core 0).portQueue 0 = some 0 ∧ isSerai wb.cur.core = false ∧
    (match wb.checkWalker ((wb.wave 0 0).walker 0) 0 rWRITE with | .ok (.sram b) _ => isOwn 0 (.sram b) | _ => false) = true := by decide
theorem witness_FaultEntry : isSerai (sr []).cur.core = true ∧ (sr []).isMonitor 0 0 = true ∧ ((sr []).setSmode 0 0 false none).isMonitor 0 0 = false ∧
    isSerai ws.cur.core = false := by decide
theorem witness_IntegerTwoSourceResults : Ready ws (spec2 s32 (.reg 8) (rg 0) (rg 1)) := goes (by decide)
theorem witness_BitwiseOperations : Ready ws (spec2 { s32 with wid := 1 } (.reg 638) (rg 0) (rg 2)) ∧ Ready ws (spec1 s32 (.special 12) { o := .intc 0, e := true }) :=
  ⟨goes (by decide), goes (by decide)⟩
theorem witness_IntegerOtherResults : Ready ws (spec1 s32 (.reg 639) (rg 0)) ∧ Ready ws (spec3 s32 (.reg 0) (rg 0) (rg 1) (rg 2)) ∧
    Ready ws (specB s32 (.reg 0) (rg 0)) ∧ Ready ws { dst := some (dblDst true (.reg 638)) } :=
  ⟨goes (by decide), goes (by decide), goes (by decide), goes (by decide)⟩
theorem witness_PredicateResults :
    Ready ws { srcs := [tySrc s32 0 (rg 0), tySrc s32 1 (rg 1)], rep := true, other := [0] } ∧ Ready ws { srcs := [tySrc s32 0 (rg 0)] } ∧
    Ready ws { srcs := [fltSrc .f32 0 (rg 0), fltSrc .f32 1 (rg 1)], rep := true, other := [0] } ∧ Ready ws { rep := true, other := [0, 1, 2] } ∧
    Ready ws { srcs := [dblSrc true 0 (rg 0), { pos := 1, src := rg 2 }], rep := true, other := [0] } ∧
    Ready ws { srcs := [{ pos := 0, src := rg 0 }, { pos := 1, src := rg 1 }], rep := true } :=
  ⟨goes (by decide), goes (by decide), goes (by decide), goes (by decide), goes (by decide), goes (by decide)⟩
theorem witness_MoveResults :
    Ready ws { srcs := [dblSrc false 0 (rg 0), dblSrc false 1 (rg 1)], dst := some (dblDst false (.reg 3)), rep := true } ∧
    Ready wb { srcs := [dblSrc false 0 (pt 0)], dst := some (dblDst false (.reg 3)), rep := true } ∧
    (∃ s0 s1 rows, prep wb gd { srcs := [dblSrc false 0 (wk 1)], dst := some (dblDst false (.reg 3)), rep := true } true = .go s0 s1 rows) ∧
    Ready ws { srcs := [idxSrc (mslot 0 (rg 0) 4)], dst := some { o := .reg 2, n := 2, al := 2 } } ∧ Ready ws { dst := some { o := .reg 3 }, rep := true } :=
  ⟨goes (by decide), goes (by decide), ⟨_, _, _, rfl⟩, goes (by decide), goes (by decide)⟩
theorem witness_FloatResults :
    Ready ws (fltSpec (ftFmt 0) (.reg 3) [rg 0, rg 1]) ∧ Ready ws (fltSpec (ftFmt 2) (.reg 3) [rg 0, rg 1, rg 2]) ∧ Ready ws (fltSpec (ftFmt 1) (.reg 3) [rg 0]) ∧
    Ready ws (fltSpec .f32 (.reg 3) [rg 0, { o := .fltc 63, e := false }]) ∧ Ready ws (fltSpec .f32 (.reg 3) [rg 0]) :=
  ⟨goes (by decide), goes (by decide), goes (by decide), goes (by decide), goes (by decide)⟩
theorem witness_ConversionResults :
    Ready ws { srcs := [{ pos := 0, src := rg 0, n := 2, al := 1, ty := fmtTy (cvtFmt 0) }], dst := some { o := .reg 3, n := 1, al := cvtAl 1 }, rep := true, other := [3] } ∧
    Ready ws { srcs := [fltSrc .f32 0 (rg 0), { pos := 1, src := ic 0x44 }], dst := some { o := .reg 3 }, rep := true } ∧
    Ready ws { srcs := [{ pos := 0, src := rg 0 }, { pos := 1, src := rg 1 }, { pos := 2, src := rg 2 }], dst := some { o := .reg 3 }, rep := true } ∧
    Ready ws { srcs := [fltSrc (ftFmt 1) 0 (rg 0), fltSrc (ftFmt 1) 1 (rg 1), fltSrc .f32 2 (rg 2)], dst := some { o := .reg 3 }, rep := true } ∧
    Ready ws { srcs := [{ pos := 0, src := rg 0, n := 3 }, fltSrc .f32 1 (rg 3)], dst := some { o := .reg 0, n := 3 }, rep := true } ∧
    Ready ws { srcs := [{ pos := 0, src := rg 0, n := 3 }, { pos := 1, src := rg 3, n := 3 }], dst := some { o := .reg 0, n := 3 }, rep := true } :=
  ⟨goes (by decide), goes (by decide), goes (by decide), goes (by decide), goes (by decide), goes (by decide)⟩
/-- the example of chapter 5, with v8 to v11 as the long range of `cvtn` and v24 to v27 of `cvtw` -/
theorem witness_ConversionResults_tag :
    let s := w1 [(6, 0x7944)]
    let sp : Spec := { srcs := [{ pos := 0, src := rg 8 }, { pos := 1, src := rg 6 }], dst := some { o := .reg 24 }, rep := true }
    operandFault s { srcs := [{ pos := 1, src := rg 6 }], dst := some { o := .reg 24 } } (s.active gd) = none ∧ operandFault s { srcs := sp.srcs } (s.active gd) = none ∧ SrcReq.emptyRegs { pos := 1, src := rg 6 } (s.curThread 0) = [] ∧
    Ready s sp ∧ s.tagRange 0 32 (rg 6) = 4 ∧ firstOut 640 0 (sp.ranges (s.curThread 0) ++ [(8, 4, 1)]) = none ∧
    (∀ i < 4, (s.curThread 0).isEmpty (8 + i) = false) ∧ firstOut 640 0 ((24, 4, 1) :: sp.ranges (s.curThread 0)) = none :=
  ⟨by decide, by decide, by decide, goes (by decide), by decide, by decide, by decide, by decide⟩
theorem witness_StickyFlagResults : Ready ws { dst := some { o := .reg 3 }, rep := true } ∧ Ready ws { srcs := [{ pos := 0, src := rg 0 }], rep := true } :=
  ⟨goes (by decide), goes (by decide)⟩
theorem witness_CrossLaneResults :
    Ready ws {} ∧ Ready ws { dst := some { o := .reg 3 } } ∧ Ready ws (redSpec (.reg 3) (rg 0) 10) ∧ Ready ws { srcs := [{ pos := 0, src := rg 1 }] } ∧
    Ready ws { srcs := [dblSrc false 0 (rg 0), { pos := 1, src := ic 1 }, dblSrc false 2 (rg 1)], dst := some (dblDst false (.reg 3)) } :=
  ⟨goes (by decide), goes (by decide), goes (by decide), goes (by decide), goes (by decide)⟩
/-- with a wave whose walker 0 has come to the end of dimension 0, and one whose has not -/
theorem witness_ControlTransfers :
    Goes (wb.modCurWave fun w => w.modWalker 0 fun k => { k with e0 := true }) {} (fun s0 _ _ => endFlag ((s0.wave 0 0).walker 0) 0 = true) ∧
    Goes wb {} (fun s0 _ _ => ((s0.wave 0 0).walker 0).bound = true ∧ endFlag ((s0.wave 0 0).walker 0) 0 = false) ∧
    Ready ws { dst := some { o := .reg 2, n := 2, al := 2 } } ∧ Ready ws { srcs := [{ pos := 0, src := rg 0, n := 2, al := 2 }] } ∧
    Ready ws { srcs := [{ pos := 0, src := rg 0, n := 2, al := 2 }], dst := some { o := .reg 0, n := 2, al := 2 } } :=
  ⟨goes (by decide), goes (by decide), goes (by decide), goes (by decide), goes (by decide)⟩
theorem witness_ControlResults : Ready ws {} := goes (by decide)
theorem witness_BreakpointFaults :
    Goes ws {} (fun _ _ _ => (∀ l ∈ ws.cur.lanes.lanes, (ws.curThread l).pc = ws.cur.pc ∧ (ws.curThread l).going = true ∧ (ws.curThread l).repCnt = 0 ∧
      (ws.curThread l).atEnd ws.cur = false)) ∧ (0x0000400000000068 : DWord).extractLsb' 46 4 ≠ 0 := ⟨goes (by decide), by decide⟩
theorem witness_WaysideInformation : Ready ws { srcs := [{ pos := 0, src := rg 1 }], dst := some { o := .reg 3 } } := goes (by decide)
theorem witness_ExitEndsThreads : (ws.wave 0 0).busy = false ∧ (ws.wave 0 1).live = false ∧ 31 ∈ (0x80000000 : Mask).lanes ∧
    (ws.wave 0 0).live = true ∧ (∀ l < 32, l ∉ (3 : Mask).lanes → (ws.thread 0 0 l).status = .exited) ∧
    1 ∉ (1 : Mask).lanes ∧ (ws.thread 0 0 1).status ≠ .exited := by decide
/-- a serai thread in monitor mode whose local code holds headers at offsets 16 and 64, and whose block ends at offset 8 -/
def sc : State := (sr []).modCore 2048 fun k => { k.modWave 0 (fun w => w.modThread 0 fun t => { t with hdrW := 0x07FF }) with
  icache := [(2 ^ 60, { la2 := false, words := [0x07FF, 0, 0x0100000001000BFF, 0, 0, 0, 0, 0] }), (2 ^ 60 + 1, { la2 := false, words := [0x0100000001000BFF, 0, 0, 0, 0, 0, 0, 0] })] }
theorem witness_TransferMovesThePath : sc.cur.lanes = Mask.ofLanes [0] ∧ sc.checkTarget 2048 0 0 true 64 = .ok 0x0100000001000BFF false ∧
    (Header.ofWord 0x0100000001000BFF).ok = true ∧ (Header.ofWord 0x0100000001000BFF).conv = false := by decide
theorem witness_CompletionMovesOn : 0 ∈ ws.cur.lanes.lanes ∧ (∀ j ∈ ws.cur.lanes.lanes, (ws.curThread j).atEnd ws.cur = false) ∧
    (∀ j ∈ sc.cur.lanes.lanes, (sc.curThread j).atEnd sc.cur = true) ∧ (sc.curThread 0).going = true ∧ (sc.curThread 0).repCnt.toNat ≤ 1 ∧
    (sc.codeLine 2048 0 sc.cur.nextPc).map (fun ln => (ln.la2, ln.at sc.cur.nextPc)) = some (false, 0x0100000001000BFF) ∧
    isHeader 0x0100000001000BFF = true := by decide
/-- found at a place, in the own slice of core 0 or not -/
def found (x : LdsAt) (own : Bool) : Bool := match x with | .at_ pl => isOwn 0 pl == own | _ => false
/-- `lds` in the allocation, past a window's end, in a window on another core's slice, and misaligned; `sts` in the allocation. -/
theorem witness_SliceAccessResults :
    let win := (wb.setCr 0 (nPWIN 0 1 0) (BitVec.ofNat 64 (sliceAddr 1 0))).setCr 0 (nPWIN 0 1 1) 0x80000100
    Goes (w2 [(0, 0)] [(0, 4)] |> withSp) { srcs := [idxSrc (msp (rg 0) 0)], dst := some (loadDst (.reg 3) 1) }
      (fun _ s1 rows => ∀ p ∈ rows, found (s1.ldsAt 0 (msp (rg 0) 0) (p.2.getD 0 []) 4) true = true) ∧
    Goes win { srcs := [idxSrc (mpw 1 (ic 127) 0x7FF)], dst := some (loadDst (.reg 3) 1) }
      (fun _ s1 rows => ∀ p ∈ rows, s1.ldsAt 0 (mpw 1 (ic 127) 0x7FF) (p.2.getD 0 []) 1 = .zeros) ∧
    Goes win { srcs := [idxSrc (mpw 1 (ic 0) 0xFC)], dst := some (loadDst (.reg 3) 1) }
      (fun _ s1 rows => ∀ p ∈ rows, found (s1.ldsAt 0 (mpw 1 (ic 0) 0xFC) (p.2.getD 0 []) 4) false = true) ∧
    Goes win { srcs := [idxSrc (msp (ic 1) 0)], dst := some (loadDst (.reg 3) 1) }
      (fun _ s1 rows => ∀ p ∈ rows, s1.ldsAt 0 (msp (ic 1) 0) (p.2.getD 0 []) 4 = .bad 4 1 1) ∧
    Goes ((sr [(0, 0x40)]).setCr 0 (nSPALLOC 0) 0x1000000) { srcs := [idxSrc (msp (rg 0) 0)], dst := some (loadDst (.reg 3) 1) }
      (fun _ s1 rows => ∀ p ∈ rows, s1.ldsAt 2048 (msp (rg 0) 0) (p.2.getD 0 []) 4 = .at_ (.sram (ownAddr 2048 0x40)) ∧
        isOwn 2048 (.sram (ownAddr 2048 0x40)) = true ∧ s1.heldPlace (.sram (ownAddr 2048 0x40)) = false) ∧
    Goes (w2 [(0, 0)] [(0, 65532)] |> withSp) { srcs := [idxSrc (msp (rg 0) 0), { pos := 3, src := rg 1, n := 1, al := 1 }] }
      (fun _ s1 rows => ∀ p ∈ rows, effAddr (msp (rg 0) 0) (p.2.getD 0 []) % 4 = 0 ∧ s1.spOk 0 (effAddr (msp (rg 0) 0) (p.2.getD 0 [])) 4 = true) :=
  ⟨goes (by decide), goes (by decide), goes (by decide), goes (by decide), goes (by decide), goes (by decide)⟩
theorem witness_QuotaAndWalkerResults : Ready ws { srcs := [{ pos := 0, src := rg 0 }] } ∧
    Goes wb { srcs := [{ pos := 0, src := rg 0, n := 8, al := 8 }] } (fun _ _ rows =>
      Walker.descOk (BitVec.ofNat 256 (natOfWords ((firstRow rows).getD 0 []))) = false) ∧
    Goes (w1 [(0, 64), (1, 0x20000), (2, 4), (4, 1), (6, 1)]) { srcs := [{ pos := 0, src := rg 0, n := 8, al := 8 }] } (fun _ _ rows =>
      Walker.descOk (BitVec.ofNat 256 (natOfWords ((firstRow rows).getD 0 []))) = true) ∧
    Ready wb {} ∧
    Goes wb { srcs := [{ pos := 0, src := ic 3 }, { pos := 1, src := ic 0 }] } (fun _ s1 _ =>
      ((s1.wave 0 0).walker 0).bound = true ∧ 3 < ((s1.wave 0 0).walker 0).field 79 64 ∧ ((s1.wave 0 0).walker 2).bound = false) ∧
    Goes wb { srcs := [{ pos := 0, src := ic 4 }, { pos := 1, src := ic 0 }] } (fun _ s1 _ => ((s1.wave 0 0).walker 0).field 79 64 ≤ 4) :=
  ⟨goes (by decide), goes (by decide), goes (by decide), goes (by decide), goes (by decide), goes (by decide)⟩
theorem witness_QueueResults :
    Goes ws { srcs := [{ pos := 0, src := ic 5 }] } (fun _ _ rows => 5 ≤ bitsN (wordAt (firstRow rows) 0 0).toNat 2 0) ∧
    Goes ws { srcs := [{ pos := 0, src := ic 4 }] } (fun _ _ rows =>
      let b := (wordAt (firstRow rows) 0 0).toNat
      bitsN b 2 0 < 5 ∧ bitsN b 7 3 = 0 ∧ bitsN b 31 13 = 0 ∧ bitsN b 12 8 = 0) ∧
    Ready wb { srcs := [{ pos := 0, src := pt 0, n := 1 }], dst := some { o := .reg 3, n := 1 } } ∧
    Ready wb { srcs := [{ pos := 0, src := rg 0, n := 8 }], dst := some { o := .port 0, n := 8 } } ∧
    Goes wb { dst := some { o := .reg 3 } } (fun _ s1 _ => (s1.core 0).portQueue 0 = some 0 ∧ (s1.core 0).portQueue 31 = none) :=
  ⟨goes (by decide), goes (by decide), goes (by decide), goes (by decide), goes (by decide)⟩
/-- the answer of an operation that may also be refused -/
def leftOf {α β : Type} (x : α ⊕ β) : Bool := match x with | .inl _ => true | .inr _ => false
theorem witness_QuotaRegisters : leftOf (ws.resize 0 0 20) = true ∧ leftOf (ws.resize 0 0 0) = true ∧ leftOf (ws.setDead 0 0 20) = true ∧ 20 < 21 := by decide
/-- the crew of the example after R203: turn 3 has two dead blocks and lies behind turn 2 -/
def gr : State := { State.reset with cores := [(0, { quotas := [(2, { base := 10, count := 4, valid := true }), (3, { base := 14, count := 6, valid := true, dead := 2 })] })] }
theorem witness_QuotaRegisters_grant : leftOf (gr.grant 0 3 2) = true ∧ leftOf (gr.grant 0 3 3) = false ∧ leftOf (gr.resize 0 2 5) = false ∧
    0 < (gr.quota 0 3).dead ∧ (gr.quota 0 2).base + (gr.quota 0 2).count = (gr.quota 0 3).base ∧ (gr.cl 0).traps = [] := by decide
/-- with `n` registers of both lanes from v0 on: a parameter block -/
def wp (ws : List Word) : State := w2 ((List.range ws.length).zip ws) []
def pb (n : Nat) (e : Bool) (al : Nat) (once : Bool := false) : Spec := { srcs := [{ pos := 0, src := { o := .reg 0, e }, n, al }], once }
theorem witness_CommandSubmissionResults :
    Goes wb (pb 16 false 16) (fun _ s1 _ => (s1.core 0).freeCopy.isSome = true ∧ (s1.core 0).portQueue 2 = some 33 ∧ s1.pushOk 0 (s1.core 0) 33 = true ∧
      (s1.core 0).ways.length < 8 ∧ (s1.core 0).portQueue 3 = some 34 ∧ s1.pushOk 0 (s1.core 0) 34 = true ∧ (s1.core 0).freeNet.isSome = true) ∧
    Goes (wb.modCore 0 fun k => { k with copyTrk := (List.range 64).map fun i => (i, { words := [], op := i, order := i }) }) (pb 16 false 16)
      (fun _ s1 _ => (s1.core 0).freeCopy.isSome = false) ∧
    Goes (wp [0, 0]) (pb 8 false 8) (fun _ s1 rows => s1.mcastBad 0 ((firstRow rows).getD 0 []) = some 1) ∧
    Goes (withSp (wp [0, 0x70040, 0, 0, 14])) (pb 8 false 8) (fun _ s1 rows => s1.mcastBad 0 ((firstRow rows).getD 0 []) = none ∧ (s1.cl 0).freeSlot = some 0) ∧
    Goes ((withSp (wp [0, 0x70040, 0, 0, 14])).modCl 0 fun k => { k with depot := (List.range 64).map fun i => (i, { state := 1 }) }) (pb 8 false 8)
      (fun _ s1 rows => s1.mcastBad 0 ((firstRow rows).getD 0 []) = none ∧ (s1.cl 0).freeSlot = none) :=
  ⟨goes (by decide), goes (by decide), goes (by decide), goes (by decide), goes (by decide)⟩
/-- the `lmma` of chapter 9: registers v32 on and v48 on, MT 1, NH 2, KC 1, bf16, into bank 0 -/
def wl : State := (wp [0x81, 0, 0xC1, 0, 0x841, 0x20200]).modCore 0 fun k => { k with banks := [(0, { word := 0x4001 })], ports := [(1, 32)] }
theorem witness_CommandSubmissionResults_lathe :
    Goes wl (pb 6 false 2 true) (fun _ s1 rows =>
      let w := s1.wave 0 0
      let ws := (firstRow rows).getD 0 []
      let cmd := LatheCmd.ofWords ws
      let ranges := (descRegs cmd.kc cmd.a).toList ++ (descRegs cmd.kc cmd.b).toList
      ranges ≠ [] ∧ firstOut (s1.quotaOf 0 0) (s1.deadBelow 0 0) (ranges.map fun x => (x.1, x.2, 1)) = none ∧
      (∀ x ∈ ranges, ∀ l < 32, ∀ i < x.2, (w.thread l).isEmpty (x.1 + i) = false) ∧ latheBad ws = false ∧
      (∀ b ∈ cmd.banks, ((s1.core 0).bank b).owned 0 = true) ∧ s1.descOutside 0 cmd.kc (32 * cmd.mt) cmd.a = false ∧
      s1.descOutside 0 cmd.kc (16 * cmd.nh) cmd.b = false ∧ (s1.core 0).lathe.length < 4 ∧ (s1.core 0).portQueue 1 = some 32 ∧
      s1.pushOk 0 (s1.core 0) 32 = true) := goes (by decide)
/-- bank 0 with one bank, bank 2 granted by turn 1 to turn 0 -/
def wa (r : Sparse Word) : State := (withSp (w1 r)).modCore 0 fun k => { k with
  banks := [(0, { word := 0x4001 }), (2, { word := BitVec.ofNat 32 (1 + 2 + 2 ^ 5 + 2 ^ 11 + 2 ^ 14) })],
  waves := k.waves ++ [(1, { live := true, uid := 2, threads := [(0, { status := .ready })] })] }
theorem witness_AccumulatorBankResults :
    Goes (wa []) { srcs := [{ pos := 0, src := ic 17 }], dst := some { o := .reg 1 }, once := true } (fun _ _ rows => 16 < (wordAt (firstRow rows) 0 0).toNat) ∧
    Goes (wa []) { srcs := [{ pos := 0, src := ic 16 }], dst := some { o := .reg 1 }, once := true } (fun _ s1 rows =>
      (wordAt (firstRow rows) 0 0).toNat = 16 ∧ (s1.core 0).freeRun 16 = none ∧ (s1.core 0).freeRun 1 = some 1) ∧
    Goes (wa []) (specWords [ic 0] true) (fun _ s1 rows =>
      let k := s1.core 0
      (wordAt (firstRow rows) 0 0).toNat = 0 ∧ (k.bank 0).valid = true ∧ (k.bank 0).abase = 0 ∧ (k.bank 0).owner = 0 ∧
      ∀ y ∈ k.allocation 0, (k.bank y).granted = false ∧ (k.bank y).pend = 0) ∧
    Goes (wa [(0, 0x210)]) (specWords [rg 0] true) (fun _ s1 rows =>
      let v := (wordAt (firstRow rows) 0 0).toNat
      bandRange v 13 = some [0] ∧ ((s1.core 0).bank 0).owned 0 = true ∧ bitsN v 12 9 = 1 ∧ ((s1.core 0).wave 1).live = true ∧ ((s1.core 0).wave 1).alive ≠ 0) ∧
    Goes (wa []) (specWords [ic 0x12] true) (fun _ s1 rows =>
      bandRange (wordAt (firstRow rows) 0 0).toNat 9 = some [2] ∧ ((s1.core 0).bank 2).live = true ∧ ((s1.core 0).bank 2).granted = true ∧
      ((s1.core 0).bank 2).grantee = 0) :=
  ⟨goes (by decide), goes (by decide), goes (by decide), goes (by decide), goes (by decide)⟩
/-- `ald` of 32 columns and `ast` of 32 rows -/
theorem witness_AccumulatorBankResults_rows :
    Goes (wa [(0, 0x4000)]) { srcs := [{ pos := 0, src := rg 0 }], dst := some { o := .reg 608 } } (fun s0 s1 rows => ∀ p ∈ rows,
      let sel := (wordAt p.2 0 0).toNat
      let bk := (s1.core 0).bank (bitsN sel 3 0)
      firstOut (s0.quotaOf 0 0) (s0.deadBelow 0 0) [(608, aldCount sel, 1)] = none ∧ sel < 2 ^ 16 ∧ 1 ≤ bitsN sel 14 9 ∧ bitsN sel 14 9 ≤ 32 ∧
      bitsN sel 8 4 + bitsN sel 14 9 ≤ 32 ∧ bk.heldBy 0 = true ∧ bk.pend = 0 ∧ reportFault bk (bitsN sel 3 0) = none) ∧
    Goes (wa [(0, 0x02004000), (1, 64)]) (specWords [rg 0, rg 1] true) (fun _ s1 rows =>
      let v := (wordAt (firstRow rows) 0 0).toNat
      let off := (wordAt (firstRow rows) 1 0).toNat
      astBad v off = false ∧ bitsN v 14 9 = 32 ∧ ((s1.core 0).bank 0).heldBy 0 = true ∧ ((s1.core 0).bank 0).pend = 0 ∧
      (∀ i < 32, s1.spOk 0 (off + 64 * bitsN v 31 24 * i) 128 = true) ∧ reportFault ((s1.core 0).bank 0) 0 = none) :=
  ⟨goes (by decide), goes (by decide)⟩
/-- the same instructions by the conditions on the state and the operands alone -/
theorem witness_Issues_plain : wb.plain gd (pb 16 false 16) = true ∧ wl.plain gd (pb 6 false 2 true) = true ∧
    (wa []).plain gd { srcs := [{ pos := 0, src := ic 16 }], dst := some { o := .reg 1 }, once := true } = true ∧
    (wa []).plain gd (specWords [rg 0, ic 1] true) = true ∧ ws.plain gd {} = true ∧ ws.plain gd (specWords [rg 0]) = true ∧
    (sr []).plain gd { srcs := [{ pos := 0, src := rg 0 }, { pos := 1, src := rg 2, n := 2, al := 2 }], dst := some { o := .reg 5 } } = true ∧
    ws.plain gd { srcs := [idxSrc (mslot 0 (rg 0) 0)], dst := some (loadDst (.reg 3) 1) } = true ∧
    ws.plain gd { srcs := [{ pos := 0, src := rg 31 }, { pos := 1, src := rg 639 }], dst := some { o := .reg 4 } } = true ∧
    ws.plain gd { srcs := [{ pos := 0, src := rg 640 }] } = false := by decide
/-- with `n` sealed batches of class 0 in each lane -/
def wq (n : Nat) : State := { ws with cur := ws.cur }.modThreads 0 0 3 fun _ t => { t with batches := [(0, { queue := List.replicate n { ops := [5] } })] }
theorem witness_BatchResults :
    Goes (wq 14) {} (fun _ s1 rows => ∀ p ∈ rows, ((s1.curThread p.1).batch 0).queue.length < 15) ∧
    Goes (wq 2) (specWords [ic 2]) (fun _ s1 rows => ∀ p ∈ rows, ((s1.curThread p.1).batch 0).queue.length ≤ (wordAt p.2 0 0).toNat) ∧
    Goes (wq 2) (specWords [ic 1]) (fun _ s1 rows => ∀ p ∈ rows, ((s1.curThread p.1).batch 0).queue.length > (wordAt p.2 0 0).toNat ∧
      ((s1.curThread p.1).batch 0).failed = none) ∧
    Ready (wq 1) { dst := some { o := .reg 3 } } :=
  ⟨goes (by decide), goes (by decide), goes (by decide), goes (by decide)⟩
/-- one lane waits and the other does not; one lane's batch has failed -/
theorem witness_BatchResults_mixed :
    Goes ((wq 2).modThread 0 0 1 fun t => { t with batches := [] }) (specWords [ic 1]) (fun _ s1 rows =>
      rows.filter (fun p => decide ((wordAt p.2 0 0).toNat < ((s1.curThread p.1).batch 0).queue.length)) = rows.take 1 ∧
      ((s1.curThread 0).batch 0).failed = none) ∧
    Goes ((wq 0).modThread 0 0 1 fun t => { t with batches := [(0, { queue := [{ fail := some 3 }] })] }) (specWords [ic 0]) (fun _ s1 rows =>
      rows.filter (fun p => decide ((wordAt p.2 0 0).toNat < ((s1.curThread p.1).batch 0).queue.length)) = rows.drop 1 ∧
      ((s1.curThread 1).batch 0).failed = some 3) :=
  ⟨goes (by decide), goes (by decide)⟩
def wd : State := (wv 1 [[(11, 7), (12, 0x4000)]]).modCl 0 fun k => { k with depot := [(0, { state := 2, sender := 4, chan := 7, nblk := 32, npend := 3, mask := 14 })] }
theorem witness_DepotReceiveResults :
    Goes wd { (specWords [rg 11, rg 12]) with dst := some { o := .reg 10 } } (fun _ s1 rows =>
      ((s1.cl 0).matchSlot (wBits (wordAt (firstRow rows) 0 0) 15 0) 1).map (·.1) = some 0) ∧
    Goes wd { (specWords [rg 12, rg 12]) with dst := some { o := .reg 10 } } (fun _ s1 rows =>
      ((s1.cl 0).matchSlot (wBits (wordAt (firstRow rows) 0 0) 15 0) 1) = none) ∧
    Goes wd { (specWords [rg 11]) with dst := some { o := .reg 10 } } (fun _ s1 rows =>
      ((s1.cl 0).matchSlot (wBits (wordAt (firstRow rows) 0 0) 15 0) 1).map (·.1) = some 0) ∧
    Goes wd { (specWords [rg 12]) with dst := some { o := .reg 10 } } (fun _ s1 rows =>
      ((s1.cl 0).matchSlot (wBits (wordAt (firstRow rows) 0 0) 15 0) 1) = none) ∧
    Ready wd { srcs := [{ pos := 0, src := ic 0 }], dst := some { o := .reg 2, n := 2, al := 2 } } :=
  ⟨goes (by decide), goes (by decide), goes (by decide), goes (by decide), goes (by decide)⟩
/-- the same state some time later, when the domain fence holds; with the notice ring of the cluster enabled -/
def late (s : State) : State := { s with lease := 10 }
def noted (s : State) : State := s.setCr 0 nTNOTE 1
def tp : Spec := { srcs := [{ pos := 0, src := rg 16, n := 7 }], dst := some { o := .reg 10, n := 2, al := 2 } }
theorem witness_TrapResults :
    Goes (noted (late ws)) tp (fun _ s1 rows => (∀ l ∈ (rowMask rows).lanes, s1.fenceMet .domain 0 0 l = true) ∧ s1.trapPlace 0 0 = some 0 ∧ s1.trapSlot 0 = some 0) ∧
    Goes (late ws) tp (fun _ s1 rows => (∀ l ∈ (rowMask rows).lanes, s1.fenceMet .domain 0 0 l = true) ∧ s1.trapPlace 0 0 = some 1) ∧
    (let r : TrapRec := { turn := 3, res := 0, lanes := 1, pend := 1, gmask := [], pc := 0, time := 0, part := 0, vec := [] }
     let full := (late ws).modCore 0 fun k => { k with stash := [r, r, r, r] }
     Goes full tp (fun _ s1 rows => (∀ l ∈ (rowMask rows).lanes, s1.fenceMet .domain 0 0 l = true) ∧ s1.trapPlace 0 0 = some 2) ∧
     Goes (full.modWave 0 0 fun w => { w with held := some r }) tp (fun _ s1 rows =>
       (∀ l ∈ (rowMask rows).lanes, s1.fenceMet .domain 0 0 l = true) ∧ s1.trapPlace 0 0 = none)) ∧
    Goes ws tp (fun _ s1 rows => (rowMask rows).lanes.filter (fun l => !s1.fenceMet .domain 0 0 l) ≠ []) :=
  ⟨goes (by decide), goes (by decide), ⟨goes (by decide), goes (by decide)⟩, goes (by decide)⟩
/-- with a buffer of index 0: valid, every right, owner 0, MODE 1 (fixed), a lease of 100, 1 MiB long, and its page 0 in frame 1; slot b0 of core 0 names it -/
def buf0 : Nat := 1 + 0x3E + 2 ^ 10 + 100 * 2 ^ 16 + 2 ^ 20 * 2 ^ 64 + 0x1000 * 2 ^ 128
def withBuf (s : State) : State :=
  (((((s.setCr 16 (nRGMODE 0) 1).setCr 16 nBTLEN 1).setCr 0 (nBSLOT 0 0) 0x10000).wrHbm 0 (bytesOf 64 buf0)).wrHbm 0x1000 (bytesOf 8 0x10001)).modCl 0 fun k =>
    { k with tlb := [(pageKey 0 0, { entry := BitVec.ofNat 512 buf0, frame := 1, used := 0 })] }
/-- a posted record of a trap of turn 3 of core 1, whose lane 2 waits -/
def tr0 : TrapRec := { turn := 3, res := 10, lanes := 4, pend := 4, gmask := [4], pc := 8, time := 0, part := 0, vec := [], core := 1 }
def wt : State := { (sr [(0, 0), (1, 0xFFFFFFFF), (4, 1 + 2 ^ 19)] : State) with lease := 10 }.modCl 0 (fun k => { k with traps := [(0, tr0)] }) |>.modCore 1 fun k =>
  { k with waves := [(3, { live := true, uid := 9, threads := [(2, { status := .parkedTrap }), (5, { status := .faulted })] })] }
def okOf {ε α : Type} (x : Except ε α) : Bool := match x with | .ok _ => true | .error _ => false
def se (n : Nat) : Spec := { srcs := (List.range n).map fun i => { pos := i, src := rg i }, dst := some { o := .reg 8 } }
theorem witness_WaveControlResults :
    Goes wt (se 2) (fun _ s1 rows => s1.storesMet 2048 0 0 true = true ∧ findK (s1.cl 0).traps (wBits (wordAt (firstRow rows) 0 0) 7 0) = some tr0 ∧
      s1.saving 1 3 0xFFFFFFFFFFFFFFFF = false ∧ tr0.absent = false) ∧
    Ready wt { srcs := [{ pos := 0, src := rg 0 }, { pos := 1, src := rg 1 }, { pos := 2, src := rg 2, n := 2, al := 2 }], dst := some { o := .reg 8 } } ∧
    Goes wt { srcs := [{ pos := 0, src := ic 1 }, { pos := 1, src := rg 1 }], dst := some { o := .reg 8 } } (fun _ s1 rows =>
      findK (s1.cl 0).traps (wBits (wordAt (firstRow rows) 0 0) 7 0) = none) ∧
    Goes wt { srcs := [{ pos := 0, src := rg 4 }, { pos := 1, src := rg 1 }], dst := some { o := .reg 8 } } (fun _ s1 rows =>
      waveName 0 (wordAt (firstRow rows) 0 0) = some (1, [3]) ∧ s1.saving 1 3 0xFFFFFFFFFFFFFFFF = false ∧ (s1.wave 1 3).live = true ∧ s1.awaited 1 = none) ∧
    -- a record of a wave that is saved in buffer 0, whose page is there
    Goes ((withBuf wt).modCl 0 fun k => { k with traps := [(0, { tr0 with absent := true, save := 0 })] }) (se 2) (fun _ s1 rows =>
      findK (s1.cl 0).traps 0 = some { tr0 with absent := true, save := 0 } ∧ s1.saving 1 3 0 = false ∧
      s1.areaWaits 0 0 0 ((Mask.lanes (wordAt (firstRow rows) 1 0 &&& 4)).flatMap fun l => savedParts l 10) = false) :=
  ⟨goes (by decide), goes (by decide), goes (by decide), goes (by decide), goes (by decide +kernel)⟩
/-- two lanes of core 0 at the end of a block of buffer 0, with headers behind it and at offset 64, and an entry of their table -/
def dv : State := ((withBuf ws).modThreads 0 0 3 fun _ t => { t with hdrW := 0x00000010000007FF }).modCore 0 fun k => { k with icache :=
  [(0, { la2 := false, words := [0x00000010000007FF, 0, 0x0100000001000BFF, 0, 0, 0, 0, 0] }), (1, { la2 := false, words := [0x0100000001000BFF, 0, 0, 0, 0, 0, 0, 0] })] }
theorem witness_TransferMovesThePath_divide :
    dv.cur.lanes.lanes = [0, 1] ∧ (64 : DWord) ≠ dv.cur.nextPc ∧ (dv.curThread 0).la2 = false ∧
    dv.checkTarget 0 0 0 false 64 = .ok 0x0100000001000BFF false ∧ (Header.ofWord 0x0100000001000BFF).ok = true ∧ (Header.ofWord 0x0100000001000BFF).conv = false ∧
    (dv.curThread 1).status = .ready ∧ (dv.curThread 1).repCnt = 0 ∧ (dv.curThread 1).atEnd dv.cur = true ∧
    (dv.codeLine 0 0 dv.cur.nextPc).map (fun ln => (ln.la2, ln.at dv.cur.nextPc)) = some (false, 0x0100000001000BFF) ∧ isHeader 0x0100000001000BFF = true ∧
    (dv.curThread 0).hdrW.extractLsb' 28 16 ≠ 0 ∧ (dv.wave 0 0).recon = [] := by decide +kernel
/-- `psave` of that wave to offset 0 of the buffer, and of a turn that holds none -/
theorem witness_WaveControlResults_save :
    Goes (withBuf wt) { srcs := [{ pos := 0, src := rg 4 }, { pos := 1, src := rg 2, n := 2, al := 2 }], dst := some { o := .reg 8 } } (fun _ s1 rows =>
      okOf (s1.saveChecks false 0 (wordAt (firstRow rows) 0 0) (pairAt (firstRow rows) 1)) = true ∧
      okOf (s1.saveChecks true 0 (wordAt (firstRow rows) 0 0) (pairAt (firstRow rows) 1)) = false) ∧
    Goes ((withBuf wt).modCore 1 fun k => { k with waves := [] }) { srcs := [{ pos := 0, src := rg 4 }, { pos := 1, src := rg 2, n := 2, al := 2 }], dst := some { o := .reg 8 } }
      (fun _ s1 rows => okOf (s1.saveChecks true 0 (wordAt (firstRow rows) 0 0) (pairAt (firstRow rows) 1)) = true ∧ s1.storesMet 2048 0 0 false = true) :=
  ⟨goes (by decide +kernel), goes (by decide +kernel)⟩
/-- in monitor mode and in shard mode: the write of SRCLS0, of a register of the cluster, and of TCTL with SWAP 0 -/
theorem witness_SeraiControlResults :
    isSerai (sr []).cur.core = true ∧ Ready (sr []) { srcs := [{ pos := 0, src := rg 0 }], dst := some { o := .reg 2, n := 2, al := 2 } } ∧
    Goes ((sr [(0, 0x30)]).setSmode 0 0 false none) { srcs := [{ pos := 0, src := rg 0 }, { pos := 1, src := rg 2, n := 2, al := 2 }] } (fun _ s1 rows =>
      s1.crAllowed 0 0 (wBits (wordAt (firstRow rows) 0 0) 23 0) = false) ∧
    Goes (sr [(0, 0x020090)]) { srcs := [{ pos := 0, src := rg 0 }, { pos := 1, src := rg 2, n := 2, al := 2 }] } (fun _ s1 rows =>
      s1.crAllowed 0 0 (wBits (wordAt (firstRow rows) 0 0) 23 0) = true ∧ wBits (wordAt (firstRow rows) 0 0) 23 0 = nTCTL ∧
      (∀ k < 8, nTCTL = nWCTX k → s1.wctxWaits k (pairAt (firstRow rows) 1) = false) ∧ dwBit (pairAt (firstRow rows) 1) 9 = false) ∧
    Goes (sr [(0, 0x020090), (2, 0x200)]) { srcs := [{ pos := 0, src := rg 0 }, { pos := 1, src := rg 2, n := 2, al := 2 }] } (fun _ s1 rows =>
      s1.crAllowed 0 0 nTCTL = true ∧ dwBit (pairAt (firstRow rows) 1) 9 = true ∧ swst (s1.cr 0 nTCTL) ≠ 7) ∧
    Goes ((sr [(0, 0x020090), (2, 0x200)]).setCr 0 nTCTL 0x1C00) { srcs := [{ pos := 0, src := rg 0 }, { pos := 1, src := rg 2, n := 2, al := 2 }] }
      (fun _ s1 rows => dwBit (pairAt (firstRow rows) 1) 9 = true ∧ swst (s1.cr 0 nTCTL) = 7) ∧
    sc.checkTarget sc.cur.core sc.cur.turn 0 false 64 = .ok 0x0100000001000BFF false ∧
    Ready (sr []) { srcs := [{ pos := 0, src := rg 0 }, { pos := 1, src := rg 2, n := 2, al := 2 }, { pos := 2, src := rg 4 }], dst := some { o := .reg 5 } } ∧
    Ready (sr []) { srcs := [{ pos := 0, src := rg 0 }] } ∧
    Goes (sr []) {} (fun _ s1 _ => s1.isMonitor 0 0 = true) ∧ Goes ((sr []).setSmode 0 0 false none) {} (fun _ s1 _ => s1.isMonitor 0 0 = false) :=
  ⟨by decide, goes (by decide), goes (by decide), goes (by decide), goes (by decide), goes (by decide), by decide, goes (by decide), goes (by decide),
    goes (by decide), goes (by decide)⟩
/-- found at a place -/
def okAt (r : Chk) : Bool := match r with | .ok _ _ => true | _ => false
/-- found in the own SRAM of serai 0, where no test runs -/
def untested (s : State) (r : Chk) : Bool := match r with | .ok p _ => isOwn 2048 p && !s.heldPlace p | _ => false
/-- loads, a store, an atomic and tag accesses at the last bytes of page 0 of the buffer -/
theorem witness_MemoryAccessResults :
    let s := withBuf (w2 [(0, 65532)] [(0, 0)])
    let m := mslot 0 (rg 0) 0
    Goes s { srcs := [idxSrc m], dst := some (loadDst (.reg 3) 1) } (fun _ s1 rows => ∀ p ∈ rows, okAt (s1.checkMem 0 0 p.1 m (p.2.getD 0 []) 4 rREAD) = true) ∧
    Goes s { srcs := [idxSrc m, { pos := 3, src := rg 1, n := 1, al := 1 }] } (fun _ s1 rows =>
      ∀ p ∈ rows, okAt (s1.checkMem 0 0 p.1 m (p.2.getD 0 []) 4 rWRITE) = true ∧ okAt (s1.checkMem 0 0 p.1 m (p.2.getD 0 []) 4 rATOM) = true) ∧
    Goes s { srcs := [idxSrc m], dst := some { o := .reg 3 } } (fun _ s1 rows => ∀ p ∈ rows, okAt (s1.checkMem 0 0 p.1 m (p.2.getD 0 []) 1 rREAD) = true) ∧
    Goes s { srcs := [idxSrc m, { pos := 3, src := rg 1 }] } (fun _ s1 rows => ∀ p ∈ rows, okAt (s1.checkMem 0 0 p.1 m (p.2.getD 0 []) 1 rWRITE) = true) ∧
    -- and at a serai, in its own SRAM, with no test running there
    Goes (sr [(0, BitVec.ofNat 32 (seraiAddr 0 0x40))]) { srcs := [idxSrc { mode := .sa, slot := 0, idx := rg 0, disp := .short 0 }], dst := some (loadDst (.reg 3) 1) }
      (fun _ s1 rows => ∀ p ∈ rows, untested s1 (s1.checkMem 2048 0 p.1 { mode := .sa, slot := 0, idx := rg 0, disp := .short 0 } (p.2.getD 0 []) 4 rREAD) = true) :=
  ⟨goes (by decide +kernel), goes (by decide +kernel), goes (by decide +kernel), goes (by decide +kernel), goes (by decide)⟩
theorem witness_OrderingResults :
    let m := mslot 0 (rg 0) 0
    let sp : Spec := { srcs := [idxSrc m, { pos := 3, src := rg 1, n := 1, al := 1 }] }
    Goes (late ws) sp (fun _ s1 rows => s1.unfenced (scopeOf 3) (rows.map (·.1)) = []) ∧ Goes ws sp (fun _ s1 rows => s1.unfenced (scopeOf 3) (rows.map (·.1)) ≠ []) ∧
    Goes (late ws) {} (fun _ s1 rows => s1.unfenced (fenceScope 3) (rows.map (·.1)) = []) ∧ Goes ws {} (fun _ s1 rows => s1.unfenced (fenceScope 3) (rows.map (·.1)) ≠ []) ∧
    Goes ws {} (fun _ s1 _ => (s1.wave 0 0).armed = 0) ∧ Goes (ws.modWave 0 0 fun w => { w with satf := 1, arm := 1 }) {} (fun _ s1 _ => (s1.wave 0 0).armed ≠ 0) :=
  ⟨goes (by decide), goes (by decide), goes (by decide), goes (by decide), goes (by decide), goes (by decide)⟩
theorem witness_TaskResults :
    let sp : Spec := { srcs := [{ pos := 0, src := rg 0, n := 16, al := 16 }], dst := some { o := .reg 16 } }
    let on := (wp []).setCr 0 (nTQ 0 1) 0x208
    Goes (wp []) sp (fun _ s1 _ => (s1.qdesc 0 (nTQ 0 0)).en = false) ∧
    Goes on sp (fun _ s1 rows => wsBits ((firstRow rows).getD 0 []) 15 2 = 0 ∧ (s1.qdesc 0 (nTQ 0 0)).en = true ∧ (s1.qdesc 0 (nTQ 0 0)).part = (s1.cl 0).part ∧
      (s1.core 0).spawns.length < 8) ∧
    Goes (on.modCore 0 fun k => { k with spawns := List.replicate 8 { words := [], turn := 1, lanes := 1, uid := 0, prods := [], upTo := 0, wh := 0 } }) sp
      (fun _ s1 _ => 8 ≤ (s1.core 0).spawns.length) ∧
    Goes (wp [0, 0, 0, 0]) { srcs := [{ pos := 0, src := rg 0, n := 4, al := 4 }], dst := some { o := .reg 16 } } (fun _ _ rows => msetBad ((firstRow rows).getD 0 []) = true) ∧
    Goes (wp [0x4100, 0x8000, 0, 128]) { srcs := [{ pos := 0, src := rg 0, n := 4, al := 4 }], dst := some { o := .reg 16 } } (fun _ _ rows => msetBad ((firstRow rows).getD 0 []) = false) ∧
    Ready ws { srcs := [{ pos := 0, src := rg 0 }], dst := some { o := .reg 4, n := 4, al := 4 } } ∧
    Ready ws { srcs := [{ pos := 0, src := rg 0 }, { pos := 1, src := rg 1 }], dst := some { o := .reg 4 } } :=
  ⟨goes (by decide), goes (by decide), goes (by decide), goes (by decide), goes (by decide), goes (by decide), goes (by decide)⟩
/-- a counter below and at its bound; a serai whose mailbox takes messages, with 0, 15 and 16 of them in the ring of sender 0 -/
def mail (n : Nat) : State := { (sr [(5, 0xFFFF)] : State) with lease := 10, running := 1 }.setCr 0 nMBOX 1 |>.modCl 0 fun k => { k with mailTail := [(0, n)] }
theorem witness_CounterAndMailResults :
    Goes (ws.setCr 0 (nNCTR 0) 2) { srcs := [{ pos := 0, src := ic 0 }, { pos := 1, src := ic 2 }], dst := some { o := .reg 4 } } (fun _ s1 rows =>
      ∀ p ∈ rows, nctrMet (s1.cr 0 (nNCTR (wBits (wordAt p.2 0 0) 7 0))) ((wordAt p.2 1 0).setWidth 64) = true) ∧
    Goes (ws.setCr 0 (nNCTR 0) 2) { srcs := [{ pos := 0, src := ic 0 }, { pos := 1, src := ic 3 }], dst := some { o := .reg 4 } } (fun _ s1 rows =>
      ∀ p ∈ rows, nctrMet (s1.cr 0 (nNCTR (wBits (wordAt p.2 0 0) 7 0))) ((wordAt p.2 1 0).setWidth 64) = false) ∧
    (let sp : Spec := { srcs := [{ pos := 0, src := rg 16, n := 16, al := 16 }, { pos := 1, src := ic 0 }], dst := some { o := .reg 4 } }
     Goes (late (sr [])) sp (fun _ s1 _ => s1.accepts 0 = false ∧ s1.fenceMet .domain 2048 0 0 = true) ∧
     Goes (mail 15) sp (fun _ s1 rows => s1.accepts 0 = true ∧ wBits (wordAt (firstRow rows) 0 0) 31 28 = 0 ∧ (s1.cl 0).mailUsed 0 < 16) ∧
     Goes (mail 16) sp (fun _ s1 rows => s1.accepts 0 = true ∧ wBits (wordAt (firstRow rows) 0 0) 31 28 = 0 ∧ 16 ≤ (s1.cl 0).mailUsed 0) ∧
     Goes ((mail 0).modThread 2048 0 0 fun t => { t with regs := [(16, 0x10000000)] }) sp (fun _ _ rows => wBits (wordAt (firstRow rows) 0 0) 31 28 ≠ 0)) ∧
    Goes (mail 1) { srcs := [{ pos := 0, src := rg 5 }], dst := some { o := .reg 16, n := 16, al := 16 } } (fun _ s1 rows =>
      (s1.cl 0).nextSender (wBits (wordAt (firstRow rows) 0 0) 15 0) = some 0) ∧
    Goes (mail 0) { srcs := [{ pos := 0, src := rg 5 }], dst := some { o := .reg 16, n := 16, al := 16 } } (fun _ s1 rows =>
      (s1.cl 0).nextSender (wBits (wordAt (firstRow rows) 0 0) 15 0) = none) :=
  ⟨goes (by decide), goes (by decide), ⟨goes (by decide), goes (by decide), goes (by decide), goes (by decide)⟩, goes (by decide), goes (by decide)⟩
/-- a store in flight -/
def st0 (core : Nat) (place : Place) (size : Nat) (kind : StoreKind) (stage : Nat) : PStore :=
  { core, turn := 0, lane := 0, uid := 1, place, size, data := 5, kind, acq := false, stage, bti := 0, off := 0, flat := true, pc := 8, word := 0 }
/-- MMIO: misaligned, below 0x1000 in shard mode, at 0x1000, at a port with a drive and at a pair with a reserved bit; a store not yet done -/
theorem witness_CounterAndMailResults_mmio :
    let sp : Spec := { srcs := [{ pos := 0, src := rg 0, n := 2, al := 2 }, { pos := 1, src := rg 2 }] }
    let sd : Spec := { srcs := [{ pos := 0, src := rg 0, n := 2, al := 2 }], dst := some { o := .reg 4 } }
    Goes (sr [(0, 0x1001)]) sp (fun _ _ rows => dwBits (pairAt (firstRow rows) 0) 31 0 % 4 ≠ 0) ∧
    Goes ((sr [(0, 0xFFC)]).setSmode 0 0 false none) sp (fun _ s1 rows => dwBits (pairAt (firstRow rows) 0) 31 0 % 4 = 0 ∧
      dwBits (pairAt (firstRow rows) 0) 31 0 < 0x1000 ∧ s1.isMonitor 0 0 = false) ∧
    Goes ((sr [(0, 0x1000)]).setSmode 0 0 false none) sp (fun _ s1 rows => 0x1000 ≤ dwBits (pairAt (firstRow rows) 0) 31 0 ∧ s1.storesMet 2048 0 0 false = true ∧
      dwBits (pairAt (firstRow rows) 0) 63 33 = 0 ∧ s1.drives.getLsbD 0 = true) ∧
    Goes (sr [(0, 0x1000), (1, 2)]) sd (fun _ s1 rows => s1.isMonitor 0 0 = true ∧ dwBits (pairAt (firstRow rows) 0) 63 33 ≠ 0) ∧
    Goes { (sr [(0, 0x1000)] : State) with stores := [(3, st0 2048 (.sram 0) 1 .data 0)] } sp (fun _ s1 _ => s1.storesMet 2048 0 0 false = false) :=
  ⟨goes (by decide), goes (by decide), goes (by decide), goes (by decide), goes (by decide)⟩
/-! Steps and events -/

/-- the `add` of chapter 4, placed to be fetched -/
def fw : State := State.reset.withFetchWord 64 0x000000D040002001
theorem witness_StepRunsTheInstruction : ¬(fw.phase = 0 ∧ fw.warm = .run) ∧ fw.acts = [coreAct 0] ∧
    (match fw.coreTodo 0 with | .run i _ => decide (i = .add gd s32 (.reg 8) (rg 0) { o := .intc 65, e := false }) | _ => false) = true :=
  ⟨by decide, rfl, by decide⟩
/-- two cores that may issue -/
theorem witness_StepRunsTheInstruction_choice :
    let s := fw.modCore 1 fun _ => fw.core 0
    ¬(s.phase = 0 ∧ s.warm = .run) ∧ s.acts = [coreAct 0, coreAct 1] := ⟨by decide, rfl⟩
theorem witness_StepRunsTheInstruction_tariff :
    let s := State.reset.withFetchWord 32 0x0000004F
    (s.cl 0).decision.map (fun d => (d.cycles, d.idx)) = some (0, 0) ∧ tReads ((s.cl 0).active.getD 0 0) (.tMovi 1 0) = true := by decide
theorem witness_StepRunsTheInstruction_port : (fw.wave 0 0).live = true ∧ (fw.wave 0 0).busy = false ∧ (1 : Mask) ≠ 0 ∧
    ∀ l ∈ Mask.lanes 1, ((fw.wave 0 0).thread l).status = .ready ∧ ((fw.wave 0 0).thread l).pc = 8 ∧ ((fw.wave 0 0).thread l).pending = false := by decide
/-- one path at offset 8 of line 0, whose words are `ws` behind a header of LEN `len`, as LA3 or LA2 code -/
def at8 (len : Nat) (la2 : Bool) (ws : List DWord) : State :=
  (w1 []).modCore 0 fun k => { k.modWave 0 (fun w => w.modThread 0 fun t => { t with hdrW := BitVec.ofNat 64 (0x3FF + len * 2 ^ 10), la2 }) with
    icache := [(0, { la2, words := (BitVec.ofNat 64 (0x3FF + len * 2 ^ 10)) :: ws })] }
/-- the path issues: a word that decodes, one with an extension word, one that ends its block, a word that does not decode, and LA2 code -/
theorem witness_StepRunsTheInstruction_issue :
    let ok := fun (s : State) (la2 ext : Bool) (n len : Nat) =>
      (∀ l ∈ s.cur.lanes.lanes, (s.curThread l).defer = []) ∧ (s.curThread 0).la2 = la2 ∧
      ((s.codeLine 0 0 8).map fun ln => (ln.la2, hasExt (ln.at 8))) = some (la2, ext) ∧ (caOff s.cur.pc - caOff (s.curThread 0).hdr) / 8 = 1 ∧ 1 + n ≤ len + 1 ∧
      dwBits (s.curThread 0).hdrW 17 10 = len
    ok (at8 7 false [0x000000D040002001]) false false 1 7 ∧ reads 0x000000D040002001 (.add gd s32 (.reg 8) (rg 0) { o := .intc 65, e := false }) = true ∧
    ok (at8 2 false [0x400000000000201C, 7]) false true 2 2 ∧
    ok (at8 1 false [0x0000000000000066]) false false 1 1 ∧ reads 0x0000000000000066 (.exit gd) = true ∧ (Instr.exit gd).endsBlock = true ∧
    ok (at8 7 false [0]) false false 1 7 ∧ ok (at8 0 true [0]) true false 0 0 := by decide
/-- an untranslatable LA2 word records opcode 0x384 with cause 6, and itself (R84) -/
theorem test_la2_untranslatable :
    (match (at8 0 true [0x100]).issueAt with
     | .run i s => (match exec i s with
       | .next t => ((t.thread 0 0 0).xrec.map fun r => (r.code, r.finfo, r.extra, r.word)) == some (1, 0x1B84, 0x100, 0x100)
       | _ => false)
     | _ => false) = true := by decide
theorem witness_StepRunsTheInstruction_la2 : (match decodeLa2 1 with | .ok _ => true | .error _ => false) = true := by decide
theorem witness_EveryStepGoesOn : (State.reset.setCr 16 nBOOTSTAT 15).phase = 15 ∧ (State.reset.setCr 16 nBOOTSTAT 15).acts = [] := ⟨by decide, rfl⟩
/-- a core with a wave of turn 0 that holds nothing but `w`, running -/
def cw (w : Wave) : State := { State.reset with cores := [(0, { waves := [(0, w)] })] }
def th (st : Status) (wait : Wait) : Thread := { pc := 8, status := st, wait }
theorem witness_CoreEvents :
    let pr : Prod := { core := 0, turn := 0, lane := 0, uid := 0, src := .vals [7], dsts := [3] }
    let one := fun (t : Thread) => cw { live := true, threads := [(0, t)] }
    (findK ({ State.reset with prods := [(4, pr)] } : State).prods 4).map (·.src) = some (.vals [7]) ∧
    (let s := one (th .blockedEmpty (.regs [(0, 3)]))
     (s.wave 0 0).isBlocked 0 = true ∧ s.waitMet 0 0 0 (s.thread 0 0 0).wait = true) ∧
    (let s := (one (th .ready .none)).modCore 0 fun k => { k.modWave 0 (fun w => { w with qcnt := 64 }) with cycle := { paths := [(0, 8, 1)] } }
     (s.wave 0 0).rot = false ∧ (s.core 0).cycle.waiting 0 ≠ [] ∧ (s.wave 0 0).quant ≤ (s.wave 0 0).qcnt) ∧
    (let s := cw { live := true, rot := true, rotLeft := 0 }
     (s.wave 0 0).rot = true ∧ (s.wave 0 0).rotLeft = 0 ∧ (s.wave 0 0).paths = []) ∧
    (let s := one (th .parkedTrap .none)
     (s.core 0).cycle.phase = 0 ∧ ∀ w ∈ (s.core 0).waves, ∀ x ∈ w.2.threads, x.2.status ≠ .ready) ∧
    (let s : State := { State.reset with cores := [(2048, { fills := [1152921504606846981] })] }
     (1152921504606846981) ∈ (s.core 2048).fills ∧ seraiAddr (clusterOf 2048) 320 / 128 ∉ s.badSram) ∧
    (wb.wave 0 0 |>.walker 1).bound = true := by decide
/-- two lanes whose walker reads another core's slice, with nothing that holds the fetch back -/
theorem witness_CoreEvents_walker :
    let wk := (wb.wave 0 0).walker 1
    (wb.walkerNext 0 0 wk).map (fun x => (x.1, x.2.length)) = some (wk.buf.length, 32) ∧
    ((wb.walkerNext 0 0 wk).any fun x => x.2.any fun y => (wb.thread 0 0 y.1).status != .exited && wb.fetchHeld 0 0 y.1 wk y.2) = false := by decide
/-- a code line of the buffer -/
theorem witness_CoreEvents_fill :
    let s := (withBuf (cw {})).modCore 0 fun k => { k with fills := [3] }
    (s.core 0).icache.length < icacheLines ∧ 3 ∈ (s.core 0).fills ∧ s.checkBuf 0 [] 0 (some 0) 192 8 rEXEC = .ok (.hbm 65728) (BitVec.ofNat 512 buf0) ∧ s.heldPlace (.hbm 65728) = false ∧
    s.homeDown (.hbm 65728) 64 = none := by decide +kernel
/-- the command of chapter 9 in the lathe, before and after its steps, and waiting in the queue -/
def lrun (step : Nat) : LatheRun := { turn := 0, uid := 1, op := 5, words := [0x81, 0, 0xC1, 0, 0x841, 0x20200], regsA := [], regsB := [], step }
def lc (bank : Bank) (step : Nat) : State := { State.reset with cores := [(0, { banks := [(0, bank)], lathe := [lrun step] })] }
theorem witness_LatheEvents :
    let q : State := { State.reset with cores := [(0, { queues := [(32, [.cmd [] 0 1 5 [] []])] })] }
    ((q.core 0).queue 32).length = 1 ∧ (q.core 0).lathe.length < 4 ∧
    (LatheCmd.ofWords (lrun 0).words).steps = 1 ∧ ((lc {} 1).core 0).lathe = [lrun 1] ∧
    (let c := LatheCmd.ofWords (lrun 0).words
     c.at_ 0 = (0, 0, 0, 0) ∧ c.acc = false ∧ (((lc { word := 0x80001 } 0).core 0).bank 0).poison = true ∧
     (((lc { word := 1, bad := true } 0).core 0).bank 0).poison = false) ∧
    (LatheCmd.ofWords [0x81, 0, 0xC1, 0, 0x841, 0x20210]).acc = true ∧
    (let a : AstOp := { op := 9, turn := 0, uid := 1, rows := [] }
     let s : State := { State.reset with lease := 10, cores := [(0, { asts := [a, { a with op := 8, vis := some 9 }] })] }
     ((s.core 0).asts.find? fun a => a.op == 9) = some a ∧ ((s.core 0).asts.find? fun a => a.op == 8).bind (·.vis) = some 9 ∧ Lease.before 9 s.lease = true) := by
  decide
/-- copy queue 0 of cluster 0 at offset 0x1000 of core 0's slice, with the packet `ws` in its first slot -/
def cq (ws : List Word) : State :=
  ((((withSp State.reset).setCr 0 (nCQ 0 0) 0x1000).setCr 0 (nCQ 0 1) 0x208).wrSram 0x1080 (bytesOfWords (ws ++ List.replicate (16 - ws.length) 0)))
/-- a fill of 64 bytes at offset 0; the same with a reserved TAGMODE -/
def fillP : List Word := [0x10001, 0, 5, 0, 0, 0, 64, 1]
def trk (stage : Nat) (w0 : Word) : CopyTrk := { words := [w0, 0, 5, 0, 0, 0, 64, 1, 0, 0, 0, 0, 0, 0, 0, 0], op := 5, order := 3, stage }
def withTrk (s : State) (t : CopyTrk) : State := s.modCore 0 fun k => { k with copyTrk := [(0, t)] }
/-- the result of a check of the engines -/
def eOk {α : Type} (r : EChk α) : Bool := match r with | .ok _ => true | _ => false
def eBad {α : Type} (r : EChk α) : Bool := match r with | .bad _ => true | _ => false
theorem witness_CopyEvents :
    let q : State := { State.reset with cores := [(0, { queues := [(33, [.cmd [] 0 1 5 [] []])] })] }
    ((q.core 0).queue 33).length = 1 ∧ (q.core 0).freeCopy = some 0 ∧
    (let s := withTrk (cq fillP) (trk 0 0x10040)
     (s.core 0).queue 33 = [] ∧ (firstTrk (·.order) (fun t => decide (t.stage < 2)) (s.core 0).copyTrk).map (·.1) = some 0 ∧ wsBits (trk 0 0x10040).words 15 6 ≠ 0) ∧
    (wsBits (trk 0 0x10001).words 15 6 = 0 ∧ ((cq fillP).qdesc 0 (nCQ 1 0)).en = false) ∧
    (let d := (cq fillP).qdesc 0 (nCQ 0 0)
     d.en = true ∧ d.part = ((cq fillP).cl 0).part ∧ eOk ((cq fillP).queueMem 0 d).1 = true ∧ eOk ((cq fillP).queueClaim 0 (nCQ 0 0)).1 = true) ∧
    eOk ((cq fillP).queuePut 0 (nCQ 0 0) 15 (copySlot 0 0 (trk 1 0x10000).words)).1 = true := by decide
theorem witness_CopyEvents_take :
    ((cq fillP).copies.filter fun p => p.2.cl == 0).length < copyEngines ∧ ((cq fillP).queueHead 0 (nCQ 0 0)).1.isSome = true ∧
    eOk ((cq fillP).packetCheck 0 0 0 (fillP ++ List.replicate 8 0)).1 = true ∧
    eBad ((cq fillP).packetCheck 0 0 0 ((fillP.set 1 3) ++ List.replicate 8 0)).1 = true := by decide +kernel
/-- a packet of each operation that has been taken, and one that is done and visible -/
theorem witness_CopyEvents_run :
    let o : CopyOp := { cl := 0, q := 0, words := fillP }
    let s : State := { State.reset with lease := 10, copies := [(3, o), (4, { o with words := fillP.set 0 1 }), (5, { o with words := fillP.set 0 0x20001 }), (6, { o with done := true, vis := some 9 })] }
    (findK s.copies 3 = some o ∧ s.packetHeld o = false ∧ s.packetCause o = none) ∧ pOp o.words = 1 ∧ pOp (fillP.set 0 1) = 0 ∧ pOp (fillP.set 0 0x20001) = 2 ∧
    (findK s.copies 6).map (fun o => (o.done, o.vis)) = some (true, some 9) ∧ Lease.before 9 s.lease = true ∧ o.ctr = [] ∧
    -- one with a counter, which is up
    (let x := { o with done := true, ctr := [((.sram (sliceAddr 0 0) : Place), 8)] }
     let s : State := { State.reset with lease := 10, copies := [(3, x)] }
     findK s.copies 3 = some x ∧ s.eHeld (.sram (sliceAddr 0 0)) = false ∧ s.homeDown (.sram (sliceAddr 0 0)) 8 = none) := by decide
/-- a slot that fills, and a full one with a drain that is bad, one whose tile is to be written, and one that is visible -/
theorem witness_DepotAndSeraiEvents :
    let d : Drain := { cl := 0, core := 1, slot := 1, op := 5, off := 0, bad := false }
    let s : State := { State.reset with lease := 10, cls := [(0, { depot := [(0, { state := 1, nblk := 1 }), (1, { state := 2, nblk := 1 }), (2, { state := 2, nblk := 1, lost := true })] })], drains := [(3, d), (4, { d with bad := true }), (5, { d with vis := some 9 }), (6, { d with vis := some 9, gone := true }), (7, { d with slot := 2 })] }
    ((s.cl 0).slot 0).state = 1 ∧ ((s.cl 0).slot 0).state ≠ 0 ∧ findK s.drains 3 = some d ∧ ((s.cl 0).slot d.slot).state = 2 ∧ ((s.cl 0).slot d.slot).lost = false ∧
    (findK s.drains 4).map (·.bad) = some true ∧ (findK s.drains 5).map (fun d => (d.vis, d.gone)) = some (some 9, false) ∧
    (findK s.drains 6).map (fun d => (d.vis, d.gone)) = some (some 9, true) ∧ (findK s.drains 7).map (fun d => (d.bad, d.vis)) = some (false, none) ∧
    ((s.cl 0).slot 2).lost = true ∧ ((s.cl 0).slot 2).state = 2 ∧ Lease.before 9 s.lease = true := by decide
/-- a record to post with room in the ring; a stash record with a free slot; restored and held records; an event and a count of lost ones; a
save that is visible -/
theorem witness_DepotAndSeraiEvents_records :
    let x : XRec := { code := 1, finfo := 0, turn := 0, lane := 0, reps := 0, pc := 8, extra := 0, time := 0, word := 0 }
    let s : State := (({ State.reset with lease := 10, cores := [(0, { xrecs := [x], stash := [tr0] })], cls := [(0, { events := [(2, [[]])], drops := [(3, (1, 0))] })],
                                          saves := [(3, { restore := false, core := 0, turns := [0], bti := 0, off := 0, prod := 1, time := 0, vis := some 9 })] } : State).setCr
      0 nXRING 0x1400000 |>.setCr 0 nERING 0x1400000).setCr 0 nTNOTE 1
    (s.core 0).xrecs = [x] ∧ (s.ringPlace 0 nXRING nXPTR 64).isSome = true ∧ (s.core 0).stash = [tr0] ∧ (s.trapSlot 0).isSome = true ∧
    getK [] (s.cl 0).events 2 = [[]] ∧ (s.ringPlace 0 nERING nEPTR 64).isSome = true ∧ getK [] (s.cl 0).events 3 = [] ∧ (getK (0, 0) (s.cl 0).drops 3).1 ≠ 0 ∧
    (findK s.saves 3).map (fun o => (o.restore, o.vis)) = some (false, some 9) ∧ Lease.before 9 s.lease = true := by decide
/-- a restore into turn 0 of core 1 from offset 0 of the buffer, three pages of which are there; an area of nothing, and one that was saved -/
def rst (head : Nat) : State :=
  { ((withBuf State.reset).wrHbm 0x1000 ([0x10001, 0x20001, 0x30001].flatMap (bytesOf 8))).wrHbm 65536 (bytesOf 16 head) with
    saves := [(3, { restore := true, core := 1, turns := [0], bti := 0, off := 0, prod := 1, time := 0 })] }
theorem witness_DepotAndSeraiEvents_restore :
    (findK (rst 0).saves 3).map (·.parts) = some [(0, 0)] ∧
    (match (rst 0).areaPlace 0 ((rst 0).partOf 1) 0 0 areaSize rREAD with
     | (.ok ls, u) => ls.map (·.1) == [.hbm 65536, .hbm 131072, .hbm 196608] && ls.all fun x => !u.heldPlace x.1
     | _ => false) = true ∧
    bitsN (natOfBytes ((rst 0).rdHome (.hbm 65536) 16)) 15 0 ≠ 1 ∧
    (let img := natOfBytes ((rst (0x1010001 + 2 ^ 96)).rdHome (.hbm 65536) 16)
     bitsN img 15 0 = 1 ∧ bitsN img 16 16 = 1 ∧ bitsN img 34 24 = 1 ∧ bitsN img 101 96 = 1 ∧
     (placeQuotas ((rst 0).core 1).quotas [(0, 1, 0)]).isSome = true) := by decide +kernel
theorem witness_DepotAndSeraiEvents_stash :
    (cw { restored := [tr0] } |>.core 0).stash.length < 4 ∧ oldestRec (cw { restored := [tr0] } |>.core 0).restoredRecs = some (0, tr0) ∧
    oldestRec (cw { held := some tr0 } |>.core 0).restoredRecs = none ∧ oldestRec (cw { held := some tr0 } |>.core 0).heldRecs = some (0, tr0) := by decide
/-- task queue 0 of cluster 0 with the record `ws` at its head; QUOTA 1, LEVEL 1 or 2 -/
def tq (ws : List Word) : State :=
  ((({ State.reset with lease := 10 } : State).setCr 0 (nTQ 0 0) 0x1000).setCr 0 (nTQ 0 1) 0x208).wrSram 0x1080 (bytesOfWords (ws ++ List.replicate (16 - ws.length) 0))
def sp0 (claimed : Option Nat) : SpawnEnt := { words := 0 :: List.replicate 15 0, turn := 0, lanes := 1, uid := 1, prods := [], upTo := 0, wh := 0, claimed }
theorem witness_TaskEvents :
    (let s : State := { State.reset with cls := [(0, { pool := [(0, [0, 1])] })] }
     (s.cl 0).gather = none ∧ s.draining 0 = false ∧ (s.cl 0).pool.length = 1 ∧ ∀ q < 4, s.taskServed 0 q = false) ∧
    ((tq []).taskServed 0 0 = true ∧ ((tq [1]).queueHead 0 (nTQ 0 0)).1.isSome = true ∧ (∀ q < 4, 1 ≤ q → (tq []).taskServed 0 q = false) ∧ ((tq []).cl 0).pool = []) ∧
    (let g : Gather := { recs := [[]], queue := 0, waiting := true, again := true }
     let s : State := ({ State.reset with lease := 1000, cls := [(0, { gather := some g, preTick := some 0 })] } : State).setCr 0 nTQUANT 1
     (s.cl 0).gather = some g ∧ g.waiting = true ∧ g.again = true ∧ (s.cl 0).preTick = some 0 ∧ dwBits (s.cr 0 nTQUANT) 15 0 ≠ 0 ∧
       dwBits (s.cr 0 nTQUANT) 15 0 * 1000 ≤ (s.lease - 0).toNat) ∧
    (let e : BitVec 128 := BitVec.ofNat 128 (1 + 0x41 * 2 ^ 8)
     let s : State := { State.reset with cls := [(0, { manifest := [(3, e)] })], summary := [(7, (7, 1)), (8, (16392, 2))], sumQ := [(0, 0x41), (0, 8)] }
     findK s.summary (0x41 % 16384) = none ∧ (s.cl 0).holds 0x41 = true ∧ s.sumQ.contains (0, 0x41) = true ∧ s.sumQ.contains (0, 7) = false ∧
     findK s.summary (7 % 16384) = some (7, 1) ∧ (s.cl 0).holds 7 = false ∧ findK s.summary (8 % 16384) = some (16392, 2)) ∧
    (let s := (tq []).modCore 0 fun k => { k with spawns := [sp0 none] }
     (s.core 0).spawns = [sp0 none] ∧ s.spawnFence 0 (sp0 none) = true ∧ eOk (s.queueMem 0 (s.qdesc 0 (nTQ 0 0))).1 = true ∧
     eOk (s.queueClaim 0 (nTQ 0 0)).1 = true ∧ eOk (s.queuePut 0 (nTQ 0 0) 15 (sp0 (some 15)).words).1 = true) := by decide +kernel
/-- a record that is malformed, and one with QUOTA 1 and LEVEL 1 that passes and stays, and one that does not stay -/
theorem witness_TaskEvents_record :
    let ok : List Word := 0x04010001 :: List.replicate 15 0
    (tq []).taskBad 0 (List.replicate 16 0) = some 1 ∧ (tq ok).taskBad 0 ok = none ∧ tForward 0 ok = false ∧
    ((tq ok).queueHead 0 (nTQ 0 0)).1 = some ok := by decide +kernel
/-- one head that stays, and one of level 2 whose only target is the taking cluster -/
theorem witness_TaskEvents_heads :
    let ok : List Word := 0x04010001 :: List.replicate 15 0
    let far : List Word := 0x04020001 :: List.replicate 15 0
    ((tq ok).taskHeads 0).1 = [(0, ok)] ∧ ((tq ok).taskHeads 0).2.headWaits 0 (0, ok) = false ∧ ((tq ok).taskHeads 0).2.headBad 0 0 ok = none ∧
    tLevel far = 2 ∧ tForward 0 far = true ∧ (tq far).forwardTo 0 far = some 0 ∧ ((tq far).taskHeads 0).2.headWaits 0 (0, far) = false := by decide +kernel
def dec (ev cycles : Nat) : Decision := { evkind := ev, scal := [], depth := [], age := [], cands := [], t := List.replicate 16 0, cycles, time := 0 }
def fe : FaultEv := { core := 0, turn := 0, uid := 1, code := 8, finfo := 0, lanes := 1, pc := 8, issue := 1 }
def tar (d : Decision) (alen : Nat) : State := { State.reset with cls := [(0, { decision := some d, alen, active := List.replicate alen 0x0000004F })] }
/-- in the middle of a program, on its last instruction at the end of the budget; with candidates and without; a taken branch -/
theorem witness_TariffInstructions :
    ((tar (dec 0 0) 2).cl 0).decision = some (dec 0 0) ∧ (dec 0 0).idx + 1 < ((tar (dec 0 0) 2).cl 0).alen ∧ 64 ≤ (dec 0 63).cycles + 1 ∧ (dec 0 0).cands = [] ∧
    (let d := { dec 0 0 with cands := [[5], [6]] }
     d.cands ≠ [] ∧ (d.r 1 + 1).toNat < d.cands.length ∧ d.cands.length ≤ (({ d with t := d.t.set 1 1 } : Decision).r 1 + 1).toNat ∧ d.idx + 1 < ((tar d 2).cl 0).alen) := by decide
theorem witness_TariffDecisions :
    let d := { dec 0 0 with cands := [[3]] }
    (d.r 0).toNat < d.cands.length ∧ ((dec 0 0).r 0).toNat ≥ (dec 0 0).cands.length ∧
    (let g : Gather := { recs := [[0, 4]], queue := 0 }
     let s := (tar d 2).modCl 0 fun k => { k with gather := some g }
     (s.cl 0).gather = some g ∧ (∃ q ≤ 20, 1 ≤ q ∧ (s.core 3).canStart q = true)) ∧
    (dec 1 0).evkind = 1 ∧ ({ dec 2 0 with fault := some fe } : Decision).fault = some fe ∧ retryable 8 0 = true ∧ retryable 1 0 = false := by decide
theorem witness_TariffEvents :
    (let s : State := { State.reset with cls := [(0, { faultEvs := [fe] })] }
     (s.cl 0).decision = none ∧ (s.cl 0).faultEvs = [fe]) ∧
    (let s : State := { State.reset with cls := [(0, { preEv := 1, gather := some { recs := [], queue := 0 } })] }
     (s.cl 0).faultEvs = [] ∧ (s.cl 0).preEv ≠ 0 ∧ (s.cl 0).gather.map (·.waiting) = some false) ∧
    64 ≤ (dec 0 64).cycles ∧ swst (0x1C0C : DWord) = 7 ∧ dwBits 0x1C0C 8 0 ≤ 256 ∧ 256 < dwBits 0x1D01 8 0 ∧ swst 0x1D01 = 7 ∧
    (loadCheck [0] 0 [0] = some (2, 0) ∧ loadCheck cap 0 cap = none) := by decide
/-- stores of data and of a tag in SRAM and in HBM, at their cohort point and at their home, and the stage each then has -/
theorem witness_StoresPerformInPlace :
    (let goes := fun (p : Place) (kind : StoreKind) (n stage : Nat) (at_ : StoreStage) (next : Nat) =>
      let x : PStore := st0 0 p n kind stage
      let s : State := { State.reset with stores := [(3, x)] }
      decide (findK s.stores 3 = some x ∧ s.memWf = true ∧ x.stage < 2) && (match exec (.storePerform 3 at_) s with
        | .next t => (findK t.stores 3).any fun y => y.stage == next && y.fail == none
        | _ => false)
    goes (.hbm 124) .data 4 0 .cohort 1 && goes (.hbm 64) .tag 8 0 .cohort 1 &&
    goes (.sram 192) .data 4 0 .home 2 && goes (.sram 192) .tag 8 0 .home 2 && goes (.hbm 124) .data 4 1 .home 2 && goes (.hbm 64) .tag 8 1 .home 2) = true ∧
    124 % 64 + 4 ≤ 64 := by
  decide +kernel
/-- the own slice, another's and HBM as places of a store; an atomic with a result and a producer -/
theorem witness_IssuedStores : isOwn ws.cur.core (.sram 64) = true ∧ isOwn ws.cur.core (.sram (sliceAddr 1 0)) = false ∧ isOwn ws.cur.core (.hbm 0) = false ∧
    (atomNew 0 32 1 2 0).isSome = true ∧ (findK (ws.newProd 0 .await [3]).2.prods ws.nextId).isSome = true ∧ ws.memWf = true := by decide
/-- a store at its first point, past it at its home, and performed; the line it finds; a load that misses; a line whose lease has ended;
an old horizon; a barrier that is complete -/
theorem witness_MemoryEvents :
    let x := st0 0 (.sram (sliceAddr 128 0)) 4 .data 0
    let line : CLine := { data := List.replicate 128 0, tags := [0, 0], expiry := 20, used := 0 }
    let at_ := fun (y : PStore) => ({ State.reset with lease := 10, stores := [(3, y)], cls := [(0, { lines := [(lineKey x.place, line)] })] } : State)
    let s := at_ x
    findK s.stores 3 = some x ∧ cacheable (clusterOf x.core) x.place = true ∧ s.heldByEarlier 3 x.who x.kind.isTag x.place x.size false true = false ∧
    findK ({ s with cls := [] } : State).cls 0 = none ∧ findK (s.cl 0).lines (lineKey x.place) = some line ∧ Lease.before s.lease line.expiry = true ∧
    (let y := st0 0 (.sram (sliceAddr 128 0)) 4 .data 1
     (at_ y).heldPlace y.place = false ∧ (at_ y).homeDown y.place y.size = none ∧
     ((at_ y).stores.any fun z => clusterOf z.2.core == 0 && z.2.stage == 1 && decide (z.2.ford < y.ford) &&
        sameBytes y.kind.isTag y.place y.size z.2.kind.isTag z.2.place z.2.size) = false) ∧
    (let y := st0 0 (.sram (sliceAddr 1 0)) 4 .data 0
     cacheable 0 y.place = false ∧ (at_ y).heldByEarlier 3 y.who y.kind.isTag y.place y.size false false = false) ∧
    (2 ≤ (st0 0 (.sram 0) 4 .data 2).stage ∧ (st0 0 (.sram 0) 4 .data 2).fail = none ∧ (st0 0 (.sram 0) 4 .data 2).pair = none) ∧
    -- the two halves of a store of 16 bytes, both at home
    (let y := { st0 0 (.sram (sliceAddr 1 8)) 8 .data 2 with pair := some 3 }
     let s : State := { State.reset with stores := [(3, { st0 0 (.sram (sliceAddr 1 0)) 8 .data 2 with pair := some 4 }), (4, y)] }
     (findK s.stores 3).map (fun x => (x.stage, x.pair, x.fail)) = some (2, some 4, none) ∧ findK s.stores 4 = some y ∧ y.fail = none) ∧
    Lease.before 20 line.expiry = false ∧
    (2 ^ 47 - 1 ≤ ((0x7FFFFFFFFFFF : Lease) - 0).toNat ∧ Lease.before 0x800000000000 0 = false) := by decide
/-- an atomic at its home; a store that failed, of a thread that is there -/
theorem witness_MemoryEvents_atomic :
    let q : Prod := { core := 0, turn := 0, lane := 0, uid := 0, src := .await, dsts := [3] }
    let y := st0 0 (.sram (sliceAddr 128 0)) 8 (.atom 0 true 1 0 7) 1
    let s : State := { State.reset with stores := [(3, y)], prods := [(7, q)] }
    y.place.isFar = false ∧ s.heldPlace y.place = false ∧ s.homeDown y.place y.size = none ∧
    findK ((s.touchPlace y.place (some 0)).performAtom y.place 0 true 1 0).2.2.prods 7 = some q ∧
    (let z := { st0 0 (.sram 0) 4 .data 2 with fail := some 8 }
     let s : State := { State.reset with stores := [(3, z)], cores := [(0, { waves := [(0, { live := true, uid := 1, threads := [(0, { status := .ready })] })] })] }
     findK s.stores 3 = some z ∧ z.pair = none ∧ (s.wave 0 0).uid = z.uid ∧ (s.thread 0 0 0).status ≠ .exited) := by decide
/-- a store to a fabric buffer before its request and with its response in time -/
def fbuf0 : Nat := 1 + 0x3E + 2 ^ 48 + 2 ^ 20 * 2 ^ 64 + 5 * 2 ^ 320 + 2 ^ 330
def farState (x : PStore) (y : Prod) : State :=
  { (((State.reset.setCr 16 (nRGMODE 0) 1).setCr 16 nBTLEN 1).wrHbm 0 (bytesOf 64 fbuf0)) with lease := 200000, stores := [(3, x)], prods := [(8, y)] }
    |>.setCr 16 nFABCTL (BitVec.ofNat 64 (2 ^ 33 + 50 * 2 ^ 40)) |>.setCr 16 (nPORTSTAT 0) 3
theorem witness_MemoryEvents_far :
    let x := st0 0 (.far 0 64 5 64) 4 .data 1
    let a : Access := { place := .far 0 640 5 640, size := 4, kind := .plain, lease := 5, bti := 0, off := 0, flat := false, pc := 8, word := 0, sent := some (0, 10) }
    let y : Prod := { core := 0, turn := 0, lane := 0, uid := 1, src := .load a, dsts := [3] }
    let s := farState x y
    entryOk (BitVec.ofNat 512 fbuf0) = true ∧ s.homeDown x.place x.size = none ∧ s.heldPlace x.place = false ∧ x.sent = none ∧
    s.farLate 199000 = false ∧ s.farLate 10 = true ∧ (findK s.prods 8).map (·.src) = some (.load a) := by decide +kernel
theorem witness_MemoryEvents_fill :
    let a : Access := { place := .sram (sliceAddr 128 0), size := 4, kind := .plain, lease := 5, bti := 0, off := 0, flat := true, pc := 8, word := 0 }
    let p : Prod := { core := 0, turn := 0, lane := 0, uid := 1, src := .load a, dsts := [3] }
    let s : State := { State.reset with prods := [(3, p)] }
    let b := lineBase a.place
    s.prods = [(3, p)] ∧ clusterOf p.core = 0 ∧ a.place.isFar = false ∧ cacheable 0 a.place = true ∧ s.liveLine 0 b = none ∧ s.lineBusy 0 b = false ∧ s.heldPlace b = false ∧ s.homeDown b 128 = none := by decide
theorem witness_MemoryEvents_barrier :
    let t : Thread := { status := .parkedBarrier, arrived := some { key := 0, gen := 0, ss := none, ops := [] } }
    let s : State := { State.reset with cores := [(0, { waves := [(0, { live := true, threads := [(0, t)] })] })] }
    (s.barReady 0).1 = true := by decide
/-- a page of the buffer with its walk in flight; page 1, which is not present; page 0 kept busy -/
theorem witness_TranslationAndHbmEvents :
    let s := (withBuf State.reset).modCl 0 fun k => { k with tlb := [], walks := [{ bti := 0, page := 0 }, { bti := 0, page := 1 }] }
    ((s.cl 0).walks.take 32).any (fun w => w.bti == 0 && w.page == 0) = true ∧ s.walkHeld 0 0 = false ∧ (s.walkPage 0 0).1 = 0 ∧ (s.walkPage 0 1).1 = 3 := by
  decide +kernel
theorem witness_TranslationAndHbmEvents_busy :
    let s := ((withBuf { State.reset with lease := 200010 }).wrHbm 0x1000 [5]).modCl 0 fun k => { k with tlb := [], walks := [{ bti := 0, page := 0, busy := some 10 }] }
    ((s.cl 0).walks.find? fun w => w.bti == 0 && w.page == 0).map (fun w => (w.busy, w.eng)) = some (some 10, false) ∧ (s.walkPage 0 0).1 = 6 ∧
    Lease.before s.lease (10 + 200000) = false := by decide +kernel
theorem witness_TranslationAndHbmEvents_hbm :
    ({ State.reset with lease := 1000000 } : State).lease.toNat / 1000000 ≠ State.reset.hwin ∧
    (let s : State := { State.reset with mig := some { todo := [0], done := 0 } }
     s.mig.map (·.todo) = some [0] ∧ dwBits (s.cr 16 (nHGSTATE 0)) 47 32 + 1 < 32768 ∧
     (hashG 0 (dwBits (s.cr 16 (nHGSTATE 0)) 31 16) ^^^ hashG 0 (dwBits (s.cr 16 (nHGSTATE 0)) 15 0)) * 2 = 0) ∧
    (let s : State := { State.reset with lease := 300, hbanks := [(0, { row := some 5, last := 100, block := some 300 })] }
     (getK {} s.hbanks 0).block = some 300 ∧ Lease.before s.lease 300 = false ∧ (getK {} s.hbanks 0).row = some 5 ∧ Lease.before s.lease (100 + 100) = false) ∧
    (let s : State := { State.reset with lease := 300, cores := [(0, { throttle := some 300 })] }
     (s.core 0).throttle = some 300 ∧ Lease.before s.lease 300 = false) ∧
    (let s := State.reset.crCount 16 (nSTKSTAT 0) 63 48 1
     s.stkReload 0 = false ∧ s.stkUnavail 0 = false) ∧
    (let s : State := ({ State.reset with lease := 200000, reloadAt := [(0, 0)] } : State).setCr 16 (nSTKSTAT 0) 0x1000000
     s.stkReload 0 = true ∧ 200000 ≤ s.reloadFor 0) := by decide
/-- a Wayside command of `w0`, A0 and V0 0 and N 16, and stack 0 with it accepted and one run of 64 bytes of core 0's slice -/
def we (w0 : Word) : WayEnt := { words := [w0, 0, 16, 0, 0, 0, 0, 0, 0, 0, 0, 0], b0 := none, b1 := none, core := 0, turn := 0, uid := 1, op := 5, part := 0 }
def wst (k : WayStack) : State := { State.reset with lease := 10, ways := [(0, k)] }.setCr 16 (nWCTX 0) 0x10
def wrun (w0 : Word) : State := wst { cur := some (we w0), segs := [[(.sram (sliceAddr 0 0), 64)]] }
theorem witness_WaysideEvents_queue :
    (let s : State := { State.reset with cores := [(0, { queues := [(34, [.cmd [] 0 1 5 [] []])] })] }
     ((s.core 0).queue 34).length = 1 ∧ (s.core 0).ways.length < 8) ∧
    (let s : State := { State.reset with cores := [(0, { ways := [we 3] })] }
     (s.core 0).queue 34 = [] ∧ (s.core 0).ways = [we 3] ∧ (s.way (WCmd.ofWords (we 3).words).stack).queue.length < 64) ∧
    (State.reset.wctxWaits 0 0 = false) := by decide
/-- commands that a stack accepts: malformed, of a context it may not use, well formed without a buffer, and without its buffer -/
theorem witness_WaysideEvents_accept :
    ((wst { queue := [we 3] }).way 0).cur = none ∧ ((wst { queue := [we 3] }).way 0).queue = [we 3] ∧
    wMalformed (we 0).words = true ∧ wMalformed (we 0x103).words = false ∧ ((wst {}).wctx 0 1).2 = false ∧
    wMalformed (we 3).words = false ∧ (wst {}).wctx 0 0 = (0, true) ∧
    (let r := ((wst {}).wayBuffers (we 3) (WCmd.ofWords (we 3).words)).1
     r.wait = false ∧ firstCause r.causes = none) ∧
    wMalformed (we 2).words = false ∧
    (let r := ((wst {}).wayBuffers (we 2) (WCmd.ofWords (we 2).words)).1
     r.wait = false ∧ firstCause r.causes = some 2) := by decide
def runs (w : Word) (cmd : Nat) : Bool :=
  let s := wrun w
  decide ((s.way 0).cur = some (we w)) && !(s.way 0).ran && !s.wayHeld 0 && (WCmd.ofWords (we w).words).cmd == cmd
theorem witness_WaysideEvents_arrays : runs 1 1 = true ∧ runs 3 3 = true ∧ runs 4 4 = true ∧ runs 5 5 = true ∧ runs 7 7 = true ∧ runs 9 9 = true ∧ runs 10 10 = true ∧
    runs 11 11 = true := by decide
theorem witness_WaysideEvents_memory : runs 2 2 = true ∧ runs 6 6 = true ∧ runs 8 8 = true ∧ runs 0x1000C 12 = true ∧ runs 13 13 = true ∧
    wStoreFmt (WCmd.ofWords (we 0x1000C).words).ofmt = some .f32 ∧ (wrun 13).wayCause 0 [(.sram (sliceAddr 0 0), 8)] = none := by decide
theorem witness_WaysideEvents_done :
    let k : WayStack := { cur := some (we 3), ran := true, vis := some 9 }
    ((wst k).way 0).ran = true ∧ Lease.before 9 (wst k).lease = true ∧ ((wst k).way 0).fail = none ∧ ((wst { k with fail := some 5 }).way 0).fail = some 5 := by decide
/-- shards 0 and 1 run and take messages; the ring of `f` in `r` holds `ws` -/
def sh (r f : Nat) (ws : List Word) : State :=
  let s := ({ State.reset with running := 3 } : State).setCr 0 nMBOX 1 |>.setCr 1 nMBOX 1
  if ws = [] then s else s.putMail f r ws
/-- a file of 16 bytes at 4096 of drive 0, whose owner is shard 0, open with handle 13 -/
def file13 : FileObj := { id := 13, path := [97], data := List.replicate 16 7, side := none, exts := [{ foff := 0, len := 4096, drive := 0, lba := 8, ver := 1 }] }
def withFile (s : State) : State := { s with files := [file13], handles := [(13, { file := 13, part := 0, write := true })], drives := 1 }
set_option maxRecDepth 20000 in
theorem witness_ShardMessages :
    (((sh 0 0 []).shard 1).owner 0 = 0 ∧ ((sh 0 0 []).shard 1).cached 0 0 = false ∧
      ((sh 0 0 []).sendMsg 1 0 (message 1 9 [0, 0, 0, 0, 64])).isSome = true) ∧
    (let s := withFile (sh 0 1 (message 1 9 [13, 0, 0, 0, 64]))
     (s.shard 0).owner 13 = 0 ∧ (s.takeMsg 0 1 1 9 13).isSome = true ∧ s.handleFile 13 = some file13 ∧ (file13.extentAt 0).isSome = true ∧
     ((s.takeMsg 0 1 1 9 13).bind fun u => u.2.sendAnswer 0 1 (message 2 9 [0])).isSome = true) ∧
    (let s := withFile (sh 0 1 (message 1 9 [0, 0, 0, 0, 64]))
     (s.shard 0).owner 0 = 0 ∧ s.handleFile 0 = none ∧ ((s.takeMsg 0 1 1 9 0).bind fun u => u.2.sendAnswer 0 1 (message 2 9 [BitVec.ofInt 32 (-9)])).isSome = true) ∧
    ((sh 0 0 []).sendMsg 0 1 (message 3 9 [0, 0])).isSome = true ∧
    (let s := sh 1 0 (message 3 9 [5, 0])
     (s.shard 1).svc = [] ∧ ((s.takeMsg 1 0 3 9 5).bind fun u => u.2.sendAnswer 1 0 (message 4 9 [5, 0])).isSome = true) ∧
    (let s := sh 1 0 (message 5 9 [5])
     (s.headMail 1 0).map (fun ws => (msgType ws, msgXid ws)) = some (5, 9) ∧ ((s.dropMail 1 0).sendAnswer 1 0 (message 6 9 [1, 2])).isSome = true) := by
  decide
set_option maxRecDepth 20000 in
theorem witness_ShardMessages_update :
    (let s := sh 0 0 []
     s.update = none ∧ s.running.getLsbD 0 = true ∧ s.runningShards = [0, 1] ∧ (∀ i ∈ s.runningShards, s.accepts i = true ∧ (s.cl i).mailUsed 0 < 16)) ∧
    (let s : State := { sh 1 0 (message 7 3 [3, 0, 2, 1]) with update := some (3, 2, 1, [0, 1]) }
     s.update = some (3, 2, 1, [0, 1]) ∧ ((s.takeMsg 1 0 7 3 3).bind fun u => u.2.sendAnswer 1 0 (message 8 3 [3, 0])).isSome = true) ∧
    ((sh 0 0 []).sendAnswer 0 1 (message 9 0 [7, 0])).isSome = true := by decide
/-- cluster 0 runs, with a posted record of turn 3 of core 1 whose lane 2 waits for the call `ws` -/
def rec (ws : List Word) : TrapRec := { tr0 with vec := [(2, ws)] }
def call (ws : List Word) : State :=
  let s := (withFile (withBuf ({ State.reset with running := 1 } : State))).setCr 0 (nBSLOT 1 0) 0x10000 |>.setCr 0 (nSPALLOC 1) 0x1000000
  s.modCl 0 fun k => { k with traps := [(0, rec ws)] }
/-- the call waits to be served by shard 0 -/
def waits (ws : List Word) (group : Nat := 0) : Bool :=
  decide (((call ws).svcGroup 0 0 group).map (fun g => (g.2.1, g.2.2)) = some (4, ws)) && !((call ws).shard 0).sentOn 0 group (rec ws) &&
  (((call ws).shard 0).served 0 group (rec ws)).isNone
/-- a call whose bytes pass their checks: every drive there, and every block up -/
def bytesOk (ws : List Word) (right n : Nat) : Bool :=
  match (call ws).svcPlace 0 (rec ws) ws right n with
  | (some (.inl segs), u) => !u.driveGone file13.exts (callArg ws 1) n &&
      (segs.flatMap fun p => blocksOf p.1 p.2).all fun b => !u.eHeld b.1 && (u.homeDown b.1 b.2).isNone && (u.writeCause b.1 b.2 (b.2 == 64)).isNone
  | _ => false
theorem witness_ServiceEvents :
    (∀ ws ∈ ([[0x40], [0x10, 5], [0x10, 0, 65536], [0x11, 13], [0x11, 0], [0x12, 0], [0x12, 13, 0, 0, 0], [0x12, 13, 0, 0, 16, 0, 0], [0x13, 0],
      [0x13, 13, 0, 0, 16, 0, 0], [0x30, 0, 0, 65536], [0x30, 0, 1, 4], [0x31, 0, 0, 65536]] : List (List Word)), waits ws = true) ∧
    svcCalls.contains 0x40 = false ∧ (call []).slotIndex 1 5 = none ∧ (call []).slotIndex 1 0 = some 0 ∧ ((call []).shard 0).owner 13 = 0 ∧
    ((call []).shard 0).owner 0 = 0 ∧ (findK (call []).handles 13).map (·.write) = some true ∧ findK (call []).handles 0 = none ∧
    (call []).handleFile 0 = none ∧ (call []).handleFile 13 = some file13 ∧ (call []).readFile 0 13 = some file13 ∧
    callArg [0x12, 13, 0, 0, 0] 3 = 0 ∧ ((call []).svcPages tr0 [0x30, 0, 0, 65536] = .inl (0, [0]) ∧
    (call []).svcPages tr0 [0x30, 0, 1, 4] = .inr (errWord 22)) := by decide +kernel
/-- reads: one through the shard's SRAM, and a direct one; writes: inside an extent, and past the end, which changes the extents -/
theorem witness_ServiceEvents_bytes :
    (call []).hasExtents 0 13 0 512 = true ∧ ((call []).shard 0).bufs = [] ∧
    svcDirect [0x12, 13, 0, 0, 16, 0, 0] = false ∧ bytesOk [0x12, 13, 0, 0, 16, 0, 0] rWRITE 16 = true ∧
    svcDirect [0x12, 13, 0, 0, 512, 0, 0] = true ∧ bytesOk [0x12, 13, 0, 0, 512, 0, 0] rWRITE 512 = true ∧
    file13.grows 0 16 = false ∧ bytesOk [0x13, 13, 0, 0, 16, 0, 0] rREAD 16 = true ∧ file13.grows 4096 16 = true ∧ (call []).invalidated 0 13 = true ∧
    bytesOk [0x13, 13, 4096, 0, 16, 0, 0] rREAD 16 = true := by decide +kernel
/-- a read that the drive has served, its bytes and its sidecar's tags in the shard's SRAM -/
theorem witness_ServiceEvents_moved :
    let b : SvcBuf := { slot := 0, group := 0, order := 0, at_ := some (seraiAddr 0 0), side := some (seraiAddr 0 4096), n := 16, vis := 0 }
    let s := (call [0x12, 13, 0, 0, 16, 0, 0]).modShard 0 fun k => { k with bufs := [b] }
    (s.shard 0).bufs = [b] ∧ s.regionHeld (seraiAddr 0 0) = false ∧ s.readCause (.sram (seraiAddr 0 0)) 16 = none ∧
    s.regionHeld (seraiAddr 0 4096) = false ∧ s.readCause (.sram (seraiAddr 0 4096)) 2 = none := by decide +kernel
/-- pages of buffer 0 can be unmapped; that they are mapped needs a frame, which is open -/
theorem witness_ServiceEvents_pages :
    (match ((call []).unmapPages 0 [0]).1 with | .ok _ => true | _ => false) = true ∧ (((call []).modShard 0 fun k => { k with ownmap := [(7, 0)] }).shard 0).owner (bufferId 0) = 0 ∧
    (match (((call []).setCr 16 (nSTKSTAT 0) 0xFFFFFFFF).unmapPages 0 [0]).1 with | .ok _ => false | _ => true) = true ∧
    (match ((call []).mapPages 0 0 []).1 with | .ok _ => true | _ => false) = true := by decide +kernel
theorem witness_ServiceEvents_open :
    (match (((call [0x10, 0, 65536]).wrHbm 65536 [97]).readPath 0 0 0 0 4096).1 with | .ok p => p == [97] | _ => false) = true ∧ ((call []).files.find? fun f => f.path == [97]) = some file13 := by
  decide +kernel
/-- calls sent on: of a record of shard 1 on a file of shard 0, and an EXTREQ; the owner's answer -/
theorem witness_ShardMessages_fwd :
    (let c : MsgWords := [0x11, 13, 0, 0, 0, 0, 0, 0, 1]
     let s := (withFile (sh 0 0 [])).modCl 1 fun k => { k with traps := [(0, { tr0 with core := 128, vec := [(2, [0x11, 13, 0, 0, 0, 0, 0])] })] }
     s.fwdOf 1 0 c = some (0, 0, tr0.order) ∧ (s.sendMsg 1 0 (message 5 9 c)).isSome = true) ∧
    (let c : MsgWords := [0x12, 13, 0, 0, 64, 0, 0, 0, 0]
     let s := withFile (sh 1 0 (message 1 9 [13, 0, 0, 0, 64]))
     s.fwdOf 1 0 c = none ∧ s.fwdExt 1 9 c = some (0, 0) ∧ ((s.dropMail 1 0).sendMsg 1 0 (message 5 9 c)).isSome = true) ∧
    -- the same, at the owner; and a call that came to shard 1, which has never owned the file
    (let s := (withFile (sh 0 1 (message 5 9 [0x12, 13, 0, 0, 64]))).modShard 1 fun k => { k with fwds := [{ xid := 9, peer := 0, asker := some 0 }] }
     (s.shard 0).owner 13 = 0 ∧ (s.handleFile 13).isSome = true ∧ (s.headMail 0 1).map (fun ws => (ws.take 6).drop 1) = some [0x12, 13, 0, 0, 64] ∧
     (((s.dropMail 0 1).sendAnswer 0 1 (message 6 9 [0, 0])).bind fun u => u.giveExtent 0 0 9 13 0 64).isSome = true) ∧
    (let c : MsgWords := [0x11, 13, 0, 0, 0, 0, 0, 0, 0]
     let s := (withFile (sh 1 0 (message 5 9 c))).modCl 0 fun k => { k with traps := [(0, { tr0 with core := 1, vec := [(2, [0x11, 13])] })] }
     let s := s.modShard 0 fun k => { k with fwds := [{ xid := 9, peer := 1, from_ := some (0, 0, 0) }] }
     s.fwdOf 1 0 c = none ∧ s.fwdExt 1 9 c = none ∧ s.fwdOn 1 0 9 c = some 0 ∧ ((s.dropMail 1 0).sendMsg 1 0 (message 5 9 c)).isSome = true) ∧
    (let s := (withFile (sh 0 1 (message 5 9 [0x11, 13]))).modCl 1 fun k => { k with traps := [(0, { tr0 with core := 128, vec := [(2, [0x11, 13])] })] }
     let s := s.modShard 1 fun k => { k with fwds := [{ xid := 9, peer := 0, from_ := some (0, 0, 0) }] }
     (s.headMail 0 1).map (fun ws => (msgType ws, msgXid ws)) = some (5, 9) ∧ ((s.shard 1).fwds.find? fun p => p.xid == 9) = some { xid := 9, peer := 0, from_ := some (0, 0, 0) } ∧
     (match s.svcGroup 1 0 0 with
      | some (r, _, ws) => (match svcAt s 1 0 r ws with
        | .give v _ u => v == 0 && decide ((u.shard 1).fwds = (s.shard 1).fwds) && ((u.dropMail 0 1).sendAnswer 0 1 (message 6 9 [0, 0])).isSome
        | _ => false)
      | none => false) = true) := by decide +kernel
theorem witness_ServiceEvents_drives :
    let s := State.reset
    s.portWaits 0 = false ∧ s.busAddr 0x400000000000 4 = .mem (.sram 0) ∧ s.busAddr 0x800000000000 4 = .refused ∧ s.busAddr 0x800000000000 1 = .refused ∧ s.busAddr 0xC00000000000 4 = .msix ∧
    s.heldSpan (.sram 0) 4 = false ∧ s.homeDown (.sram 0) 4 = none ∧
    (∀ b ∈ blocksOf (.sram 0) 4, s.eHeld b.1 = false) := by decide
/-- warm reset in each of its phases -/
theorem witness_DeviceEvents_reset : State.reset.warm = .run ∧ ({ State.reset with warm := .quiesce } : State).quiet = true := by decide
def selfT (kind : Nat) (target : BitVec 40) : State := { State.reset with selfTest := some { cl := 0, kind, target } }
def busyWave : Wave := { live := true, threads := [(0, { status := .ready })] }
/-- a self-test of each kind: of core 1, whose waves are at rest, of core 0 with a wave that is alive, and of bank 2 of core 1 -/
theorem witness_DeviceEvents_tests : (selfT 0 5).testing 0 0 5 = true ∧ (selfT 1 1).testing 0 1 1 = true ∧ (selfT 2 0x1001).testing 0 2 0x1001 = true ∧
    (selfT 3 7).testing 0 3 7 = true ∧ (selfT 4 2).testing 0 4 2 = true ∧ (selfT 5 0).testing 0 5 0 = true ∧ ((selfT 1 1).core 1).waves = [] ∧
    ((selfT 2 0x1001).core 1).bankFree 2 = true ∧
    (let s : State := { selfT 1 0 with cores := [(0, { waves := [(0, busyWave)] })] }
     s.testing 0 1 0 = true ∧ ∀ w ∈ (s.core 0).waves, w.2.alive ≠ 0) := by decide
/-- a test that has ended with and without an event; the repair of core 1, at rest, with spares left and without, and of core 0, which is
not; of a stack -/
theorem witness_DeviceEvents_repair :
    (let x : SelfTest := { cl := 0, kind := 1, target := 1, res := some (0, false, 8) }
     ({ State.reset with selfTest := some x } : State).selfTest.map (·.res) = some (some (0, false, 8)) ∧
     ({ State.reset with selfTest := some { x with res := some (2, false, 0) } } : State).selfTest.map (·.res) = some (some (2, false, 0))) ∧
    (let s : State := { State.reset with repair := some (0, 1) }
     let k := s.core 1
     s.repair = some (0, 1) ∧ (∀ w ∈ k.waves, w.2.alive = 0) ∧ k.copyTrk = [] ∧ k.spawns = [] ∧ k.ways = [] ∧ getK 0 s.spares (clusterOf 1) < 4 ∧
     4 ≤ getK 0 ({ s with spares := [(0, 4)] } : State).spares (clusterOf 1)) ∧
    (let s : State := { State.reset with repair := some (0, 0), cores := [(0, { waves := [(0, busyWave)] })] }
     ¬∀ w ∈ (s.core 0).waves, w.2.alive = 0) ∧
    ({ State.reset with repair := some (1, 3) } : State).repair = some (1, 3) := by decide
/-- requests of attestation: a quote, an extension of register 4, and the public key -/
def att (op i : Nat) : State := { State.reset with attest := some (0, 0x100) }.wrSram (seraiAddr 0 0x120) [BitVec.ofNat 8 op, BitVec.ofNat 8 i]
theorem witness_DeviceEvents_attest : (att 0 0).attest = some (0, (0x100 : BitVec 20).toNat) ∧
    (((att 0 0).rdSram (seraiAddr 0 0x100) 64).getD 32 0).toNat = 0 ∧ (((att 2 0).rdSram (seraiAddr 0 0x100) 64).getD 32 0).toNat = 2 ∧
    (((att 1 4).rdSram (seraiAddr 0 0x100) 64).getD 32 0).toNat = 1 ∧ (((att 1 4).rdSram (seraiAddr 0 0x100) 64).getD 33 0).toNat = 4 := by decide
/-- shard 2 restarted by shard 0; the repair of cluster 2 in each of its phases -/
theorem witness_DeviceEvents_shards :
    (let s := sh 0 0 []
     s.running.getLsbD 0 = true ∧ s.update = none ∧ (((s.tiedParts 2 0).foldl State.killPart s).startSerai 2).update = none ∧
     getK 0 s.crepair 2 = 0 ∧ (s.startUpdate 2 3).update.isSome = true ∧ (s.startUpdate 2 2).update.isSome = true ∧
     (∀ i < 128, ∀ w ∈ (s.core (2 * 128 + i)).waves, w.2.live = false)) ∧
    (let s := fun (n : Nat) => ({ withFile (sh 0 0 []) with crepair := [(2, n)] } : State)
     (∀ n < 7, getK 0 (s n).crepair 2 = n ∧ (s n).update = none) ∧ (s 6).rsaved = [] ∧ (2 * 128, 1, 0) ∈ ({ s 6 with rsaved := [(2 * 128, 1, 0)] } : State).rsaved ∧ (s 2).unsent 2 3 = [] ∧ (s 4).unsent 2 2 = [] ∧ (s 3).selfTest = none ∧ (s 3).repair = none ∧
     (∀ x ∈ (s 3).suspects, x.1 ≠ 2) ∧ (s 2).unsent 0 1 = [13]) := by decide +kernel
/-- a follower with a port up and a bound of 100 ticks, synchronised or not; a good exchange that moves the clock forward, and a bad one -/
def fol (syn : Bool) : State := { State.reset with lease := 2000000, syncT1 := some 1999959 }.setCr 16 nFABCTL (BitVec.ofNat 64 (100 * 2 ^ 16 + (if syn then 2 ^ 33 else 0))) |>.setCr 16 (nPORTSTAT 0) 3
theorem witness_FabricEvents_clock :
    (fol true).isLeader = false ∧ (fol true).synced = true ∧ (fol false).synced = false ∧ (fol true).portUp 0 = true ∧
    (let ok := fun (t1 t2 t3 t4 : Lease) => (let o2 := leaseDiff t2 t1 + leaseDiff t3 t4
       decide ((o2.natAbs : Int) + (leaseDiff t4 t1 - leaseDiff t3 t2 + 20) ≤ 100) && decide (0 < o2))
     (fol true).syncT1 = some 1999959 ∧ ok 1999959 1999989 1999990 (fol true).lease = true ∧ ok 1999959 2000059 2000060 (fol true).lease = false) ∧
    (List.range 8).find? (fol true).portUp = some 0 ∧ (fol true).syncAt = none ∧ (fol true).syncDue = true ∧
    1000000 ≤ ((fol true).lease - (fol true).syncLast).toNat ∧ (State.reset.setCr 16 nFABCTL 0x400000000).isLeader = true := by decide
/-- a store to far memory whose request is late; a recall that is late; an Ethernet port that is up -/
theorem witness_FabricEvents_other :
    (let x := { st0 0 (.far 0 0 5 0) 4 .data 1 with sent := some (0, 10) }
     let s : State := { State.reset with lease := 60000, stores := [(3, x)] }.setCr 16 nFABCTL (BitVec.ofNat 64 (50 * 2 ^ 40))
     findK s.prods 3 = none ∧ findK s.stores 3 = some x ∧ s.farLate 10 = true ∧ x.stage < 2) ∧
    (let s : State := { State.reset with lease := 2010, recalls := [(3, { store := 3, line := 0, start := 10 })] }
     (findK s.recalls 3).map (fun r => decide (2000 ≤ (s.lease - r.start).toNat)) = some true) ∧
    ({ State.reset with ethUp := 1 } : State).ethUp.getLsbD 0 = true ∧ (fol false).synced = false ∧ (3 : Nat) < 8 ∧ 2 ^ 60 ≤ 2 ^ 60 + 5 := by decide
/-- the window of buffer 0 for every package: reads, writes and atomics that pass -/
def win0 : State := ((withBuf (fol true)).setCr 16 (nINWIN 0 0) 0).setCr 16 (nINWIN 0 1) (2 ^ 35 + 2 ^ 24 + 1)
def passes (n right : Nat) : Bool :=
  let r := win0.engineChk 0 (eOwner (win0.tableEntry 0)) 0 64 n right
  match r with
  | (.ok (p, _), u) => !u.heldSpan p n && (blocksOf p n).all fun b => (u.homeDown b.1 b.2).isNone
  | _ => false
theorem witness_FabricEvents_answer : win0.mayRecall 0 (.hbm 64) 128 = false := by decide +kernel
theorem witness_FabricEvents_inbound : win0.synced = true ∧ win0.inWindow 7 64 = some (0, 64) ∧ inRange 64 128 = true ∧ passes 128 rREAD = true ∧
    passes 128 rWRITE = true ∧ passes 8 rATOM = true := by decide +kernel
/-- network queue 0 of cluster 0 (partition 0, counter 5 its gate) with the entry `ws` at its head; `recv` makes it a receive queue -/
def nq (recv wen : Bool) (ws : List Word) : State :=
  (((withSp State.reset).setCr 0 (nNQ 0 0) 0x1000).setCr 0 (nNQ 0 1) (BitVec.ofNat 64 (0x208 + (if recv then 2 ^ 15 else 0) + (if wen then 2 ^ 24 + 5 * 2 ^ 16 else 0)))).wrSram
    0x1080 (bytesOfWords (ws ++ List.replicate (16 - ws.length) 0))
def ntrk (stage : Nat) (w0 : Word) : NetTrk := { words := w0 :: List.replicate 15 0, kind := 1, op := 5, order := 3, stage }
theorem witness_NetworkEvents_issue :
    let s := nq false false []
    let first := fun (t : NetTrk) => decide (firstTrk (·.order) (fun t => decide (t.stage < 2)) ((s.modCore 0 fun k => { k with netTrk := [(0, t)] }).core 0).netTrk = some (0, t))
    first (ntrk 0 0x20) = true ∧ wsBits (ntrk 0 0x20).words 15 5 ≠ 0 ∧
    first (ntrk 0 0) = true ∧ wsBits (ntrk 0 0).words 15 5 = 0 ∧ wsBits (ntrk 0 0).words 19 16 = 0 ∧
    (let d := s.qdesc 0 (nNQ 0 0)
     d.en = true ∧ d.part = (s.cl 0).part ∧ eOk (s.queueMem 0 d).1 = true ∧ eOk (s.queueClaim 0 (nNQ 0 0)).1 = true) ∧
    first (ntrk 1 0) = true ∧ eOk (s.queuePut 0 (nNQ 0 0) 15 (netSlot 0 0 1 (ntrk 1 0).words)).1 = true := by decide
/-- an entry at the head, gated (bit 20) and not; a gate that holds -/
theorem witness_NetworkEvents_take :
    (((nq false false [0x10001]).initiatorHead 0 0).1.map nGated) = some false ∧
    (((nq false true [0x110001]).initiatorHead 0 0).1.map nGated) = some true ∧
    ((nq false true [0x110001]).initiatorHead 0 0).1.map ((nq false true [0x110001]).gateMet 0 0) = some true ∧
    (let s := nq true false [1]
     dwBit (s.cr 0 (nNQ 0 1)) 15 = true ∧ (s.queueHead 0 (nNQ 0 0)).1.map (fun ws => (nMalformed ws true false, wsBit ws 232)) = some (true, false)) := by decide +kernel
def segsGot (r : EChk (List (Place × Nat)) × State) : List (Place × Nat) := match r.1 with | .ok l => l | _ => []
/-- a posted receive of 64 bytes at flat 0x1400 whose completion word lies at 0x1500, and one outside SRAM -/
def posted (laddr : Word) : List Word := [0x50001, 0, laddr, 0, 0, 0, 64, 0, 0, 0x1500, 0, 0, 0, 0, 0, 0]
theorem witness_NetworkEvents_posted :
    let s := nq true false (posted 0x1400)
    dwBit (s.cr 0 (nNQ 0 1)) 15 = true ∧ (s.queueHead 0 (nNQ 0 0)).1 = some (posted 0x1400) ∧ nMalformed (posted 0x1400) true false = false ∧
    segsGot (s.netSegs 0 0 0 0x1400 64 rWRITE) = [(.sram 0x1400, 64)] ∧ segsGot (s.netSegs 0 0 0 0x1500 8 rWRITE) = [(.sram 0x1500, 8)] ∧
    eOk ((nq true false (posted 0xF0000000)).netSegs 0 0 0 0xF0000000 64 rWRITE).1 = false := by decide +kernel
/-- a send whose bytes have all come, before and after its completion word; operations that have all they wait for, with and without a token -/
theorem witness_NetworkEvents_complete :
    (let m : NetMsg := { peer := 0, msg := 4, kind := 1, clus := 0, key := 0, len := 64, placed := [0], vis := some 9, recv := some (posted 0x1400) }
     let s : State := { nq true false (posted 0x1400) with lease := 10, netMsgs := [(3, m)] }
     findK s.netMsgs 3 = some m ∧ packets (Nat.max 1 m.len) ≤ m.placed.length ∧ Lease.before 9 s.lease = true ∧
     segsGot (s.netSegs m.clus m.part 0 (nOpnd1 (posted 0x1400)) 8 rWRITE) = [(.sram 0x1500, 8)] ∧ s.eHeld (.sram 0x1500) = false ∧ s.homeDown (.sram 0x1500) 8 = none ∧
     eOk (s.netSegs m.clus m.part 0 0xF0000000 8 rWRITE).1 = false) ∧
    (let put : NetOp := { cl := 0, q := 0, words := 0x20001 :: List.replicate 15 0, sent := 1, total := 1, report := true, tok := some 0 }
     let get : NetOp := { put with words := 0x30001 :: List.replicate 15 0, vis := some 9 }
     let s : State := { State.reset with lease := 10, netOps := [(3, put), (4, get)] }.modCore 0 fun k => { k with netTrk := [(0, ntrk 2 0)] }
     findK s.netOps 3 = some put ∧ nKind put.words ≤ 2 ∧ put.total ≤ put.sent ∧ (s.peer (nPeerNo put.words)).unack = [] ∧
     findK s.netOps 4 = some get ∧ nKind get.words = 3 ∧ Lease.before 9 s.lease = true ∧ findK (s.core 0).netTrk (wsBits put.words 464 459) = some (ntrk 2 0)) := by decide +kernel
/-- an operation of each kind that has a packet to send; one that has failed, without and with the entry its token names -/
def nop (kind : Nat) : NetOp := { cl := 0, q := 0, words := BitVec.ofNat 32 (1 + 2 ^ 16 * kind) :: List.replicate 15 0, total := 1 }
def nst (o : NetOp) : State := { State.reset with lease := 10, netOps := [(3, o)], peers := [(0, { first := some 1, unack := [{ psn := 5, op := 3, index := 0, data := [], at_ := 9, rto := 1 }] })] }
theorem witness_NetworkEvents_send :
    ([1, 2, 3, 4].all fun k => decide (findK (nst (nop k)).netOps 3 = some (nop k)) && nKind (nop k).words == k && (nop k).fail.isNone && decide ((nop k).sent < (nop k).total)) = true ∧
    ((nst (nop 1)).peer (nPeerNo (nop 1).words)).unack.length < 1024 ∧
    ([1, 2, 3, 4].all fun k => (nop k).nextParts.isEmpty && (((nst (nop k)).packetData (nop k)).2.peer 0).first.isSome && (nst (nop k)).inTurn 3 (nop k)) = true ∧
    (let o := { nop 1 with fail := some 7 }
     findK (nst o).netOps 3 = some o ∧ o.vis = none ∧ o.tok = none ∧ (nst o).netToken 0 0 o.words = none ∧
     ((nst o).modCore 0 fun k => { k with netTrk := [(0, ntrk 2 0)] }).netToken 0 0 (o.words.set 14 0x20000) = some 0) ∧
    (((nst (nop 1)).peer 0).unack.find? fun k => k.psn == 5).map (fun k => (k.tries, Lease.before (nst (nop 1)).lease k.at_)) = some (0, false) ∧
    0 < ((nst (nop 1)).setCr 16 nNETCTL 0xF0000).retry ∧ ((nst (nop 1)).setCr 16 nNETCTL 0).retry = 0 := by decide +kernel
/-- a packet from peer 0: of a PSN already there, and a new one of a put to registration 0 of buffer 0 -/
def pk (psn : Word) : NetPacket := { addr := 7, v6 := false, job := 3, epoch := 1, first := 1, psn, kind := 2, msg := 4, index := 0, total := 64, rkey := 0, clus := 0, roff := 0, keep := false, skew := 0, aop := 0, aw64 := false, opnd1 := 0, opnd2 := 0, data := List.replicate 64 9, tags := [0], valid := true }
def tgt : State :=
  ((((withBuf State.reset).setCr 16 (nPEER 0 0) 0x300000041).setCr 16 (nPEER 0 1) 7).setCr 0 (nREG 0 0) 0x1D).setCr 0 (nREG 0 1) 0x10000000000
theorem witness_NetworkEvents_arrive :
    tgt.peerOf 7 false 3 = some 0 ∧ ((tgt.peer 0).enter 1 1).map (fun x => (x.1.cack, x.1.bits, x.2)) = some (0, [], true) ∧ psnLe 0 0 = true ∧
    psnLe 1 0 = false ∧ ((1 : Word) - 0).toNat ≤ 1024 ∧
    (tgt.openMsg 0 (pk 1)).1.map (fun m => (m.2.fail, m.2.segs)) = some (none, [(.hbm 65536, 64)]) ∧
    (msgParts [(.hbm 65536, 64)] 0 2048).all (fun b => !(tgt.openMsg 0 (pk 1)).2.eHeld b.1) = true ∧
    (msgParts [(.hbm 65536, 64)] 0 64).all (fun b => !(tgt.openMsg 0 (pk 1)).2.eHeld b.1) = true := by decide +kernel
/-- a response to the get of 64 bytes numbered 4, and one that no request awaits -/
def aget : NetOp := { cl := 0, q := 0, words := (0x30001 :: List.replicate 15 (0 : Word)).set 6 64, sent := 1, total := 1, segs := [(.hbm 65536, 64)] }
theorem witness_NetworkEvents_response :
    ({ tgt with netOps := [(4, aget)] } : State).awaits 0 { pk 1 with kind := 6 } = some aget ∧ tgt.awaits 0 { pk 1 with kind := 6 } = none ∧
    ((msgParts aget.segs 0 2048).all fun b => !tgt.eHeld b.1) = true := by decide +kernel
theorem witness_NetworkEvents_ends :
    (tgt.modPeer 0 fun p => { p with epoch := 1 }).peerOf 7 false 3 = some 0 ∧
    (let m : NetMsg := { peer := 0, msg := 4, kind := 2, clus := 0, key := 0, len := 64, placed := [0], vis := some 9 }
     let s : State := { State.reset with lease := 10, netMsgs := [(3, m)] }
     findK s.netMsgs 3 = some m ∧ packets (Nat.max 1 m.len) ≤ m.placed.length ∧ Lease.before 9 s.lease = true) ∧
    (let s := State.reset.setCr 0 (nREG 0 0) 2
     (s.regOf 0 0).state = 2 ∧ s.netMsgs = []) ∧
    (State.reset.crAllowed 1 0 (nNQ 0 0) = true ∧ (∀ k < 8, nNQ 0 0 = nWCTX k → State.reset.wctxWaits k 0 = false) ∧ State.reset.crAllowed 1 0 nRSTCTL = false) := by decide
end Sys2Proof.Tests
end

namespace Sys2Proof

/-! The floating constants of R64: the operand that a code names, and the pattern as a sign and a magnitude. -/

theorem Operand.ofCode_floating {k : Nat} (h : k < 64) : Operand.ofCode (BitVec.ofNat 10 (960 + k)) = some (.fltc k) :=
  Operand.ofCode_code (.fltc k) (decide_eq_true h)

/-- R64: bits 4 to 0 of the constant's number name the magnitude, bit 5 the sign. -/
theorem fltConst_eq_magnitude_or_sign (k : Nat) :
    fltConst k = fltConst (k % 32) ||| (if k / 32 % 2 = 1 then 0x80000000 else 0) := by
  have hmag : k % 32 / 32 % 2 ≠ 1 := by omega
  by_cases hs : k / 32 % 2 = 1
  · simp only [fltConst, Nat.mod_mod, if_pos hs, if_neg hmag]
  · simp only [fltConst, Nat.mod_mod, if_neg hs, if_neg hmag, BitVec.ofNat_eq_ofNat, BitVec.or_zero]

/-- R64: the sign s sets bit 31 of the pattern of any magnitude m. -/
theorem fltConst_sign_magnitude {s m : Nat} (hs : s < 2) (hm : m < 32) :
    fltConst (32 * s + m) = fltConst m ||| (if s = 1 then 0x80000000 else 0) := by
  have hmag : (32 * s + m) % 32 = m := by omega
  have hsign : (32 * s + m) / 32 % 2 = s := by omega
  rw [fltConst_eq_magnitude_or_sign, hmag, hsign]

/-- R64: magnitude m below 16 is 2^(m−8), an f32 of biased exponent 119 + m and fraction 0. -/
theorem fltConst_powerOfTwo {m : Nat} (h : m < 16) : fltConst m = BitVec.ofNat 32 ((119 + m) * 2 ^ 23) := by
  have hmag : m % 32 = m := by omega
  have hsign : m / 32 % 2 ≠ 1 := by omega
  have hexp : 127 + m - 8 = 119 + m := by omega
  simp only [fltConst, hmag, if_pos h, if_neg hsign, hexp]

/-- R64: the sixteen magnitudes of the table that are not powers of two from 1/256 to 128. -/
theorem fltConst_table : (List.range 16).map (fun m => fltConst (16 + m)) =
    [0x40400000, 0x40A00000, 0x40C00000, 0x41200000, 0x3FC00000, 0x3F400000, 0x3DCCCCCD, 0x3EAAAAAB,
     0x40490FDB, 0x40C90FDB, 0x3F317218, 0x3FB8AA3B, 0x3F3504F3, 0x7F7FFFFF, 0x7F800000, 0x7FC00000] := by decide

/-- Settles O12: the pattern is split into sign and magnitude; the magnitudes are the powers of two and a table. -/
theorem floatingConstants : Obligations.FloatingConstants := by
  refine ⟨fun s m hs hm => ⟨?code, fltConst_sign_magnitude hs hm⟩, fun _ => fltConst_powerOfTwo, fltConst_table⟩
  case code =>
    rw [Nat.add_assoc]
    exact Operand.ofCode_floating (by omega)

end Sys2Proof

namespace Sys2Proof.Machine

/-! R115 on words: bit j of word k of an operand is bit 32k + j of the number its words spell. -/

@[simp] theorem length_wordsOf (n v : Nat) : (wordsOf n v).length = n := by
  induction n generalizing v with
  | zero => rfl
  | succ n ih => simp [wordsOf, ih]

theorem getLsbD_wordsOf {n k j : Nat} (v : Nat) (hk : k < n) (hj : j < 32) :
    ((wordsOf n v).getD k 0).getLsbD j = v.testBit (32 * k + j) := by
  induction n generalizing k v with
  | zero => omega
  | succ n ih =>
    cases k with
    | zero => rw [wordsOf, List.getD_cons_zero, BitVec.getLsbD_ofNat]; simp [hj]
    | succ k =>
      have hshift : 32 * k + j + 32 = 32 * (k + 1) + j := by omega
      rw [wordsOf, List.getD_cons_succ, ih _ (by omega), Nat.testBit_div_two_pow, hshift]

theorem testBit_natOfWords (ws : List Word) (k : Nat) {j : Nat} (hj : j < 32) :
    (natOfWords ws).testBit (32 * k + j) = (ws.getD k 0).getLsbD j := by
  induction ws generalizing k with
  | nil => simp [natOfWords]
  | cons w ws ih =>
    rw [natOfWords, Nat.add_comm, Nat.testBit_two_pow_mul_add _ w.isLt]
    cases k with
    | zero => simp [hj, BitVec.testBit_toNat]
    | succ k =>
      have hlow : ¬ 32 * (k + 1) + j < 32 := by omega
      have hshift : 32 * (k + 1) + j - 32 = 32 * k + j := by omega
      rw [if_neg hlow, hshift, ih, List.getD_cons_succ]

/-- R115: `f` gives n words and no flag, and each of their bits is `op` of the same bits of the first two sources. -/
def BitByBit (n : Nat) (f : List (List Word) → List Word × Flags) (op : Bool → Bool → Bool) : Prop :=
  ∀ vs, (f vs).2 = 0 ∧ (f vs).1.length = n ∧
    ∀ k j, k < n → j < 32 → ((f vs).1.getD k 0).getLsbD j = op ((wordAt vs 0 k).getLsbD j) ((wordAt vs 1 k).getLsbD j)

/-- An operation on the operands as numbers that acts on each of the operand's bits acts bit by bit on their words. -/
theorem bitByBit_bitwise {ty : IntTy} {f : Nat → Nat → Nat} (op : Bool → Bool → Bool)
    (h : ∀ x y i, i < 32 * tyRegs ty → (f x y).testBit i = op (x.testBit i) (y.testBit i)) :
    BitByBit (tyRegs ty) (bitwise f ty) op := by
  refine fun vs => ⟨rfl, length_wordsOf _ _, fun k j hk hj => ?_⟩
  have hi : 32 * k + j < 32 * tyRegs ty := by omega
  rw [bitwise, getLsbD_wordsOf _ hk hj, h _ _ _ hi, testBit_natOfWords _ _ hj, testBit_natOfWords _ _ hj]
  rfl

theorem testBit_andnN (x y i : Nat) : (andnN x y).testBit i = (x.testBit i && !y.testBit i) := by
  rw [andnN, Nat.testBit_xor, Nat.testBit_and]
  cases x.testBit i <;> cases y.testBit i <;> rfl

/-- The bits of the complement that `not` forms, below the operand's width w. -/
theorem testBit_complement {w i : Nat} (x : Nat) (hi : i < w) : (2 ^ w - 1 - x % 2 ^ w).testBit i = !x.testBit i := by
  have hx : x % 2 ^ w < 2 ^ w := Nat.mod_lt _ (Nat.two_pow_pos w)
  rw [Nat.sub_sub, Nat.add_comm 1, Nat.testBit_two_pow_sub_succ hx, Nat.testBit_mod_two_pow]
  simp [hi]

/-- Settles O11: each instruction's function of the operands as numbers acts on each bit, and so on each bit of their words. -/
theorem bitwiseOperations : Obligations.BitwiseOperations := by
  unfold Obligations.BitwiseOperations
  intro g ty d a b s s0 s1 rows
  refine ⟨fun h => ⟨?and, ?or, ?xor, ?andn⟩, fun h => ?not⟩
  case and => exact ⟨_, congrArg _ (pureOp_go _ rfl h), bitByBit_bitwise (· && ·) fun x y i _ => Nat.testBit_and x y i⟩
  case or => exact ⟨_, congrArg _ (pureOp_go _ rfl h), bitByBit_bitwise (· || ·) fun x y i _ => Nat.testBit_or x y i⟩
  case xor => exact ⟨_, congrArg _ (pureOp_go _ rfl h), bitByBit_bitwise (· ^^ ·) fun x y i _ => Nat.testBit_xor x y i⟩
  case andn => exact ⟨_, congrArg _ (pureOp_go _ rfl h), bitByBit_bitwise (fun x y => x && !y) fun x y i _ => testBit_andnN x y i⟩
  case not => exact ⟨_, congrArg _ (pureOp_go _ rfl h), bitByBit_bitwise (fun x _ => !x) fun x _ _ hi => testBit_complement x hi⟩

end Sys2Proof.Machine

namespace Sys2Proof.Machine

/-! ## What a fault leaves at a compute core (R32) -/

/-- R313: the record that lane l of a turn forms when it faults. -/
def State.faultRecord (s : State) (c t l issue code : Nat) (finfo : Word) (extra pc word : DWord) : XRec :=
  { code, finfo, turn := t, uid := (s.wave c t).uid, lane := l, reps := (s.thread c t l).reps, pc, extra, time := s.lease, word, iss := issue }

/-- R32: a thread that has faulted with a record. -/
def Thread.faultedWith (t : Thread) (r : XRec) : Thread :=
  { t with status := .faulted, wait := .none, xrec := some r, walked := [], fword := some r.word }

@[simp] theorem faultedWith_pc (t : Thread) (r : XRec) : (t.faultedWith r).pc = t.pc := rfl
@[simp] theorem faultedWith_going (t : Thread) (r : XRec) : (t.faultedWith r).going = false := rfl

theorem wave_modWave (s : State) (c t c' t' : Nat) (f : Wave → Wave) :
    (s.modWave c t f).wave c' t' = if c' = c ∧ t' = t then f (s.wave c t) else s.wave c' t' := by
  by_cases hc : c' = c
  · subst c'
    by_cases ht : t' = t
    · subst t'; simp [State.wave, State.modWave]
    · simp [State.wave, State.modWave, wave_modWave_other _ _ ht, ht]
  · simp [State.wave, State.modWave, core_modCore_other _ _ hc, hc]

/-- At a compute core a fault of a lane changes no wave but the lane's own. -/
theorem wave_faultAt {s : State} {c : Nat} (hc : isSerai c = false) (t l issue code : Nat) (finfo : Word) (extra pc word : DWord)
    (c' t' : Nat) :
    (s.faultAt c t l issue code finfo extra pc word).wave c' t' =
      if c' = c ∧ t' = t then
        ((s.wave c t).modThread l fun th => th.faultedWith (s.faultRecord c t l issue code finfo extra pc word)).unrecon l
      else s.wave c' t' := by
  unfold State.faultAt
  generalize hu : (if code = 6 then s.crCount (clusterOf c) nTBSTAT 31 16 1 else s) = u
  obtain ⟨hcores, hlease⟩ : u.cores = s.cores ∧ u.lease = s.lease := by
    rw [← hu]
    split <;> exact ⟨rfl, rfl⟩
  have hwave : ∀ c t, u.wave c t = s.wave c t := fun c t => by simp only [State.wave, State.core, hcores]
  simp only [hc, Bool.false_eq_true, if_false]
  refine (wave_modWave u c t c' t' _).trans ?_
  simp only [hwave, State.thread, hlease]
  rfl

theorem lease_faultAt {s : State} {c : Nat} (hc : isSerai c = false) (t l issue code : Nat) (finfo : Word) (extra pc word : DWord) :
    (s.faultAt c t l issue code finfo extra pc word).lease = s.lease := by
  simp only [State.faultAt, hc, Bool.false_eq_true, if_false, modCl_lease, modWave_lease]
  split <;> rfl

/-- At a compute core a fault of a lane changes the thread of that lane alone. -/
theorem thread_faultAt {s : State} {c : Nat} (hc : isSerai c = false) (t l issue code : Nat) (finfo : Word) (extra pc word : DWord)
    (c' t' l' : Nat) :
    (s.faultAt c t l issue code finfo extra pc word).thread c' t' l' =
      if c' = c ∧ t' = t ∧ l' = l then (s.thread c t l).faultedWith (s.faultRecord c t l issue code finfo extra pc word)
      else s.thread c' t' l' := by
  rw [State.thread, wave_faultAt hc]
  by_cases hw : c' = c ∧ t' = t
  · obtain ⟨rfl, rfl⟩ := hw
    rw [if_pos ⟨rfl, rfl⟩, unrecon_thread]
    by_cases hl : l' = l
    · subst hl; rw [thread_modThread_same, if_pos ⟨rfl, rfl, rfl⟩]; rfl
    · rw [thread_modThread_other _ _ hl, if_neg fun h => hl h.2.2]; rfl
  · rw [if_neg hw, if_neg fun h => hw ⟨h.1, h.2.1⟩]; rfl

theorem uid_faultAt {s : State} {c : Nat} (hc : isSerai c = false) (t l issue code : Nat) (finfo : Word) (extra pc word : DWord)
    (c' t' : Nat) : ((s.faultAt c t l issue code finfo extra pc word).wave c' t').uid = (s.wave c' t').uid := by
  rw [wave_faultAt hc]
  split
  · rename_i h; obtain ⟨rfl, rfl⟩ := h; rfl
  · rfl

theorem faultRecord_faultAt_other {s : State} {c l l' : Nat} (hc : isSerai c = false) (hl : l' ≠ l) (t issue code : Nat) (finfo : Word)
    (extra pc word : DWord) (issue' code' : Nat) (finfo' : Word) (extra' pc' word' : DWord) :
    (s.faultAt c t l issue code finfo extra pc word).faultRecord c t l' issue' code' finfo' extra' pc' word' =
      s.faultRecord c t l' issue' code' finfo' extra' pc' word' := by
  have hthread : (s.faultAt c t l issue code finfo extra pc word).thread c t l' = s.thread c t l' := by
    rw [thread_faultAt hc, if_neg fun h => hl h.2.2]
  simp only [State.faultRecord, hthread, uid_faultAt hc, lease_faultAt hc]

/-- R313: the record that lane l of the issuing path forms when it faults at the instruction. -/
def State.issueRecord (s : State) (l code : Nat) (finfo : Word) (extra : DWord) : XRec :=
  s.faultRecord s.cur.core s.cur.turn l s.cur.n code finfo extra s.cur.pc s.cur.word

@[simp] theorem cur_takeFault (s : State) (l code : Nat) (finfo : Word) (extra : DWord) : (s.takeFault l code finfo extra).cur = s.cur :=
  (keeps_takeFault _ _ _ _ _).cur
@[simp] theorem cur_takeFaults (s : State) (m : Mask) (code : Nat) (finfo : Word) (extra : DWord) :
    (s.takeFaults m code finfo extra).cur = s.cur := (keeps_takeFaults _ _ _ _ _).cur

theorem curThread_takeFault {s : State} (hc : isSerai s.cur.core = false) (l code : Nat) (finfo : Word) (extra : DWord) (j : Nat) :
    (s.takeFault l code finfo extra).curThread j =
      if j = l then (s.curThread l).faultedWith (s.issueRecord l code finfo extra) else s.curThread j := by
  rw [State.curThread, cur_takeFault, State.takeFault, thread_faultAt hc]
  simp only [true_and]
  rfl

theorem issueRecord_takeFault_other {s : State} (hc : isSerai s.cur.core = false) {l j : Nat} (hj : j ≠ l) (code : Nat) (finfo : Word)
    (extra : DWord) : (s.takeFault l code finfo extra).issueRecord j code finfo extra = s.issueRecord j code finfo extra := by
  rw [State.issueRecord, cur_takeFault]
  exact faultRecord_faultAt_other hc hj _ _ _ _ _ _ _ _ _ _ _ _ _

theorem curThread_foldl_takeFault {ls : List Nat} (hn : ls.Nodup) {s : State} (hc : isSerai s.cur.core = false) (code : Nat) (finfo : Word)
    (extra : DWord) (j : Nat) :
    (ls.foldl (fun s l => s.takeFault l code finfo extra) s).curThread j =
      if j ∈ ls then (s.curThread j).faultedWith (s.issueRecord j code finfo extra) else s.curThread j := by
  induction ls generalizing s with
  | nil => rfl
  | cons x xs ih =>
    obtain ⟨hx, hxs⟩ := List.nodup_cons.1 hn
    have hcx : isSerai (s.takeFault x code finfo extra).cur.core = false := by rw [cur_takeFault]; exact hc
    rw [List.foldl_cons, ih hxs hcx, curThread_takeFault hc]
    by_cases hj : j = x
    · subst hj; simp [hx]
    · simp [hj, issueRecord_takeFault_other hc hj]

/-- R32: at a compute core the lanes of a mask that fault are faulted, each with its own record, and no other lane changes. -/
theorem curThread_takeFaults {s : State} (hc : isSerai s.cur.core = false) (m : Mask) (code : Nat) (finfo : Word) (extra : DWord) (j : Nat) :
    (s.takeFaults m code finfo extra).curThread j =
      if j ∈ m.lanes then (s.curThread j).faultedWith (s.issueRecord j code finfo extra) else s.curThread j :=
  curThread_foldl_takeFault (lanes_nodup m) hc code finfo extra j

/-! ## What moving on leaves at a compute core -/

/-- From `s` to `u` no thread has changed but those of the lanes `m` of one turn. -/
def OnlyLanes (c t : Nat) (m : Mask) (s u : State) : Prop :=
  ∀ c' t' l, ¬(c' = c ∧ t' = t ∧ l ∈ m.lanes) → u.thread c' t' l = s.thread c' t' l

theorem OnlyLanes.of_eq {c t : Nat} {m : Mask} {s u : State} (h : ∀ c' t' l, u.thread c' t' l = s.thread c' t' l) : OnlyLanes c t m s u :=
  fun _ _ _ _ => h _ _ _
theorem OnlyLanes.refl (c t : Nat) (m : Mask) (s : State) : OnlyLanes c t m s s := .of_eq fun _ _ _ => rfl
theorem OnlyLanes.trans {c t : Nat} {m : Mask} {s u v : State} (h1 : OnlyLanes c t m s u) (h2 : OnlyLanes c t m u v) : OnlyLanes c t m s v :=
  fun c' t' l h => (h2 c' t' l h).trans (h1 c' t' l h)
theorem OnlyLanes.mono {c t : Nat} {m m' : Mask} {s u : State} (hm : ∀ l ∈ m.lanes, l ∈ m'.lanes) (h : OnlyLanes c t m s u) :
    OnlyLanes c t m' s u :=
  fun c' t' l hl => h c' t' l fun x => hl ⟨x.1, x.2.1, hm l x.2.2⟩

theorem OnlyLanes.ite {p : Prop} [Decidable p] {c t : Nat} {m : Mask} {s u v : State} (h1 : OnlyLanes c t m s u) (h2 : OnlyLanes c t m s v) :
    OnlyLanes c t m s (if p then u else v) := by
  split
  · exact h1
  · exact h2

theorem onlyLanes_modThreads (s : State) (c t : Nat) (m : Mask) (f : Nat → Thread → Thread) : OnlyLanes c t m s (s.modThreads c t m f) :=
  fun _ _ _ h => by rw [thread_modThreads, if_neg h]

theorem onlyLanes_foldl_faultAt {c : Nat} (hc : isSerai c = false) (t : Nat) (m : Mask) (issue code : Nat) (finfo : Word) (extra pc word : DWord)
    {ls : List Nat} (hls : ∀ l ∈ ls, l ∈ m.lanes) (s : State) :
    OnlyLanes c t m s (ls.foldl (fun s l => s.faultAt c t l issue code finfo extra pc word) s) := by
  induction ls generalizing s with
  | nil => exact .refl _ _ _ _
  | cons x xs ih =>
    refine OnlyLanes.trans (fun c' t' l h => ?_) (ih (fun l hl => hls l (.tail _ hl)) _)
    rw [thread_faultAt hc, if_neg]
    rintro ⟨rfl, rfl, rfl⟩
    exact h ⟨rfl, rfl, hls _ (.head _)⟩

theorem thread_foldl_modThread_other {ls : List Nat} {j : Nat} (hj : j ∉ ls) (p : Wave → Nat → Bool) (f : Thread → Thread) (w : Wave) :
    (ls.foldl (fun w l => if p w l then w.modThread l f else w) w).thread j = w.thread j := by
  induction ls generalizing w with
  | nil => rfl
  | cons x xs ih =>
    obtain ⟨hx, hxs⟩ := not_or.1 (mt List.mem_cons.2 hj)
    rw [List.foldl_cons, ih hxs]
    split
    · exact thread_modThread_other _ _ hx
    · rfl

theorem thread_arrive_other (w : Wave) (a : DWord) {m : Mask} {j : Nat} (hj : j ∉ m.lanes) : (w.arrive a m).thread j = w.thread j :=
  thread_foldl_modThread_other hj _ _ _

theorem onlyLanes_enterHeader {c : Nat} (hc : isSerai c = false) (s : State) (t : Nat) (m : Mask) (issue : Nat) (addr w : DWord) :
    OnlyLanes c t m s (s.enterHeader c t m issue addr w) := by
  have harrive : ∀ u : State, OnlyLanes c t m u (u.modWave c t fun wv =>
      (if (Header.ofWord w).conv then wv.arrive addr m else wv).leaveHeader addr (Header.ofWord w).conv m) := by
    intro u c' t' l h
    rw [thread_modWave]
    split
    · next hw =>
      obtain ⟨rfl, rfl⟩ := hw
      rw [Wave.thread, threads_leaveHeader]
      split
      · exact thread_arrive_other _ _ fun hl => h ⟨rfl, rfl, hl⟩
      · rfl
    · rfl
  have hmove : ∀ f, OnlyLanes c t m s _ := fun f => (onlyLanes_modThreads s c t m f).trans (harrive _)
  unfold State.enterHeader
  refine .ite ?bad (.ite (hmove _) (.ite (hmove _) ((hmove _).trans (.of_eq fun _ _ _ => thread_wantLine _ _ _ _ _ _ _))))
  case bad => exact (onlyLanes_modThreads _ _ _ _ _).trans (onlyLanes_foldl_faultAt hc _ _ _ _ _ _ _ _ (fun _ h => h) _)

theorem onlyLanes_fallTo {c : Nat} (hc : isSerai c = false) (s : State) (t : Nat) (m : Mask) (issue : Nat) (addr : DWord) :
    OnlyLanes c t m s (s.fallTo c t m issue addr) := by
  unfold State.fallTo
  split
  · exact onlyLanes_modThreads _ _ _ _ _
  · refine .ite (onlyLanes_modThreads _ _ _ _ _) (.ite ?noHeader (onlyLanes_enterHeader hc _ _ _ _ _ _))
    case noHeader => exact (onlyLanes_modThreads _ _ _ _ _).trans (onlyLanes_foldl_faultAt hc _ _ _ _ _ _ _ _ (fun _ h => h) _)

theorem mem_lanes_of_and {m m' : Mask} {l : Nat} (h : l ∈ (m &&& m').lanes) : l ∈ m.lanes := by
  simp only [mem_lanes, BitVec.getLsbD_and, Bool.and_eq_true] at h
  exact (mem_lanes m l).2 ⟨h.1, h.2.1⟩

/-- At a compute core the threads that do not advance stay as they are, wherever the others go. -/
theorem onlyLanes_advance {s : State} (hc : isSerai s.cur.core = false) (m : Mask) :
    OnlyLanes s.cur.core s.cur.turn m s (s.advance m) := by
  have hmoved : ∀ p l, l ∈ (Mask.ofLanes (m.lanes.filter p)).lanes → l ∈ m.lanes := fun p l h => ((mem_ofLanes_filter m p l).1 h).1
  have hfalling : ∀ p q l, l ∈ (Mask.ofLanes ((Mask.ofLanes (m.lanes.filter p)).lanes.filter q)).lanes → l ∈ m.lanes :=
    fun p q l h => hmoved p l ((mem_ofLanes_filter _ q l).1 h).1
  have hstay : ∀ (u : State) p q f d, OnlyLanes s.cur.core s.cur.turn m u ((u.modThreads s.cur.core s.cur.turn
      (Mask.ofLanes (m.lanes.filter p) &&& ~~~q) f).moveLanes (Mask.ofLanes (m.lanes.filter p)) false d) := fun u p q f d =>
    ((onlyLanes_modThreads _ _ _ _ _).mono fun l h => hmoved p l (mem_lanes_of_and h)).trans (.of_eq fun _ _ _ => thread_moveLanes _ _ _ _ _ _ _)
  have hmove : ∀ f p q f' d, OnlyLanes s.cur.core s.cur.turn m s _ := fun f p q f' d =>
    (onlyLanes_modThreads s s.cur.core s.cur.turn m f).trans (hstay _ p q f' d)
  unfold State.advance
  exact .ite (hmove _ _ _ _ _) ((hmove _ _ _ _ _).trans ((onlyLanes_fallTo hc _ _ _ _ _).mono (hfalling _ _)))

/-! ## The end of an instruction at a compute core -/

@[simp] theorem cur_finish (s : State) : s.finish.cur = s.cur := (keeps_finish s).cur
@[simp] theorem curThread_issued (s : State) (l : Nat) : s.issued.curThread l = s.curThread l := thread_issued s _ _ l

/-- The lanes of the path that have neither blocked, faulted nor left. -/
def State.goingLanes (s : State) : Mask := Mask.ofLanes (s.cur.lanes.lanes.filter fun l => (s.curThread l).going)

theorem mem_goingLanes (s : State) (l : Nat) : l ∈ s.goingLanes.lanes ↔ l ∈ s.cur.lanes.lanes ∧ (s.curThread l).going = true :=
  mem_ofLanes_filter _ _ _

theorem finish_eq (s : State) : s.finish = if s.goingLanes = 0 then s else s.issued.advance s.goingLanes := rfl

/-- A lane that does not go on stays where it is when the others go on. -/
theorem curThread_finish_of_not_going {s : State} (hc : isSerai s.cur.core = false) {l : Nat} (hl : (s.curThread l).going = false) :
    s.finish.curThread l = s.curThread l := by
  have hout : l ∉ s.goingLanes.lanes := fun h => by
    rw [((mem_goingLanes s l).1 h).2] at hl
    exact Bool.noConfusion hl
  rw [State.curThread, cur_finish, finish_eq]
  split
  · rfl
  · exact (onlyLanes_advance (s := s.issued) hc s.goingLanes _ _ l fun h => hout h.2.2).trans (thread_issued s _ _ l)

/-- R47, R137: a thread that has completed an instruction inside its block. -/
def Thread.completed (t : Thread) (i : Issue) : Thread :=
  { t with repCnt := if t.repCnt = 0 then 0 else t.repCnt - 1, wait := .none, walked := [],
           pc := if t.repCnt.toNat ≤ 1 then i.nextPc else t.pc }

theorem completed_pc {t : Thread} (h : t.repCnt = 0) (i : Issue) : (t.completed i).pc = i.nextPc := by
  rw [Thread.completed, h]
  rfl
@[simp] theorem completed_status (t : Thread) (i : Issue) : (t.completed i).status = t.status := rfl
@[simp] theorem completed_held (t : Thread) (i : Issue) : (t.completed i).held = t.held := rfl

/-- R47, R137: a lane of the path that goes on, where no lane that goes on is at the end of its block. -/
theorem curThread_finish_of_going {s : State} {l : Nat} (hl : l ∈ s.cur.lanes.lanes) (hgo : (s.curThread l).going = true)
    (hend : ∀ j ∈ s.cur.lanes.lanes, (s.curThread j).going = true → (s.curThread j).atEnd s.cur = false) :
    s.finish.curThread l = (s.curThread l).completed s.cur := by
  have hin : l ∈ s.goingLanes.lanes := (mem_goingLanes s l).2 ⟨hl, hgo⟩
  have hne : s.goingLanes ≠ 0 := ofLanes_filter_ne hl hgo
  have hend' : ∀ j ∈ s.goingLanes.lanes, (s.issued.curThread j).atEnd s.issued.cur = false := fun j hj => by
    obtain ⟨hpath, hgoing⟩ := (mem_goingLanes s j).1 hj
    rw [curThread_issued]
    exact hend j hpath hgoing
  rw [finish_eq, if_neg hne, thread_advance _ _ hend', if_pos hin, curThread_issued]
  rfl

/-! ## Instructions without operands -/

theorem ofLanes_lanes (m : Mask) : Mask.ofLanes m.lanes = m := by
  refine BitVec.eq_of_getLsbD_eq fun i hi => ?_
  rw [getLsbD_ofLanes, decide_eq_true hi, Bool.true_and, Bool.eq_iff_iff, decide_eq_true_iff, mem_lanes]
  exact and_iff_right hi

theorem curThread_atIssue (s : State) (l : Nat) : s.atIssue.curThread l = s.curThread l := by
  have hwalkers : s.atIssue.curThread l = (s.modCore s.cur.core fun c => { c with queues := (s.core s.cur.core).queues }).curThread l := by
    rw [State.atIssue, State.modCurWave, State.curThread, thread_modWave]
    exact if_pos ⟨rfl, rfl⟩
  exact hwalkers.trans (thread_modCore _ _ _ _ _ _ fun _ => rfl)

theorem operandFault_noOperands (s : State) (act : Mask) : operandFault s {} act = none := by
  have hnone : ∀ f : List (Nat × Nat × Nat) → Option Nat, f [] = none →
      (act.lanes.map fun l => ({} : Spec).ranges (s.curThread l)).findSome? f = none := fun f hf => by
    rw [List.findSome?_map, List.findSome?_eq_none_iff]
    exact fun _ _ => hf
  rw [operandFault, hnone (firstOut _ _) rfl, hnone firstMis rfl]

/-- R108: an instruction without operands issues in its active lanes, and changes nothing before its own effect. -/
theorem prep_noOperands {s s0 s1 : State} {g : Guard} {rows : List (Nat × List (List Word))} (h : prep s g {} = .go s0 s1 rows) :
    s1 = s.atIssue ∧ rows.map (·.1) = (s.active g).lanes := by
  have hall : ∀ ls : List Nat, ls.filter (fun _ => true) = ls := fun ls => List.filter_eq_self.2 fun _ _ => rfl
  have hwf : ∀ l, s.walkerFault [] none l = none := fun _ => rfl
  have hnil : ∀ {α β : Type} (ls : List α), ls.filterMap (fun _ => (none : Option β)) = [] :=
    fun _ => List.filterMap_eq_nil_iff.2 fun _ _ => rfl
  simp only [prep, operandFault_noOperands, List.filter_nil, List.flatMap_nil, List.findSome?_nil, Option.or_none, Option.map_none,
    everyLane, Bool.false_eq_true, if_false, hnil, List.any_nil, Bool.not_false, hall, shortPop, Option.bind_none, readAll, walkerReads,
    List.map_nil, hwf, List.foldl_nil, List.filterMap_eq_map'] at h
  repeat' first | (cases h; done) | split at h
  injection h with _ hstate hrows
  refine ⟨hstate.symm, ?_⟩
  rw [← hrows, List.map_map]
  exact List.map_fst_zip (Nat.le_of_eq List.length_range.symm)

end Sys2Proof.Machine

namespace Sys2Proof

/-! ## The words of `brk` -/

/-- R61: a word that decodes is the encoding of the instruction that its fields build. -/
theorem encode_of_decode {c : Enc} {i : Instr} (h : decode c = .ok i) : build c = .ok i ∧ encode i = some c := by
  unfold decode at h
  dsimp only at h
  iterate 3 (split at h; · cases h)
  split at h
  · cases h
  next j hbuild =>
  split at h
  next henc =>
    split at h
    · split at h
      · obtain rfl : j = i := by injection h
        exact ⟨hbuild, henc⟩
      · cases h
    · cases h
  · cases h

theorem build_brk {c : Enc} (h : c.raw.opc = 0x068) : build c = .ok (.brk c.raw.guard (c.raw.imm20.extractLsb' 0 16)) := by
  simp only [build, buildCtl, h]
  rfl

theorem imm20_high_ofWord (w : DWord) : (Raw.ofWord w).imm20.extractLsb' 16 4 = w.extractLsb' 46 4 := by
  rw [Raw.imm20, extract_append_high _ _ _ _ (by decide)]
  refine BitVec.eq_of_getLsbD_eq fun i hi => ?_
  have hfield : 6 + i < 10 := by omega
  simp only [Raw.ofWord, BitVec.getLsbD_extractLsb', hfield, decide_true, Bool.true_and, ← Nat.add_assoc]

/-- R61, R133: a word of `brk` that decodes has its unused immediate bits zero. -/
theorem brk_imm_high_of_encode {g : Guard} {code : BitVec 16} {c : Enc} (h : encode (.brk g code) = some c) :
    c.raw.imm20.extractLsb' 16 4 = 0 := by
  obtain rfl : _ = c := by injection h
  show ((rawOf 0x068 g).withImm20 _).imm20.extractLsb' 16 4 = 0
  rw [Raw.withImm20_imm20, extract_append_high _ _ _ _ (by decide)]
  rfl

/-- R61, R133: a word with the opcode of `brk` and a bit of IMM20[19:16] set does not decode. -/
theorem decodeWord_brk_error {w : DWord} (next : DWord) (hop : w.extractLsb' 0 10 = 0x068) (himm : w.extractLsb' 46 4 ≠ 0) :
    ∃ e, decodeWord w next = .error e := by
  cases hdec : decodeWord w next with
  | error e => exact ⟨e, rfl⟩
  | ok i =>
    obtain ⟨hbuild, henc⟩ := encode_of_decode hdec
    rw [build_brk hop] at hbuild
    obtain rfl : _ = i := by injection hbuild
    have hzero := brk_imm_high_of_encode henc
    rw [imm20_high_ofWord] at hzero
    exact absurd hzero himm

end Sys2Proof

namespace Sys2Proof.Machine

/-! ## What `brk` leaves -/

theorem exec_brk {g : Guard} {s s0 s1 : State} {rows : List (Nat × List (List Word))} (code : BitVec 16) (h : prep s g {} = .go s0 s1 rows) :
    exec (.brk g code) s = .next (s.atIssue.takeFaults (s.active g) 0x0B (code.setWidth 32)).finish := by
  obtain ⟨rfl, hrows⟩ := prep_noOperands h
  show execBrk g code s = _
  simp only [execBrk, h, hrows, ofLanes_lanes]

theorem active_subset_lanes {s : State} {g : Guard} {l : Nat} (h : l ∈ (s.active g).lanes) : l ∈ s.cur.lanes.lanes :=
  ((mem_ofLanes_filter _ _ _).1 h).1

section
variable {s : State} (hc : isSerai s.cur.core = false) (m : Mask) (code : Nat) (finfo : Word)
include hc

/-- The lanes that a path's instruction faults stay at it, each with its record. -/
theorem curThread_takeFaults_finish_of_mem {l : Nat} (hl : l ∈ m.lanes) :
    (s.takeFaults m code finfo).finish.curThread l = (s.curThread l).faultedWith (s.issueRecord l code finfo 0) := by
  have hthread := curThread_takeFaults hc m code finfo 0 l
  rw [if_pos hl] at hthread
  rw [curThread_finish_of_not_going, hthread]
  · rwa [cur_takeFaults]
  · rw [hthread, faultedWith_going]

/-- The other lanes of the path go on, where none of them is at the end of its block. -/
theorem curThread_takeFaults_finish_of_not_mem {l : Nat} (hpath : l ∈ s.cur.lanes.lanes) (hl : l ∉ m.lanes)
    (hgo : (s.curThread l).going = true) (hend : ∀ j ∈ s.cur.lanes.lanes, (s.curThread j).atEnd s.cur = false) :
    (s.takeFaults m code finfo).finish.curThread l = (s.curThread l).completed s.cur := by
  have hthread := curThread_takeFaults hc m code finfo 0
  have hsame := (hthread l).trans (if_neg hl)
  have hend' : ∀ j ∈ s.cur.lanes.lanes, ((s.takeFaults m code finfo).curThread j).atEnd s.cur = false := fun j hj => by
    rw [hthread]
    split <;> exact hend j hj
  rw [curThread_finish_of_going (by rwa [cur_takeFaults]) (by rwa [hsame])
    (by rw [cur_takeFaults]; exact fun j hj _ => hend' j hj), hsame, cur_takeFaults]

end

theorem status_of_going {t : Thread} (h : t.going = true) : t.status = .ready := by
  simp only [Thread.going, Bool.and_eq_true, beq_iff_eq] at h
  exact h.1

/-- Settles O13: the active lanes fault and stay, the others end the instruction; no such word is the encoding of a `brk`. -/
theorem breakpointFaults : Obligations.BreakpointFaults := by
  refine ⟨fun g code s s0 s1 rows h => ?_, fun w next hop himm => decodeWord_brk_error next hop himm⟩
  obtain ⟨rfl, -⟩ := prep_noOperands h
  refine ⟨exec_brk code h, fun hc hpc => ⟨fun l hl => ?faulted, fun l hpath hl hgo hrep hend => ?goes⟩⟩
  case faulted =>
    have ht := curThread_takeFaults_finish_of_mem (s := s.atIssue) hc (s.active g) 0x0B (code.setWidth 32) hl
    rw [ht]
    refine ⟨rfl, ?_, _, rfl, rfl, rfl, rfl, rfl⟩
    rw [faultedWith_pc, curThread_atIssue]
    exact hpc l (active_subset_lanes hl)
  case goes =>
    have ht := curThread_takeFaults_finish_of_not_mem (s := s.atIssue) hc (s.active g) 0x0B (code.setWidth 32) hpath hl
      (by rwa [curThread_atIssue]) (fun j hj => by rw [curThread_atIssue]; exact hend j hj)
    rw [curThread_atIssue] at ht
    rw [ht]
    exact ⟨completed_pc hrep _, (completed_status _ _).trans (status_of_going hgo), completed_held _ _⟩

end Sys2Proof.Machine

namespace Sys2Proof.Machine

/-! ## The word of a stack -/

/-- The number whose bit lo + c says whether `p c` holds, for c below n, and whose other bits are 0. -/
def flagsFrom (lo n : Nat) (p : Nat → Bool) : Nat :=
  (List.range n).foldl (fun v c => if p c then v + 2 ^ (lo + c) else v) 0

@[simp] theorem flagsFrom_zero (lo : Nat) (p : Nat → Bool) : flagsFrom lo 0 p = 0 := rfl

theorem flagsFrom_succ (lo n : Nat) (p : Nat → Bool) :
    flagsFrom lo (n + 1) p = flagsFrom lo n p + if p n then 2 ^ (lo + n) else 0 := by
  rw [flagsFrom, List.range_succ, List.foldl_append, List.foldl_cons, List.foldl_nil]
  split <;> rfl

theorem add_flagsFrom_lt {d lo : Nat} (hd : d < 2 ^ lo) (n : Nat) (p : Nat → Bool) : d + flagsFrom lo n p < 2 ^ (lo + n) := by
  induction n with
  | zero => exact hd
  | succ n ih =>
    rw [flagsFrom_succ, ← Nat.add_assoc lo, Nat.pow_succ]
    split <;> omega

/-- A field below the flags keeps its bits: no addition carries, since each flag lies above all that is there. -/
theorem testBit_add_flagsFrom {d lo : Nat} (hd : d < 2 ^ lo) (n : Nat) (p : Nat → Bool) (j : Nat) :
    (d + flagsFrom lo n p).testBit j = if j < lo then d.testBit j else decide (j < lo + n) && p (j - lo) := by
  induction n with
  | zero =>
    rw [flagsFrom_zero, Nat.add_zero, Nat.add_zero]
    split
    · rfl
    next hj =>
      have hbig : d < 2 ^ j := Nat.lt_of_lt_of_le hd (Nat.pow_le_pow_right Nat.two_pos (Nat.not_lt.1 hj))
      rw [decide_eq_false hj, Bool.false_and, Nat.testBit_lt_two_pow hbig]
  | succ n ih =>
    have hor : d + flagsFrom lo (n + 1) p = (if p n then 2 ^ (lo + n) else 0) ||| (d + flagsFrom lo n p) := by
      rw [flagsFrom_succ, ← Nat.add_assoc, Nat.add_comm]
      split
      · simpa only [Nat.mul_one] using Nat.two_pow_add_eq_or_of_lt (add_flagsFrom_lt hd n p) 1
      · rw [Nat.zero_add, Nat.zero_or]
    have hflag : (if p n then 2 ^ (lo + n) else 0).testBit j = (p n && decide (lo + n = j)) := by
      cases p n
      · exact Nat.zero_testBit j
      · exact Nat.testBit_two_pow
    rw [hor, Nat.testBit_or, hflag, ih]
    by_cases hlow : j < lo
    · have hne : lo + n ≠ j := by omega
      rw [if_pos hlow, if_pos hlow, decide_eq_false hne, Bool.and_false, Bool.false_or]
    rw [if_neg hlow, if_neg hlow]
    by_cases hnew : lo + n = j
    · subst hnew
      have hin : lo + n < lo + (n + 1) := by omega
      rw [decide_eq_true rfl, Bool.and_true, decide_eq_false (Nat.lt_irrefl _), Bool.false_and, Bool.or_false,
        decide_eq_true hin, Bool.true_and, Nat.add_sub_cancel_left]
    · have hrange : j < lo + (n + 1) ↔ j < lo + n := by omega
      rw [decide_eq_false hnew, Bool.and_false, Bool.false_or, decide_eq_decide.2 hrange]

/-- R429: context c of a stack is enabled and owned by the partition of a core's cluster. -/
def State.ownsCtx (s : State) (core k c : Nat) : Bool := (s.wctx k c).2 && (s.wctx k c).1 == (s.partOf core).toNat

/-- R429: the word of a stack. -/
def State.stackWord (s : State) (core k : Nat) : Word :=
  BitVec.ofNat 32 (dwBits (s.cr 16 (nWSTAT k)) 6 0 + flagsFrom 8 4 (s.ownsCtx core k))

theorem exec_winfo {g : Guard} {d : Operand} {a : Src} {s s0 s1 : State} {rows : List (Nat × List (List Word))}
    (h : prep s g { srcs := [{ pos := 0, src := a }], dst := some { o := d } } = .go s0 s1 rows) :
    exec (.winfo g d a) s =
      .next (laneValue s1 { o := d } rows fun _ vs => [s1.stackWord s.cur.core ((wordAt vs 0 0).toNat % 8)]) := by
  obtain ⟨-, hkeeps, -⟩ := prep_go h
  rw [← hkeeps.cur]
  exact congrArg _ (laneOp_go (fun s _ vs => [s.stackWord s.cur.core ((wordAt vs 0 0).toNat % 8)]) rfl h)

/-- Bits [hi:0] of a word as a number: the bits of the word up to hi. -/
theorem testBit_dwBits_zero (v : DWord) (hi j : Nat) : (dwBits v hi 0).testBit j = (decide (j < hi + 1) && v.getLsbD j) := by
  rw [dwBits, bitsN, Nat.pow_zero, Nat.div_one, Nat.testBit_mod_two_pow]
  rfl

theorem getLsbD_stackWord (s : State) (core k j : Nat) :
    (s.stackWord core k).getLsbD j =
      if j < 8 then decide (j < 7) && (s.cr 16 (nWSTAT k)).getLsbD j else decide (j < 12) && s.ownsCtx core k (j - 8) := by
  have hdepth : dwBits (s.cr 16 (nWSTAT k)) 6 0 < 2 ^ 8 := Nat.lt_trans (Nat.mod_lt _ (Nat.two_pow_pos 7)) (by decide)
  rw [State.stackWord, BitVec.getLsbD_ofNat, testBit_add_flagsFrom hdepth, testBit_dwBits_zero]
  by_cases hj : j < 32
  · rw [decide_eq_true hj, Bool.true_and]
  · have hlow : ¬ j < 8 := by omega
    have hhigh : ¬ j < 12 := by omega
    rw [decide_eq_false hj, Bool.false_and, if_neg hlow, decide_eq_false hhigh, Bool.false_and]

/-- Settles O14: the word that each lane gets is `State.stackWord`, whose fields are read off its bits. -/
theorem waysideInformation : Obligations.WaysideInformation := by
  intro g d a s s0 s1 rows h
  refine ⟨_, exec_winfo h, fun vs => ⟨?depth, fun c hc => ?context, getLsbD_stackWord _ _ _ _, fun j hj => ?zero⟩⟩
  case depth =>
    refine BitVec.eq_of_getLsbD_eq fun i hi => ?_
    have hlow : i < 8 := by omega
    simp only [BitVec.getLsbD_extractLsb', Nat.zero_add, getLsbD_stackWord, if_pos hlow, hi, decide_true, Bool.true_and]
  case context =>
    have hhigh : ¬ 8 + c < 8 := by omega
    have hrange : 8 + c < 12 := by omega
    rw [getLsbD_stackWord, if_neg hhigh, decide_eq_true hrange, Bool.true_and, Nat.add_sub_cancel_left]
    rfl
  case zero =>
    have hhigh : ¬ j < 8 := by omega
    rw [getLsbD_stackWord, if_neg hhigh, decide_eq_false (Nat.not_lt.2 hj), Bool.false_and]

end Sys2Proof.Machine


namespace Sys2Proof.Laws.RoundTrip

/-! ## From the words of an instruction to its bytes (R10, R44) -/

/-- Every instruction has its round trip: one lemma for each constructor, in their order. -/
theorem statement (i : Instr) : Statement i :=
  Instr.casesOn (motive := Statement) i
    add addImm sub subImm mul mulImm mulhi mad div rem neg abs min minImm max maxImm and andImm or orImm xor xorImm andn not shl shr
    rot bext bins popc clz ctz brev cmp cmpImm sel mov movImm lea plog pget pput pbit br bre jmp call callr ret exit yield brk rep nop
    fadd fsub fmul fma fdiv fsqrt fneg fabs fmin fmax fminp fmaxp fcmp fclass frcp frsq fexp2 flog2 fsinpi fcospi ftanh cvt cvtn cvtw
    fscl dot4 fdot2 wfu wfm seed sfget sfclr sfarm vote vmask shfl red scan scanx elect part pqset pqget partget lds sts rquota rdead
    rgrant wbind wunb wseek qbind qpop qpush qlen lmma lmmaQueued aalloc afree aband arel ald ast ainfo RoundTrip.seal waitb bstat cpy cpyQueued
    cpymc mcdrain mcdrop mcinfo trap resume resumeB kill xres psave prest crget crset icinv mcall mret spawn mset mget mdrop mfind ld
    ldNa ldAcq st stRel atom atomAcq atomRel atomAr fence bar ss ldtag sttag wcmd wcmdQueued winfo nsend nput nget natom npost nwait
    nctr nset msend mrecv mmiow mmior unassignedOpcode la2UntranslatableForm tAdd tSub tAnd tOr tXor tShl tShr tMin tMax tMul tSlt
    tAddi tAndi tShri tMovi tMovhi tBeq tBne tBlt tBge tBr vget vgetIndexed cget each next emitDisp emitDefer emitPreempt emitNone
    emitKill emitPark emitRetry emitFallback producerComplete blockedReady exceptionRecordPost rotationBegin rotationEnd
    reconvergenceRelease coreClockGate icacheLineFill walkerFetchArrive latheCommandAccept latheStep latheCommandComplete
    astWriteComplete copyIssueUnitServe copyQueueSlotTake copyPacketCopy copyPacketFill copyPacketWarm copyPacketComplete
    depotSlotFull depotSlotLost mcdrainWritesDone depotSlotRelease trapRecordPost trapRecordStash psaveDone prestDone eventPost
    eventDropCountPost taskRecordTake summaryUpdate spawnRecordWrite preemptTick decisionRetake tariffDecisionBegin tariffOverrun
    tariffSwapRequest tariffSwap clusterPartitionAssign storePerform storeAcknowledge cacheLineFill lineLeaseExpire whAgeing
    barrierRelease translationWalk zbusyWaitTimeout tbinvWrite hmigStart hashWindowEnd migrationUnitMove bankBlockEnd rowIdleClose
    periodicRowRefresh throttleEnd remapTableError remapReloadDone remapHoldTimeout remapStackTimeout waysideIssueSend waysideAccept
    wnop vload vfill vscale rzero gemv rscale rbias radd rclamp rtovec rstore wcount waysideCommandComplete wctxWrite extreq extrep
    extinv extack fwd fwdrep upd updack migrate svcOpen svcClose svcRead svcWrite svcPmap svcPunmap driveInboundWrite msixMessage
    unsupportedRequest coldReset srunStart rstctlWarm warmResetQuiesced warmResetRetrained warmResetChecked selfTestHbmRow
    selfTestCore selfTestAmemBank selfTestCacheSet selfTestFabricLane selfTestSeraiSram selfTestDone repairCoreToSpare
    repairStackToService attestQuote attestExtend attestPubkey shardRestart clusterRepair clockSyncExchange syncLossTimeout
    fabricRequestTimeout inboundRead inboundWrite inboundAtomic recallTimeout portWidthChange ethernetPortChange netIssueUnitServe
    netWrTake netGateOpen netSend netPut netGet netAtomic netPostReceive netPacketArrive netAckArrive netRetransmitTimeout
    netTargetComplete netInitiatorComplete peerTableWrite regActivate regRevoke revocationComplete registerWrite driveInboundRead
    leaseRecall clockSyncRequest

end Sys2Proof.Laws.RoundTrip

namespace Sys2Proof

@[simp] theorem length_bytesOf (n v : Nat) : (bytesOf n v).length = n := by
  induction n generalizing v with
  | zero => rfl
  | succ n ih => simp [bytesOf, ih]

theorem natOfBytes_bytesOf (n v : Nat) : natOfBytes (bytesOf n v) = v % 256 ^ n := by
  induction n generalizing v with
  | zero => simp [bytesOf, natOfBytes, Nat.mod_one]
  | succ n ih => simp [bytesOf, natOfBytes, ih, Nat.pow_succ', Nat.mod_mul]

/-- A word is what the bytes that it is stored as spell. -/
theorem ofNat_natOfBytes_bytesOf {w n : Nat} (hw : 2 ^ w = 256 ^ n) (x : BitVec w) :
    BitVec.ofNat w (natOfBytes (bytesOf n x.toNat)) = x := by
  rw [natOfBytes_bytesOf, ← hw, Nat.mod_eq_of_lt x.isLt, BitVec.ofNat_toNat, BitVec.setWidth_eq]

theorem hasExt_toWord {c : Enc} (h : Laws.RoundTrip.lnOk c) : hasExt c.raw.toWord = c.ext.isSome := by
  rw [hasExt, Raw.toWord_ln, h]
  cases c.ext <;> rfl

end Sys2Proof

namespace Sys2Proof

open Laws.RoundTrip (lnOk)

/-! ## Every encoding is a word of its form -/

/-- R57: an encoding has an extension word exactly where LN says so. -/
theorem lnOk_of_encode {i : Instr} {c : Enc} (h : encode i = some c) : lnOk c := by
  cases i <;> cases h <;>
    simp [encI3, encI2, encIi, encA2, encA3, encF2, encF3, Raw.encEng, Raw.withD, Raw.withDs, Raw.withS1, Raw.withS2, Raw.withS3,
      Raw.withMod, Raw.withTy, Raw.withImm20, rawOf, Laws.RoundTrip.lnOk_enc, Laws.RoundTrip.lnOk_encModx,
      Laws.RoundTrip.lnOk_encImm, Laws.RoundTrip.lnOk_encTarget, Laws.RoundTrip.lnOk_encMem]

/-! ## Bytes -/

/-- R44: the bytes of one word, then others. -/
theorem decodeBytes_word {w : DWord} (rest : List Byte) (h : hasExt w = false) :
    decodeBytes (bytesOf 8 w.toNat ++ rest) = (decodeWord w 0).map fun i => (i, rest) := by
  have hlen : ¬ 8 + rest.length < 8 := by omega
  simp [decodeBytes, ofNat_natOfBytes_bytesOf, h, hlen]

/-- R44, R57: the bytes of a word and its extension word, then others. -/
theorem decodeBytes_words {w x : DWord} (rest : List Byte) (h : hasExt w = true) :
    decodeBytes (bytesOf 8 w.toNat ++ (bytesOf 8 x.toNat ++ rest)) = (decodeWord w x).map fun i => (i, rest) := by
  have hdrop : (bytesOf 8 w.toNat ++ (bytesOf 8 x.toNat ++ rest)).drop 16 = rest := by
    rw [← List.append_assoc]; exact List.drop_left' (by simp)
  have hlen : ¬ 8 + (8 + rest.length) < 16 := by omega
  have hlen8 : ¬ 8 + (8 + rest.length) < 8 := by omega
  simp [decodeBytes, ofNat_natOfBytes_bytesOf, h, hdrop, hlen, hlen8]

theorem tDecodeBytes_word (w : Word) (rest : List Byte) : tDecodeBytes (bytesOf 4 w.toNat ++ rest) = tDecode w := by
  have hlen : ¬ 4 + rest.length < 4 := by omega
  simp [tDecodeBytes, ofNat_natOfBytes_bytesOf, hlen]

/-- Settles O2: one round trip per instruction (`Laws.RoundTrip.statement`), carried from its words to their bytes. -/
theorem encodedInstructionsDecode : Obligations.EncodedInstructionsDecode := by
  unfold Obligations.EncodedInstructionsDecode
  intro i rest hwf
  obtain ⟨hword, htariff⟩ := Laws.RoundTrip.statement i hwf
  refine ⟨fun ws hws => ?_, fun r hr => ?_⟩
  · obtain ⟨c, hc, rfl⟩ := Option.map_eq_some_iff.mp hws
    have hdec := hword c hc
    have hext := hasExt_toWord (lnOk_of_encode hc)
    obtain ⟨raw, _ | x⟩ := c
    · have hone : decodeWord raw.toWord 0 = .ok i := hdec
      simpa [Except.map] using (decodeBytes_word rest hext).trans (congrArg _ hone)
    · have htwo : decodeWord raw.toWord x = .ok i := hdec
      simpa [Except.map] using (decodeBytes_words rest hext).trans (congrArg _ htwo)
  · rw [tDecodeBytes_word, htariff r hr]

end Sys2Proof

namespace Sys2Proof

/-! ## A word is its fields, and what decodes is its own encoding (R57, R61) -/

theorem Raw.toWord_ofWord (w : DWord) : (Raw.ofWord w).toWord = w := by
  simp (disch := decide) only [Raw.toWord, Raw.ofWord, BitVec.extractLsb'_append_extractLsb'_eq_extractLsb']
  exact BitVec.extractLsb'_eq_self

theorem TRaw.toWord_ofWord (w : Word) : (TRaw.ofWord w).toWord = w := by
  simp (disch := decide) only [TRaw.toWord, TRaw.ofWord, BitVec.extractLsb'_append_extractLsb'_eq_extractLsb']
  exact BitVec.extractLsb'_eq_self

theorem wf_of_decode {c : Enc} {i : Instr} (h : decode c = .ok i) : i.wf = true := by
  obtain ⟨hbuild, henc⟩ := encode_of_decode h
  unfold decode at h
  dsimp only at h
  iterate 3 (split at h; · cases h)
  rw [hbuild] at h
  simp only [henc, if_true] at h
  split at h
  next hmod =>
    split at h
    next hops => simp [Instr.wf, hmod, hops]
    · cases h
  · cases h

/-- An instruction with a tariff word has no operand that could be refused. -/
theorem opsOk_of_tEncode {i : Instr} {r : TRaw} (h : tEncode i = some r) : i.opsOk = true := by
  cases i <;> first | rfl | cases h

theorem wf_and_tEncode_of_tDecode {w : Word} {i : Instr} (h : tDecode w = .ok i) :
    i.wf = true ∧ tEncode i = some (TRaw.ofWord w) := by
  unfold tDecode at h
  split at h
  · split at h <;> cases h
  next j _ =>
  split at h
  next henc =>
    split at h
    next hmod =>
      obtain rfl : j = i := by injection h
      exact ⟨by simp [Instr.wf, hmod, opsOk_of_tEncode henc], henc⟩
    · cases h
  · cases h

/-! ## What refuses a word (R61, R62, R66, R68) -/

/-- Refused, if at all, for a field (cause 3) or an operand code (cause 4). -/
def RefusesFields (r : Except Nat Instr) : Prop := ∀ e, r = .error e → e = 3 ∨ e = 4

@[simp] theorem refusesFields_ok (i : Instr) : RefusesFields (.ok i) := fun _ h => by cases h
@[simp] theorem refusesFields_three : RefusesFields (.error 3) := fun _ h => by injection h with h; exact .inl h.symm
@[simp] theorem refusesFields_four : RefusesFields (.error 4) := fun _ h => by injection h with h; exact .inr h.symm

@[simp] theorem refusesFields_orCause4 (o : Option Instr) : RefusesFields (orCause4 o) := by
  cases o with
  | none => exact refusesFields_four
  | some i => exact refusesFields_ok i

section
variable (c : Enc)

@[simp] theorem refusesFields_buildA1 (mk : Guard → Operand → Src → Instr) : RefusesFields (buildA1 c mk) := refusesFields_orCause4 _
@[simp] theorem refusesFields_buildA2 (mk : Guard → Operand → Src → Src → Instr) : RefusesFields (buildA2 c mk) := refusesFields_orCause4 _
@[simp] theorem refusesFields_buildA3 (mk : Guard → Operand → Src → Src → Src → Instr) : RefusesFields (buildA3 c mk) := refusesFields_orCause4 _
@[simp] theorem refusesFields_buildD (mk : Guard → Operand → Instr) : RefusesFields (buildD c mk) := refusesFields_orCause4 _
@[simp] theorem refusesFields_buildS1 (mk : Guard → Src → Instr) : RefusesFields (buildS1 c mk) := refusesFields_orCause4 _
@[simp] theorem refusesFields_buildS2 (mk : Guard → Src → Src → Instr) : RefusesFields (buildS2 c mk) := refusesFields_orCause4 _
@[simp] theorem refusesFields_buildB (mk : Guard → Operand → Src → Imm → Instr) : RefusesFields (buildB c mk) := refusesFields_orCause4 _
@[simp] theorem refusesFields_buildM (mk : Guard → Operand → MemOp → Instr) : RefusesFields (buildM c mk) := refusesFields_orCause4 _
@[simp] theorem refusesFields_buildMs (mk : Guard → Src → MemOp → Instr) : RefusesFields (buildMs c mk) := refusesFields_orCause4 _
@[simp] theorem refusesFields_buildF1 (mk : Guard → Operand → Src → Option Modx → Instr) : RefusesFields (buildF1 c mk) := by
  unfold buildF1
  split
  · exact refusesFields_three
  · exact refusesFields_orCause4 _
@[simp] theorem refusesFields_buildF2 (mk : Guard → Operand → Src → Src → Option Modx → Instr) : RefusesFields (buildF2 c mk) := by
  unfold buildF2
  split
  · exact refusesFields_three
  · exact refusesFields_orCause4 _
@[simp] theorem refusesFields_buildF3 (mk : Guard → Operand → Src → Src → Src → Option Modx → Instr) : RefusesFields (buildF3 c mk) := by
  unfold buildF3
  split
  · exact refusesFields_three
  · exact refusesFields_orCause4 _
@[simp] theorem refusesFields_buildE (direct : Guard → Nat → Bool → Instr) (queued : Option (Guard → Nat → Bool → BitVec 5 → Instr)) :
    RefusesFields (buildE c direct queued) := by
  unfold buildE
  split
  · split
    · exact refusesFields_ok _
    · exact refusesFields_three
  · exact refusesFields_ok _
@[simp] theorem refusesFields_buildCls {mk : EngClass → Except Nat Instr} (h : ∀ k, RefusesFields (mk k)) : RefusesFields (buildCls c mk) := by
  unfold buildCls
  split
  · exact h _
  · exact refusesFields_three
@[simp] theorem refusesFields_portOf {x : BitVec 10} {f : Nat → Except Nat Instr} (h : ∀ p, RefusesFields (f p)) :
    RefusesFields (portOf x >>= f) := by
  unfold portOf
  split
  · exact h _
  · exact refusesFields_four

end

/-- Words of one opcode are all refused with cause 0, or none of them is. -/
def AssignedOrNot (b : Enc → Except Nat Instr) : Prop :=
  ∀ c c' : Enc, c'.raw.opc = c.raw.opc → RefusesFields (b c) ∨ b c' = .error 0

theorem assignedOrNot_buildInt : AssignedOrNot buildInt := by
  intro c c' hc
  unfold buildInt
  dsimp only
  rw [hc]
  split <;> simp
theorem assignedOrNot_buildCtl : AssignedOrNot buildCtl := by
  intro c c' hc
  unfold buildCtl
  dsimp only
  rw [hc]
  split <;> simp
  split <;> simp
theorem assignedOrNot_buildPred : AssignedOrNot buildPred := by
  intro c c' hc
  unfold buildPred
  dsimp only
  rw [hc]
  split <;> simp
theorem assignedOrNot_buildFloat : AssignedOrNot buildFloat := by
  intro c c' hc
  unfold buildFloat
  dsimp only
  rw [hc]
  split
  case h_13 => split <;> simp
  all_goals simp
theorem assignedOrNot_buildCross : AssignedOrNot buildCross := by
  intro c c' hc
  unfold buildCross
  dsimp only
  rw [hc]
  split <;> simp
theorem assignedOrNot_buildStore : AssignedOrNot buildStore := by
  intro c c' hc
  unfold buildStore
  dsimp only
  rw [hc]
  split <;> simp
theorem assignedOrNot_buildMem : AssignedOrNot buildMem := by
  intro c c' hc
  unfold buildMem
  dsimp only
  rw [hc]
  split <;> simp
  split <;> simp
theorem assignedOrNot_buildEngine : AssignedOrNot buildEngine := by
  intro c c' hc
  unfold buildEngine
  dsimp only
  rw [hc]
  split <;> simp
  split <;> simp
theorem assignedOrNot_buildPriv : AssignedOrNot buildPriv := by
  intro c c' hc
  unfold buildPriv
  dsimp only
  rw [hc]
  split <;> simp
  split <;> simp
theorem assignedOrNot_buildTask : AssignedOrNot buildTask := by
  intro c c' hc
  unfold buildTask
  rw [hc]
  split <;> simp

theorem assignedOrNot_build : AssignedOrNot build := by
  intro c c' hc
  unfold build
  dsimp only
  rw [hc]
  split; · exact assignedOrNot_buildInt c c' hc
  split; · exact assignedOrNot_buildCtl c c' hc
  split; · exact assignedOrNot_buildPred c c' hc
  split; · exact assignedOrNot_buildFloat c c' hc
  split; · exact assignedOrNot_buildCross c c' hc
  split; · exact assignedOrNot_buildStore c c' hc
  split; · exact assignedOrNot_buildMem c c' hc
  split; · exact assignedOrNot_buildEngine c c' hc
  split; · exact assignedOrNot_buildPriv c c' hc
  exact assignedOrNot_buildTask c c' hc

theorem decode_opcode_zero {c : Enc} (h : c.raw.opc.toNat = 0) : decode c = .error 1 := by
  simp only [decode, h, if_true]
theorem decode_opcode_la2 {c : Enc} (hlo : 0x380 ≤ c.raw.opc.toNat) (hhi : c.raw.opc.toNat ≤ 0x3BF) : decode c = .error 2 := by
  have hne : c.raw.opc.toNat ≠ 0 := by omega
  simp only [decode, hne, hlo, hhi, and_self, if_true, if_false]
theorem decode_opcode_header {c : Enc} (h : c.raw.opc.toNat = 0x3FF) : decode c = .error 5 := by
  unfold decode
  dsimp only
  rw [h, if_neg (by decide), if_neg (by decide), if_pos rfl]

section
variable {c : Enc} (h0 : c.raw.opc.toNat ≠ 0) (hla : ¬ (0x380 ≤ c.raw.opc.toNat ∧ c.raw.opc.toNat ≤ 0x3BF)) (hh : c.raw.opc.toNat ≠ 0x3FF)
include h0 hla hh

theorem decode_unassigned (hb : build c = .error 0) : decode c = .error 0 := by
  unfold decode
  dsimp only
  rw [if_neg h0, if_neg hla, if_neg hh, hb]
  rfl

/-- R57, R61: in an assigned opcode a reserved LN is cause 3: no encoding has it. -/
theorem decode_reservedLn (hln : 1 < c.raw.ln.toNat) (hb : RefusesFields (build c)) : decode c = .error 3 := by
  unfold decode
  dsimp only
  rw [if_neg h0, if_neg hla, if_neg hh]
  split
  next e he => rcases hb e he with rfl | rfl <;> simp [hln]
  next i _ =>
    refine if_neg fun henc => ?_
    have hl := lnOk_of_encode henc
    unfold Laws.RoundTrip.lnOk at hl
    split at hl <;> simp [hl] at hln

end

/-- R57, R61, R68: a word with a reserved LN is refused with cause 3, or with the cause that its opcode gives every word. -/
theorem decodeWord_reservedLn {w : DWord} (next : DWord) (h0 : w.extractLsb' 62 2 ≠ 0) (h1 : w.extractLsb' 62 2 ≠ 1) :
    decodeWord w next = .error 3 ∨
      ∃ e, ∀ w' n' : DWord, w'.extractLsb' 0 10 = w.extractLsb' 0 10 → decodeWord w' n' = .error e := by
  unfold decodeWord
  generalize hc : ({ raw := Raw.ofWord w, ext := if hasExt w then some next else none } : Enc) = c
  have hopc {w' : DWord} (h : w'.extractLsb' 0 10 = w.extractLsb' 0 10) : (Raw.ofWord w').opc = c.raw.opc := by
    rw [← hc]
    exact h
  have hln : 1 < c.raw.ln.toNat := by
    have : ∀ b : BitVec 2, b ≠ 0 → b ≠ 1 → 1 < b.toNat := by decide
    rw [← hc]
    exact this _ h0 h1
  by_cases hz : c.raw.opc.toNat = 0
  · exact .inr ⟨1, fun w' n' h => decode_opcode_zero (by rw [hopc h, hz])⟩
  by_cases hla : 0x380 ≤ c.raw.opc.toNat ∧ c.raw.opc.toNat ≤ 0x3BF
  · exact .inr ⟨2, fun w' n' h => decode_opcode_la2 (by rw [hopc h]; exact hla.1) (by rw [hopc h]; exact hla.2)⟩
  by_cases hh : c.raw.opc.toNat = 0x3FF
  · exact .inr ⟨5, fun w' n' h => decode_opcode_header (by rw [hopc h, hh])⟩
  by_cases hb : RefusesFields (build c)
  · exact .inl (decode_reservedLn hz hla hh hln hb)
  · refine .inr ⟨0, fun w' n' h => ?_⟩
    have hun := (assignedOrNot_build c { raw := Raw.ofWord w', ext := if hasExt w' then some n' else none } (hopc h)).resolve_left hb
    rw [← hopc h] at hz hla hh
    exact decode_unassigned hz hla hh hun

/-- Settles O3: what decodes was its own encoding, and the causes of what does not decode. -/
theorem decodedWordsAreEncodings : Obligations.DecodedWordsAreEncodings := by
  unfold Obligations.DecodedWordsAreEncodings
  refine ⟨fun w next i h => ?_, fun w i h => ?_, fun w next => ⟨fun h => ?_, fun hlo hhi => ?_, fun h => ?_, decodeWord_reservedLn next⟩⟩
  · exact ⟨wf_of_decode h, _, (encode_of_decode h).2, Raw.toWord_ofWord w, rfl⟩
  · obtain ⟨hwf, henc⟩ := wf_and_tEncode_of_tDecode h
    exact ⟨hwf, _, henc, TRaw.toWord_ofWord w⟩
  · exact decode_opcode_zero (congrArg BitVec.toNat h)
  · exact decode_opcode_la2 hlo hhi
  · exact decode_opcode_header (congrArg BitVec.toNat h)

end Sys2Proof

namespace Sys2Proof.Machine

/-! ## Nothing stops (R459): every instruction and every activity answers a next state -/

/-- An activity answers a next state, whatever the state. -/
def Goes (f : Act) : Prop := ∀ s, ∃ t, f s = .next t
/-- So does every activity of a list. -/
def AllGo (l : List Act) : Prop := ∀ f ∈ l, Goes f

theorem goes_next (f : State → State) : Goes fun s => .next (f s) := fun s => ⟨f s, rfl⟩

theorem goes_execMov (g : Guard) (dbl : Bool) (d : Operand) (a : Src) : Goes (execMov g dbl d a) := by
  intro s
  unfold execMov
  split <;> exact ⟨_, rfl⟩

theorem goes_execBre (g : Guard) (dim : BitVec 2) (neg : Bool) (w : Nat) (t : Target) : Goes (execBre g dim neg w t) := by
  intro s
  unfold execBre
  dsimp only
  split <;> exact ⟨_, rfl⟩

theorem goes_execWalkerFetchArrive (core turn w : Nat) : Goes (execWalkerFetchArrive core turn w) := by
  intro s
  unfold execWalkerFetchArrive
  dsimp only
  split; · exact ⟨_, rfl⟩
  split; · exact ⟨_, rfl⟩
  split <;> exact ⟨_, rfl⟩

/-- Every instruction, tariff instruction, command and event has a meaning: all but three are written as a next state. -/
theorem goes_exec (i : Instr) : Goes (exec i) := by
  intro s
  cases i
  case mov g dbl d a => exact goes_execMov g dbl d a s
  case bre g dim neg w t => exact goes_execBre g dim neg w t s
  case walkerFetchArrive core turn w => exact goes_execWalkerFetchArrive core turn w s
  all_goals exact ⟨_, rfl⟩

theorem goes_timed {f : Act} (h : Goes f) : Goes (timed f) := fun s => h s.tick

theorem goes_coreAct (c : Nat) : Goes (coreAct c) := by
  intro s
  unfold coreAct
  split
  · exact goes_exec _ _
  · exact ⟨_, rfl⟩

theorem goes_decisionAct (cl : Nat) : Goes (decisionAct cl) := by
  intro s
  unfold decisionAct
  split; · exact ⟨_, rfl⟩
  split; · exact ⟨_, rfl⟩
  split
  · exact goes_exec _ _
  · exact ⟨_, rfl⟩

theorem goes_loadAct (id : Nat) (far : Bool) : Goes (loadAct id far) := by
  intro s
  unfold loadAct
  split <;> exact ⟨_, rfl⟩

theorem next_of_ite {p : Prop} [Decidable p] {a b : Host.Outcome State Fault Refusal} (ha : ∃ t, a = .next t) (hb : ∃ t, b = .next t) :
    ∃ t, (if p then a else b) = .next t := by
  split
  · exact ha
  · exact hb

theorem goes_execShardRestart (c : Nat) : Goes (execShardRestart c) := fun _ => ⟨_, rfl⟩

theorem goes_seraiLoss (line : Nat) : Goes (seraiLoss line) := by
  intro s
  unfold seraiLoss
  split
  · exact next_of_ite ⟨_, rfl⟩ (next_of_ite ⟨_, rfl⟩ (next_of_ite (goes_execShardRestart _ _) ⟨_, rfl⟩))
  · exact ⟨_, rfl⟩

theorem goes_inputAct : Goes inputAct := by
  intro s
  unfold inputAct
  split; · exact ⟨_, rfl⟩
  dsimp only
  split
  case h_1 =>
    unfold arrive
    split
    · exact ⟨_, rfl⟩
    · exact goes_exec _ _
  all_goals exact ⟨_, rfl⟩

/-! ### Lists of activities -/

theorem goes_ite {p : Prop} [Decidable p] {f f' : Act} : Goes (if p then f else f') ↔ (p → Goes f) ∧ (¬p → Goes f') := by
  split <;> simp [*]

@[simp] theorem allGo_nil : AllGo [] := fun _ h => by cases h
@[simp] theorem allGo_cons {f : Act} {l : List Act} : AllGo (f :: l) ↔ Goes f ∧ AllGo l := List.forall_mem_cons
@[simp] theorem allGo_append {l m : List Act} : AllGo (l ++ m) ↔ AllGo l ∧ AllGo m := List.forall_mem_append
@[simp] theorem allGo_ite {p : Prop} [Decidable p] {l m : List Act} : AllGo (if p then l else m) ↔ (p → AllGo l) ∧ (¬p → AllGo m) := by
  split <;> simp [*]
@[simp] theorem allGo_map {α : Type} {f : α → Act} {l : List α} : AllGo (l.map f) ↔ ∀ x ∈ l, Goes (f x) := List.forall_mem_map
@[simp] theorem allGo_flatMap {α : Type} {f : α → List Act} {l : List α} : AllGo (l.flatMap f) ↔ ∀ x ∈ l, AllGo (f x) :=
  List.forall_mem_flatMap

section
variable (s : State)

theorem allGo_coreActs (c : Nat) (k : Core) : AllGo (coreActs s c k) := by
  unfold coreActs readyActs walkerActs
  cases k.throttle <;> simp [goes_coreAct, goes_timed (goes_execWalkerFetchArrive _ _ _), imp_and] <;>
    and_intros <;> intros <;> exact fun _ => ⟨_, rfl⟩

theorem allGo_clusterActs (cl : Nat) (k : Cluster) : AllGo (clusterActs s cl k) := by
  unfold clusterActs summaryActs
  cases k.decision <;> cases k.gather <;> simp [goes_decisionAct, goes_ite, imp_and, forall_and] <;>
    and_intros <;> intros <;> exact fun _ => ⟨_, rfl⟩

theorem allGo_queueActs : AllGo (queueActs s) := by
  refine allGo_flatMap.2 fun p _ => ?_
  simp [imp_and]
  and_intros <;> intros <;> exact fun _ => ⟨_, rfl⟩

theorem allGo_waysideActs : AllGo (waysideActs s) := by
  refine allGo_flatMap.2 fun p _ => ?_
  cases p.2.cur <;> simp [imp_and] <;> and_intros <;> intros <;> exact fun _ => ⟨_, rfl⟩

theorem allGo_netActs : AllGo (netActs s) := by
  simp [netActs, imp_and, forall_and]
  and_intros <;> intros <;> exact fun _ => ⟨_, rfl⟩

theorem allGo_prodActs : AllGo (prodActs s) := by
  refine allGo_flatMap.2 fun p _ => ?_
  cases p.2.src <;> simp [goes_timed (goes_loadAct _ _)]
  and_intros <;> intros <;> exact fun _ => ⟨_, rfl⟩

theorem allGo_storeActs : AllGo (storeActs s) := by
  simp [storeActs, imp_and, forall_and]
  and_intros <;> intros <;> exact fun _ => ⟨_, rfl⟩

theorem allGo_engineActs : AllGo (engineActs s) := by
  simp [engineActs, imp_and, forall_and]
  and_intros <;> intros <;> exact fun _ => ⟨_, rfl⟩

theorem allGo_walkActs : AllGo (walkActs s) := by
  refine allGo_flatMap.2 fun p _ => allGo_append.2 ⟨allGo_flatMap.2 fun w _ => ?_, allGo_map.2 fun _ _ _ => ⟨_, rfl⟩⟩
  cases w.busy <;> simp <;> and_intros <;> intros <;> exact fun _ => ⟨_, rfl⟩

theorem allGo_barrierActs : AllGo (barrierActs s) := allGo_map.2 fun _ _ _ => ⟨_, rfl⟩

theorem allGo_ageActs : AllGo (ageActs s) :=
  allGo_flatMap.2 fun _ _ => allGo_flatMap.2 fun _ _ => allGo_map.2 fun _ _ _ => ⟨_, rfl⟩

theorem allGo_hashActs : AllGo (hashActs s) := by
  unfold hashActs
  refine allGo_append.2 ⟨allGo_ite.2 ⟨fun _ => allGo_nil, fun _ => allGo_cons.2 ⟨fun _ => ⟨_, rfl⟩, allGo_nil⟩⟩, ?_⟩
  split
  · split
    · exact allGo_cons.2 ⟨fun _ => ⟨_, rfl⟩, allGo_nil⟩
    · exact allGo_nil
  · exact allGo_nil

theorem allGo_memoryActs : AllGo (memoryActs s) := by
  refine allGo_append.2 ⟨allGo_flatMap.2 fun b _ => ?_, allGo_flatMap.2 fun r _ => ?_⟩
  · cases b.2.block <;> simp <;> and_intros <;> intros <;> exact fun _ => ⟨_, rfl⟩
  · simp
    and_intros <;> intros <;> and_intros <;> intros <;> exact fun _ => ⟨_, rfl⟩

theorem allGo_shardActs : AllGo (shardActs s) := by
  simp [shardActs, goes_timed (goes_seraiLoss _)]
  and_intros <;> intros <;> exact fun _ => ⟨_, rfl⟩

theorem allGo_testActs : AllGo (testActs s) := by
  unfold testActs
  cases s.selfTest <;> simp [imp_and]
  and_intros <;> intros <;> exact fun _ => ⟨_, rfl⟩

theorem allGo_deviceActs : AllGo (deviceActs s) := by
  unfold deviceActs
  simp only [allGo_append]
  refine ⟨⟨⟨⟨⟨allGo_testActs s, ?_⟩, ?_⟩, ?_⟩, ?_⟩, ?_⟩
  · split <;> simp <;> and_intros <;> exact fun _ => ⟨_, rfl⟩
  · cases s.attest <;> simp
    and_intros <;> exact fun _ => ⟨_, rfl⟩
  · exact allGo_ite.2 ⟨fun _ => allGo_cons.2 ⟨fun _ => ⟨_, rfl⟩, allGo_nil⟩, fun _ => allGo_nil⟩
  · exact allGo_ite.2 ⟨fun _ => allGo_cons.2 ⟨fun _ => ⟨_, rfl⟩, allGo_nil⟩, fun _ => allGo_nil⟩
  · exact allGo_map.2 fun r _ => goes_timed (goes_ite.2 ⟨fun _ _ => ⟨_, rfl⟩, fun _ _ => ⟨_, rfl⟩⟩)

theorem allGo_inputActs : AllGo (inputActs s) := by
  simp [inputActs, goes_timed goes_inputAct]

theorem allGo_workActs : AllGo (workActs s) := by
  simp [workActs, allGo_coreActs, allGo_clusterActs, allGo_queueActs, allGo_waysideActs, allGo_netActs, allGo_barrierActs, allGo_ageActs,
    allGo_hashActs, allGo_deviceActs, allGo_shardActs]

theorem allGo_oldActs : AllGo (oldActs s) := by
  simp [oldActs, allGo_prodActs, allGo_storeActs, allGo_engineActs, allGo_walkActs, allGo_memoryActs]

theorem allGo_warmActs : AllGo (warmActs s) := by
  unfold warmActs wayRunning
  cases s.warm <;> simp [allGo_waysideActs, allGo_testActs] <;> intros <;> exact fun _ => ⟨_, rfl⟩

/-- LOG 4: whatever can happen next goes on. -/
theorem allGo_acts : AllGo s.acts := by
  unfold State.acts
  dsimp only
  simp only [allGo_ite, allGo_append, allGo_map, allGo_cons, allGo_nil, allGo_inputActs, allGo_workActs, allGo_warmActs, allGo_oldActs,
    goes_timed goes_inputAct, goes_coreAct, and_true, implies_true]

theorem AllGo.getD {l : List Act} (h : AllGo l) {f : Act} (hf : Goes f) (n : Nat) : Goes (l.getD n f) := by
  unfold List.getD
  cases hn : l[n]? with
  | none => exact hf
  | some f' => exact h f' (List.mem_of_getElem? hn)

end

/-- Settles O5: the move of a package is one of its activities, each of which goes on; with none of them time passes, but in
PHASE 15 (R459). -/
theorem everyStepGoesOn : Obligations.EveryStepGoesOn := by
  unfold Obligations.EveryStepGoesOn
  refine ⟨goes_exec, fun s => ?_⟩
  unfold step State.move
  split
  · exact .inl ⟨_, rfl⟩
  have hgo := allGo_acts s
  split
  next hnone =>
    split
    next hphase => exact .inr ⟨hphase, hnone, rfl⟩
    · exact .inl ⟨_, rfl⟩
  next f hone =>
    rw [hone] at hgo
    exact .inl (hgo f List.mem_cons_self s)
  next f fs _ hmany =>
    rw [hmany] at hgo
    exact .inl (hgo.getD (hgo f List.mem_cons_self) _ _)

end Sys2Proof.Machine

namespace Sys2Proof.Machine

/-! ## Issue with registers, special values and constants (R21, R108) -/

/-- A source that names a register, a special value or a constant: reading it takes nothing. -/
def SrcReq.isPlain (r : SrcReq) : Bool := match r.src.o with | .reg _ | .special _ | .intc _ | .fltc _ => true | _ => false
/-- A destination that names a register or a special value. -/
def DstReq.isPlain (d : DstReq) : Bool := match d.o with | .reg _ | .special _ => true | _ => false
/-- All operands are of that kind. -/
def Spec.isPlain (sp : Spec) : Bool := sp.srcs.all SrcReq.isPlain && sp.dst.toList.all DstReq.isPlain

/-- R21: the registers that the path waits for: those of sources without the E bit that are empty in an active lane. -/
def State.emptyWaits (s : State) (sp : Spec) (act : Mask) : List (Nat × Nat) :=
  act.lanes.flatMap fun l => (sp.srcs.filter fun r => !r.src.e).flatMap fun r => (r.emptyRegs (s.curThread l)).map fun x => (l, x)
/-- R21: in each active lane, the first empty register of a source and its position. -/
def State.emptyHoles (s : State) (sp : Spec) (act : Mask) : List (Nat × Nat × Nat) :=
  act.lanes.filterMap fun l => (sp.srcs.findSome? fun r => (r.emptyRegs (s.curThread l)).head?.map fun x => (r.pos, x)).map fun p => (l, p)
/-- R21: the EMPTY faults of such lanes. -/
def State.takeEmpty (s : State) (holes : List (Nat × Nat × Nat)) : State :=
  holes.foldl (fun s p => s.takeFault p.1 3 (BitVec.ofNat 32 (p.2.2 + 1024 * p.2.1))) s
/-- The state `u` with the queues and walkers that `s` has. -/
def State.withOperandsOf (u s : State) : State :=
  (u.modCore s.cur.core fun c => { c with queues := (s.core s.cur.core).queues }).modCurWave fun wv =>
    { wv with walkers := (s.wave s.cur.core s.cur.turn).walkers }

theorem withOperandsOf_self (s : State) : s.withOperandsOf s = s.atIssue := rfl

section
variable {sp : Spec}

theorem shortPop_plain {k : Core} {rs : List SrcReq} (h : rs.all SrcReq.isPlain = true) : shortPop k rs = none := by
  induction rs with
  | nil => rfl
  | cons r rs ih =>
    obtain ⟨hr, hrs⟩ := Bool.and_eq_true_iff.mp h
    cases ho : r.src.o <;> simp_all [shortPop, SrcReq.isPlain]

theorem walkerReads_plain {w : Wave} {rs : List SrcReq} (h : rs.all SrcReq.isPlain = true) : walkerReads w rs = [] := by
  induction rs with
  | nil => rfl
  | cons r rs ih =>
    obtain ⟨hr, hrs⟩ := Bool.and_eq_true_iff.mp h
    cases ho : r.src.o <;> simp_all [walkerReads, SrcReq.isPlain]

theorem readSrc_plain (s : State) (l : Nat) {r : SrcReq} (h : r.isPlain = true) :
    s.readSrc (s.core s.cur.core) (s.wave s.cur.core s.cur.turn) l r = s.operandWords l r := by
  unfold State.readSrc State.operandWords
  cases ho : r.src.o with
  | reg b => rfl
  | special k => rfl
  | intc k => rfl
  | fltc k => rfl
  | _ => simp [SrcReq.isPlain, ho] at h

theorem readAll_plain (s : State) (ls : List Nat) {rs : List SrcReq} (h : rs.all SrcReq.isPlain = true) (acc : List (List (List Word))) :
    readAll s ls (s.core s.cur.core) (s.wave s.cur.core s.cur.turn) rs acc =
      (s.core s.cur.core, s.wave s.cur.core s.cur.turn, acc ++ rs.map fun r => ls.map fun l => s.operandWords l r) := by
  induction rs generalizing acc with
  | nil => simp [readAll]
  | cons r rs ih =>
    obtain ⟨hr, hrs⟩ := Bool.and_eq_true_iff.mp h
    have hconsume : consume (s.core s.cur.core) (s.wave s.cur.core s.cur.turn) r = (s.core s.cur.core, s.wave s.cur.core s.cur.turn) := by
      cases ho : r.src.o <;> simp_all [consume, SrcReq.isPlain]
    simp [readAll, hconsume, ih hrs, readSrc_plain s _ hr]

/-- The destination, if any, is a register or a special value. -/
theorem dst_plain (h : sp.isPlain = true) :
    sp.dst = none ∨ (∃ b n al, sp.dst = some { o := .reg b, n, al }) ∨ ∃ k n al, sp.dst = some { o := .special k, n, al } := by
  obtain ⟨-, hdst⟩ := Bool.and_eq_true_iff.mp h
  cases hd : sp.dst with
  | none => exact .inl rfl
  | some d =>
    have hp : d.isPlain = true := by simpa [hd] using hdst
    obtain ⟨o, n, al⟩ := d
    cases o <;> simp [DstReq.isPlain] at hp ⊢

theorem bindFault_plain (s : State) (h : sp.isPlain = true) : bindFault s sp = none := by
  have hsrc := (Bool.and_eq_true_iff.mp h).1
  unfold bindFault
  dsimp only
  split
  next f hf =>
    obtain ⟨r, hr, hone⟩ := List.exists_of_findSome?_eq_some hf
    have hp := List.all_eq_true.mp hsrc r hr
    cases ho : r.src.o <;> simp [SrcReq.isPlain, ho] at hp hone
  · obtain hd | ⟨b, n, al, hd⟩ | ⟨k, n, al, hd⟩ := dst_plain h <;> simp only [hd, Option.bind]

theorem pushes_plain (h : sp.isPlain = true) : sp.pushes = [] := by
  obtain hd | ⟨b, n, al, hd⟩ | ⟨k, n, al, hd⟩ := dst_plain h <;> simp only [Spec.pushes, hd]

end

/-- The rows that `prep` forms are the lanes, each with its own words. -/
theorem zipRows {α : Type} (ls : List Nat) (rs : List α) (f : Nat → α → List Word) :
    ((ls.zip (List.range ls.length)).map fun p => (p.1, (rs.map fun r => ls.map fun l => f l r).map fun v => v.getD p.2 [])) =
      ls.map fun l => (l, rs.map (f l)) := by
  refine List.ext_getElem (by simp) fun i hi hi' => ?_
  have hlt : i < ls.length := by simpa using hi'
  simp [hlt]

theorem prep_plainOps {s : State} {g : Guard} {sp : Spec} {mov : Bool} {x : Extra} (hact : s.active g ≠ 0) (hrep : repCause s sp (s.active g) = none)
    (hop : operandFault s sp (s.active g) = none) (hplain : sp.isPlain = true) (hx : ∀ l, x.hole l = none)
    (hwaits : s.emptyWaits sp (s.active g) = []) :
    prep s g sp mov x =
      let bad := everyLane sp.once (s.active g).lanes (s.emptyHoles sp (s.active g))
      let left := (s.active g).lanes.filter fun l => !(bad.any fun p => p.1 == l)
      if left.isEmpty then .stop (s.takeEmpty bad).finish
      else .go (s.takeEmpty bad) ((s.takeEmpty bad).withOperandsOf s) (left.map fun l => (l, sp.srcs.map (s.operandWords l))) := by
  obtain ⟨hsrc, hdst⟩ := Bool.and_eq_true_iff.mp hplain
  obtain ⟨bad, hbad⟩ : ∃ bad, everyLane sp.once (s.active g).lanes (s.emptyHoles sp (s.active g)) = bad := ⟨_, rfl⟩
  obtain ⟨left, hleft⟩ : ∃ left, ((s.active g).lanes.filter fun l => !(bad.any fun p => p.1 == l)) = left := ⟨_, rfl⟩
  have hnowf : ∀ l, s.walkerFault [] none l = none := fun _ => rfl
  have hnoneed : s.walkerNeeds left [] = [] := rfl
  dsimp only
  rw [hbad, hleft]
  unfold State.emptyHoles at hbad
  unfold State.emptyWaits at hwaits
  simp only [prep, if_neg hact, hrep, hop, hwaits, hx, Option.none_or, hbad, hleft, shortPop_plain hsrc, bindFault_plain s hplain,
    walkerReads_plain hsrc, readAll_plain s _ hsrc, pushes_plain hplain, hnoneed, List.isEmpty_nil, Bool.not_true,
    Bool.and_false, Bool.false_eq_true, if_false, Option.bind_none, Option.isSome_none, List.map_nil, List.all_nil, List.nil_append]
  have hnone : ∀ {α β : Type} (l : List α), l.filterMap (fun _ => (none : Option β)) = [] := fun l => List.filterMap_eq_nil_iff.2 fun _ _ => rfl
  have hnil : everyLane sp.once left ([] : List (Nat × Nat × Word × DWord)) = [] := by unfold everyLane; split <;> rfl
  obtain hd | ⟨b, n, al, hd⟩ | ⟨k, n, al, hd⟩ := dst_plain hplain <;>
    simp only [hd, Option.bind_none, Option.bind_some, hnowf, Option.map_none, hnone, hnil, List.any_nil, Bool.false_eq_true, if_false,
      List.foldl_nil, List.filterMap_eq_map', zipRows left sp.srcs s.operandWords]
  all_goals
    by_cases hl : left.isEmpty = true
    · rw [if_pos hl, if_pos hl]; rfl
    · rw [if_neg hl, if_neg hl, if_neg (by rwa [List.isEmpty_map])]; rfl


/-! ### The conditions of `State.plain` -/

/-- R18, R200: a register that a thread of the issuing wave may name. -/
def State.inQuota (s : State) (r : Nat) : Prop :=
  s.deadBelow s.cur.core s.cur.turn ≤ r ∧ r < s.quotaOf s.cur.core s.cur.turn

section
variable {s : State} {g : Guard} {sp : Spec}

theorem isPlain_iff : sp.isPlain = true ↔
    (∀ r ∈ sp.srcs, (∃ b, r.src.o = .reg b) ∨ (∃ n, r.src.o = .special n) ∨ (∃ k, r.src.o = .intc k) ∨ ∃ k, r.src.o = .fltc k) ∧
      ∀ d, sp.dst = some d → (∃ b, d.o = .reg b) ∨ ∃ n, d.o = .special n := by
  have hsrc : ∀ r : SrcReq, r.isPlain = true ↔
      (∃ b, r.src.o = .reg b) ∨ (∃ n, r.src.o = .special n) ∨ (∃ k, r.src.o = .intc k) ∨ ∃ k, r.src.o = .fltc k := fun r => by
    cases ho : r.src.o <;> simp [SrcReq.isPlain, ho]
  have hdst : ∀ d : DstReq, d.isPlain = true ↔ (∃ b, d.o = .reg b) ∨ ∃ n, d.o = .special n := fun d => by
    cases ho : d.o <;> simp [DstReq.isPlain, ho]
  simp only [Spec.isPlain, Bool.and_eq_true, List.all_eq_true, hsrc, hdst, Option.mem_toList]

/-- R18, R200: no lane names a register out of quota or dead. -/
theorem findSome_firstOut_none (act : Mask) : ((act.lanes.map fun l => sp.ranges (s.curThread l)).findSome?
      (firstOut (s.quotaOf s.cur.core s.cur.turn) (s.deadBelow s.cur.core s.cur.turn)) = none) ↔
    ∀ l ∈ act.lanes, ∀ p ∈ sp.ranges (s.curThread l), ∀ i < p.2.1, s.inQuota (p.1 + i) := by
  simp [List.findSome?_eq_none_iff, firstOut, State.inQuota, not_or]

/-- R264: no lane names a misaligned register. -/
theorem findSome_firstMis_none (act : Mask) : (act.lanes.map fun l => sp.ranges (s.curThread l)).findSome? firstMis = none ↔
    ∀ l ∈ act.lanes, ∀ p ∈ sp.ranges (s.curThread l), p.1 % p.2.2 = 0 := by
  simp [List.findSome?_eq_none_iff, firstMis]

theorem operandFault_none {act : Mask} (hin : ∀ l ∈ act.lanes, ∀ p ∈ sp.ranges (s.curThread l), ∀ i < p.2.1, s.inQuota (p.1 + i))
    (hal : ∀ l ∈ act.lanes, ∀ p ∈ sp.ranges (s.curThread l), p.1 % p.2.2 = 0) : operandFault s sp act = none := by
  rw [operandFault, (findSome_firstOut_none act).2 hin, (findSome_firstMis_none act).2 hal]

theorem mem_emptyRegs {r : SrcReq} {t : Thread} {x : Nat} :
    x ∈ r.emptyRegs t ↔ ∃ b, r.src.o = .reg b ∧ (∃ i < r.n, t.step (fieldOf r.pos) b + i = x) ∧ t.isEmpty x = true := by
  unfold SrcReq.emptyRegs
  cases r.src.o <;> simp

theorem mem_emptyWaits {act : Mask} {l x : Nat} :
    (l, x) ∈ s.emptyWaits sp act ↔ l ∈ act.lanes ∧ ∃ r ∈ sp.srcs, r.src.e = false ∧ x ∈ r.emptyRegs (s.curThread l) := by
  simp only [State.emptyWaits, List.mem_flatMap, List.mem_filter, List.mem_map, Bool.not_eq_true']
  constructor
  · rintro ⟨l', hl, r, ⟨hr, he⟩, x', hx, hpair⟩
    cases hpair
    exact ⟨hl, r, hr, he, hx⟩
  · rintro ⟨hl, r, hr, he, hx⟩
    exact ⟨l, hl, r, ⟨hr, he⟩, x, hx, rfl⟩

theorem emptyWaits_nil {act : Mask} (h : ∀ l ∈ act.lanes, ∀ r ∈ sp.srcs, r.src.e = false → r.emptyRegs (s.curThread l) = []) :
    s.emptyWaits sp act = [] := by
  refine List.eq_nil_iff_forall_not_mem.2 fun ⟨l, x⟩ hmem => ?_
  obtain ⟨hl, r, hr, he, hx⟩ := mem_emptyWaits.1 hmem
  simp [h l hl r hr he] at hx

theorem emptyHoles_nil {act : Mask} (h : ∀ l ∈ act.lanes, ∀ r ∈ sp.srcs, r.emptyRegs (s.curThread l) = []) :
    s.emptyHoles sp act = [] := by
  refine List.filterMap_eq_nil_iff.2 fun l hl => ?_
  have hnone : (sp.srcs.findSome? fun r => (r.emptyRegs (s.curThread l)).head?.map fun x => (r.pos, x)) = none :=
    List.findSome?_eq_none_iff.2 fun r hr => by simp [h l hl r hr]
  rw [hnone]; rfl

theorem everyLane_nil {α : Type} (once : Bool) (ls : List Nat) : everyLane once ls ([] : List (Nat × α)) = [] := by
  unfold everyLane; split <;> rfl

theorem lanes_ne_nil {m : Mask} (h : m ≠ 0) : m.lanes ≠ [] := fun hc => h (mask_eq_zero m hc)

theorem plain_iff : s.plain g sp = true ↔
    s.active g ≠ 0 ∧ repCause s sp (s.active g) = none ∧ sp.isPlain = true ∧ ∀ l ∈ (s.active g).lanes,
      (∀ p ∈ sp.ranges (s.curThread l), p.1 % p.2.2 = 0 ∧ ∀ i < p.2.1, s.inQuota (p.1 + i)) ∧
      ∀ r ∈ sp.srcs, r.emptyRegs (s.curThread l) = [] := by
  have hfull : ∀ (t : Thread) (r : SrcReq), (match r.src.o with
      | .reg b => (List.range r.n).all fun i => !t.isEmpty (t.step (fieldOf r.pos) b + i)
      | _ => true) = (r.emptyRegs t).isEmpty := fun t r => by
    unfold SrcReq.emptyRegs
    rw [Bool.eq_iff_iff]
    cases r.src.o <;> simp
  have hsplit : s.plain g sp = (s.active g != 0 && (repCause s sp (s.active g)).isNone && sp.srcs.all SrcReq.isPlain &&
      sp.dst.toList.all DstReq.isPlain && (s.active g).lanes.all fun l =>
        ((sp.ranges (s.curThread l)).all fun p => p.1 % p.2.2 == 0 && (List.range p.2.1).all fun i =>
          decide (s.deadBelow s.cur.core s.cur.turn ≤ p.1 + i) && decide (p.1 + i < s.quotaOf s.cur.core s.cur.turn)) &&
        sp.srcs.all fun r => (r.emptyRegs (s.curThread l)).isEmpty) := by
    simp only [← hfull]
    rfl
  rw [hsplit]
  simp only [Bool.and_eq_true, bne_iff_ne, ne_eq, Option.isNone_iff_eq_none, List.all_eq_true, beq_iff_eq, List.mem_range, decide_eq_true_eq,
    List.isEmpty_iff, Spec.isPlain, and_assoc, State.inQuota]

/-- R108: with operands of registers, special values and constants that pass their checks the instruction issues in every active lane. -/
theorem prep_of_plain {mov : Bool} {x : Extra} (h : s.plain g sp = true) (hx : ∀ l, x.hole l = none) :
    prep s g sp mov x = .go s s.atIssue (s.operandRows g sp) := by
  obtain ⟨hact, hrep, hplain, hlanes⟩ := plain_iff.1 h
  have hfull : ∀ l ∈ (s.active g).lanes, ∀ r ∈ sp.srcs, r.emptyRegs (s.curThread l) = [] := fun l hl => (hlanes l hl).2
  rw [prep_plainOps hact hrep (operandFault_none (fun l hl p hp => ((hlanes l hl).1 p hp).2) fun l hl p hp => ((hlanes l hl).1 p hp).1)
    hplain hx (emptyWaits_nil fun l hl r hr _ => hfull l hl r hr), emptyHoles_nil hfull, everyLane_nil]
  have hall : ((s.active g).lanes.filter fun l => !(([] : List (Nat × Nat × Nat)).any fun p => p.1 == l)) = (s.active g).lanes :=
    List.filter_eq_self.2 fun _ _ => rfl
  dsimp only
  rw [hall, if_neg (by rw [List.isEmpty_iff]; exact lanes_ne_nil hact)]
  rfl

/-! ### What keeps an instruction from issuing, whatever its operands -/

section
variable (hact : s.active g ≠ 0) (hrep : repCause s sp (s.active g) = none)
include hact hrep

/-- R108 steps 2 and 3: QUOTA or a misaligned register is the fault of every active lane. -/
theorem prep_operandFault {code : Nat} {info : Word} (h : operandFault s sp (s.active g) = some (code, info)) :
    prep s g sp = .stop (s.takeFaults (s.active g) code info).finish := by
  simp only [prep, if_neg hact, hrep, h]

/-- R21: the path waits for the empty registers of sources without the E bit. -/
theorem prep_emptyWaits (h : operandFault s sp (s.active g) = none) (hw : s.emptyWaits sp (s.active g) ≠ []) :
    prep s g sp = .stop (s.block .blockedEmpty (.regs (s.emptyWaits sp (s.active g)))) := by
  have hne : (!(s.emptyWaits sp (s.active g)).isEmpty) = true := by simpa using hw
  unfold State.emptyWaits at hne ⊢
  simp only [prep, if_neg hact, hrep, h, if_pos hne]

/-- R18, R33: QUOTA, with the first register out of quota or dead. -/
theorem prep_quota (h : ∃ l ∈ (s.active g).lanes, ∃ p ∈ sp.ranges (s.curThread l), ∃ i < p.2.1, ¬s.inQuota (p.1 + i)) :
    ∃ l ∈ (s.active g).lanes, ∃ p ∈ sp.ranges (s.curThread l), ∃ i < p.2.1, ¬s.inQuota (p.1 + i) ∧
      prep s g sp = .stop (s.takeFaults (s.active g) 2 (BitVec.ofNat 32 (Nat.min (p.1 + i) 1023))).finish := by
  cases hfirst : ((s.active g).lanes.map fun l => sp.ranges (s.curThread l)).findSome?
      (firstOut (s.quotaOf s.cur.core s.cur.turn) (s.deadBelow s.cur.core s.cur.turn)) with
  | none =>
    obtain ⟨l, hl, p, hp, i, hi, hout⟩ := h
    exact absurd ((findSome_firstOut_none _).1 hfirst l hl p hp i hi) hout
  | some r =>
    have hfault : operandFault s sp (s.active g) = some (2, BitVec.ofNat 32 r) := by rw [operandFault, hfirst]
    obtain ⟨rs, hrs, hr⟩ := List.exists_of_findSome?_eq_some hfirst
    obtain ⟨l, hl, rfl⟩ := List.mem_map.1 hrs
    obtain ⟨p, hp, hr⟩ := List.exists_of_findSome?_eq_some hr
    obtain ⟨i, hi, hr⟩ := List.exists_of_findSome?_eq_some hr
    split at hr
    next hout =>
      obtain rfl : Nat.min (p.1 + i) 1023 = r := by simpa using hr
      refine ⟨l, hl, p, hp, i, List.mem_range.1 hi, fun hin => ?_, prep_operandFault hact hrep hfault⟩
      obtain ⟨hlo, hhi⟩ := hin
      omega
    · cases hr

/-- R264: where no register is out of quota, the first that is misaligned. -/
theorem prep_misaligned (hin : ∀ l ∈ (s.active g).lanes, ∀ p ∈ sp.ranges (s.curThread l), ∀ i < p.2.1, s.inQuota (p.1 + i))
    (h : ∃ l ∈ (s.active g).lanes, ∃ p ∈ sp.ranges (s.curThread l), p.1 % p.2.2 ≠ 0) :
    ∃ l ∈ (s.active g).lanes, ∃ p ∈ sp.ranges (s.curThread l), p.1 % p.2.2 ≠ 0 ∧
      prep s g sp = .stop (s.takeFaults (s.active g) 4 (BitVec.ofNat 32 (2 * p.1))).finish := by
  cases hfirst : ((s.active g).lanes.map fun l => sp.ranges (s.curThread l)).findSome? firstMis with
  | none =>
    obtain ⟨l, hl, p, hp, hmis⟩ := h
    exact absurd ((findSome_firstMis_none _).1 hfirst l hl p hp) hmis
  | some r =>
    have hfault : operandFault s sp (s.active g) = some (4, BitVec.ofNat 32 (2 * r)) := by
      rw [operandFault, (findSome_firstOut_none _).2 hin, hfirst]
    obtain ⟨rs, hrs, hr⟩ := List.exists_of_findSome?_eq_some hfirst
    obtain ⟨l, hl, rfl⟩ := List.mem_map.1 hrs
    obtain ⟨p, hp, hr⟩ := List.exists_of_findSome?_eq_some hr
    split at hr
    next hmis =>
      obtain rfl : p.1 = r := by simpa using hr
      exact ⟨l, hl, p, hp, hmis, prep_operandFault hact hrep hfault⟩
    · cases hr

end

/-! ### The state at issue, and a path that blocks -/

theorem thread_atIssue (s : State) (c t l : Nat) : s.atIssue.thread c t l = s.thread c t l := by
  rw [State.atIssue, State.modCurWave, thread_modWave]
  split
  next h => obtain ⟨rfl, rfl⟩ := h; exact thread_modCore _ _ _ _ _ _ fun _ => rfl
  · exact thread_modCore _ _ _ _ _ _ fun _ => rfl

theorem keeps_atIssue (s : State) : Keeps s s.atIssue := keeps_moved (.refl s) _ _ _

theorem curThread_block (s : State) (st : Status) (w : Wait) {l : Nat} (hl : l ∈ s.cur.lanes.lanes) :
    (s.block st w).curThread l = if (s.curThread l).going then { s.curThread l with status := st, wait := w } else s.curThread l := by
  have hthread : s.unissued.thread s.cur.core s.cur.turn l = s.thread s.cur.core s.cur.turn l := thread_modCore _ _ _ _ _ _ fun _ => rfl
  show (s.unissued.modThreads _ _ _ _).thread s.cur.core s.cur.turn l = _
  rw [thread_modThreads, if_pos ⟨rfl, rfl, hl⟩, hthread]
  rfl

theorem laneOp_stop {u : State} (body : State → Nat → List (List Word) → State × List Word × Flags) (h : prep s g sp = .stop u) :
    laneOp s g sp body = u := by
  rw [laneOp, h]

theorem pureOp_stop {u : State} (f : List (List Word) → List Word × Flags) (h : prep s g sp = .stop u) : pureOp s g sp f = u :=
  laneOp_stop _ h

/-- Settles O7: the checks of R108 in their order, each by its own lemma above. -/
theorem registerOperandsIssue : Obligations.RegisterOperandsIssue := by
  unfold Obligations.RegisterOperandsIssue
  refine ⟨fun s g sp => ?_, fun s st w => ⟨keeps_block s st w, fun l hl => curThread_block s st w hl⟩, ?_⟩
  · intro act plainOps ranges out within hact hrep
    have hout : ∀ r, out r ↔ ¬s.inQuota r := fun r => by simp only [out, State.inQuota]; omega
    have hwithin : within → ∀ l ∈ act.lanes, ∀ p ∈ sp.ranges (s.curThread l), ∀ i < p.2.1, s.inQuota (p.1 + i) :=
      fun h l hl p hp i hi => Classical.byContradiction fun hc => h l hl p hp i hi ((hout _).2 hc)
    refine ⟨fun hplain hin hal hfull => ?_, fun h => ?_, fun hin => prep_misaligned hact hrep (hwithin hin), fun hin hal => ?_⟩
    · have hempty : ∀ l ∈ act.lanes, ∀ r ∈ sp.srcs, r.emptyRegs (s.curThread l) = [] := fun l hl r hr =>
        List.eq_nil_iff_forall_not_mem.2 fun y hy => by
          obtain ⟨b, hb, ⟨i, hi, rfl⟩, he⟩ := mem_emptyRegs.1 hy
          simp [hfull l hl r hr b hb i hi] at he
      have hp : s.plain g sp = true :=
        plain_iff.2 ⟨hact, hrep, isPlain_iff.2 hplain, fun l hl => ⟨fun p hp => ⟨hal l hl p hp, hwithin hin l hl p hp⟩, hempty l hl⟩⟩
      have hgo := prep_of_plain (mov := false) (x := {}) hp fun _ => rfl
      exact ⟨hp, hgo, s.atIssue, hgo, keeps_atIssue s, rfl, thread_atIssue s⟩
    · simp only [hout, ranges] at h ⊢
      exact prep_quota hact hrep h
    · intro blocks holes u left
      have hop : operandFault s sp act = none := operandFault_none (hwithin hin) hal
      have hmem : ∀ l y, (l, y) ∈ s.emptyWaits sp act ↔ blocks l y := fun l y => mem_emptyWaits
      refine ⟨fun ⟨l, y, hb⟩ => ⟨_, prep_emptyWaits hact hrep hop (List.ne_nil_of_mem ((hmem l y).2 hb)), hmem⟩, fun hno hplain honce => ?_⟩
      have hwaits : s.emptyWaits sp act = [] := List.eq_nil_iff_forall_not_mem.2 fun p hp => hno p.1 p.2 ((hmem _ _).1 hp)
      have hprep := prep_plainOps (mov := false) (x := {}) hact hrep hop (isPlain_iff.2 hplain) (fun _ => rfl) hwaits
      have hbad : everyLane sp.once act.lanes (s.emptyHoles sp act) = holes := by rw [honce]; rfl
      dsimp only at hprep
      rw [hbad] at hprep
      refine ⟨fun hl => ?_, fun hl => ⟨u.withOperandsOf s, ?_⟩⟩
      · rwa [if_pos (List.isEmpty_iff.2 hl)] at hprep
      · rwa [if_neg (mt List.isEmpty_iff.1 hl)] at hprep
  · intro s u g ty ft np nc d a b c x
    refine ⟨fun h => ?_, fun h => ?_, fun h => ?_⟩
    · exact congrArg Host.Outcome.next (pureOp_stop _ h)
    · exact congrArg Host.Outcome.next (pureOp_stop _ h)
    · exact congrArg Host.Outcome.next (pureOp_stop _ h)

end

end Sys2Proof.Machine

namespace Sys2Proof.Machine

/-! ## Opcodes that a core refuses (R67, R68, R301, R302) -/

theorem next_privileged {s : State} (run : State) (h : isSerai s.cur.core = false) :
    (Host.Outcome.next (privileged s run) : Host.Outcome State Fault Refusal) = .next (s.undefined s.cur.lanes (curOpc s) 7) := by
  rw [privileged, h]; rfl

theorem next_computeOnly {s : State} (run : State) (h : isSerai s.cur.core = true) :
    (Host.Outcome.next (computeOnly s run) : Host.Outcome State Fault Refusal) = .next (s.undefined s.cur.lanes (curOpc s) 0) := by
  rw [computeOnly, h]; rfl

/-- Settles O10: an opcode of the wrong kind of core takes its UNDEFINED fault before anything of its own. -/
theorem modeChecks : Obligations.ModeChecks := by
  unfold Obligations.ModeChecks
  intro g d a b p f nb w64 n q e op word s priv lacks
  refine ⟨fun h => ?_, fun h => ?_, ?_, rfl⟩
  · and_intros <;> exact next_privileged _ h
  · and_intros <;> exact next_computeOnly _ h
  · show Host.Outcome.next _ = _
    simp

end Sys2Proof.Machine
namespace Sys2Proof

/-- Does a word decode to the instruction? -/
def Instr.isDecoded (i : Instr) : Except Nat Instr → Bool
  | .ok j => j == i
  | .error _ => false

theorem eq_ok_of_isDecoded {r : Except Nat Instr} {i : Instr} (h : i.isDecoded r = true) : r = .ok i := by
  cases r with
  | ok j => exact congrArg Except.ok (eq_of_beq h)
  | error e => nomatch h

/-- Settles O1: each word decodes by evaluation. -/
theorem specWordsDecode : Obligations.SpecWordsDecode := by
  unfold Obligations.SpecWordsDecode
  and_intros <;> exact eq_ok_of_isDecoded (by decide)

end Sys2Proof

namespace Sys2Proof.Machine

/-! ## The state after a cold reset -/

/-- R303: at reset every control register reads its reset value. -/
theorem cr_reset (cl num : Nat) : State.reset.cr cl num = crReset num := rfl

theorem unit_crNum {u w : Nat} (hw : w < 65536) : crNum u w / 65536 = u ∧ crNum u w % 65536 = w := by
  unfold crNum
  omega

/-- R38: a queue's capacity at reset. -/
theorem crReset_nQLIM {i q : Nat} (hq : q ≤ 34) : crReset (nQLIM i q) = 0x8000 := by
  obtain ⟨hu, hw⟩ := unit_crNum (u := 0x80 + i) (w := 0x10 + q) (by omega)
  simp only [crReset, nQLIM, hu, hw]
  rw [if_neg (by omega), if_neg (by omega), if_neg (by omega), if_neg (by omega), if_neg (by omega), if_neg (by omega), if_neg (by omega),
    if_pos (by omega), if_pos (by omega)]

/-- Settles O6: nothing is listed at reset, so a table reads as its default and a control register as its reset value. -/
theorem resetState : Obligations.ResetState := by
  unfold Obligations.ResetState
  intro s w
  refine ⟨by decide, by decide, rfl, by decide, fun c t l => ⟨rfl, rfl, rfl⟩, fun c t => ⟨rfl, rfl⟩, fun c => ⟨rfl, rfl, fun b => ?_⟩, by decide, fun cl t => ?_⟩
  · show ({} : Bank).valid = false
    decide
  have hbounds : (∀ r, r < 16 → crReset (nSRCLS r) = 18) ∧ (∀ q, q < 64 → crReset (nCQ q 1) = 8) ∧ (∀ q, q < 4 → crReset (nTQ q 1) = 8) ∧
    (∀ q, q < 32 → crReset (nNQ q 1) = 8) ∧ ∀ g, g < 32 → crReset (nRGMODE g) = 4 ∧ crReset (nHGSTATE g) = 0x10001 := by decide
  obtain ⟨hsrcls, hcq, htq, hnq, hgroup⟩ := hbounds
  refine ⟨rfl, rfl, rfl, rfl, rfl, rfl, rfl, rfl, hsrcls, hcq, htq, hnq, hgroup, rfl, rfl, rfl, rfl, fun i q _ hq => crReset_nQLIM hq⟩
end Sys2Proof.Machine

namespace Sys2Proof.Machine

/-! ## What a step runs (R45, R47, R170) -/

/-! ### A thread before its core issues again: only registers fill (R373) -/

theorem fill_induct {P : Thread → Prop} (hreg : ∀ t r v, P t → P (t.setReg r v)) {t : Thread} (h : P t) (id : Nat) (ds : List Nat) (ws : List Word) :
    P (t.fill id ds ws) := by
  unfold Thread.fill
  induction ds.zip ws generalizing t with
  | nil => exact h
  | cons p ps ih =>
    rw [List.foldl_cons]
    split
    · exact ih (hreg _ _ _ h)
    · exact ih h

theorem pending_fill (t : Thread) (id : Nat) (ds : List Nat) (ws : List Word) : (t.fill id ds ws).pending = t.pending :=
  fill_induct (P := fun u => u.pending = t.pending) (fun _ _ _ h => h) rfl id ds ws

theorem thread_of_cores {s u : State} (h : u.cores = s.cores) (c t l : Nat) : u.thread c t l = s.thread c t l := by
  simp only [State.thread, State.wave, State.core, h]

@[simp] theorem wrHbm_cores (s : State) (da : Nat) (bs : List Byte) : (s.wrHbm da bs).cores = s.cores := by
  induction bs generalizing s da with
  | nil => rfl
  | cons b bs ih => rw [State.wrHbm, ih]

@[simp] theorem wrHome_cores (s : State) (p : Place) (bs : List Byte) : (s.wrHome p bs).cores = s.cores := by
  cases p with
  | hbm d => exact wrHbm_cores s d bs
  | sram a => rfl
  | far b o d a => rfl

theorem thread_wrHome (s : State) (p : Place) (bs : List Byte) (st : List (Nat × PStore)) (c t l : Nat) :
    ({ s.wrHome p bs with stores := st } : State).thread c t l = s.thread c t l :=
  thread_of_cores (s := s) (wrHome_cores s p bs) c t l

theorem pending_completeProd (s : State) (id : Nat) (ws : List Word) (c t l : Nat) :
    ((s.completeProd id ws).thread c t l).pending = (s.thread c t l).pending := by
  unfold State.completeProd
  split
  · rfl
  dsimp only
  split
  · rw [thread_modThread]
    split
    next h => obtain ⟨rfl, rfl, rfl⟩ := h; exact pending_fill _ _ _ _
    · rfl
  · rfl

/-- A property of the state that each step of a fold keeps, it keeps. -/
theorem foldl_keeps {α β : Type} (P : State → α) (f : State → β → State) (hf : ∀ s b, P (f s b) = P s) (bs : List β) (s : State) :
    P (bs.foldl f s) = P s := by
  induction bs generalizing s with
  | nil => rfl
  | cons b bs ih => rw [List.foldl_cons, ih, hf]

theorem pending_settle (s : State) (c c' t l : Nat) : ((s.settle c).thread c' t l).pending = (s.thread c' t l).pending := by
  unfold State.settle
  extract_lets u
  have hu : (u.thread c' t l).pending = (s.thread c' t l).pending := by
    refine foldl_keeps (fun v => (v.thread c' t l).pending) _ (fun v x => ?_) _ _
    exact congrArg Thread.pending (thread_wrHome v x.2.place (bytesOf x.2.size x.2.data) _ c' t l)
  rw [← hu]
  refine foldl_keeps (fun v => (v.thread c' t l).pending) _ (fun v x => ?_) _ _
  dsimp only
  split
  · split
    · exact pending_completeProd _ _ _ _ _ _
    · rfl
  · rfl

/-! ### The choice of a port, and the words at the PC -/

theorem ofLanes_filter_all {m : Mask} {p : Nat → Bool} (h : ∀ l ∈ m.lanes, p l = true) : Mask.ofLanes (m.lanes.filter p) = m := by
  rw [List.filter_eq_self.2 h, ofLanes_lanes]

theorem ofLanes_filter_none {m : Mask} {p : Nat → Bool} (h : ∀ l ∈ m.lanes, p l = false) : Mask.ofLanes (m.lanes.filter p) = 0 := by
  rw [List.filter_eq_nil_iff.2 fun l hl => by simp [h l hl]]
  rfl

/-- R49: a path none of whose lanes stands at a pending header issues at once. -/
theorem attempt_of_not_pending {s : State} (h : ∀ l ∈ s.cur.lanes.lanes, (s.curThread l).pending = false) : s.attempt = s.issueAt := by
  unfold State.attempt
  rw [ofLanes_filter_none h]
  rfl

/-- R170, R172: a choice that still stands attempts its instruction. -/
theorem portTodo_standing {s : State} {c t : Nat} (portB : Bool) {pc : DWord} {m : Mask} (hlive : (s.wave c t).live = true)
    (hbusy : (s.wave c t).busy = false) (hm : m ≠ 0)
    (h : ∀ l ∈ m.lanes, ((s.wave c t).thread l).status = .ready ∧ ((s.wave c t).thread l).pc = pc ∧ ((s.wave c t).thread l).pending = false) :
    s.portTodo c portB (some (t, pc, m)) =
      ({ ((s.bump.2).modCore c fun k => { k with cycle := if portB then { k.cycle with bDone := true } else { k.cycle with aDone := true } }).settle c
          with cur := { core := c, turn := t, portB, lanes := m, pc, n := s.nextId } } : State).issueAt := by
  have hlanes : (if (s.wave c t).live && !(s.wave c t).busy then
      Mask.ofLanes (m.lanes.filter fun l => ((s.wave c t).thread l).status == .ready && ((s.wave c t).thread l).pc == pc) else 0) = m := by
    rw [hlive, hbusy]
    exact ofLanes_filter_all fun l hl => by simp [h l hl]
  unfold State.portTodo
  dsimp only
  rw [hlanes, if_neg hm]
  refine attempt_of_not_pending fun l hl => ?_
  refine (pending_settle _ c c t l).trans ?_
  exact (congrArg Thread.pending (thread_modCore s.bump.2 c c t l
    (fun k => { k with cycle := if portB then { k.cycle with bDone := true } else { k.cycle with aDone := true } }) fun _ => rfl)).trans (h l hl).2.2

/-- R57: the next word belongs to an instruction only where the word has LN 0b01. -/
theorem decodeWord_one {w : DWord} (next : DWord) (h : hasExt w = false) : decodeWord w next = decodeWord w 0 := by
  unfold decodeWord
  rw [h]
  rfl

/-- R48: a word whose extension word lies in the block is the instruction it decodes to. -/
theorem blockInstr_ok {w next : DWord} {pos len : Nat} {i : Instr} (hin : pos + (if hasExt w then 2 else 1) ≤ len + 1)
    (hd : decodeWord w next = .ok i) (hend : i.endsBlock = true → pos + (if hasExt w then 2 else 1) = len + 1)
    (hrep : ∀ g ct k st, i = .rep g ct k st → pos ≠ len) : blockInstr w next pos len = i := by
  have h1 : ¬ len < pos + (if hasExt w then 2 else 1) - 1 := by omega
  have h2 : (i.endsBlock && pos + (if hasExt w then 2 else 1) - 1 != len) = false := by
    cases he : i.endsBlock with
    | false => rfl
    | true => rw [hend he]; simp
  unfold blockInstr
  rw [if_neg h1, hd]
  dsimp only
  rw [h2, if_neg Bool.false_ne_true]
  split
  · exact if_neg (hrep _ _ _ _ rfl)
  · rfl

theorem blockInstr_error {w next : DWord} {pos len e : Nat} (hin : pos + (if hasExt w then 2 else 1) ≤ len + 1)
    (hd : decodeWord w next = .error e) : blockInstr w next pos len = undef w e := by
  have h1 : ¬ len < pos + (if hasExt w then 2 else 1) - 1 := by omega
  unfold blockInstr
  rw [if_neg h1, hd]

theorem blockInstr_one {w : DWord} (next : DWord) {pos len : Nat} (h : hasExt w = false) : blockInstr w next pos len = blockInstr w 0 pos len := by
  unfold blockInstr
  rw [decodeWord_one next h]

theorem deferring_zero {s : State} (hd : ∀ l ∈ s.cur.lanes.lanes, (s.curThread l).defer = []) :
    Mask.ofLanes (s.cur.lanes.lanes.filter fun l => !(s.curThread l).defer.isEmpty) = 0 :=
  ofLanes_filter_none fun l hm => by rw [hd l hm]; rfl

/-- R47, R48: with the line there and nothing deferred, the path runs the instruction at its position in the block. -/
theorem issueAt_line {s : State} {ln : ILine} (hd : ∀ l ∈ s.cur.lanes.lanes, (s.curThread l).defer = [])
    (hl : s.codeLine s.cur.core s.cur.turn s.cur.pc = some ln) (h1 : ln.la2 = false) (h2 : (s.curThread (s.cur.lanes.lanes.headD 0)).la2 = false)
    {next : DWord}
    (hin : (caOff s.cur.pc - caOff (s.curThread (s.cur.lanes.lanes.headD 0)).hdr) / 8 + (if hasExt (ln.at s.cur.pc) then 2 else 1) ≤
      dwBits (s.curThread (s.cur.lanes.lanes.headD 0)).hdrW 17 10 + 1)
    (hnext : hasExt (ln.at s.cur.pc) = true →
      ∃ ln2, s.codeLine s.cur.core s.cur.turn (caAdd s.cur.pc 8) = some ln2 ∧ next = ln2.at (caAdd s.cur.pc 8)) :
    s.issueAt = .run (blockInstr (ln.at s.cur.pc) next ((caOff s.cur.pc - caOff (s.curThread (s.cur.lanes.lanes.headD 0)).hdr) / 8)
        (dwBits (s.curThread (s.cur.lanes.lanes.headD 0)).hdrW 17 10))
      { s with cur := { s.cur with word := ln.at s.cur.pc, words := if hasExt (ln.at s.cur.pc) then 2 else 1, la2 := false } } := by
  unfold State.issueAt
  extract_lets c t m pc due
  rw [if_neg (not_not_intro (deferring_zero hd))]
  split
  next hn => cases hl.symm.trans hn
  next ln' hl' =>
  cases hl.symm.trans hl'
  rw [h1, if_neg Bool.false_ne_true]
  refine (if_neg (c := (s.curThread (s.cur.lanes.lanes.headD 0)).la2 = true) (by rw [h2]; exact Bool.false_ne_true)).trans ?_
  obtain hw | hw := Bool.eq_false_or_eq_true (hasExt (ln.at s.cur.pc))
  · obtain ⟨ln2, hl2, rfl⟩ := hnext hw
    rw [if_pos hw] at hin
    refine (if_neg ?_).trans ?_
    · rintro (h | h)
      · exact absurd ((if_pos hw).symm.trans h) (by decide)
      · exact absurd hin (Nat.not_le.2 (Nat.succ_lt_succ h))
    · split
      next hn => cases hl2.symm.trans hn
      next ln3 hl3 => cases hl2.symm.trans hl3; rfl
  · have hone : (if hasExt (ln.at s.cur.pc) then 2 else 1) = 1 := by rw [hw]; rfl
    refine (if_pos (.inl hone)).trans ?_
    rw [blockInstr_one next hw]

/-- R77: with an LA2 line there and nothing deferred, the path runs the instruction its word translates to; the lanes stand in LA2 code. -/
theorem issueAt_la2 {s : State} {ln : ILine} (hd : ∀ l ∈ s.cur.lanes.lanes, (s.curThread l).defer = [])
    (hl : s.codeLine s.cur.core s.cur.turn s.cur.pc = some ln) (h1 : ln.la2 = true) :
    s.issueAt = .run (la2Instr (ln.at s.cur.pc)) ({ s with cur := { s.cur with word := ln.at s.cur.pc, words := 1, la2 := true } }.modThreads
      s.cur.core s.cur.turn s.cur.lanes fun _ x => if x.la2 then x else { x with hdr := s.cur.pc, hdrW := 0, la2 := true }) := by
  unfold State.issueAt
  extract_lets c t m pc due
  rw [if_neg (not_not_intro (deferring_zero hd))]
  split
  next hn => cases hl.symm.trans hn
  next ln' hl' =>
  cases hl.symm.trans hl'
  rw [if_pos h1]

end Sys2Proof.Machine
namespace Sys2Proof.Machine

/-- Settles O4: each clause unfolds the choice it speaks of, down to the line that the path's words stand in. -/
theorem stepRunsTheInstruction : Obligations.StepRunsTheInstruction := by
  unfold Obligations.StepRunsTheInstruction
  intro s u c i
  have hcore (h : s.coreTodo c = .run i u) : coreAct c s = exec i u := by unfold coreAct; rw [h]
  refine ⟨fun h0 ha ht => ?_, fun a b as h0 ha => ?_, hcore, fun cl d hd hc hi => ?_, fun portB t pc m => ?_, fun ln hd hl => ?_⟩
  · unfold step State.move
    rw [if_neg h0, ha]
    exact hcore ht
  · unfold step State.move
    rw [if_neg h0, ha]
    rfl
  · unfold decisionAct
    rw [hd]
    dsimp only
    rw [if_neg (Nat.not_le.2 hc), hi]
  · exact portTodo_standing portB
  · refine ⟨fun next h1 h2 hin hnext => ?_, fun h1 hi => ?_⟩
    · have hrun := issueAt_line hd hl h1 h2 hin hnext
      refine ⟨fun hi hend hrep => ?_, fun e he => ?_⟩
      · rw [blockInstr_ok hin hi hend hrep] at hrun
        exact hrun
      · rw [blockInstr_error hin he] at hrun
        exact hrun
    · have hrun := issueAt_la2 hd hl h1
      rw [la2Instr, hi] at hrun
      refine ⟨_, hrun, rfl, fun l => ?_⟩
      refine (congrArg Thread.held (thread_modThreads _ _ _ _ _ _ _ _)).trans ?_
      split
      · split <;> rfl
      · rfl

end Sys2Proof.Machine

namespace Sys2Proof.Machine

/-! ## Results of the instructions whose lanes compute from their sources (R109 to R168) -/

section
variable {s s0 s1 : State} {g : Guard} {sp : Spec} {rows : List (Nat × List (List Word))}

/-- What an instruction of the sources alone answers where it issues. -/
theorem next_pureOp {d : DstReq} {f : List (List Word) → List Word × Flags} (h : prep s g sp = .go s0 s1 rows) (hd : sp.dst = some d) :
    (Host.Outcome.next (pureOp s g sp f) : Host.Outcome State Fault Refusal) = .next (laneResult s1 d rows f) :=
  congrArg Host.Outcome.next (pureOp_go f hd h)

theorem next_laneOp {d : DstReq} {f : State → Nat → List (List Word) → List Word} (h : prep s g sp = .go s0 s1 rows) (hd : sp.dst = some d) :
    (Host.Outcome.next (laneOp s g sp fun s l vs => (s, f s l vs, 0)) : Host.Outcome State Fault Refusal) = .next (laneValue s1 d rows (f s1)) :=
  congrArg Host.Outcome.next (laneOp_go f hd h)

theorem next_predOp {k : BitVec 3} {f : State → Nat → List (List Word) → Bool × Flags} (h : prep s g sp = .go s0 s1 rows) :
    (Host.Outcome.next (predOp s g sp k f) : Host.Outcome State Fault Refusal) = .next (predResult s1 k rows (f s1)) :=
  congrArg Host.Outcome.next (predOp_go k f h)

end

/-- Results that raise no flag are those of `laneValue`. -/
theorem laneResult_of_noFlags (s1 : State) (d : DstReq) (rows : List (Nat × List (List Word))) (f : List (List Word) → List Word) :
    laneResult s1 d rows (fun vs => (f vs, 0)) = laneValue s1 d rows fun _ vs => f vs := by
  have hfl : rows.foldl (fun (a : Flags) _ => a ||| 0) 0 = 0 := by
    induction rows with
    | nil => rfl
    | cons p ps ih => exact ih
  rw [laneResult, laneValue, hfl]
  simp [State.curFlags, State.addFlags]

/-- Settles O17: each computes a function of its sources. -/
theorem integerTwoSourceResults : Obligations.IntegerTwoSourceResults := by
  unfold Obligations.IntegerTwoSourceResults
  intro g ty d a b s s0 s1 rows h
  and_intros <;> exact next_pureOp h rfl

/-- Settles O18: likewise, the immediate forms with the immediate's words behind those of S1. -/
theorem integerOtherResults : Obligations.IntegerOtherResults := by
  unfold Obligations.IntegerOtherResults
  refine ⟨fun g ty d a b c s s0 s1 rows => ⟨fun h => ?_, fun h => ?_⟩, fun g ty dbl d a i s s0 s1 rows => ⟨fun h => ?_, fun h => ?_⟩⟩
  all_goals and_intros
  all_goals exact next_pureOp h rfl

/-- Settles O19: each writes a predicate from its sources, or from predicates; `pput` writes those its mask names. -/
theorem predicateResults : Obligations.PredicateResults := by
  unfold Obligations.PredicateResults
  intro g ty dbl cond k ka kb op a b i x s s0 s1 rows
  refine ⟨next_predOp, next_predOp, next_predOp, next_predOp, next_predOp, fun h => ?_⟩
  show execPput g a b s = _
  rw [execPput, h]

theorem execMov_walker {s : State} {g : Guard} {dbl : Bool} {r i : Nat} {a : Src} (ha : a.o = .walker i) :
    execMov g dbl (.reg r) a s = .next (movMiss s g dbl (.reg r) a i) := by
  unfold execMov
  rw [ha]

/-- Settles O20: all but the `mov` of a missing walker compute from their sources; that one is a producer in the lanes that miss. -/
theorem moveResults : Obligations.MoveResults := by
  unfold Obligations.MoveResults
  intro g dbl k d a b m s s0 s1 rows
  refine ⟨fun h => next_laneOp h rfl, fun h hw => ?_, fun i r ha hd h => ?_, fun h => next_laneOp h rfl, fun h => next_laneOp h rfl⟩
  · show execMov g dbl d a s = _
    unfold execMov
    split
    next i r ha => exact absurd rfl (hw i ha r)
    next => exact (next_pureOp h rfl).trans (congrArg Host.Outcome.next (laneResult_of_noFlags _ _ _ _))
  · subst hd
    show execMov g dbl (.reg r) a s = _
    rw [execMov_walker ha, movMiss, h] <;> rfl

/-- Settles O21: each computes element by element from its sources. -/
theorem floatResults : Obligations.FloatResults := by
  unfold Obligations.FloatResults
  refine ⟨fun g ft np nc d a b c x s s0 s1 rows => ⟨fun h => ?_, fun h => ?_, fun h => ?_, fun h => ?_, fun h => ?_⟩,
    fun g ft d a x s s0 s1 rows h => ?_⟩
  all_goals and_intros
  all_goals exact next_pureOp h rfl

/-- Settles O22: the conversions of a narrow format by the rule of their long range, the others from their sources. -/
theorem conversionResults : Obligations.ConversionResults := by
  unfold Obligations.ConversionResults
  refine ⟨fun g ft dt st ua ub sat d a b c x s s0 s1 rows => ?_, fun g ft d a b x s s0 s1 rows hb h => ⟨fun base ha ho hl => ?_, fun base hd ho hl => ?_⟩⟩
  · and_intros <;> exact fun h => next_pureOp h rfl
  · show execCvtn g ft d a b x s = _
    unfold execCvtn
    rw [ha]
    exact congrArg Host.Outcome.next (tagOp_go _ rfl ho hb (fun l hm => (hl l hm).1) (fun _ l hm => (hl l hm).2) h)
  · subst hd
    exact congrArg Host.Outcome.next (tagOp_go _ rfl ho hb hl (fun hn => absurd rfl hn) h)

/-- Settles O23: `seed` acts in each lane, `sfclr` with the bits of all lanes, `sfarm` once. -/
theorem stickyFlagResults : Obligations.StickyFlagResults := by
  unfold Obligations.StickyFlagResults
  intro g d a s s0 s1 rows
  refine ⟨fun h => next_laneOp h rfl, fun h => ⟨?_, ?_, congrArg Host.Outcome.next (onceOp_go _ h)⟩⟩
  · exact congrArg Host.Outcome.next (laneOp_state _ rfl h)
  · show execSfclr g a s = _
    rw [execSfclr, h]

theorem crossPred_go {s s0 s1 : State} {g : Guard} {k : BitVec 3} {rows : List (Nat × List (List Word))} (f : State → List Nat → Nat → Bool)
    (h : prep s g {} = .go s0 s1 rows) :
    crossPred s g k f = (rows.foldl (fun s p => s.modLane p.1 fun t =>
      t.setPred k (f s1 ((tileRows s1.tileNow (tileBase s1.tileNow p.1) rows).map (·.1)) p.1)) s1).finish := by
  rw [crossPred, h]

theorem wBits_low10 (v : Word) : wBits v 9 0 = v.toNat % 1024 := by simp [wBits, bitsN]

/-- Settles O24: each lane reads the rows of its tile; `part` and `pqset` act once. -/
theorem crossLaneResults : Obligations.CrossLaneResults := by
  unfold Obligations.CrossLaneResults
  intro g form mode op dbl k ka d a b c x s s0 s1 rows
  refine ⟨fun h => ⟨?_, congrArg Host.Outcome.next (crossPred_go _ h)⟩,
    fun h => ⟨congrArg Host.Outcome.next (crossOp_go _ rfl h), next_laneOp h rfl, next_laneOp h rfl⟩,
    fun h => congrArg Host.Outcome.next (crossOp_go _ rfl h),
    fun h => ⟨?_, ?_, ?_⟩, fun h => ⟨congrArg Host.Outcome.next (onceOp_go _ h), ?_⟩⟩
  · refine (congrArg Host.Outcome.next (crossPred_go _ h)).trans ?_
    simp only [List.map_map]
    rfl
  · exact congrArg Host.Outcome.next (crossOp_go _ rfl h)
  · exact congrArg Host.Outcome.next (crossOp_go _ rfl h)
  · exact congrArg Host.Outcome.next (crossOp_go _ rfl h)
  · rw [← wBits_low10]
    exact congrArg Host.Outcome.next (onceOp_go _ h)

/-! ## Control (R126 to R139) -/

theorem directOp_go {s s0 s1 : State} {g : Guard} {call : Bool} {d : Option Operand} {t : Target} {rows : List (Nat × List (List Word))}
    (h : prep s g { dst := d.map fun o => { o, n := 2, al := 2 } } = .go s0 s1 rows) :
    directOp s g call d t = transfer s0 s1 (rowMask rows) false call d (rows.map fun p => (p.1, caAdd s1.cur.pc (8 * targetVal t))) := by
  rw [directOp, h]
  rfl

theorem indirectOp_go {s s0 s1 : State} {g : Guard} {call : Bool} {d : Option Operand} {a : Src} {rows : List (Nat × List (List Word))}
    (h : prep s g { srcs := [{ pos := 0, src := a, n := 2, al := 2 }], dst := d.map fun o => { o, n := 2, al := 2 } } = .go s0 s1 rows) :
    indirectOp s g call d a = transfer s0 s1 (rowMask rows) true call d (rows.map fun p => (p.1, pairAt p.2 0)) := by
  rw [indirectOp, h]
  rfl

/-- Settles O25: each goes to its target; `bre` first asks the end flag. -/
theorem controlTransfers : Obligations.ControlTransfers := by
  unfold Obligations.ControlTransfers
  intro g dim neg w d a t s s0 s1 rows
  refine ⟨fun h => ?_, fun h => congrArg Host.Outcome.next (directOp_go h),
    fun h => ⟨congrArg Host.Outcome.next (indirectOp_go h), congrArg Host.Outcome.next (indirectOp_go h)⟩,
    fun h => congrArg Host.Outcome.next (indirectOp_go h)⟩
  have hdirect : Host.Outcome.next (directOp s g false none t) =
      (.next (transfer s0 s1 (rowMask rows) false false none (rows.map fun p => (p.1, caAdd s1.cur.pc (8 * targetVal t)))) :
        Host.Outcome State Fault Refusal) := congrArg Host.Outcome.next (directOp_go h)
  refine ⟨hdirect, fun hne => ?_, fun heq => ?_⟩
  · exact (if_pos (bne_iff_ne.2 hne)).trans hdirect
  · refine (if_neg (by simpa using heq)).trans ?_
    rw [h]

/-- Settles O27: each of them by its own definition, once the path issues. -/
theorem controlResults : Obligations.ControlResults := by
  unfold Obligations.ControlResults
  intro g code count mask step s s0 s1 rows h
  refine ⟨?_, ?_, ?_, ?_, ?_⟩
  · show execNop g s = _
    rw [execNop, h]
  · show execYield g s = _
    rw [execYield, h]
  · show execBrk g code s = _
    rw [execBrk, h]
    rfl
  · show execRep g count mask step s = _
    rw [execRep, h]
    rfl
  · show execExit g s = _
    rw [execExit, h]
    rfl

end Sys2Proof.Machine

namespace Sys2Proof.Machine

/-! ## Fields and control registers (R303) -/

/-- A field that has been set holds the low bits of what it was set to. -/
theorem dwBits_dwSet (v : DWord) {hi lo : Nat} (x : Nat) (h : hi < 64) (hlo : lo ≤ hi) :
    dwBits (dwSet v hi lo x) hi lo = x % 2 ^ (hi - lo + 1) := by
  apply Nat.eq_of_testBit_eq
  intro i
  rw [dwBits, bitsN, Nat.testBit_mod_two_pow, Nat.testBit_mod_two_pow, Nat.testBit_div_two_pow]
  by_cases hi' : i < hi - lo + 1
  · have hlt : i + lo < 64 := by omega
    have hm : (BitVec.ofNat 64 ((2 ^ (hi - lo + 1) - 1) * 2 ^ lo)).getLsbD (i + lo) = true := by
      rw [BitVec.getLsbD_ofNat, Nat.testBit_mul_two_pow]
      simp [hlt, hi', Nat.testBit_two_pow_sub_one]
    have hx : (BitVec.ofNat 64 (x * 2 ^ lo)).getLsbD (i + lo) = x.testBit i := by
      rw [BitVec.getLsbD_ofNat, Nat.testBit_mul_two_pow]
      simp [hlt]
    rw [BitVec.testBit_toNat, dwSet, BitVec.getLsbD_or, BitVec.getLsbD_and, BitVec.getLsbD_and, BitVec.getLsbD_not, hm, hx]
    simp [hi']
  · simp [hi']

theorem getK_putK_of_ne {α : Type} [DecidableEq α] (d d' : α) (m : List (Nat × α)) {k j : Nat} (v : α) (hj : j ≠ k) :
    getK d' (putK d m k v) j = getK d' m j := by
  induction m with
  | nil => simp only [putK]; split <;> simp [getK, hj]
  | cons p t ih =>
    obtain ⟨k', v'⟩ := p
    simp only [putK]
    split
    · split
      · rfl
      · simp [getK, hj]
    · split
      · subst k'
        split <;> simp [getK, hj]
      · simp only [getK, ih]

theorem crKey_ne {num num' : Nat} (h : num % 2 ^ 24 ≠ num' % 2 ^ 24) (cl thr cl' thr' : Nat) : crKey cl thr num ≠ crKey cl' thr' num' := by
  unfold crKey
  omega

theorem crT_of_crs {s u : State} (h : u.crs = s.crs) (cl thr num : Nat) : u.crT cl thr num = s.crT cl thr num := by
  rw [State.crT, State.crT, h]

theorem crT_setCrT_same (s : State) (cl thr num : Nat) (v : DWord) : (s.setCrT cl thr num v).crT cl thr num = v :=
  getK_putK_same _ _ _ _

/-- A write of a register leaves those of other numbers. -/
theorem crT_setCrT_other (s : State) (cl thr cl' thr' : Nat) {num num' : Nat} (v : DWord) (h : num' % 2 ^ 24 ≠ num % 2 ^ 24) :
    (s.setCrT cl thr num v).crT cl' thr' num' = s.crT cl' thr' num' :=
  getK_putK_of_ne _ _ _ _ (crKey_ne h cl' thr' cl thr)

theorem crT_crCount_other (s : State) (cl hi lo n cl' thr' : Nat) {num num' : Nat} (h : num' % 2 ^ 24 ≠ num % 2 ^ 24) :
    (s.crCount cl num hi lo n).crT cl' thr' num' = s.crT cl' thr' num' := crT_setCrT_other _ _ _ _ _ _ h

/-! ## Taking a fault (R32, R302, R411) -/

/-- R411: the count of PAGE faults, with which a fault begins. -/
def State.countPage (s : State) (cl code : Nat) : State := if code = 6 then s.crCount cl nTBSTAT 31 16 1 else s

theorem crT_countPage (s : State) (cl code cl' thr' : Nat) {num : Nat} (h : num % 2 ^ 24 ≠ nTBSTAT % 2 ^ 24) :
    (s.countPage cl code).crT cl' thr' num = s.crT cl' thr' num := by
  unfold State.countPage
  split
  · exact crT_crCount_other _ _ _ _ _ _ _ h
  · rfl

theorem crs_foundSram (s : State) (cl code : Nat) (finfo : Word) (extra : DWord) : (s.foundSram cl code finfo extra).crs = s.crs := by
  unfold State.foundSram
  extract_lets a
  split
  · unfold State.suspect
    extract_lets x
    split <;> rfl
  · rfl

theorem crs_monitorFault (s : State) (cl : Nat) : (s.monitorFault cl).crs = s.crs := by
  unfold State.monitorFault State.toRestart
  split <;> split <;> rfl

theorem cores_monitorFault (s : State) (cl : Nat) : (s.monitorFault cl).cores = s.cores := by
  unfold State.monitorFault State.toRestart
  split <;> split <;> rfl

theorem crT_enterMonitor (s : State) (cl t : Nat) (ret : DWord) (code : Nat) (info : Word) :
    (s.enterMonitor cl t ret code info).crT cl (t + 1) nMEPC = ret ∧
    (s.enterMonitor cl t ret code info).crT cl (t + 1) nMINFO = info.setWidth 64 ∧
    (s.enterMonitor cl t ret code info).smode cl t = dwSet (dwSet (s.smode cl t) 0 0 1) 15 8 code ∧
    (s.enterMonitor cl t ret code info).cr cl nTBSTAT = s.cr cl nTBSTAT := by
  have hset : ∀ thr num, (s.enterMonitor cl t ret code info).crT cl thr num =
      (((s.setCrT cl (t + 1) nMEPC ret).setCrT cl (t + 1) nMINFO (info.setWidth 64)).setSmode cl t true (some code)).crT cl thr num :=
    fun _ _ => rfl
  have hmode : ∀ u : State, (u.setSmode cl t true (some code)).smode cl t = dwSet (dwSet (u.smode cl t) 0 0 1) 15 8 code :=
    fun u => crT_setCrT_same _ _ _ _ _
  have hother : ∀ (u : State) {num : Nat} (thr : Nat), num % 2 ^ 24 ≠ nSMODE % 2 ^ 24 → (u.setSmode cl t true (some code)).crT cl thr num = u.crT cl thr num :=
    fun u _ thr h => crT_setCrT_other _ _ _ _ _ _ h
  refine ⟨?_, ?_, ?_, ?_⟩
  · rw [hset, hother _ _ (by decide), crT_setCrT_other _ _ _ _ _ _ (by decide), crT_setCrT_same]
  · rw [hset, hother _ _ (by decide), crT_setCrT_same]
  · refine (hset _ _).trans ((hmode _).trans ?_)
    rw [State.smode, crT_setCrT_other _ _ _ _ _ _ (by decide), crT_setCrT_other _ _ _ _ _ _ (by decide)]
    rfl
  · rw [State.cr, hset, hother _ _ (by decide), crT_setCrT_other _ _ _ _ _ _ (by decide), crT_setCrT_other _ _ _ _ _ _ (by decide)]
    rfl

/-- R302: where the thread of a serai stands in monitor mode. -/
theorem thread_enterMonitor (s : State) (cl t : Nat) (ret : DWord) (code : Nat) (info : Word) :
    ((s.enterMonitor cl t ret code info).thread (seraiOf cl) t 0).pc = s.cr cl nMVEC ∧
    ((s.enterMonitor cl t ret code info).thread (seraiOf cl) t 0).status = .ready := by
  unfold State.enterMonitor
  rw [thread_modThread, if_pos ⟨rfl, rfl, rfl⟩]
  refine ⟨?_, rfl⟩
  refine (crT_setCrT_other _ _ _ _ _ _ (by decide)).trans ?_
  exact (crT_setCrT_other _ _ _ _ _ _ (by decide)).trans (crT_setCrT_other _ _ _ _ _ _ (by decide))

theorem seraiOf_clusterOf {c : Nat} (h : isSerai c = true) : seraiOf (clusterOf c) = c := by
  have h' : 2048 ≤ c := of_decide_eq_true h
  rw [clusterOf, if_neg (by omega), seraiOf]
  omega

theorem mem_unrecon (w : Wave) {l : Nat} (hl : l < 32) {p : Nat × Recon} (hp : p ∈ (w.unrecon l).recon) : p.2.members.getLsbD l = false := by
  obtain ⟨q, -, rfl⟩ := List.mem_map.1 hp
  simp [Mask.single, hl]

/-- What a fault at a serai has counted and found before the mode of the thread decides. -/
def State.seraiFault (s : State) (code : Nat) (finfo : Word) (extra : DWord) : State :=
  (s.countPage (clusterOf s.cur.core) code).foundSram (clusterOf s.cur.core) code finfo extra

theorem crT_seraiFault (s : State) (code : Nat) (finfo : Word) (extra : DWord) (cl thr num : Nat) :
    (s.seraiFault code finfo extra).crT cl thr num = (s.countPage (clusterOf s.cur.core) code).crT cl thr num :=
  crT_of_crs (crs_foundSram _ _ _ _ _) _ _ _

theorem crT_seraiFault_other (s : State) (code : Nat) (finfo : Word) (extra : DWord) (cl thr : Nat) {num : Nat}
    (h : num % 2 ^ 24 ≠ nTBSTAT % 2 ^ 24) : (s.seraiFault code finfo extra).crT cl thr num = s.crT cl thr num :=
  (crT_seraiFault _ _ _ _ _ _ _).trans (crT_countPage _ _ _ _ _ h)

section
variable {s : State} {l code : Nat} {finfo : Word} {extra : DWord}

theorem takeFault_monitor (hc : isSerai s.cur.core = true) (hm : s.isMonitor (clusterOf s.cur.core) s.cur.turn = true) :
    s.takeFault l code finfo extra =
      (((s.seraiFault code finfo extra).modThread s.cur.core s.cur.turn l
        fun th => { th with status := .faulted, walked := [], fword := some s.cur.word }).monitorFault (clusterOf s.cur.core)) := by
  have hm' : (s.seraiFault code finfo extra).isMonitor (clusterOf s.cur.core) s.cur.turn = true := by
    rw [State.isMonitor, State.smode, crT_seraiFault_other _ _ _ _ _ _ (by decide)]
    exact hm
  unfold State.takeFault State.faultAt
  refine (if_pos hc).trans ?_
  exact if_pos hm'

theorem takeFault_shard (hc : isSerai s.cur.core = true) (hm : s.isMonitor (clusterOf s.cur.core) s.cur.turn = false) :
    s.takeFault l code finfo extra =
      (s.seraiFault code finfo extra).enterMonitor
        (clusterOf s.cur.core) s.cur.turn s.cur.pc code finfo := by
  have hm' : (s.seraiFault code finfo extra).isMonitor (clusterOf s.cur.core) s.cur.turn = false := by
    rw [State.isMonitor, State.smode, crT_seraiFault_other _ _ _ _ _ _ (by decide)]
    exact hm
  unfold State.takeFault State.faultAt
  refine (if_pos hc).trans ?_
  exact if_neg (ne_true_of_eq_false hm')

theorem crs_takeFault_compute (hc : isSerai s.cur.core = false) :
    (s.takeFault l code finfo extra).crs = (s.countPage (clusterOf s.cur.core) code).crs := by
  unfold State.takeFault State.faultAt
  refine (congrArg State.crs (if_neg (ne_true_of_eq_false hc))).trans ?_
  rfl

theorem faultEvs_takeFault_compute (hc : isSerai s.cur.core = false) :
    ((s.takeFault l code finfo extra).cl (clusterOf s.cur.core)).faultEvs = addFaultEv (s.cl (clusterOf s.cur.core)).faultEvs
      { core := s.cur.core, turn := s.cur.turn, uid := (s.wave s.cur.core s.cur.turn).uid, code, finfo, lanes := Mask.single l, pc := s.cur.pc,
        issue := s.cur.n } := by
  unfold State.takeFault State.faultAt
  rw [if_neg (ne_true_of_eq_false hc)]
  extract_lets th r u ev
  have hev : ev.uid = (s.wave s.cur.core s.cur.turn).uid := by
    show (u.wave s.cur.core s.cur.turn).uid = _
    rw [wave_modWave, if_pos ⟨rfl, rfl⟩]
    split <;> rfl
  have hcl : u.cl (clusterOf s.cur.core) = s.cl (clusterOf s.cur.core) := by
    show State.cl (if code = 6 then _ else s) _ = _
    split <;> rfl
  rw [cl_modCl_same, hcl, ← hev]

end

/-- Settles O9: a fault first counts as a page fault; then the kind of core and the mode of its thread decide. -/
theorem faultEntry : Obligations.FaultEntry := by
  unfold Obligations.FaultEntry
  intro s l code finfo extra hl
  have hcount : ∀ {u : State} {cl : Nat}, u.cr cl nTBSTAT = (s.countPage cl code).cr cl nTBSTAT → code = 6 →
      dwBits (u.cr cl nTBSTAT) 31 16 = Nat.min 65535 (dwBits (s.cr cl nTBSTAT) 31 16 + 1) := by
    intro u cl hu h6
    rw [hu, State.countPage, if_pos h6]
    refine (congrArg (dwBits · 31 16) (crT_setCrT_same _ _ _ _ _)).trans ?_
    refine (dwBits_dwSet _ _ (by decide) (by decide)).trans ?_
    exact Nat.mod_eq_of_lt (Nat.lt_of_le_of_lt (Nat.min_le_left _ _) (by decide))
  refine ⟨keeps_takeFault _ _ _ _ _, fun c' t' j hne hc => ?_, ?_, fun hc => ?_, fun hc hm => ?_, fun hc hm => ?_⟩
  · rw [State.takeFault, thread_faultAt hc, if_neg]
    rintro ⟨rfl, rfl, rfl⟩
    simp at hne
  · cases hc : isSerai s.cur.core with
    | false =>
      exact hcount (crT_of_crs (crs_takeFault_compute hc) _ _ _)
    | true =>
      cases hm : s.isMonitor (clusterOf s.cur.core) s.cur.turn with
      | true =>
        rw [takeFault_monitor hc hm]
        exact hcount ((crT_of_crs (crs_monitorFault _ _) _ _ _).trans (crT_seraiFault _ _ _ _ _ _ _))
      | false =>
        rw [takeFault_shard hc hm]
        exact hcount ((crT_enterMonitor _ _ _ _ _ _).2.2.2.trans (crT_seraiFault _ _ _ _ _ _ _))
  · have ht : (s.takeFault l code finfo extra).curThread l = (s.curThread l).faultedWith (s.issueRecord l code finfo extra) := by
      rw [curThread_takeFault hc, if_pos rfl]
    rw [ht]
    refine ⟨rfl, rfl, rfl, rfl, fun p hp => ?_, faultEvs_takeFault_compute hc⟩
    rw [State.takeFault, wave_faultAt hc, if_pos ⟨rfl, rfl⟩] at hp
    exact mem_unrecon _ hl hp
  · rw [takeFault_shard hc hm]
    obtain ⟨h1, h2, h3, -⟩ := crT_enterMonitor (s.seraiFault code finfo extra)
      (clusterOf s.cur.core) s.cur.turn s.cur.pc code finfo
    obtain ⟨h4, h5⟩ := thread_enterMonitor (s.seraiFault code finfo extra)
      (clusterOf s.cur.core) s.cur.turn s.cur.pc code finfo
    refine ⟨h1, h2, h3.trans ?_, h4.trans (crT_seraiFault_other _ _ _ _ _ _ (by decide)), h5⟩
    rw [State.smode, crT_seraiFault_other _ _ _ _ _ _ (by decide)]
    rfl
  · have hstatus : (s.takeFault l code finfo extra).curThread l = ((s.seraiFault code finfo extra).modThread s.cur.core s.cur.turn l fun th =>
          { th with status := .faulted, walked := [], fword := some s.cur.word }).thread s.cur.core s.cur.turn l := by
      rw [State.curThread, (keeps_takeFault _ _ _ _ _).cur, takeFault_monitor hc hm]
      exact thread_of_cores (cores_monitorFault _ _) _ _ _
    refine ⟨?_, ?_⟩
    · rw [hstatus, thread_modThread, if_pos ⟨rfl, rfl, rfl⟩]
    · rw [takeFault_monitor hc hm]
      refine (crT_of_crs (crs_monitorFault _ _) _ _ _).trans ?_
      exact crT_seraiFault_other _ _ _ _ _ _ (by decide)

/-! ## Completing an instruction (R47, R137) -/

/-- A lane that blocked, faulted or left stays as it is, where no lane is at the end of its block. -/
theorem curThread_finish_stay {s : State} {l : Nat} (hgo : (s.curThread l).going = false)
    (hend : ∀ j ∈ s.cur.lanes.lanes, (s.curThread j).atEnd s.cur = false) : s.finish.curThread l = s.curThread l := by
  have hout : l ∉ s.goingLanes.lanes := fun h => by
    rw [((mem_goingLanes s l).1 h).2] at hgo
    exact Bool.noConfusion hgo
  rw [finish_eq]
  split
  · rfl
  · rw [thread_advance _ _ (fun j hj => ?_), if_neg hout, curThread_issued]
    rw [curThread_issued]
    exact hend j ((mem_goingLanes s j).1 hj).1

/-- Settles O29: the lanes that go on advance; each clause is where that takes them. -/
theorem completionMovesOn : Obligations.CompletionMovesOn := by
  unfold Obligations.CompletionMovesOn
  intro s l hl
  refine ⟨fun hend => ?_, fun ln hend hgo hrep hln hla2 hhdr hok hconv => ?_⟩
  · cases hgo : (s.curThread l).going with
    | false => exact curThread_finish_stay hgo hend
    | true => exact curThread_finish_of_going hl hgo fun j hj _ => hend j hj
  · have hin : l ∈ s.goingLanes.lanes := (mem_goingLanes s l).2 ⟨hl, hgo⟩
    have hcode : s.issued.codeLine s.issued.cur.core s.issued.cur.turn s.issued.cur.nextPc = some ln := (codeLine_modWave _ _ _ _ _ _ _).trans hln
    have hne : s.goingLanes ≠ 0 := ofLanes_filter_ne hl hgo
    rw [finish_eq, if_neg hne, thread_advance_end s.issued _ (fun j hj => ?_) ln hcode hla2 hhdr hok hconv l hin
      (by rw [curThread_issued]; exact hrep), curThread_issued]
    · rfl
    · rw [curThread_issued]
      exact hend j ((mem_goingLanes s j).1 hj).1

/-! ## Threads that exit (R31, R131) -/

/-- The wave whose lanes `m` have exited. -/
def Wave.exitLanes (w : Wave) (m : Mask) : Wave := m.lanes.foldl (fun w l => (w.modThread l Thread.exited).unrecon l) w

@[simp] theorem uid_exitLanes (w : Wave) (m : Mask) : (w.exitLanes m).uid = w.uid := (foldl_exited _ (lanes_nodup m) w).1
@[simp] theorem busy_exitLanes (w : Wave) (m : Mask) : (w.exitLanes m).busy = w.busy := (foldl_exited _ (lanes_nodup m) w).2.1
@[simp] theorem live_exitLanes (w : Wave) (m : Mask) : (w.exitLanes m).live = w.live := (foldl_exited _ (lanes_nodup m) w).2.2.1
theorem thread_exitLanes (w : Wave) (m : Mask) (j : Nat) : (w.exitLanes m).thread j = if j ∈ m.lanes then (w.thread j).exited else w.thread j :=
  (foldl_exited _ (lanes_nodup m) w).2.2.2 j

/-- R31: does the wave retire as the lanes `m` exit? -/
def Wave.retires (w : Wave) (m : Mask) : Bool := w.live && (w.exitLanes m).alive == 0 && !w.busy

theorem exitLanes_eq (s : State) (c t : Nat) (m : Mask) :
    s.exitLanes c t m = if (s.wave c t).retires m then (s.modWave c t fun w => w.exitLanes m).retireWave c t else s.modWave c t fun w => w.exitLanes m := by
  have hw : (s.modWave c t fun w => w.exitLanes m).wave c t = (s.wave c t).exitLanes m := by rw [wave_modWave, if_pos ⟨rfl, rfl⟩]
  have hc : (s.wave c t).retires m = (((s.modWave c t fun w => w.exitLanes m).wave c t).live &&
      ((s.modWave c t fun w => w.exitLanes m).wave c t).alive == 0 && !((s.modWave c t fun w => w.exitLanes m).wave c t).busy) := by
    rw [hw, live_exitLanes, busy_exitLanes]
    rfl
  rw [hc]
  rfl

theorem alive_eq_zero (w : Wave) : w.alive = 0 ↔ ∀ l < 32, (w.thread l).status = .exited := by
  constructor
  · intro h l hl
    refine Classical.byContradiction fun hne => ?_
    have hmem : l ∈ w.alive.lanes := (mem_lanes_ofLanes _ _).2 ⟨hl, List.mem_filter.2 ⟨List.mem_range.2 hl, bne_iff_ne.2 hne⟩⟩
    rw [h, lanes_zero] at hmem
    exact List.not_mem_nil hmem
  · intro h
    refine mask_eq_zero _ (List.eq_nil_iff_forall_not_mem.2 fun l hl => ?_)
    obtain ⟨hl, hf⟩ := (mem_lanes_ofLanes _ _).1 hl
    exact bne_iff_ne.1 (List.mem_filter.1 hf).2 (h l hl)

theorem retires_iff (w : Wave) (m : Mask) :
    w.retires m = true ↔ w.live = true ∧ w.busy = false ∧ ∀ l < 32, l ∉ m.lanes → (w.thread l).status = .exited := by
  have hz : (w.exitLanes m).alive = 0 ↔ ∀ l < 32, l ∉ m.lanes → (w.thread l).status = .exited := by
    rw [alive_eq_zero]
    refine forall_congr' fun l => forall_congr' fun _ => ?_
    rw [thread_exitLanes]
    by_cases hl : l ∈ m.lanes
    · rw [if_pos hl]; exact ⟨fun _ h => absurd hl h, fun _ => rfl⟩
    · rw [if_neg hl]; exact ⟨fun h _ => h, fun h => h hl⟩
  simp only [Wave.retires, Bool.and_eq_true, beq_iff_eq, Bool.not_eq_true', hz]
  exact ⟨fun ⟨⟨h1, h2⟩, h3⟩ => ⟨h1, h3, h2⟩, fun ⟨h1, h3, h2⟩ => ⟨⟨h1, h2⟩, h3⟩⟩

theorem wave_retireWave_other (s : State) {c t c' t' : Nat} (h : c' ≠ c ∨ t' ≠ t) : (s.retireWave c t).wave c' t' = s.wave c' t' := by
  simp only [State.retireWave, State.roomFreed, State.wave, State.modCl, State.core, State.modCore, getK_insK]
  split
  · subst c'
    simp only [Core.wave, getK_insK, retireBanks_waves]
    rw [if_neg (h.resolve_left fun hc => hc rfl)]
  · rfl

theorem getK_delK_same {α : Type} (d : α) (m : List (Nat × α)) (k : Nat) : getK d (delK m k) k = d := by
  induction m with
  | nil => rfl
  | cons p t ih =>
    rw [delK, List.filter_cons]
    split
    next h => rw [getK, if_neg fun he => bne_iff_ne.1 h he.symm]; exact ih
    next => exact ih

theorem quota_retireWave (s : State) (c t : Nat) : (s.retireWave c t).quota c t = {} := by
  simp only [State.retireWave, State.roomFreed, State.quota, State.modCl, State.core, State.modCore, getK_insK_same]
  exact getK_delK_same _ _ _

/-- Settles O28: the lanes exit in their wave; whether that leaves a thread says if the wave retires. -/
theorem exitEndsThreads : Obligations.ExitEndsThreads := by
  unfold Obligations.ExitEndsThreads
  intro s c t m
  have hwave : (s.modWave c t fun w => w.exitLanes m).wave c t = (s.wave c t).exitLanes m := by rw [wave_modWave, if_pos ⟨rfl, rfl⟩]
  cases hr : (s.wave c t).retires m with
  | true =>
    have he : s.exitLanes c t m = (s.modWave c t fun w => w.exitLanes m).retireWave c t := by rw [exitLanes_eq, hr, if_pos rfl]
    have hw : (s.exitLanes c t m).wave c t = { uid := (s.wave c t).uid } := by rw [he, wave_retireWave, hwave, uid_exitLanes]
    have hth : ∀ l, (s.exitLanes c t m).thread c t l = {} := fun l => by rw [State.thread, hw]; rfl
    obtain ⟨hlive, hbusy, hout⟩ := (retires_iff _ _).1 hr
    refine ⟨by rw [hw], by rw [he]; exact .of_eq rfl rfl rfl rfl, fun l _ => by rw [hth]; exact ⟨rfl, rfl, rfl⟩, fun c' t' hne => ?_, fun _ _ _ => ?_, fun h => ?_⟩
    · rw [he, wave_retireWave_other _ hne, wave_modWave, if_neg fun h => hne.elim (· h.1) (· h.2)]
    · refine ⟨by rw [hw], by rw [he, quota_retireWave], fun l => by rw [hth]⟩
    · obtain h | h | ⟨l, hl, hm, h⟩ := h
      · rw [hbusy] at h; exact Bool.noConfusion h
      · rw [hlive] at h; exact Bool.noConfusion h
      · exact absurd (hout l hl hm) h
  | false =>
    have he : s.exitLanes c t m = s.modWave c t fun w => w.exitLanes m := by rw [exitLanes_eq, hr, if_neg Bool.false_ne_true]
    have hw : (s.exitLanes c t m).wave c t = (s.wave c t).exitLanes m := by rw [he, hwave]
    have hth : ∀ l, (s.exitLanes c t m).thread c t l = if l ∈ m.lanes then (s.thread c t l).exited else s.thread c t l := fun l => by
      rw [State.thread, hw, thread_exitLanes]
      rfl
    refine ⟨by rw [hw, uid_exitLanes], by rw [he]; exact .of_eq rfl rfl rfl rfl, fun l hl => by rw [hth, if_pos hl]; exact ⟨rfl, rfl, rfl⟩, fun c' t' hne => ?_, fun hlive hbusy hout => ?_, fun _ l => ?_⟩
    · rw [he, wave_modWave, if_neg fun h => hne.elim (· h.1) (· h.2)]
    · rw [(retires_iff _ _).2 ⟨hlive, hbusy, hout⟩] at hr
      exact Bool.noConfusion hr
    · rw [hth]
      by_cases hl : l ∈ m.lanes
      · rw [if_pos hl]; exact ⟨rfl, rfl, fun h => absurd hl h⟩
      · rw [if_neg hl]; exact ⟨rfl, rfl, fun _ => rfl⟩

end Sys2Proof.Machine

namespace Sys2Proof.Machine

/-! ## Registers written in a row (R18, R22) -/

theorem reg_setReg (t : Thread) (r x : Nat) (v : Word) : (t.setReg r v).reg x = if x = r then v else t.reg x := getK_putK _ _ _ _ _

theorem any_delK {α : Type} (m : List (Nat × α)) (r x : Nat) : (delK m r).any (fun p => p.1 == x) = (m.any (fun p => p.1 == x) && x != r) := by
  rw [delK, List.any_filter, Bool.eq_iff_iff]
  simp only [List.any_eq_true, Bool.and_eq_true, beq_iff_eq, bne_iff_ne]
  constructor
  · rintro ⟨p, hp, hr, rfl⟩; exact ⟨⟨p, hp, rfl⟩, hr⟩
  · rintro ⟨⟨p, hp, rfl⟩, hr⟩; exact ⟨p, hp, hr, rfl⟩

theorem isEmpty_setReg (t : Thread) (r x : Nat) (v : Word) : (t.setReg r v).isEmpty x = (t.isEmpty x && x != r) := any_delK _ _ _

theorem reg_setRegs (t : Thread) (r x : Nat) (ws : List Word) :
    (t.setRegs r ws).reg x = if r ≤ x ∧ x < r + ws.length then ws.getD (x - r) 0 else t.reg x := by
  induction ws generalizing t r with
  | nil => rw [if_neg (by simp only [List.length_nil]; omega)]; rfl
  | cons v vs ih =>
    rw [Thread.setRegs, ih, reg_setReg, List.length_cons]
    obtain hx | rfl | hx := Nat.lt_trichotomy x r
    · rw [if_neg (by omega), if_neg (by omega), if_neg (by omega)]
    · rw [if_neg (by omega), if_pos rfl, if_pos (by omega), Nat.sub_self, List.getD_cons_zero]
    · by_cases hend : x < r + (vs.length + 1)
      · rw [if_pos (by omega), if_pos (by omega), show x - r = x - (r + 1) + 1 by omega, List.getD_cons_succ]
      · rw [if_neg (by omega), if_neg (by omega), if_neg (by omega)]

theorem isEmpty_setRegs (t : Thread) (r x : Nat) (ws : List Word) :
    (t.setRegs r ws).isEmpty x = (t.isEmpty x && !(decide (r ≤ x) && decide (x < r + ws.length))) := by
  induction ws generalizing t r with
  | nil =>
    have h : ¬ (r ≤ x ∧ x < r + 0) := by omega
    rw [← Bool.decide_and, List.length_nil, decide_eq_false h, Bool.not_false, Bool.and_true]
    rfl
  | cons v vs ih =>
    rw [Thread.setRegs, ih, isEmpty_setReg, List.length_cons, Bool.and_assoc]
    congr 1
    rw [Bool.eq_iff_iff]
    simp only [Bool.and_eq_true, bne_iff_ne, Bool.not_eq_true', ← Bool.decide_and, decide_eq_false_iff_not]
    omega

theorem setRegs_kept (t : Thread) (r : Nat) (ws : List Word) :
    (t.setRegs r ws).preds = t.preds ∧ (t.setRegs r ws).wh = t.wh ∧ (t.setRegs r ws).batches = t.batches ∧
      (t.setRegs r ws).status = t.status ∧ (t.setRegs r ws).pc = t.pc := by
  induction ws generalizing t r with
  | nil => exact ⟨rfl, rfl, rfl, rfl, rfl⟩
  | cons v vs ih => exact ih _ _

/-! ## The reconvergence table as lanes move (R180 to R182) -/

/-- R182: what may become of an entry while no lane leaves the addresses `as`: it names the same region, and loses members only
where it does not hold them all. -/
structure Recon.Shrunk (as : List DWord) (e e' : Recon) : Prop where
  raddr : e'.raddr = e.raddr
  rlo : e'.rlo = e.rlo
  members : e'.members &&& ~~~e.members = 0
  kept : (∀ a ∈ as, e.inside a = true) → e'.members = e.members

theorem Recon.Shrunk.refl (as : List DWord) (e : Recon) : Recon.Shrunk as e e := ⟨rfl, rfl, by ext i; simp, fun _ => rfl⟩

theorem Recon.inside_of_eq {e e' : Recon} (h1 : e'.raddr = e.raddr) (h2 : e'.rlo = e.rlo) (a : DWord) : e'.inside a = e.inside a := by
  rw [Recon.inside, Recon.inside, h1, h2]

theorem Recon.Shrunk.trans {as : List DWord} {e e' e'' : Recon} (h : Recon.Shrunk as e e') (h' : Recon.Shrunk as e' e'') : Recon.Shrunk as e e'' := by
  refine ⟨h'.raddr.trans h.raddr, h'.rlo.trans h.rlo, ?_, fun hin => ?_⟩
  · have h1 := h.members
    have h2 := h'.members
    ext i hi
    have h1' := congrArg (fun m => m.getLsbD i) h1
    have h2' := congrArg (fun m => m.getLsbD i) h2
    simp at h1' h2' ⊢
    grind
  · rw [h'.kept fun a ha => by rw [Recon.inside_of_eq h.raddr h.rlo]; exact hin a ha, h.kept hin]

theorem Recon.shrunk_leave {as : List DWord} (e : Recon) (l : Nat) (a : DWord) {b : DWord} (hb : b ∈ as) : Recon.Shrunk as e (e.leave l a b) := by
  unfold Recon.leave
  split
  next h =>
    refine ⟨rfl, rfl, by ext i; simp; grind, fun hin => ?_⟩
    rw [hin b hb] at h
    simp at h
  next => exact .refl _ _

/-- R182: so has the table of a wave. -/
def Wave.Shrunk (as : List DWord) (w w' : Wave) : Prop :=
  w'.rtovf = w.rtovf ∧ ∃ F : Recon → Recon, (∀ e, Recon.Shrunk as e (F e)) ∧ w'.recon = w.recon.map fun p => (p.1, F p.2)

theorem Wave.Shrunk.of_eq {as : List DWord} {w w' : Wave} (h1 : w'.rtovf = w.rtovf) (h2 : w'.recon = w.recon) : Wave.Shrunk as w w' :=
  ⟨h1, id, fun e => .refl _ e, by rw [h2]; simp⟩

theorem Wave.Shrunk.trans {as : List DWord} {w w' w'' : Wave} (h : Wave.Shrunk as w w') (h' : Wave.Shrunk as w' w'') : Wave.Shrunk as w w'' := by
  obtain ⟨h1, F, hF, h2⟩ := h
  obtain ⟨h1', F', hF', h2'⟩ := h'
  refine ⟨h1'.trans h1, F' ∘ F, fun e => (hF e).trans (hF' _), ?_⟩
  rw [h2', h2, List.map_map]
  rfl

theorem Wave.shrunk_foldl {as : List DWord} (f : Wave → Nat → Wave) (hf : ∀ w l, Wave.Shrunk as w (f w l)) (ls : List Nat) (w : Wave) :
    Wave.Shrunk as w (ls.foldl f w) := by
  induction ls generalizing w with
  | nil => exact .of_eq rfl rfl
  | cons l ls ih => exact (hf w l).trans (ih _)

theorem Wave.shrunk_leave {as : List DWord} (w : Wave) (l : Nat) (a : DWord) {b : DWord} (hb : b ∈ as) : Wave.Shrunk as w (w.leave l a b) :=
  ⟨rfl, fun e => e.leave l a b, fun e => Recon.shrunk_leave e l a hb, rfl⟩

theorem Wave.shrunk_leaveHeader {as : List DWord} (w : Wave) {addr : DWord} (m : Mask) (hb : caAdd addr 8 ∈ as) :
    Wave.Shrunk as w (w.leaveHeader addr false m) := by
  refine Wave.shrunk_foldl _ (fun w l => ?_) _ _
  split
  · exact .of_eq rfl rfl
  · exact Wave.shrunk_leave w l addr hb

theorem findK_map {α β : Type} (F : α → β) (m : List (Nat × α)) (i : Nat) : findK (m.map fun p => (p.1, F p.2)) i = (findK m i).map F := by
  induction m with
  | nil => rfl
  | cons p t ih =>
    simp only [findK, List.map_cons, List.find?_cons] at ih ⊢
    by_cases hp : p.1 = i
    · simp [hp]
    · simp only [beq_eq_false_iff_ne.2 hp]; exact ih

/-- So has the table of the issuing wave from `s` to `u`, in the same issue. -/
def State.Shrunk (as : List DWord) (s u : State) : Prop :=
  u.cur = s.cur ∧ Wave.Shrunk as (s.wave s.cur.core s.cur.turn) (u.wave s.cur.core s.cur.turn)

section
variable {as : List DWord}

theorem State.Shrunk.trans {s u v : State} (h : State.Shrunk as s u) (h' : State.Shrunk as u v) : State.Shrunk as s v := by
  obtain ⟨h1, h2⟩ := h
  obtain ⟨h1', h2'⟩ := h'
  rw [h1] at h2'
  exact ⟨h1'.trans h1, h2.trans h2'⟩

theorem State.shrunk_modCurWave (s : State) (f : Wave → Wave) (hf : ∀ w, Wave.Shrunk as w (f w)) : State.Shrunk as s (s.modCurWave f) := by
  refine ⟨rfl, ?_⟩
  rw [State.modCurWave, wave_modWave, if_pos ⟨rfl, rfl⟩]
  exact hf _

theorem State.shrunk_modThreads (s : State) (m : Mask) (f : Nat → Thread → Thread) :
    State.Shrunk as s (s.modThreads s.cur.core s.cur.turn m f) :=
  s.shrunk_modCurWave _ fun w => Wave.shrunk_foldl (fun w l => w.modThread l (f l)) (fun _ _ => .of_eq rfl rfl) _ w

theorem State.shrunk_moveLanes (s : State) (m : Mask) (call : Bool) {d : DWord} (hd : d ∈ as) : State.Shrunk as s (s.moveLanes m call d) := by
  unfold State.moveLanes
  split
  · exact ⟨rfl, .of_eq rfl rfl⟩
  · exact s.shrunk_modCurWave _ fun w => Wave.shrunk_foldl _ (fun w l => Wave.shrunk_leave w l _ hd) _ w

theorem State.shrunk_wantLine (s : State) (c t : Nat) (a : DWord) : State.Shrunk as s (s.wantLine c t a) := by
  refine ⟨rfl, ?_⟩
  have hw : (s.wantLine c t a).wave s.cur.core s.cur.turn = s.wave s.cur.core s.cur.turn := by
    unfold State.wantLine
    rw [State.wave, State.wave, core_modCore]
    split
    next h => rw [h]; split <;> rfl
    next => rfl
  rw [hw]
  exact .of_eq rfl rfl

/-- Lanes that enter a well-formed header that is no reconvergence point. -/
theorem State.shrunk_enterHeader (s : State) (m : Mask) (n : Nat) {addr w : DWord} (ha : caAdd addr 8 ∈ as) (hok : (Header.ofWord w).ok = true)
    (hc : (Header.ofWord w).conv = false) : State.Shrunk as s (s.enterHeader s.cur.core s.cur.turn m n addr w) := by
  have hin : State.Shrunk as s ((s.modThreads s.cur.core s.cur.turn m fun _ th => { th with pc := caAdd addr 8, hdr := addr, hdrW := w, la2 := false }).modWave
      s.cur.core s.cur.turn fun wv => wv.leaveHeader addr false m) :=
    (s.shrunk_modThreads m _).trans (State.shrunk_modCurWave _ _ fun w => Wave.shrunk_leaveHeader w m ha)
  simp only [State.enterHeader, hok, hc, Bool.not_true, Bool.false_eq_true, if_false]
  split
  · exact hin
  · split
    · exact hin
    · exact hin.trans (State.shrunk_wantLine _ _ _ _)

end

/-- What R182 says of each entry of a table that has shrunk. -/
theorem Wave.Shrunk.entries {as : List DWord} {w w' : Wave} (h : Wave.Shrunk as w w') (i : Nat) :
    (findK w'.recon i = none ↔ findK w.recon i = none) ∧
      ∀ e e', findK w.recon i = some e → findK w'.recon i = some e' → e'.raddr = e.raddr ∧ e'.rlo = e.rlo ∧ e'.members &&& ~~~e.members = 0 ∧
        ((∀ a ∈ as, e.inside a = true) → e'.members = e.members) := by
  obtain ⟨-, F, hF, hr⟩ := h
  rw [hr, findK_map]
  refine ⟨Option.map_eq_none_iff, fun e e' he he' => ?_⟩
  rw [he] at he'
  obtain rfl := Option.some.inj he'
  exact ⟨(hF e).raddr, (hF e).rlo, (hF e).members, (hF e).kept⟩

/-! ## Advancing over the end of a block (R47) -/

/-- The lanes `m`, as they come to the end of their block without a repeat. -/
def State.passEnd (s : State) (m : Mask) : State :=
  (((s.modThreads s.cur.core s.cur.turn m fun _ t =>
      { t with repCnt := if t.repCnt = 0 then 0 else t.repCnt - 1, wait := .none, walked := [] }).modThreads s.cur.core s.cur.turn 0
    fun _ t => { t with pc := s.cur.nextPc })).moveLanes m false s.cur.nextPc

/-- They enter the header behind it, where it is present, well formed and of a block of LA3 code. -/
theorem advance_end {s : State} {m : Mask} {ln : ILine} (hm : ∀ j ∈ m.lanes, (s.curThread j).repCnt.toNat ≤ 1 ∧ (s.curThread j).atEnd s.cur = true) (hne : m ≠ 0)
    (hln : s.codeLine s.cur.core s.cur.turn s.cur.nextPc = some ln) (hl2 : ln.la2 = false) (hh : isHeader (ln.at s.cur.nextPc) = true) :
    s.advance m = (s.passEnd m).enterHeader s.cur.core s.cur.turn m s.cur.n s.cur.nextPc (ln.at s.cur.nextPc) := by
  have hmoved : Mask.ofLanes (m.lanes.filter fun l => decide ((s.curThread l).repCnt.toNat ≤ 1)) = m :=
    ofLanes_filter_all fun l hl => decide_eq_true (hm l hl).1
  have hfalling : Mask.ofLanes (m.lanes.filter fun l => (s.curThread l).atEnd s.cur) = m := ofLanes_filter_all fun l hl => (hm l hl).2
  have hz : m &&& ~~~m = 0 := by ext i hi; simp
  have hcode : (s.passEnd m).codeLine s.cur.core s.cur.turn s.cur.nextPc = some ln := by
    rw [State.passEnd, codeLine_moveLanes, codeLine_modThreads, codeLine_modThreads, hln]
  have hfall : (s.passEnd m).fallTo s.cur.core s.cur.turn m s.cur.n s.cur.nextPc =
      (s.passEnd m).enterHeader s.cur.core s.cur.turn m s.cur.n s.cur.nextPc (ln.at s.cur.nextPc) := by
    simp only [State.fallTo, hcode, hl2, hh, Bool.not_true, Bool.false_eq_true, if_false]
  rw [← hfall]
  unfold State.advance
  extract_lets w s1 moved falling next s2
  have h1 : moved = m := hmoved
  have h2 : falling = m := by
    show Mask.ofLanes (moved.lanes.filter fun l => (s.curThread l).atEnd s.cur) = m
    rw [h1]
    exact hfalling
  have h3 : s2 = s.passEnd m := by
    show ((s1.modThreads s1.cur.core s1.cur.turn (moved &&& ~~~falling) fun _ t => { t with pc := next }).moveLanes moved false next) = _
    rw [h1, h2, hz]
    rfl
  rw [h2, if_neg hne, h3]
  rfl

/-! ## A transfer that every lane of it passes (R50, R130, R178) -/

theorem foldl_fixed {α β : Type} {f : α → β → α} {s : α} {bs : List β} (h : ∀ b ∈ bs, f s b = s) : bs.foldl f s = s := by
  induction bs with
  | nil => rfl
  | cons b bs ih => rw [List.foldl_cons, h b (.head _), ih fun x hx => h x (.tail _ hx)]

theorem groupTargets_same (dest w : DWord) (la2 : Bool) {ls : List Nat} (h : ls ≠ []) :
    groupTargets (ls.map fun l => (l, dest, w, la2)) = [(dest, w, la2, ls)] := by
  induction ls with
  | nil => exact absurd rfl h
  | cons l ls ih =>
    cases ls with
    | nil => rfl
    | cons l' ls =>
      rw [List.map_cons, groupTargets, ih (List.cons_ne_nil _ _)]
      simp

/-- R130: the link that a call leaves. -/
def State.linkTo (s : State) (m : Mask) : Option Nat → State
  | some r => s.modThreads s.cur.core s.cur.turn m fun _ th => th.setRegs r [loOf s.cur.nextPc, hiOf s.cur.nextPc]
  | none => s
/-- The lanes `m` go to a target that they have passed the checks of. -/
def State.depart (s : State) (m : Mask) (call : Bool) (link : Option Nat) (dest word : DWord) : State :=
  (((s.linkTo m link).modThreads s.cur.core s.cur.turn m fun _ th => { th with wait := .none, walked := [] }).goTo m call dest word false).issued
/-- R180: the path divides where its lanes come to several addresses. -/
def State.divided (s : State) (m : Mask) (nexts : List DWord) : State :=
  let th := s.curThread (s.cur.lanes.lanes.headD 0)
  if 2 ≤ nexts.eraseDups.length then s.modCurWave fun w => w.divide th.hdr (if th.la2 then 0 else th.hdrW.extractLsb' 28 16) m else s

theorem cur_divided (s : State) (m : Mask) (ns : List DWord) : (s.divided m ns).cur = s.cur := by
  unfold State.divided
  extract_lets th
  split <;> rfl

theorem transfer_ok {s0 s : State} {act : Mask} {indirect call : Bool} {link : Option Nat} {ls : List Nat} {dest word : DWord} (hls : ls ≠ [])
    (hok : ∀ l ∈ ls, s.checkTarget s.cur.core s.cur.turn l indirect dest = .ok word false) (hm : Mask.ofLanes ls ≠ 0) {stay : Mask}
    (hstay : Mask.ofLanes ((s.cur.lanes &&& ~~~act).lanes.filter fun l => (s.curThread l).status == .ready) = stay) :
    transfer s0 s act indirect call (link.map .reg) (ls.map fun l => (l, dest)) =
      if stay = 0 then (s.divided (Mask.ofLanes ls ||| stay) [dest]).depart (Mask.ofLanes ls) call link dest word
      else ((s.divided (Mask.ofLanes ls ||| stay) [dest, s.cur.nextPc]).depart (Mask.ofLanes ls) call link dest word).advance stay := by
  unfold transfer
  extract_lets c t res
  have hres : res = ls.map fun l => (l, dest, Tgt.ok word false) := by
    show ((ls.map fun l => (l, dest)).map fun p => (p.1, p.2, s.checkTarget c t p.1 indirect p.2)) = _
    rw [List.map_map]
    exact List.map_congr_left fun l hl => by simp only [Function.comp_apply]; rw [show s.checkTarget c t l indirect dest = _ from hok l hl]
  have hmem : ∀ r ∈ res, r.2.2 = Tgt.ok word false := by
    rw [hres]
    intro r hr
    obtain ⟨l, -, rfl⟩ := List.mem_map.1 hr
    rfl
  split
  next b p h =>
    obtain ⟨r, hr, hf⟩ := List.exists_of_findSome?_eq_some h
    rw [hmem r hr] at hf
    cases hf
  split
  next r h =>
    have hf := List.find?_some h
    rw [hmem r (List.mem_of_find?_eq_some h)] at hf
    cases hf
  rename_i oks a1 a2 a3 groups stay' moving nexts th s2 s3 s4 s5 s6 _ _ _ _
  have hoks : oks = ls.map fun l => (l, dest, word, false) := by
    show res.filterMap _ = _
    rw [hres, List.filterMap_map, ← List.filterMap_eq_map]
    rfl
  have ha1 : a1 = s := by
    show (if oks.isEmpty then s0 else s) = s
    rw [hoks, if_neg (by simpa using hls)]
  have ha2 : a2 = s := by
    show ((List.foldl _ (a1, []) ((res.filter _).map _) : State × List DWord)).1 = s
    rw [List.filter_eq_nil_iff.2 fun r hr => ?_]
    · exact ha1
    · rw [hmem r hr]
      exact Bool.false_ne_true
  have ha3 : a3 = s := by
    show res.foldl _ a2 = s
    rw [ha2]
    exact foldl_fixed fun r hr => by rw [hmem r hr]
  have hgroups : groups = [(dest, word, false, ls)] := by
    show groupTargets oks = _
    rw [hoks, groupTargets_same _ _ _ hls]
  have hmoving : moving = Mask.ofLanes ls := by
    show Mask.ofLanes (oks.map (·.1)) = _
    rw [hoks, List.map_map]
    exact congrArg Mask.ofLanes (List.map_id _)
  have hstay' : stay' = stay := hstay
  have hnexts : nexts = dest :: if stay = 0 then [] else [s.cur.nextPc] := by
    show groups.map (fun g => g.1) ++ (if stay' = 0 then [] else [s.cur.nextPc]) = _
    rw [hgroups, hstay']
    rfl
  have hs2 : s2 = s.divided (Mask.ofLanes ls ||| stay) (dest :: if stay = 0 then [] else [s.cur.nextPc]) := by
    show (if 2 ≤ nexts.eraseDups.length then
      a3.modCurWave fun w => w.divide th.hdr (if th.la2 then 0 else th.hdrW.extractLsb' 28 16) (moving ||| stay') else a3) = _
    rw [hnexts, ha3, hmoving, hstay']
    rfl
  have hcur : s2.cur = s.cur := by
    rw [hs2, cur_divided]
  have hs3 : s3 = s2.linkTo (Mask.ofLanes ls) link := by
    cases link with
    | none => rfl
    | some r =>
      show s2.modThreads c t moving (fun _ th => th.setRegs r [loOf s.cur.nextPc, hiOf s.cur.nextPc]) = _
      rw [State.linkTo, hcur, hmoving]
  have hs6 : s6 = s2.depart (Mask.ofLanes ls) call link dest word := by
    have hne : ¬ moving ||| stay' = 0 := by
      rw [hmoving]
      exact fun h => hm (BitVec.or_eq_zero_iff.1 h).1
    show (if moving ||| stay' = 0 then s5 else s5.issued) = _
    rw [if_neg hne]
    show (groups.foldl (fun s g => s.goTo (Mask.ofLanes g.2.2.2) call g.1 g.2.1 g.2.2.1) s4).issued = _
    have hs4 : s4 = s3.modThreads s.cur.core s.cur.turn (Mask.ofLanes ls) fun _ th => { th with wait := .none, walked := [] } := by
      show s3.modThreads c t moving _ = _
      rw [hmoving]
    rw [hgroups, State.depart, ← hs3, hcur, ← hs4]
    rfl
  rw [hs6, hs2, hstay']
  by_cases hz : stay = 0
  · rw [if_pos hz, if_pos hz, if_pos hz]
  · rw [if_neg hz, if_neg hz, if_neg hz]

/-- R180: a wave deals with its table alone as its path divides. -/
theorem threads_divide (w : Wave) (hdr : DWord) (recon : BitVec 16) (m : Mask) : (w.divide hdr recon m).threads = w.threads := by
  unfold Wave.divide
  extract_lets ra
  split
  · rfl
  · split
    · rfl
    · split <;> rfl

theorem thread_divided (s : State) (m : Mask) (ns : List DWord) (c t l : Nat) : (s.divided m ns).thread c t l = s.thread c t l := by
  unfold State.divided
  extract_lets th
  split
  · rw [State.modCurWave, thread_modWave]
    split
    next h => rw [h.1, h.2, Wave.thread, threads_divide]; rfl
    next => rfl
  · rfl

theorem keeps_divided (s : State) (m : Mask) (ns : List DWord) : Keeps s (s.divided m ns) :=
  ⟨cur_divided s m ns, by unfold State.divided; extract_lets th; split <;> exact .of_eq rfl rfl rfl rfl, fun c t l => congrArg _ (thread_divided s m ns c t l)⟩

theorem cur_linkTo (s : State) (m : Mask) (link : Option Nat) : (s.linkTo m link).cur = s.cur := by cases link <;> rfl

theorem keeps_linkTo_none (s : State) (m : Mask) : Keeps s (s.linkTo m none) := .refl s

/-- Behind the link, a departure keeps what a program sees. -/
theorem keeps_depart (s : State) (m : Mask) (call : Bool) (link : Option Nat) (dest word : DWord) :
    Keeps (s.linkTo m link) (s.depart m call link dest word) := by
  unfold State.depart
  refine Keeps.trans ?_ (keeps_issued _)
  refine Keeps.trans ?_ (keeps_goTo _ _ _ _ _ _)
  exact keeps_modThreads _ _ _ _ _ fun _ _ => rfl

theorem memory_linkTo (s : State) (m : Mask) (link : Option Nat) : SameMemory s (s.linkTo m link) := by
  cases link <;> exact .of_eq rfl rfl rfl rfl

/-- Where a departed lane stands. -/
theorem thread_depart (s : State) (m : Mask) (call : Bool) (link : Option Nat) {dest word : DWord} (hok : (Header.ofWord word).ok = true)
    (hc : (Header.ofWord word).conv = false) (l : Nat) :
    (s.depart m call link dest word).thread s.cur.core s.cur.turn l =
      if l ∈ m.lanes then { (s.linkTo m link).curThread l with wait := .none, walked := [], pc := caAdd dest 8, hdr := dest, hdrW := word, la2 := false }
      else (s.linkTo m link).curThread l := by
  have hcur := cur_linkTo s m link
  have hcur' : ((s.linkTo m link).modThreads s.cur.core s.cur.turn m fun _ th => { th with wait := .none, walked := [] }).cur = s.cur := hcur
  have hthread : ∀ l, (s.linkTo m link).thread s.cur.core s.cur.turn l = (s.linkTo m link).curThread l := fun l => by rw [State.curThread, hcur]
  rw [State.depart, thread_issued, State.goTo]
  refine (congrArg (fun u : State => u.thread s.cur.core s.cur.turn l) (if_neg Bool.false_ne_true)).trans ?_
  rw [cur_moveLanes, hcur', thread_enterHeader _ _ _ _ _ _ _ hok hc, thread_moveLanes, thread_modThreads, hthread]
  by_cases hl : l ∈ m.lanes
  · rw [if_pos ⟨rfl, rfl, hl⟩, if_pos ⟨rfl, rfl, hl⟩, if_pos hl]
  · rw [if_neg fun h => hl h.2.2, if_neg fun h => hl h.2.2, if_neg hl]

/-- R182: the table as lanes depart. -/
theorem shrunk_depart {as : List DWord} (s : State) (m : Mask) (call : Bool) {dest word : DWord} (hok : (Header.ofWord word).ok = true)
    (hc : (Header.ofWord word).conv = false) (h1 : dest ∈ as) (h2 : caAdd dest 8 ∈ as) :
    State.Shrunk as s (s.depart m call none dest word) := by
  have hgo : ∀ u : State, State.Shrunk as u (u.goTo m call dest word false) := fun u =>
    (u.shrunk_moveLanes m call h1).trans (State.shrunk_enterHeader _ m _ h2 hok hc)
  exact ((s.shrunk_modThreads m _).trans (hgo _)).trans (State.shrunk_modCurWave _ _ fun _ => .of_eq rfl rfl)

theorem keeps_passEnd (s : State) (m : Mask) : Keeps s (s.passEnd m) := by
  unfold State.passEnd
  refine Keeps.trans ?_ (keeps_moveLanes _ _ _ _)
  refine Keeps.trans (t := s.modThreads s.cur.core s.cur.turn m _) ?_ (keeps_modThreads _ _ _ _ _ fun _ _ => rfl)
  exact keeps_modThreads _ _ _ _ _ fun _ _ => rfl

theorem shrunk_passEnd {as : List DWord} (s : State) (m : Mask) (h : s.cur.nextPc ∈ as) : State.Shrunk as s (s.passEnd m) := by
  unfold State.passEnd
  refine State.Shrunk.trans ?_ (State.shrunk_moveLanes _ m false h)
  exact (s.shrunk_modThreads m _).trans (State.shrunk_modThreads _ 0 _)

/-- Lanes that do not advance stay where they are as the others come to the end of their block. -/
theorem thread_passEnd_other (s : State) {m : Mask} {l : Nat} (hl : l ∉ m.lanes) (c t : Nat) : (s.passEnd m).thread c t l = s.thread c t l := by
  rw [State.passEnd, thread_moveLanes, thread_modThreads, if_neg (by rw [lanes_zero]; exact fun h => List.not_mem_nil h.2.2), thread_modThreads,
    if_neg fun h => hl h.2.2]

section
variable {s : State} {m : Mask} {ln : ILine}

/-- The lanes that enter a header as they advance, and the others. -/
theorem thread_advance_header (hm : ∀ j ∈ m.lanes, (s.curThread j).repCnt.toNat ≤ 1 ∧ (s.curThread j).atEnd s.cur = true) (hne : m ≠ 0)
    (hln : s.codeLine s.cur.core s.cur.turn s.cur.nextPc = some ln) (hl2 : ln.la2 = false) (hh : isHeader (ln.at s.cur.nextPc) = true)
    (hok : (Header.ofWord (ln.at s.cur.nextPc)).ok = true) (hc : (Header.ofWord (ln.at s.cur.nextPc)).conv = false) (l : Nat) :
    (l ∈ m.lanes → ((s.advance m).curThread l).pc = caAdd s.cur.nextPc 8 ∧ ((s.advance m).curThread l).hdr = s.cur.nextPc ∧
      ((s.advance m).curThread l).hdrW = ln.at s.cur.nextPc) ∧
    (l ∉ m.lanes → (s.advance m).curThread l = s.curThread l) := by
  have hcur : (s.advance m).cur = s.cur := (keeps_advance s m).cur
  rw [State.curThread, hcur, advance_end hm hne hln hl2 hh, thread_enterHeader _ _ _ _ _ _ _ hok hc]
  refine ⟨fun hl => ?_, fun hl => ?_⟩
  · rw [if_pos ⟨rfl, rfl, hl⟩]
    exact ⟨rfl, rfl, rfl⟩
  · rw [if_neg fun h => hl h.2.2, thread_passEnd_other s hl]
    rfl

theorem shrunk_advance_header {as : List DWord} (hm : ∀ j ∈ m.lanes, (s.curThread j).repCnt.toNat ≤ 1 ∧ (s.curThread j).atEnd s.cur = true) (hne : m ≠ 0)
    (hln : s.codeLine s.cur.core s.cur.turn s.cur.nextPc = some ln) (hl2 : ln.la2 = false) (hh : isHeader (ln.at s.cur.nextPc) = true)
    (hok : (Header.ofWord (ln.at s.cur.nextPc)).ok = true) (hc : (Header.ofWord (ln.at s.cur.nextPc)).conv = false)
    (h1 : s.cur.nextPc ∈ as) (h2 : caAdd s.cur.nextPc 8 ∈ as) : State.Shrunk as s (s.advance m) := by
  rw [advance_end hm hne hln hl2 hh]
  have hp := shrunk_passEnd s m h1
  have he := State.shrunk_enterHeader (as := as) (s.passEnd m) m s.cur.n h2 hok hc
  rw [hp.1] at he
  exact hp.trans he

end

theorem codeLine_wantLine (s : State) (c t : Nat) (a : DWord) (c' t' : Nat) (pc : DWord) :
    (s.wantLine c t a).codeLine c' t' pc = s.codeLine c' t' pc := by
  have hic : ((s.wantLine c t a).core c').icache = (s.core c').icache := by
    unfold State.wantLine
    rw [core_modCore]
    split
    next h => rw [h]; split <;> rfl
    next => rfl
  unfold State.codeLine
  rw [hic]
  rfl

theorem codeLine_enterHeader (s : State) (c t : Nat) (m : Mask) (n : Nat) {addr w : DWord} (hok : (Header.ofWord w).ok = true)
    (hc : (Header.ofWord w).conv = false) (c' t' : Nat) (pc : DWord) :
    (s.enterHeader c t m n addr w).codeLine c' t' pc = s.codeLine c' t' pc := by
  have hin : ∀ f g, ((s.modThreads c t m f).modWave c t g).codeLine c' t' pc = s.codeLine c' t' pc := fun f g =>
    (codeLine_modWave _ _ _ _ _ _ _).trans (codeLine_modThreads _ _ _ _ _ _ _ _)
  simp only [State.enterHeader, hok, hc, Bool.not_true, Bool.false_eq_true, if_false]
  split
  · exact hin _ _
  · split
    · exact hin _ _
    · exact (codeLine_wantLine _ _ _ _ _ _ _).trans (hin _ _)

theorem codeLine_depart (s : State) (m : Mask) (call : Bool) {dest word : DWord} (hok : (Header.ofWord word).ok = true)
    (hc : (Header.ofWord word).conv = false) (c t : Nat) (pc : DWord) :
    (s.depart m call none dest word).codeLine c t pc = s.codeLine c t pc := by
  have hgo : ∀ u : State, (u.goTo m call dest word false).codeLine c t pc = u.codeLine c t pc := fun u =>
    (codeLine_enterHeader _ _ _ _ _ hok hc _ _ _).trans (codeLine_moveLanes _ _ _ _ _ _ _)
  exact (codeLine_modWave _ _ _ _ _ _ _).trans ((hgo _).trans (codeLine_modThreads _ _ _ _ _ _ _ _))

/-- R180: what a division does to the table. -/
theorem divide_cases (w : Wave) (hdr : DWord) (recon : BitVec 16) (m : Mask) :
    let ra := caAdd hdr (8 * recon.toInt)
    let kept := ∃ p ∈ w.recon, p.2.raddr = ra ∧ p.2.rlo = hdr ∧ p.2.members &&& m = m
    (recon = 0 ∨ kept → w.divide hdr recon m = w) ∧
    (∀ i < 8, recon ≠ 0 → ¬kept → (∀ p ∈ w.recon, p.1 ≠ i) → (∀ j < i, ∃ p ∈ w.recon, p.1 = j) →
      w.divide hdr recon m = { w with recon := insK w.recon i { raddr := ra, rlo := hdr, members := m, arrived := 0 } }) ∧
    (recon ≠ 0 → ¬kept → (∀ j < 8, ∃ p ∈ w.recon, p.1 = j) → w.divide hdr recon m = { w with rtovf := Nat.min 65535 (w.rtovf + 1) }) := by
  intro ra kept
  have hkept : (w.recon.any fun p => p.2.raddr == ra && p.2.rlo == hdr && (p.2.members &&& m) == m) = true ↔ kept := by
    simp only [List.any_eq_true, Bool.and_eq_true, beq_iff_eq, and_assoc]
    rfl
  have hused : ∀ i, (!(w.recon.any fun p => p.1 == i)) = true ↔ ∀ p ∈ w.recon, p.1 ≠ i := fun i => by
    simp only [Bool.not_eq_true', List.any_eq_false, beq_iff_eq]
  unfold Wave.divide
  refine ⟨fun h => ?_, fun i hi h0 hk hfree hlow => ?_, fun h0 hk hfull => ?_⟩
  · split
    · rfl
    next h0 => exact if_pos (hkept.2 (h.resolve_left h0))
  · have hfind : (List.range 8).find? (fun i => !(w.recon.any fun p => p.1 == i)) = some i := by
      rw [List.find?_range_eq_some]
      refine ⟨(hused i).2 hfree, List.mem_range.2 hi, fun j hj => ?_⟩
      obtain ⟨p, hp, rfl⟩ := hlow j hj
      simpa using ⟨p.2, hp⟩
    rw [if_neg h0]
    refine (if_neg (mt hkept.1 hk)).trans ?_
    rw [hfind]
  · have hfind : (List.range 8).find? (fun i => !(w.recon.any fun p => p.1 == i)) = none := by
      rw [List.find?_eq_none]
      intro j hj
      obtain ⟨p, hp, rfl⟩ := hfull j (List.mem_range.1 hj)
      simpa using ⟨p.2, hp⟩
    rw [if_neg h0]
    refine (if_neg (mt hkept.1 hk)).trans ?_
    rw [hfind]

/-- The lanes of a path that do not transfer. -/
theorem mem_staying {m act : Mask} {p : Nat → Bool} {l : Nat} :
    l ∈ (Mask.ofLanes ((m &&& ~~~act).lanes.filter p)).lanes ↔ (l ∈ m.lanes ∧ l ∉ act.lanes) ∧ p l = true := by
  rw [mem_ofLanes_filter]
  simp only [mem_lanes, BitVec.getLsbD_and, BitVec.getLsbD_not, Bool.and_eq_true, Bool.not_eq_true', decide_eq_true_eq]
  constructor
  · rintro ⟨⟨hl, hm, -, ha⟩, hp⟩; exact ⟨⟨⟨hl, hm⟩, fun h => by rw [h.2] at ha; cases ha⟩, hp⟩
  · rintro ⟨⟨⟨hl, hm⟩, ha⟩, hp⟩; exact ⟨⟨hl, hm, hl, by simpa [hl] using ha⟩, hp⟩

theorem mask_ext {m m' : Mask} (h : ∀ l, l ∈ m.lanes ↔ l ∈ m'.lanes) : m = m' := by
  refine BitVec.eq_of_getLsbD_eq fun i hi => ?_
  have := h i
  simp only [mem_lanes, hi, true_and] at this
  rw [Bool.eq_iff_iff]
  exact this

theorem mem_lanes_or {m m' : Mask} {l : Nat} : l ∈ (m ||| m').lanes ↔ l ∈ m.lanes ∨ l ∈ m'.lanes := by
  simp only [mem_lanes, BitVec.getLsbD_or, Bool.or_eq_true, and_or_left]

/-- R178, R180: some lanes go to a header, the others fall through to another: the path divides. -/
theorem transfer_divides {s0 s : State} {indirect call : Bool} {ls : List Nat} {dest word : DWord} {ln : ILine}
    (hls : ls ≠ []) (hstay : (s.cur.lanes.lanes.filter fun l => !ls.contains l) ≠ []) (hne : dest ≠ s.cur.nextPc)
    (hla2 : (s.curThread (s.cur.lanes.lanes.headD 0)).la2 = false)
    (hok : ∀ l ∈ ls, l ∈ s.cur.lanes.lanes ∧ s.checkTarget s.cur.core s.cur.turn l indirect dest = .ok word false)
    (hhok : (Header.ofWord word).ok = true) (hhconv : (Header.ofWord word).conv = false)
    (hready : ∀ l ∈ s.cur.lanes.lanes.filter (fun l => !ls.contains l),
      (s.curThread l).status = .ready ∧ (s.curThread l).repCnt = 0 ∧ (s.curThread l).atEnd s.cur = true)
    (hcode : s.codeLine s.cur.core s.cur.turn s.cur.nextPc = some ln) (hln2 : ln.la2 = false) (hhdr : isHeader (ln.at s.cur.nextPc) = true)
    (hnok : (Header.ofWord (ln.at s.cur.nextPc)).ok = true) (hnconv : (Header.ofWord (ln.at s.cur.nextPc)).conv = false) :
    let t := transfer s0 s (Mask.ofLanes ls) indirect call none (ls.map fun l => (l, dest))
    let w := (s.wave s.cur.core s.cur.turn).divide (s.curThread (s.cur.lanes.lanes.headD 0)).hdr
      ((s.curThread (s.cur.lanes.lanes.headD 0)).hdrW.extractLsb' 28 16) s.cur.lanes
    Keeps s t ∧ Wave.Shrunk [dest, caAdd dest 8, s.cur.nextPc, caAdd s.cur.nextPc 8] w (t.wave s.cur.core s.cur.turn) ∧
    (∀ l ∈ ls, (t.curThread l).pc = caAdd dest 8 ∧ (t.curThread l).hdr = dest ∧ (t.curThread l).hdrW = word) ∧
    ∀ l ∈ s.cur.lanes.lanes.filter (fun l => !ls.contains l),
      (t.curThread l).pc = caAdd s.cur.nextPc 8 ∧ (t.curThread l).hdr = s.cur.nextPc ∧ (t.curThread l).hdrW = ln.at s.cur.nextPc := by
  intro t w
  have hmem : ∀ l, l ∈ (Mask.ofLanes ls).lanes ↔ l ∈ ls := fun l => by
    rw [mem_lanes_ofLanes]
    exact ⟨fun h => h.2, fun h => ⟨((mem_lanes _ _).1 (hok l h).1).1, h⟩⟩
  obtain ⟨st, hst⟩ : ∃ st, Mask.ofLanes ((s.cur.lanes &&& ~~~(Mask.ofLanes ls)).lanes.filter fun l => (s.curThread l).status == .ready) = st := ⟨_, rfl⟩
  have hmst : ∀ l, l ∈ st.lanes ↔ l ∈ s.cur.lanes.lanes.filter fun l => !ls.contains l := fun l => by
    rw [← hst, mem_staying, hmem]
    constructor
    · rintro ⟨⟨hp, hl⟩, -⟩; exact List.mem_filter.2 ⟨hp, by simpa using hl⟩
    · intro h
      obtain ⟨hp, hl⟩ := List.mem_filter.1 h
      exact ⟨⟨hp, by simpa using hl⟩, beq_iff_eq.2 (hready l h).1⟩
  have hstne : st ≠ 0 := fun h => by
    obtain ⟨l, hl⟩ := List.exists_mem_of_ne_nil _ hstay
    have := (hmst l).2 hl
    rw [h, lanes_zero] at this
    exact List.not_mem_nil this
  have hmne : Mask.ofLanes ls ≠ 0 := fun h => by
    obtain ⟨l, hl⟩ := List.exists_mem_of_ne_nil _ hls
    have := (hmem l).2 hl
    rw [h, lanes_zero] at this
    exact List.not_mem_nil this
  have hall : Mask.ofLanes ls ||| st = s.cur.lanes := mask_ext fun l => by
    rw [mem_lanes_or, hmem, hmst, List.mem_filter]
    by_cases hl : l ∈ ls
    · simp [hl, (hok l hl).1]
    · simp [hl]
  have ht : t = ((s.divided (Mask.ofLanes ls ||| st) [dest, s.cur.nextPc]).depart (Mask.ofLanes ls) call none dest word).advance st := by
    show transfer s0 s (Mask.ofLanes ls) indirect call (Option.map Operand.reg none) (ls.map fun l => (l, dest)) = _
    rw [transfer_ok hls (fun l hl => (hok l hl).2) hmne hst, if_neg hstne]
  obtain ⟨u, hu⟩ : ∃ u, s.divided (Mask.ofLanes ls ||| st) [dest, s.cur.nextPc] = u := ⟨_, rfl⟩
  have hku : Keeps s u := hu ▸ keeps_divided _ _ _
  have huth : ∀ l, u.curThread l = s.curThread l := fun l => by rw [State.curThread, hku.cur, ← hu, thread_divided]; rfl
  have huw : u.wave s.cur.core s.cur.turn = w := by
    rw [← hu, hall, State.divided, hla2, if_pos]
    · rw [State.modCurWave, wave_modWave, if_pos ⟨rfl, rfl⟩]
      rfl
    · simp [List.eraseDups_cons, hne.symm]
  obtain ⟨v, hv⟩ : ∃ v, u.depart (Mask.ofLanes ls) call none dest word = v := ⟨_, rfl⟩
  have hkv : Keeps u v := hv ▸ keeps_depart u _ call none dest word
  have hvcur : v.cur = s.cur := hkv.cur.trans hku.cur
  have hvth : ∀ l, v.curThread l = if l ∈ ls then { u.curThread l with wait := .none, walked := [], pc := caAdd dest 8, hdr := dest, hdrW := word, la2 := false }
      else s.curThread l := fun l => by
    rw [State.curThread, hkv.cur, ← hv, thread_depart u _ call none hhok hhconv]
    simp only [hmem]
    rw [← huth]
    rfl
  have hvother : ∀ l ∈ st.lanes, v.curThread l = s.curThread l := fun l hl => by
    have := (List.mem_filter.1 ((hmst l).1 hl)).2
    rw [hvth, if_neg (by simpa using this)]
  have hadv : ∀ j ∈ st.lanes, (v.curThread j).repCnt.toNat ≤ 1 ∧ (v.curThread j).atEnd v.cur = true := fun j hj => by
    obtain ⟨-, hrep, hend⟩ := hready j ((hmst j).1 hj)
    rw [hvother j hj, hvcur, hrep]
    exact ⟨by decide, hend⟩
  have hvcode : v.codeLine v.cur.core v.cur.turn v.cur.nextPc = some ln := by
    rw [hvcur, ← hv, codeLine_depart u _ call hhok hhconv, ← hu]
    refine Eq.trans ?_ hcode
    unfold State.divided
    extract_lets th
    split
    · exact codeLine_modWave _ _ _ _ _ _ _
    · rfl
  have htv : t = v.advance st := by rw [ht, hu, hv]
  have hcurt : ∀ l, (v.advance st).curThread l = t.curThread l := fun l => by rw [htv]
  have hmove : ∀ l, (l ∈ st.lanes → (t.curThread l).pc = caAdd s.cur.nextPc 8 ∧ (t.curThread l).hdr = s.cur.nextPc ∧
      (t.curThread l).hdrW = ln.at s.cur.nextPc) ∧ (l ∉ st.lanes → t.curThread l = v.curThread l) := fun l => by
    have h := thread_advance_header hadv hstne hvcode hln2 (by rw [hvcur]; exact hhdr) (by rw [hvcur]; exact hnok) (by rw [hvcur]; exact hnconv) l
    rw [hvcur, hcurt] at h
    exact h
  refine ⟨?_, ?_, fun l hl => ?_, fun l hl => (hmove l).1 ((hmst l).2 hl)⟩
  · rw [htv]
    exact (hku.trans hkv).trans (keeps_advance _ _)
  · have h1 : State.Shrunk [dest, caAdd dest 8, s.cur.nextPc, caAdd s.cur.nextPc 8] u v :=
      hv ▸ shrunk_depart u _ call hhok hhconv (.head _) (.tail _ (.head _))
    have h2 : State.Shrunk [dest, caAdd dest 8, s.cur.nextPc, caAdd s.cur.nextPc 8] v (v.advance st) := by
      refine shrunk_advance_header hadv hstne hvcode hln2 ?_ ?_ ?_ ?_ ?_ <;> rw [hvcur]
      · exact hhdr
      · exact hnok
      · exact hnconv
      · exact .tail _ (.tail _ (.head _))
      · exact .tail _ (.tail _ (.tail _ (.head _)))
    have h := (h1.trans h2).2
    rwa [hku.cur, huw, ← htv] at h
  · have hout : l ∉ st.lanes := fun h => by
      have := (List.mem_filter.1 ((hmst l).1 h)).2
      simp [hl] at this
    rw [(hmove l).2 hout, hvth, if_pos hl]
    exact ⟨rfl, rfl, rfl⟩

/-- R130, R178: the whole path goes to one header. -/
theorem transfer_whole {s0 s : State} {indirect call : Bool} {link : Option Nat} {ls : List Nat} {dest word : DWord} (hls : ls ≠ [])
    (hlt : ∀ l ∈ ls, l < 32)
    (hok : ∀ l ∈ ls, s.checkTarget s.cur.core s.cur.turn l indirect dest = .ok word false)
    (hhok : (Header.ofWord word).ok = true) (hhconv : (Header.ofWord word).conv = false) :
    let t := transfer s0 s s.cur.lanes indirect call (link.map .reg) (ls.map fun l => (l, dest))
    SameMemory s t ∧
    ∀ l ∈ ls,
      (t.curThread l).pc = caAdd dest 8 ∧ (t.curThread l).hdr = dest ∧ (t.curThread l).hdrW = word ∧
      (t.curThread l).status = (s.curThread l).status ∧
      (link = none → (t.curThread l).held = (s.curThread l).held) ∧
      (∀ r, link = some r → (t.curThread l).reg r = s.cur.nextPc.extractLsb' 0 32 ∧ (t.curThread l).reg (r + 1) = s.cur.nextPc.extractLsb' 32 32 ∧
        ∀ x, x ≠ r → x ≠ r + 1 → (t.curThread l).reg x = (s.curThread l).reg x) := by
  intro t
  have hmem : ∀ l ∈ ls, l ∈ (Mask.ofLanes ls).lanes := fun l hl => (mem_lanes_ofLanes _ _).2 ⟨hlt l hl, hl⟩
  have hmne : Mask.ofLanes ls ≠ 0 := fun h => by
    obtain ⟨l, hl⟩ := List.exists_mem_of_ne_nil _ hls
    have := hmem l hl
    rw [h, lanes_zero] at this
    exact List.not_mem_nil this
  have hst : Mask.ofLanes ((s.cur.lanes &&& ~~~s.cur.lanes).lanes.filter fun l => (s.curThread l).status == .ready) = 0 :=
    mask_eq_zero _ (List.eq_nil_iff_forall_not_mem.2 fun l hl => (mem_staying.1 hl).1.2 (mem_staying.1 hl).1.1)
  have ht : t = s.depart (Mask.ofLanes ls) call link dest word := by
    show transfer s0 s s.cur.lanes indirect call (link.map .reg) (ls.map fun l => (l, dest)) = _
    rw [transfer_ok hls hok hmne hst, if_pos rfl]
    rfl
  have hcur : t.cur = s.cur := by rw [ht, (keeps_depart _ _ _ _ _ _).cur, cur_linkTo]
  have hth : ∀ l ∈ ls, t.curThread l =
      { (s.linkTo (Mask.ofLanes ls) link).curThread l with wait := .none, walked := [], pc := caAdd dest 8, hdr := dest, hdrW := word, la2 := false } :=
    fun l hl => by rw [State.curThread, hcur, ht, thread_depart s _ call link hhok hhconv, if_pos (hmem l hl)]
  have hlink : ∀ r, ∀ l ∈ ls, (s.linkTo (Mask.ofLanes ls) (some r)).curThread l = (s.curThread l).setRegs r [loOf s.cur.nextPc, hiOf s.cur.nextPc] :=
    fun r l hl => by
      show (s.modThreads s.cur.core s.cur.turn (Mask.ofLanes ls) _).thread s.cur.core s.cur.turn l = _
      rw [thread_modThreads, if_pos ⟨rfl, rfl, hmem l hl⟩]
      rfl
  refine ⟨ht ▸ (memory_linkTo _ _ _).trans (keeps_depart _ _ _ _ _ _).memory, fun l hl => ?_⟩
  rw [hth l hl]
  refine ⟨rfl, rfl, rfl, ?_, ?_, ?_⟩
  · cases link with
    | none => rfl
    | some r => exact (congrArg Thread.status (hlink r l hl)).trans (setRegs_kept _ _ _).2.2.2.1
  · rintro rfl
    rfl
  · rintro r rfl
    have hreg : ∀ x, ((s.linkTo (Mask.ofLanes ls) (some r)).curThread l).reg x =
        if r ≤ x ∧ x < r + 2 then [loOf s.cur.nextPc, hiOf s.cur.nextPc].getD (x - r) 0 else (s.curThread l).reg x := fun x => by
      rw [hlink r l hl, reg_setRegs]
      rfl
    refine ⟨(hreg r).trans ?_, (hreg (r + 1)).trans ?_, fun x h1 h2 => (hreg x).trans (if_neg (by omega))⟩
    · rw [if_pos (by omega), Nat.sub_self]
      rfl
    · rw [if_pos (by omega), Nat.add_sub_cancel_left]
      rfl

/-- Settles O26: the table divides as R180 says; then each group of lanes goes its way. -/
theorem transferMovesThePath : Obligations.TransferMovesThePath := by
  unfold Obligations.TransferMovesThePath
  refine ⟨divide_cases, ?_, ?_⟩
  · intro s0 s indirect call ls dest word ln stay next th hls hstay hne hla2 hok hhok hhconv hready hcode hln2 hhdr hnok hnconv
    obtain ⟨hkeeps, hshrunk, hgone, hstayed⟩ :=
      transfer_divides (s0 := s0) (indirect := indirect) (call := call) hls hstay hne hla2 hok hhok hhconv hready hcode hln2 hhdr hnok hnconv
    exact ⟨hkeeps.memory, hkeeps.held, hshrunk.1, hgone, hstayed, hshrunk.entries⟩
  · intro s0 s indirect call link ls dest word hls hlt _ hok hhok hhconv
    exact transfer_whole hls hlt hok hhok hhconv

end Sys2Proof.Machine

namespace Sys2Proof.Machine

/-! ## Bytes at a home (R11, R307, R371) -/

theorem length_kept (s : State) (a : Nat) (bs : List Byte) : (s.kept a bs).length = bs.length := by
  unfold State.kept
  split <;> simp

/-- R271, R307: no byte of a core's slice is a trap record's. -/
theorem roByte_low (s : State) {a : Nat} (h : a < 2 ^ 29) : s.roByte a = false := by
  have hbit : bitsN a 29 29 = 0 := by
    simp only [bitsN, Nat.div_eq_of_lt h, Nat.zero_mod]
  have hname : ∀ cl off, flatName a ≠ .serai cl off := fun cl off => by
    unfold flatName
    rw [if_neg (by omega)]
    extract_lets x
    rw [if_pos hbit]
    split <;> exact fun h => nomatch h
  unfold State.roByte
  split
  next cl off h => exact absurd h (hname cl off)
  next => rfl

theorem getD_kept (s : State) (a : Nat) (bs : List Byte) {i : Nat} (hi : i < bs.length) :
    (s.kept a bs).getD i 0 = if s.roByte (a + i) then s.sramByte (a + i) else bs.getD i 0 := by
  unfold State.kept
  split
  next h => rw [roByte_low s (by omega)]; rfl
  next => simp [List.getD_eq_getElem?_getD, hi, State.sramByte]

/-- LOG 34: a write at a flat address leaves the bytes that software only reads, and every byte beside it. -/
theorem sramByte_wrHome (s : State) (a : Nat) (bs : List Byte) (k : Nat) :
    (s.wrHome (.sram a) bs).sramByte k = if a ≤ k ∧ k < a + bs.length ∧ s.roByte k = false then bs.getD (k - a) 0 else s.sramByte k := by
  refine (getK_putBytes _ _ _ _).trans ?_
  rw [length_kept]
  by_cases h : a ≤ k ∧ k < a + bs.length
  · have hi : k - a < bs.length := by omega
    have hk : a + (k - a) = k := by omega
    rw [if_pos h, getD_kept s a bs hi, hk]
    cases s.roByte k with
    | true => rw [if_pos rfl, if_neg (by simp)]
    | false => rw [if_neg Bool.false_ne_true, if_pos ⟨h.1, h.2, rfl⟩]
  · rw [if_neg h, if_neg fun h' => h ⟨h'.1, h'.2.1⟩]
    rfl

theorem getD_bytesOf {n i : Nat} (v : Nat) (h : i < n) : (bytesOf n v).getD i 0 = BitVec.ofNat 8 (v / 256 ^ i) := by
  induction n generalizing v i with
  | zero => omega
  | succ n ih =>
    cases i with
    | zero => rw [bytesOf, List.getD_cons_zero, Nat.pow_zero, Nat.div_one]
    | succ i => rw [bytesOf, List.getD_cons_succ, ih _ (by omega), Nat.div_div_eq_div_mul, Nat.pow_succ, Nat.mul_comm]

/-- What a number's bytes leave at an address. -/
theorem sramByte_wrHome_bytesOf (s : State) (a n v k : Nat) : (s.wrHome (.sram a) (bytesOf n v)).sramByte k =
    if a ≤ k ∧ k < a + n ∧ s.roByte k = false then BitVec.ofNat 8 (v / 256 ^ (k - a)) else s.sramByte k := by
  rw [sramByte_wrHome, length_bytesOf]
  split
  next h => exact getD_bytesOf _ (by omega)
  next => rfl

/-! ## What the issue of a store leaves (R208, R373, R383, R387) -/

/-- From `s` to `t` only bytes and tags of core storage, accesses in flight and the times of writes have changed. -/
structure StoreFrame (s t : State) : Prop where
  cur : t.cur = s.cur
  crs : t.crs = s.crs
  cls : t.cls = s.cls
  hbm : t.hbm = s.hbm
  hbmTag : t.hbmTag = s.hbmTag
  wf : s.memWf = true → t.memWf = true
  waves : ∀ c, (t.core c).queues = (s.core c).queues ∧ (t.core c).banks = (s.core c).banks ∧
    ∀ u, (t.wave c u).satf = (s.wave c u).satf ∧ (t.wave c u).walkers = (s.wave c u).walkers
  threads : ∀ c u j, (t.thread c u j).regs = (s.thread c u j).regs ∧ (t.thread c u j).empty = (s.thread c u j).empty ∧
    (t.thread c u j).preds = (s.thread c u j).preds ∧ (t.thread c u j).batches = (s.thread c u j).batches

theorem StoreFrame.trans {s t u : State} (h : StoreFrame s t) (h' : StoreFrame t u) : StoreFrame s u where
  cur := h'.cur.trans h.cur
  crs := h'.crs.trans h.crs
  cls := h'.cls.trans h.cls
  hbm := h'.hbm.trans h.hbm
  hbmTag := h'.hbmTag.trans h.hbmTag
  wf := fun hw => h'.wf (h.wf hw)
  waves := fun c => by
    obtain ⟨a, b, d⟩ := h.waves c
    obtain ⟨a', b', d'⟩ := h'.waves c
    exact ⟨a'.trans a, b'.trans b, fun u => ⟨(d' u).1.trans (d u).1, (d' u).2.trans (d u).2⟩⟩
  threads := fun c u j => by
    obtain ⟨a, b, d, e⟩ := h.threads c u j
    obtain ⟨a', b', d', e'⟩ := h'.threads c u j
    exact ⟨a'.trans a, b'.trans b, d'.trans d, e'.trans e⟩

theorem StoreFrame.of_eq {s t : State} (h1 : t.cur = s.cur) (h2 : t.crs = s.crs) (h3 : t.cls = s.cls) (h4 : t.hbm = s.hbm) (h5 : t.hbmTag = s.hbmTag)
    (h6 : t.cores = s.cores) (h7 : s.memWf = true → t.memWf = true) : StoreFrame s t where
  cur := h1
  crs := h2
  cls := h3
  hbm := h4
  hbmTag := h5
  wf := h7
  waves := fun c => by simp [State.wave, State.core, h6]
  threads := fun c u j => by rw [thread_of_cores h6]; exact ⟨rfl, rfl, rfl, rfl⟩

theorem storeFrame_wrHome (s : State) (a : Nat) (bs : List Byte) : StoreFrame s (s.wrHome (.sram a) bs) :=
  .of_eq rfl rfl rfl rfl rfl rfl fun h => by
    simp only [State.memWf, Bool.and_eq_true] at h ⊢
    exact wrHome_wf s _ bs h.1 h.2

theorem storeFrame_horizon (s : State) (l : Nat) (v : Lease) : StoreFrame s (s.modLane l fun t => t.horizon v) where
  cur := rfl
  crs := rfl
  cls := rfl
  hbm := rfl
  hbmTag := rfl
  wf := id
  waves := fun c => by
    refine ⟨?_, ?_, fun u => ?_⟩
    · rw [State.modLane, State.modThread, State.modWave, core_modCore]
      split
      next h => rw [h]; rfl
      next => rfl
    · rw [State.modLane, State.modThread, State.modWave, core_modCore]
      split
      next h => rw [h]; rfl
      next => rfl
    · rw [State.modLane, State.modThread, wave_modWave]
      split
      next h => rw [h.1, h.2]; exact ⟨rfl, rfl⟩
      next => exact ⟨rfl, rfl⟩
  threads := fun c u j => by
    rw [State.modLane, thread_modThread]
    split
    next h => rw [h.1, h.2.1, h.2.2]; exact ⟨rfl, rfl, rfl, rfl⟩
    next => exact ⟨rfl, rfl, rfl, rfl⟩

theorem own_sram {c : Nat} {p : Place} (h : isOwn c p = true) : ∃ a, p = .sram a := by
  cases p with
  | sram a => exact ⟨a, rfl⟩
  | hbm d => exact Bool.noConfusion h
  | far b o d a => exact Bool.noConfusion h

/-- An access in flight of a lane of the issuing path. -/
def State.storeOf (s : State) (l : Nat) (p : Place) (size data : Nat) (kind : StoreKind) (acq : Bool) (x : Nat × Nat × Bool) : PStore :=
  { core := s.cur.core, turn := s.cur.turn, lane := l, uid := (s.wave s.cur.core s.cur.turn).uid, place := p, size, data, kind, acq,
    cyc := (s.core s.cur.core).cyc, bti := x.1, off := x.2.1, flat := x.2.2, pc := s.cur.pc, word := s.cur.word }

/-- What a store remembers of the address it was issued with. -/
def storeRef : Option (Nat × Nat) → Place → Nat × Nat × Bool
  | some (b, o), _ => (b, o, false)
  | none, .sram a => (0, a, true)
  | none, _ => (0, 0, true)

/-- R373, R383: elsewhere than in the own slice the store is in flight, one of 16 bytes as two of 8. -/
theorem issueStore_away {s : State} {p : Place} (h : isOwn s.cur.core p = false) (l size data : Nat) (kind : StoreKind) (acq : Bool)
    (o : Option (Nat × Nat)) : s.issueStore l p size data kind acq o =
      let x := storeRef o p
      if size ≠ 16 then { s with nextId := s.nextId + 1, stores := insK s.stores s.nextId (s.storeOf l p size data kind acq x) }
      else { s with
        nextId := s.nextId + 1 + 1
        stores := insK (insK s.stores s.nextId { s.storeOf l p 8 (data % 2 ^ 64) kind acq x with pair := some (s.nextId + 1) }) (s.nextId + 1)
          { s.storeOf l (p.add 8) 8 (data / 2 ^ 64) kind acq x with pair := some s.nextId } } := by
  unfold State.issueStore
  refine (if_neg (ne_true_of_eq_false h)).trans ?_
  cases o <;> cases p <;> rfl

/-- The state once one half, number `i`, of a 16-byte store to the own slice has performed (R208, R373). -/
def State.halfStored (s : State) (l a data i : Nat) : State :=
  ({ s with fresh := s.fresh + 1 }.wrHome (.sram (a + 8 * i)) (bytesOf 8 (data / 2 ^ (64 * i) % 2 ^ 64))).modLane l fun t => t.horizon (s.visTime (.sram a))

theorem issueStore_own16 {s : State} {a : Nat} (h : isOwn s.cur.core (.sram a) = true) (l data : Nat) (acq : Bool) (o : Option (Nat × Nat)) :
    ∃ i < 2, s.issueStore l (.sram a) 16 data .data acq o = { s.halfStored l a data i with
      nextId := s.nextId + 1
      stores := insK s.stores s.nextId
        ((s.halfStored l a data i).storeOf l (.sram (a + 8 * (1 - i))) 8 (data / 2 ^ (64 * (1 - i)) % 2 ^ 64) .data acq (0, 0, true)) } := by
  refine ⟨if Config.freeBit s.fresh then 1 else 0, by split <;> decide, ?_⟩
  unfold State.issueStore
  exact (if_pos h).trans (if_neg fun hne => hne rfl)

theorem issueStore_own_data {s : State} {a size : Nat} (h : isOwn s.cur.core (.sram a) = true) (hs : size ≠ 16) (l data : Nat) (acq : Bool)
    (o : Option (Nat × Nat)) : s.issueStore l (.sram a) size data .data acq o =
      (s.wrHome (.sram a) (bytesOf size data)).modLane l fun t => t.horizon (s.visTime (.sram a)) := by
  unfold State.issueStore
  exact (if_pos h).trans (if_pos hs)

theorem issueStore_own_tag {s : State} {a : Nat} (h : isOwn s.cur.core (.sram a) = true) (l size data : Nat) (acq : Bool)
    (o : Option (Nat × Nat)) : s.issueStore l (.sram a) size data .tag acq o =
      (s.setTag (.sram a) (BitVec.ofNat 16 data)).modLane l fun t => t.horizon (s.visTime (.sram a)) := by
  unfold State.issueStore
  exact if_pos h

/-- What an atomic leaves once it has performed: its producer's words, and the time of its write (R382, R383). -/
def atomDone (l prod : Nat) (v : Lease) (x : Nat × Bool × State) : State :=
  ({ x.2.2 with prods := match findK x.2.2.prods prod with
    | some q => insK x.2.2.prods prod { q with src := .vals (wordsOf 2 x.1) }
    | none => x.2.2.prods } : State).modLane l fun t => t.horizon (if x.2.1 then v else x.2.2.lease)

theorem issueStore_own_atom {s : State} {a : Nat} (h : isOwn s.cur.core (.sram a) = true) (l size data : Nat) (acq : Bool)
    (o : Option (Nat × Nat)) (op : BitVec 4) (w64 : Bool) (o1 o2 : DWord) (prod : Nat) :
    s.issueStore l (.sram a) size data (.atom op w64 o1 o2 prod) acq o =
      atomDone l prod (s.visTime (.sram a)) (s.performAtom (.sram a) op w64 o1 o2) := by
  unfold State.issueStore
  exact if_pos h

/-- R386: an atomic on core storage. -/
theorem performAtom_sram (s : State) (a : Nat) (op : BitVec 4) (w64 : Bool) (o1 o2 : DWord) :
    let n := if w64 then 8 else 4
    let old := natOfBytes (s.rdSram a n)
    s.performAtom (.sram a) op w64 o1 o2 = match atomNew op (8 * n) old (o1.toNat % 2 ^ (8 * n)) (o2.toNat % 2 ^ (8 * n)) with
      | some v => (old, true, s.wrHome (.sram a) (bytesOf n v))
      | none => (old, false, s) := rfl

theorem storeFrame_performAtom (s : State) (a : Nat) (op : BitVec 4) (w64 : Bool) (o1 o2 : DWord) :
    StoreFrame s (s.performAtom (.sram a) op w64 o1 o2).2.2 := by
  rw [performAtom_sram]
  split
  · exact storeFrame_wrHome _ _ _
  · exact .of_eq rfl rfl rfl rfl rfl rfl id

theorem storeFrame_atomDone (l prod : Nat) (v : Lease) (x : Nat × Bool × State) : StoreFrame x.2.2 (atomDone l prod v x) := by
  unfold atomDone
  refine StoreFrame.trans ?_ (storeFrame_horizon _ l _)
  exact .of_eq rfl rfl rfl rfl rfl rfl id

theorem prods_atomDone (l : Nat) {prod : Nat} (v : Lease) {x : Nat × Bool × State} {q : Prod} (hq : findK x.2.2.prods prod = some q) :
    (atomDone l prod v x).prods = insK x.2.2.prods prod { q with src := .vals (wordsOf 2 x.1) } := by
  have h : (atomDone l prod v x).prods = match findK x.2.2.prods prod with
      | some q => insK x.2.2.prods prod { q with src := .vals (wordsOf 2 x.1) }
      | none => x.2.2.prods := rfl
  rw [h, hq]

/-- What the issue of a store never touches. -/
theorem storeFrame_issueStore (s : State) (l : Nat) (p : Place) (size data : Nat) (kind : StoreKind) (acq : Bool) (o : Option (Nat × Nat)) :
    StoreFrame s (s.issueStore l p size data kind acq o) := by
  cases h : isOwn s.cur.core p with
  | false =>
    rw [issueStore_away h]
    extract_lets x
    split <;> exact .of_eq rfl rfl rfl rfl rfl rfl id
  | true =>
    obtain ⟨a, rfl⟩ := own_sram h
    cases kind with
    | data =>
      by_cases hs : size = 16
      · subst hs
        obtain ⟨i, -, hi⟩ := issueStore_own16 h l data acq o
        rw [hi]
        refine StoreFrame.trans (t := s.halfStored l a data i) ?_ (.of_eq rfl rfl rfl rfl rfl rfl id)
        refine StoreFrame.trans ?_ (storeFrame_horizon _ l _)
        exact StoreFrame.trans (t := { s with fresh := s.fresh + 1 }) (.of_eq rfl rfl rfl rfl rfl rfl id) (storeFrame_wrHome _ _ _)
      · rw [issueStore_own_data h hs]
        exact (storeFrame_wrHome _ _ _).trans (storeFrame_horizon _ _ _)
    | tag =>
      rw [issueStore_own_tag h]
      refine StoreFrame.trans ?_ (storeFrame_horizon _ _ _)
      exact .of_eq rfl rfl rfl rfl rfl rfl id
    | atom op w64 o1 o2 prod =>
      rw [issueStore_own_atom h]
      exact (storeFrame_performAtom _ _ _ _ _ _).trans (storeFrame_atomDone _ _ _ _)

/-! ### Loads at issue (R382) -/

theorem issueLoad_own {s : State} {p : Place} (h : isOwn s.cur.core p = true) (l : Nat) (e : BitVec 512) (sz : BitVec 3) (k : LoadKind)
    (m : Option (Nat × Nat)) (dsts : List Nat) :
    (sz ≠ 6 ∨ k = .tag → ∃ q, (s.issueLoad l p e sz k m dsts).prods = insK s.prods s.nextId q ∧ q.lane = l ∧ q.dsts = dsts ∧
      q.src = .vals (if k = .tag then [(s.tagAt p).setWidth 32] else extend sz (s.rdHome p (sizeBytes sz)))) ∧
    (sz = 6 → k ≠ .tag → ∃ q a, (s.issueLoad l p e sz k m dsts).prods = insK s.prods s.nextId q ∧ q.lane = l ∧ q.dsts = dsts ∧ q.src = .load a ∧
      a.place = p ∧ ∃ i < 2, a.half = some (i, wordsOf 2 (natOfBytes (s.rdHome (p.add (8 * i)) 8)))) := by
  obtain ⟨a, rfl⟩ := own_sram h
  have htag : (if k == .plain && e.getLsbD 14 then LoadKind.na else k) = .tag ↔ k = .tag := by
    cases k <;> cases e.getLsbD 14 <;> decide
  unfold State.issueLoad
  extract_lets cl k'
  have hk : k' = .tag ↔ k = .tag := htag
  refine ⟨fun hsz => ?_, fun hsz hkt => ?_⟩
  · rw [if_pos ⟨h, by rw [hk]; exact hsz⟩]
    refine ⟨_, rfl, rfl, rfl, ?_⟩
    show ProdSrc.vals (if k' == .tag then [(s.tagAt (.sram a)).setWidth 32] else extend sz (s.rdHome (.sram a) (sizeBytes sz))) = _
    by_cases hkt : k = .tag
    · rw [if_pos hkt, if_pos (beq_iff_eq.2 (hk.2 hkt))]
    · rw [if_neg hkt, if_neg fun hb => hkt (hk.1 (beq_iff_eq.1 hb))]
  · rw [if_neg (by rw [hk]; rintro ⟨-, h1⟩; exact h1.elim (fun hne => hne hsz) hkt), if_pos h]
    cases m <;> exact ⟨_, _, rfl, rfl, rfl, rfl, rfl, if Config.freeBit s.fresh then 1 else 0, by split <;> decide, rfl⟩

theorem wh_horizon (s : State) (l : Nat) (v : Lease) : ((s.modLane l fun t => t.horizon v).curThread l).wh = Lease.later (s.curThread l).wh v := by
  rw [State.curThread, State.modLane, modThread_cur, thread_modThread, if_pos ⟨rfl, rfl, rfl⟩]
  rfl

theorem if_congr_val {α : Sort _} {p q : Prop} [Decidable p] [Decidable q] {a b c d : α} (h : p ↔ q) (hp : p → a = b) (hq : c = d) :
    (if p then a else c) = if q then b else d := by
  by_cases hc : p
  · rw [if_pos hc, if_pos (h.1 hc), hp hc]
  · rw [if_neg hc, if_neg (mt h.2 hc), hq]

/-- Byte j of half i of a number is its byte 8 i + j. -/
theorem byte_of_half (v i : Nat) {j : Nat} (hj : j < 8) :
    BitVec.ofNat 8 (v / 2 ^ (64 * i) % 2 ^ 64 / 256 ^ j) = BitVec.ofNat 8 (v / 256 ^ (8 * i + j)) := by
  have hpow : ∀ n, 256 ^ n = 2 ^ (8 * n) := fun n => (Nat.pow_mul 2 8 n).symm
  refine BitVec.eq_of_getLsbD_eq fun b hb => ?_
  have hlow : 8 * j + b < 64 := by omega
  have hsum : 64 * i + (8 * j + b) = 8 * (8 * i + j) + b := by omega
  simp only [BitVec.getLsbD_ofNat, hpow, Nat.testBit_div_two_pow, Nat.testBit_mod_two_pow, Nat.add_comm b, hlow, decide_true, Bool.true_and]
  rw [Nat.add_comm _ (64 * i), hsum]

/-- Settles O16: elsewhere the store is in flight; in the own slice each kind writes what it writes. -/
theorem issuedStores : Obligations.IssuedStores := by
  unfold Obligations.IssuedStores
  intro s l size data p kind acq o
  have hf := storeFrame_issueStore s l p size data kind acq o
  refine ⟨hf.cur, hf.crs, hf.wf, hf.threads, fun k => by rw [State.hbmByte, hf.hbm]; rfl, fun b => by rw [hf.hbmTag], fun h => ?_, fun e sz k m dsts h => issueLoad_own h _ _ _ _ _ _,
    ?_, ?_⟩
  · rw [issueStore_away h]
    extract_lets x
    refine ⟨?_, ?_, fun hs => ?_, fun hs => ?_⟩
    · split <;> exact .of_eq rfl rfl rfl rfl
    · split <;> exact fun _ _ _ => rfl
    · rw [if_pos hs]
      exact ⟨_, rfl, rfl, rfl, rfl, rfl, rfl, rfl, rfl, rfl, rfl, rfl⟩
    · rw [if_neg fun hne => hne hs]
      exact ⟨_, _, rfl, ⟨rfl, rfl, rfl, rfl, rfl, rfl, rfl, rfl, rfl, rfl⟩, rfl, rfl, rfl, rfl, rfl, rfl, rfl, rfl, rfl, rfl⟩
  · rintro a rfl h rfl rfl
    obtain ⟨i, hi, ht⟩ := issueStore_own16 h l data acq o
    rw [ht]
    refine ⟨wh_horizon _ _ _, fun b => rfl, i, hi, _, rfl, rfl, rfl, rfl, rfl, rfl, fun k => ?_⟩
    refine (sramByte_wrHome_bytesOf { s with fresh := s.fresh + 1 } (a + 8 * i) 8 _ k).trans ?_
    refine if_congr_val Iff.rfl (fun hk => ?_) rfl
    rw [byte_of_half _ _ (by omega)]
    congr 3
    omega
  · rintro a rfl h hk
    cases kind with
    | data =>
      rw [issueStore_own_data h (hk.resolve_left fun hne => hne rfl)]
      exact ⟨rfl, fun _ => ⟨fun _ => rfl, wh_horizon _ _ _, sramByte_wrHome_bytesOf s a size data⟩, fun hne => (nomatch hne), fun _ _ _ _ _ hne => (nomatch hne)⟩
    | tag =>
      rw [issueStore_own_tag h]
      exact ⟨rfl, fun hne => (nomatch hne), fun _ => ⟨fun _ => rfl, wh_horizon _ _ _, fun b => getK_putK _ _ _ _ _⟩, fun _ _ _ _ _ hne => (nomatch hne)⟩
    | atom op w64 o1 o2 prod =>
      rw [issueStore_own_atom h]
      refine ⟨?_, fun hne => (nomatch hne), fun hne => (nomatch hne), ?_⟩
      · show (s.performAtom (.sram a) op w64 o1 o2).2.2.stores = _
        rw [performAtom_sram]
        split <;> rfl
      · rintro op w64 o1 o2 prod hkind
        cases hkind
        refine ⟨fun b => ?_, fun k hk => ?_, fun v hv i hi => ?_, fun q hq => ?_⟩
        · show getK 0 (s.performAtom (.sram a) op w64 o1 o2).2.2.sramTag b = _
          rw [performAtom_sram]
          split <;> rfl
        · show (s.performAtom (.sram a) op w64 o1 o2).2.2.sramByte k = _
          rw [performAtom_sram]
          split
          · exact (sramByte_wrHome_bytesOf _ _ _ _ _).trans (if_neg fun h => hk.elim (fun h1 => by omega) fun h2 => by omega)
          · rfl
        · show (s.performAtom (.sram a) op w64 o1 o2).2.2.sramByte (a + i) = _
          rw [performAtom_sram, hv]
          refine (sramByte_wrHome_bytesOf _ _ _ _ _).trans ?_
          rw [Nat.add_sub_cancel_left]
          cases s.roByte (a + i) with
          | true => rw [if_pos rfl, if_neg (by simp)]
          | false => rw [if_neg Bool.false_ne_true, if_pos ⟨by omega, by omega, rfl⟩]
        · have hdone : (s.performAtom (.sram a) op w64 o1 o2).1 = natOfBytes (s.rdSram a (if w64 then 8 else 4)) ∧
              (s.performAtom (.sram a) op w64 o1 o2).2.2.prods = s.prods := by
            rw [performAtom_sram]
            split <;> exact ⟨rfl, rfl⟩
          rw [← hdone.2] at hq
          rw [prods_atomDone l _ hq, hdone.1, hdone.2]

end Sys2Proof.Machine

namespace Sys2Proof.Machine

/-! ## Accesses that only touch (R402, R416, R417) -/

@[simp] theorem findK_insK_same {α : Type} (m : List (Nat × α)) (k : Nat) (v : α) : findK (insK m k v) k = some v := by
  induction m with
  | nil => simp [insK, findK]
  | cons p t ih =>
    obtain ⟨k', v'⟩ := p
    simp only [insK]
    split
    · simp [findK]
    · split
      · simp [findK]
      next h => simp only [findK] at ih ⊢; simp [Ne.symm h, ih]

/-- From `s` to `t` nothing has changed that a program or the places of memory depend on: accesses in flight, row counters, events. -/
structure Touched (s t : State) : Prop where
  sram : t.sram = s.sram
  hbm : t.hbm = s.hbm
  sramTag : t.sramTag = s.sramTag
  hbmTag : t.hbmTag = s.hbmTag
  waves : ∀ c, (t.core c).waves = (s.core c).waves
  locate : ∀ da, t.locate da = s.locate da

theorem Touched.refl (s : State) : Touched s s := ⟨rfl, rfl, rfl, rfl, fun _ => rfl, fun _ => rfl⟩
theorem Touched.trans {s t u : State} (h : Touched s t) (h' : Touched t u) : Touched s u :=
  ⟨h'.sram.trans h.sram, h'.hbm.trans h.hbm, h'.sramTag.trans h.sramTag, h'.hbmTag.trans h.hbmTag, fun c => (h'.waves c).trans (h.waves c),
   fun da => (h'.locate da).trans (h.locate da)⟩

theorem locate_of_crs {s t : State} (h : ∀ g, g < 32 → t.cr 16 (nRGMODE g) = s.cr 16 (nRGMODE g) ∧ t.cr 16 (nHGSTATE g) = s.cr 16 (nHGSTATE g)) (da : Nat) :
    t.locate da = s.locate da := by
  have hg : bitsN da 38 34 < 32 := Nat.mod_lt _ (by decide)
  obtain ⟨h1, h2⟩ := h _ hg
  have hmode : t.rgMode (bitsN da 38 34) = s.rgMode (bitsN da 38 34) := by rw [State.rgMode, State.rgMode, h1]
  have hkey : ∀ u, t.unitKey (bitsN da 38 34) u = s.unitKey (bitsN da 38 34) u := fun u => by rw [State.unitKey, State.unitKey, h2]
  rw [State.locate, State.locate]
  dsimp only
  rw [hmode, hkey]

theorem Touched.of_eq {s t : State} (h1 : t.sram = s.sram) (h2 : t.hbm = s.hbm) (h3 : t.sramTag = s.sramTag) (h4 : t.hbmTag = s.hbmTag)
    (h5 : t.cores = s.cores) (h6 : t.crs = s.crs) : Touched s t :=
  ⟨h1, h2, h3, h4, fun c => by rw [State.core, State.core, h5], locate_of_crs fun _ _ => ⟨crT_of_crs h6 _ _ _, crT_of_crs h6 _ _ _⟩⟩

theorem crKey_package (num : Nat) : crKey 16 0 num = 16 * 2 ^ 32 + num := by
  unfold crKey crOwner
  dsimp only
  split <;> omega

/-- A count outside the registers that place blocks. -/
theorem touched_modCr (s : State) (cl : Nat) {num : Nat} (f : DWord → DWord)
    (h : ∀ g, g < 32 → crKey 16 0 (nRGMODE g) ≠ crKey cl 0 num ∧ crKey 16 0 (nHGSTATE g) ≠ crKey cl 0 num) : Touched s (s.modCr cl num f) :=
  ⟨rfl, rfl, rfl, rfl, fun _ => rfl, locate_of_crs fun g hg => ⟨getK_putK_of_ne _ _ _ _ (h g hg).1, getK_putK_of_ne _ _ _ _ (h g hg).2⟩⟩

theorem touched_count_stack (s : State) (k hi lo n : Nat) : Touched s (s.crCount 16 (nSTKSTAT k) hi lo n) :=
  touched_modCr s 16 _ fun g hg => by
    simp only [crKey_package, nRGMODE, nHGSTATE, nSTKSTAT, crNum]
    omega

theorem touched_modCr_throttle (s : State) (cl c : Nat) (f : DWord → DWord) : Touched s (s.modCr cl (nTHR (coreIndex c)) f) :=
  touched_modCr s cl f fun g hg => by
    have hc : coreIndex c < 128 := Nat.mod_lt _ (by decide)
    constructor <;> refine crKey_ne ?_ _ _ _ _ <;> simp only [nRGMODE, nHGSTATE, nTHR, crNum] <;> omega

theorem touched_throttleCore (s : State) (c : Nat) : Touched s (s.throttleCore c) := by
  unfold State.throttleCore
  refine Touched.trans ?_ ((touched_modCr_throttle _ _ c _).trans (touched_modCr_throttle _ _ c _))
  refine ⟨rfl, rfl, rfl, rfl, fun c' => ?_, fun _ => rfl⟩
  rw [core_modCore]
  split
  next h => rw [h]
  next => rfl

theorem touched_raise (s : State) (cl source kind : Nat) (p : List Word) : Touched s (s.raise cl source kind p) := .of_eq rfl rfl rfl rfl rfl rfl

theorem touched_ite {p : Prop} [Decidable p] {s t u : State} (h1 : Touched s t) (h2 : Touched s u) : Touched s (if p then t else u) := by
  split
  · exact h1
  · exact h2

theorem touched_activate (s : State) (loc : Nat) (origin : Option Nat) (mig : Bool) : Touched s (s.activate loc origin mig) := by
  unfold State.activate
  extract_lets b k row hb opened s1 key n s2 s3 thr s4
  have h1 : Touched s s1 := touched_ite (touched_count_stack _ _ _ _ _) (.refl _)
  have h2 : Touched s s2 := h1.trans (.of_eq rfl rfl rfl rfl rfl rfl)
  have h3 : Touched s s3 := h2.trans (touched_count_stack s2 k 47 32 1)
  have h4 : Touched s s4 := by
    have hthr : ∀ o : Option Nat, Touched s3 (match o with | some c => s3.throttleCore c | none => s3) := fun o => by
      cases o with
      | some c => exact touched_throttleCore _ _
      | none => exact .refl _
    exact h3.trans (hthr thr)
  refine touched_ite (.of_eq rfl rfl rfl rfl rfl rfl) (touched_ite (h1.trans (.of_eq rfl rfl rfl rfl rfl rfl)) (h4.trans (touched_raise _ _ _ _ _)))

theorem touched_suspect (s : State) (cl kind target : Nat) : Touched s (s.suspect cl kind target) := by
  unfold State.suspect
  extract_lets x
  exact touched_ite (.refl _) (.of_eq rfl rfl rfl rfl rfl rfl)

theorem touched_foundSoft (s : State) (loc : Nat) : Touched s (s.foundSoft loc) := by
  unfold State.foundSoft
  refine touched_ite (Touched.trans ?_ (touched_suspect _ _ _ _)) (.refl _)
  refine Touched.trans ?_ (touched_raise _ _ _ _ _)
  exact .of_eq rfl rfl rfl rfl rfl rfl

theorem touched_touchPlace (s : State) (p : Place) (origin : Option Nat) : Touched s (s.touchPlace p origin) := by
  cases p with
  | hbm d =>
    exact (touched_activate s (s.locate d) origin false).trans (touched_foundSoft _ _)
  | sram a => exact .refl _
  | far b o d a => exact .refl _

theorem touched_reportBad (s : State) (p : Place) : Touched s (s.reportBad p) := by
  cases p with
  | hbm d => exact (touched_raise _ _ _ _ _).trans (touched_suspect _ _ _ _)
  | sram a => exact .refl _
  | far b o d a => exact .refl _

theorem touched_foldl {α β : Type} (f : α → β → α) (g : α → State) (hf : ∀ a b, Touched (g a) (g (f a b))) (bs : List β) (a : α) :
    Touched (g a) (g (bs.foldl f a)) := by
  induction bs generalizing a with
  | nil => exact .refl _
  | cons b bs ih => exact (hf a b).trans (ih _)

theorem touched_farSend (s : State) (p : Place) (n : Nat) (data : Option (List (Option Byte))) (tag : Option Tag) (op : Option (BitVec 4 × DWord × DWord)) :
    Touched s (s.farSend p n data tag op) := by
  cases p with
  | far b o d a => exact .of_eq rfl rfl rfl rfl rfl rfl
  | sram a => exact .refl _
  | hbm d => exact .refl _

theorem touched_farPut (s : State) (p : Place) (bs : List (Option Byte)) : Touched s (s.farPut p bs) := by
  cases p with
  | far b o d a =>
    unfold State.farPut
    refine touched_foldl _ (fun (x : State × List (Option Byte)) => x.1) (fun _ _ => ?_) _ (s, bs)
    exact touched_farSend _ _ _ _ _ _
  | sram a => exact .refl _
  | hbm d => exact .refl _

theorem touched_openBytes (s : State) (n : Nat) : Touched s (s.openBytes n).2 := by
  induction n generalizing s with
  | zero => exact .refl _
  | succ n ih => exact Touched.trans (t := s.openNat.2) (.of_eq rfl rfl rfl rfl rfl rfl) (ih _)

theorem touched_farUsed (s : State) (p : Place) : Touched s (s.farUsed p) := by
  cases p <;> exact .of_eq rfl rfl rfl rfl rfl rfl

theorem touched_farStore (s : State) (id : Nat) (x : PStore) (b o : Nat) : Touched s (s.farStore id x b o) := by
  unfold State.farStore
  cases x.kind with
  | data => exact (touched_farPut _ _ _).trans (.of_eq rfl rfl rfl rfl rfl rfl)
  | tag => exact (touched_farSend _ _ _ _ _ _).trans (.of_eq rfl rfl rfl rfl rfl rfl)
  | atom op w64 o1 o2 prod => exact (touched_farSend _ _ _ _ _ _).trans (.of_eq rfl rfl rfl rfl rfl rfl)

theorem touched_failStore (s : State) (id : Nat) (x : PStore) (d : Nat) : Touched s (s.failStore id x d) := .of_eq rfl rfl rfl rfl rfl rfl

/-! ## A store that performs at its home (R371, R377) -/

/-- Its effect there. -/
def State.performed (s : State) (x : PStore) : State :=
  match x.kind with
  | .data => s.wrHome x.place (bytesOf x.size x.data)
  | .tag => s.setTag x.place (BitVec.ofNat 16 x.data)
  | .atom op w64 o1 o2 _ => (s.performAtom x.place op w64 o1 o2).2.2

/-- The store has not performed at a home in this package: it waits, fails, or is one of another package. -/
def State.onlyTouched (s t : State) (id : Nat) (x : PStore) : Prop :=
  Touched s t ∧ ∀ y, findK t.stores id = some y → x.stage < 2 → y.stage = 2 → y.fail = none → x.place.isFar = true

theorem onlyTouched_refl {s : State} {id : Nat} {x : PStore} (hx : findK s.stores id = some x) : s.onlyTouched s id x := by
  refine ⟨.refl _, fun y hy h1 h2 => ?_⟩
  cases hx.symm.trans hy
  omega

/-- What a store may have come to at its home: it has only touched, or it has performed. -/
def State.homeStep (s : State) (id : Nat) (x : PStore) (t : State) : Prop :=
  s.onlyTouched t id x ∨ (x.place.isFar = false ∧ ∃ pr st, t = { (s.touchPlace x.place (some x.core)).performed x with prods := pr, stores := st })

theorem homeStep_ite {p : Prop} [Decidable p] {s t u : State} {id : Nat} {x : PStore} (h1 : p → s.homeStep id x t) (h2 : ¬p → s.homeStep id x u) :
    s.homeStep id x (if p then t else u) := by
  split
  · exact h1 ‹_›
  · exact h2 ‹_›

theorem homeStep_fail {s u : State} {id : Nat} {x : PStore} {d : Nat} (h : Touched s u) : s.homeStep id x (u.failStore id x d) := by
  refine .inl ⟨h.trans (touched_failStore u id x d), fun y hy _ _ hf => ?_⟩
  cases (findK_insK_same _ _ _).symm.trans hy
  cases hf

theorem homeStep_far {s t : State} {id : Nat} {x : PStore} (hp : x.place.isFar = true) (h : Touched s t) : s.homeStep id x t :=
  .inl ⟨h, fun _ _ _ _ _ => hp⟩

/-- A store of another package whose answer has come. -/
def State.landedFar (s : State) (id : Nat) (x : PStore) (t : Lease) : State :=
  match x.kind with
  | .atom op w64 _ _ prod =>
    let o := (s.farUsed x.place).openBytes (if w64 then 8 else 4)
    let b := o.2.openBit
    let u : State := { b.2 with prods := match findK b.2.prods prod with
        | some q => insK b.2.prods prod { q with src := .vals (wordsOf 2 (natOfBytes o.1)) }
        | none => b.2.prods }
    { u with stores := insK u.stores id { x with stage := 2, vis := if b.1 || op != 9 then s.visTime x.place t else u.lease + u.skew } }
  | _ => { s.farUsed x.place with stores := insK (s.farUsed x.place).stores id { x with stage := 2, vis := s.visTime x.place t } }

/-- A store of this package, its home touched; `v` is its visibility time. -/
def State.landedHere (s : State) (id : Nat) (x : PStore) (v : Lease) : State :=
  match x.kind with
  | .data => let u := s.wrHome x.place (bytesOf x.size x.data); { u with stores := insK u.stores id { x with stage := 2, vis := v } }
  | .tag => let u := s.setTag x.place (BitVec.ofNat 16 x.data); { u with stores := insK u.stores id { x with stage := 2, vis := v } }
  | .atom op w64 o1 o2 prod =>
    let r := s.performAtom x.place op w64 o1 o2
    let u : State := { r.2.2 with prods := match findK r.2.2.prods prod with
        | some q => insK r.2.2.prods prod { q with src := .vals (wordsOf 2 r.1) }
        | none => r.2.2.prods }
    { u with stores := insK u.stores id { x with stage := 2, vis := if r.2.1 then v else u.lease } }

/-- What is left of `storeHome` once the place answers. -/
def State.landed (s : State) (id : Nat) (x : PStore) : State :=
  match x.place, x.sent with
  | .far b o .., none => s.farStore id x b o
  | .far .., some (_, t) => if s.farLate t then s else s.landedFar id x t
  | _, _ => (s.touchPlace x.place (some x.core)).landedHere id x (s.visTime x.place)

theorem touched_landedFar (s : State) (id : Nat) (x : PStore) (t : Lease) : Touched s (s.landedFar id x t) := by
  unfold State.landedFar
  have hused := touched_farUsed s x.place
  cases x.kind with
  | data => exact hused.trans (.of_eq rfl rfl rfl rfl rfl rfl)
  | tag => exact hused.trans (.of_eq rfl rfl rfl rfl rfl rfl)
  | atom op w64 o1 o2 prod =>
    refine (hused.trans (touched_openBytes _ (if w64 then 8 else 4))).trans ?_
    exact .of_eq rfl rfl rfl rfl rfl rfl

theorem landedHere_eq (s : State) (id : Nat) (x : PStore) (v : Lease) :
    ∃ pr st, s.landedHere id x v = { s.performed x with prods := pr, stores := st } := by
  unfold State.landedHere State.performed
  cases x.kind with
  | data => exact ⟨(s.wrHome x.place (bytesOf x.size x.data)).prods, _, rfl⟩
  | tag => exact ⟨(s.setTag x.place (BitVec.ofNat 16 x.data)).prods, _, rfl⟩
  | atom op w64 o1 o2 prod => exact ⟨_, _, rfl⟩

theorem landed_here (s : State) (id : Nat) {x : PStore} (h : x.place.isFar = false) :
    s.landed id x = (s.touchPlace x.place (some x.core)).landedHere id x (s.visTime x.place) := by
  unfold State.landed
  cases hp : x.place with
  | far b o d a => rw [hp] at h; cases h
  | sram a => rfl
  | hbm d => rfl

theorem landed_step {s : State} {id : Nat} {x : PStore} (hx : findK s.stores id = some x) : s.homeStep id x (s.landed id x) := by
  obtain hfar | hp := Bool.eq_false_or_eq_true x.place.isFar
  · unfold State.landed
    cases hq : x.place with
    | far b o d a =>
      cases x.sent with
      | none => exact homeStep_far hfar (touched_farStore _ _ _ _ _)
      | some q => exact homeStep_ite (fun _ => .inl (onlyTouched_refl hx)) fun _ => homeStep_far hfar (touched_landedFar _ _ _ _)
    | sram a => rw [hq] at hfar; cases hfar
    | hbm d => rw [hq] at hfar; cases hfar
  · rw [landed_here s id hp]
    exact .inr ⟨hp, landedHere_eq _ _ _ _⟩

theorem storeHome_step {s : State} {id : Nat} {x : PStore} (hx : findK s.stores id = some x) : s.homeStep id x (s.storeHome id x) := by
  unfold State.storeHome
  extract_lets cl before
  refine homeStep_ite (fun _ => .inl (onlyTouched_refl hx)) fun _ => homeStep_ite (fun _ => .inl (onlyTouched_refl hx)) fun _ => ?_
  cases s.homeDown x.place (if x.kind.isTag then 1 else x.size) with
  | some d => exact homeStep_fail (touched_ite ((touched_touchPlace _ _ _).trans (touched_reportBad _ _)) (.refl _))
  | none => exact landed_step hx

/-! ### Bytes of HBM (R399) -/

theorem locate_same_block (s : State) {da i : Nat} (h : da % 64 + i < 64) : s.locate (da + i) = s.locate da := by
  have hdiv : (da + i) / 64 = da / 64 := by omega
  have hbits : ∀ hi k, bitsN (da + i) hi (6 + k) = bitsN da hi (6 + k) := fun hi k => by
    rw [bitsN, bitsN, Nat.pow_add, ← Nat.div_div_eq_div_mul, ← Nat.div_div_eq_div_mul, show (2 : Nat) ^ 6 = 64 from rfl, hdiv]
  rw [State.locate, State.locate, hbits 38 28, hbits 33 0]

theorem hbmByte_wrHbm_other (s : State) (da : Nat) (bs : List Byte) {k : Nat}
    (h : ∀ i < bs.length, k ≠ s.locate (da + i) * 64 + (da + i) % 64) : (s.wrHbm da bs).hbmByte k = s.hbmByte k := by
  induction bs generalizing s da with
  | nil => rfl
  | cons b bs ih =>
    rw [State.wrHbm, ih _ _ fun i hi => ?_]
    · exact getK_putK_other _ _ _ (h 0 (Nat.succ_pos _))
    · have := h (i + 1) (Nat.succ_lt_succ hi)
      rwa [Nat.add_comm i, ← Nat.add_assoc] at this

theorem hbmByte_wrHbm (s : State) (da : Nat) (bs : List Byte) (h : da % 64 + bs.length ≤ 64) {i : Nat} (hi : i < bs.length) :
    (s.wrHbm da bs).hbmByte (s.locate da * 64 + (da + i) % 64) = bs.getD i 0 := by
  induction bs generalizing s da i with
  | nil => exact absurd hi (Nat.not_lt_zero _)
  | cons b bs ih =>
    rw [List.length_cons] at h hi
    rw [State.wrHbm]
    cases i with
    | zero =>
      rw [hbmByte_wrHbm_other _ _ _ fun j hj => ?_]
      · exact getK_putK_same _ _ _ _
      · show _ ≠ s.locate (da + 1 + j) * 64 + (da + 1 + j) % 64
        have hl := locate_same_block s (da := da) (i := 1 + j) (by omega)
        rw [← Nat.add_assoc] at hl
        rw [hl]
        omega
    | succ i =>
      have hl := locate_same_block s (da := da) (i := 1) (by omega)
      refine (congrArg _ (?_ : _ = s.locate (da + 1) * 64 + (da + 1 + i) % 64)).trans (ih { s with hbm := putK 0 s.hbm (s.locate da * 64 + da % 64) b } (da + 1) (by omega) (Nat.lt_of_succ_lt_succ hi))
      rw [hl, Nat.add_assoc, Nat.add_comm 1]

theorem sram_wrHbm (s : State) (da : Nat) (bs : List Byte) : (s.wrHbm da bs).sram = s.sram := by
  induction bs generalizing s da with
  | nil => rfl
  | cons b bs ih => exact ih _ _

theorem tags_wrHbm (s : State) (da : Nat) (bs : List Byte) : (s.wrHbm da bs).sramTag = s.sramTag ∧ (s.wrHbm da bs).hbmTag = s.hbmTag := by
  induction bs generalizing s da with
  | nil => exact ⟨rfl, rfl⟩
  | cons b bs ih => exact ih _ _

/-! ### What performs keeps threads and the form of memory -/

theorem cores_performed (s : State) {x : PStore} (h : x.place.isFar = false) : (s.performed x).cores = s.cores := by
  unfold State.performed
  cases hk : x.kind with
  | data => exact wrHome_cores _ _ _
  | tag => cases x.place <;> rfl
  | atom op w64 o1 o2 prod =>
    have hatom : ∀ (old : Nat) (v : Option Nat) (bs : Nat → List Byte), (match v with
        | some v => (old, true, s.wrHome x.place (bs v))
        | none => (old, false, s) : Nat × Bool × State).2.2.cores = s.cores := fun old v bs => by
      cases v with
      | some v => exact wrHome_cores _ _ _
      | none => rfl
    cases hp : x.place with
    | far b o d a => rw [hp] at h; cases h
    | sram a => rw [hp] at hatom; exact hatom _ _ _
    | hbm d => rw [hp] at hatom; exact hatom _ _ _

theorem wf_performed (s : State) {x : PStore} (h : x.place.isFar = false) (hw : s.memWf = true) : (s.performed x).memWf = true := by
  have hhome : ∀ bs, (s.wrHome x.place bs).memWf = true := fun bs => by
    simp only [State.memWf, Bool.and_eq_true] at hw ⊢
    exact wrHome_wf s _ bs hw.1 hw.2
  unfold State.performed
  cases hk : x.kind with
  | data => exact hhome _
  | tag => cases x.place <;> exact hw
  | atom op w64 o1 o2 prod =>
    have hatom : ∀ (old : Nat) (v : Option Nat) (bs : Nat → List Byte), (match v with
        | some v => (old, true, s.wrHome x.place (bs v))
        | none => (old, false, s) : Nat × Bool × State).2.2.memWf = true := fun old v bs => by
      cases v with
      | some v => exact hhome _
      | none => exact hw
    cases hp : x.place with
    | far b o d a => rw [hp] at h; cases h
    | sram a => rw [hp] at hatom; exact hatom _ _ _
    | hbm d => rw [hp] at hatom; exact hatom _ _ _

theorem Touched.held {s t : State} (h : Touched s t) : SameHeld s t := fun c n l => by
  rw [State.thread, State.thread, State.wave, State.wave, Core.wave, Core.wave, h.waves]

theorem Touched.memory {s t : State} (h : Touched s t) : SameMemory s t := .of_eq h.sram h.hbm h.sramTag h.hbmTag

theorem Touched.wf {s t : State} (h : Touched s t) (hw : s.memWf = true) : t.memWf = true := by
  rw [State.memWf, h.sram, h.hbm]
  exact hw

theorem sameMemory_storeCohort (s : State) (id : Nat) (x : PStore) :
    SameMemory s (s.storeCohort id x) ∧ SameHeld s (s.storeCohort id x) ∧ (s.storeCohort id x).memWf = s.memWf := by
  unfold State.storeCohort
  extract_lets cl
  split
  · exact ⟨.of_eq rfl rfl rfl rfl, fun _ _ _ => rfl, rfl⟩
  · exact ⟨.of_eq rfl rfl rfl rfl, fun _ _ _ => rfl, rfl⟩

theorem performed_tag (s : State) {x : PStore} (h : x.kind = .tag) : s.performed x = s.setTag x.place (BitVec.ofNat 16 x.data) := by
  rw [State.performed, h]

theorem performed_data (s : State) {x : PStore} (h : x.kind = .data) : s.performed x = s.wrHome x.place (bytesOf x.size x.data) := by
  rw [State.performed, h]

/-- Settles O15: a store at its home only touches (`Touched`) or writes what `State.performed` says (`storeHome_step`). -/
theorem storesPerformInPlace : Obligations.StoresPerformInPlace := by
  intro s t id stage x hx h
  have ht : ∀ u, execStorePerform id stage s = .next u → t = u := fun u hu => Host.Outcome.next.inj (h.symm.trans hu)
  cases stage with
  | cohort =>
    obtain rfl := ht _ (by rw [execStorePerform, hx])
    obtain ⟨hm, hh, hw⟩ := sameMemory_storeCohort s id x
    exact ⟨hh, fun h => hw.trans h, fun _ => hm, nofun, nofun⟩
  | home =>
    obtain rfl := ht (s.storeHome id x) (by rw [execStorePerform, hx])
    clear ht
    rcases storeHome_step hx with ⟨ht, hfar⟩ | ⟨hp, pr, st, ht⟩
    · have hno : ∀ {P : Prop} y, findK (s.storeHome id x).stores id = some y → x.stage < 2 → y.stage = 2 → y.fail = none →
          x.place.isFar = false → P := fun y h1 h2 h3 h4 h5 => absurd (hfar y h1 h2 h3 h4) (by rw [h5]; decide)
      have hb : ∀ k, (s.storeHome id x).sramByte k = s.sramByte k ∧ (s.storeHome id x).hbmByte k = s.hbmByte k := fun k =>
        ⟨congrArg (getK 0 · k) ht.sram, congrArg (getK 0 · k) ht.hbm⟩
      have htag : ∀ b, getK 0 (s.storeHome id x).sramTag b = getK 0 s.sramTag b ∧ getK 0 (s.storeHome id x).hbmTag b = getK 0 s.hbmTag b := fun b =>
        ⟨congrArg (getK 0 · b) ht.sramTag, congrArg (getK 0 · b) ht.hbmTag⟩
      refine ⟨ht.held, ht.wf, nofun, fun _ _ => ⟨hb, fun a b _ => ⟨(htag b).2, fun _ => (htag b).1⟩, fun a b _ => ⟨(htag b).1, fun _ => (htag b).2⟩, fun y h1 h2 h3 h4 =>
        ⟨fun a ha => hno y h1 h2 h3 h4 (by rw [ha]; rfl), fun a ha => hno y h1 h2 h3 h4 (by rw [ha]; rfl)⟩⟩,
        fun _ _ => ⟨htag, fun a ha => ⟨fun k _ => (hb k).1, fun k => (hb k).2, fun y h1 h2 h3 h4 => hno y h1 h2 h3 h4 (by rw [ha]; rfl)⟩,
          fun a ha => ⟨fun k => (hb k).1, fun k _ => (hb k).2, fun y h1 h2 h3 h4 => hno y h1 h2 h3 h4 (by rw [ha]; rfl)⟩⟩⟩
    · rw [ht]
      have hu := touched_touchPlace s x.place (some x.core)
      have hsram : ∀ a, x.place = .sram a → s.touchPlace x.place (some x.core) = s := fun a h => by rw [h]; rfl
      generalize s.touchPlace x.place (some x.core) = u at hu hsram
      refine ⟨fun c n l => ?_, fun hw => wf_performed u hp (hu.wf hw), nofun, fun _ hk => ?_, fun _ hk => ?_⟩
      · exact (congrArg Thread.held (thread_of_cores (cores_performed u hp) c n l)).trans (hu.held c n l)
      · rw [performed_tag u hk]
        cases hq : x.place with
        | far b o d a => rw [hq] at hp; cases hp
        | sram a =>
          refine ⟨fun k => ⟨congrArg (getK 0 · k) hu.sram, congrArg (getK 0 · k) hu.hbm⟩, fun a' b h => ?_, nofun, fun y _ _ _ _ => ⟨fun a' h => ?_, nofun⟩⟩
          · cases h
            exact ⟨congrArg (getK 0 · b) hu.hbmTag, fun hb => (getK_putK_other _ _ _ hb).trans (congrArg (getK 0 · b) hu.sramTag)⟩
          · cases h
            exact getK_putK_same _ _ _ _
        | hbm a =>
          refine ⟨fun k => ⟨congrArg (getK 0 · k) hu.sram, congrArg (getK 0 · k) hu.hbm⟩, nofun, fun a' b h => ?_, fun y _ _ _ _ => ⟨nofun, fun a' h => ?_⟩⟩
          · cases h
            refine ⟨congrArg (getK 0 · b) hu.sramTag, fun hb => (getK_putK_other _ _ _ ?_).trans (congrArg (getK 0 · b) hu.hbmTag)⟩
            rwa [hu.locate]
          · cases h
            rw [← hu.locate]
            exact getK_putK_same _ _ _ _
      · rw [performed_data u hk]
        cases hq : x.place with
        | far b o d a => rw [hq] at hp; cases hp
        | sram a =>
          obtain rfl := hsram a hq
          refine ⟨fun b => ⟨rfl, rfl⟩, fun a' h => ?_, nofun⟩
          cases h
          refine ⟨fun k hk => ?_, fun k => rfl, fun y _ _ _ _ i hi => ?_⟩
          · exact (sramByte_wrHome_bytesOf u a x.size x.data k).trans (if_neg (by omega))
          · refine (sramByte_wrHome_bytesOf u a x.size x.data (a + i)).trans ?_
            rw [Nat.add_sub_cancel_left]
            cases u.roByte (a + i) with
            | true => exact (if_neg (by simp)).trans (if_pos rfl).symm
            | false => exact (if_pos ⟨Nat.le_add_right _ _, Nat.add_lt_add_left hi a, rfl⟩).trans (if_neg nofun).symm
        | hbm a =>
          refine ⟨fun b => ⟨congrArg (getK 0 · b) ((tags_wrHbm u a _).1.trans hu.sramTag), congrArg (getK 0 · b) ((tags_wrHbm u a _).2.trans hu.hbmTag)⟩, nofun, fun a' h => ?_⟩
          cases h
          refine ⟨fun k => ?_, fun k hk => ?_, fun y _ _ _ _ ha i hi => ?_⟩
          · exact (congrArg (getK 0 · k) (sram_wrHbm u a _)).trans (congrArg (getK 0 · k) hu.sram)
          · refine (hbmByte_wrHbm_other u a _ fun i hi => ?_).trans (congrArg (getK 0 · k) hu.hbm)
            rw [hu.locate]
            exact hk i (by rwa [length_bytesOf] at hi)
          · rw [← hu.locate]
            refine (hbmByte_wrHbm u a _ (by rwa [length_bytesOf]) (by rwa [length_bytesOf])).trans (getD_bytesOf _ hi)

end Sys2Proof.Machine

namespace Sys2Proof.Machine

/-! ## The own slice and the parameter windows (O30) -/

section
variable {g : Guard} {size : BitVec 3} {d : Operand} {a : Src} {m : MemOp} {s s0 s1 : State} {rows : List (Nat × List (List Word))}

theorem filterMap_some_of {α β : Type} {f : α → Option β} {g : α → β} {l : List α} (h : ∀ x ∈ l, f x = some (g x)) : l.filterMap f = l.map g := by
  induction l with
  | nil => rfl
  | cons x xs ih => rw [List.filterMap_cons_some (h x (.head _)), ih fun y hy => h y (.tail _ hy), List.map_cons]

theorem filterMap_none_of {α β : Type} {f : α → Option β} {l : List α} (h : ∀ x ∈ l, f x = none) : l.filterMap f = [] :=
  List.filterMap_eq_nil_iff.2 h

theorem foldl_congr_of {α β : Type} {f g : α → β → α} {l : List β} (h : ∀ a, ∀ x ∈ l, f a x = g a x) (a : α) : l.foldl f a = l.foldl g a := by
  induction l generalizing a with
  | nil => rfl
  | cons x xs ih => rw [List.foldl_cons, List.foldl_cons, h a x (.head _), ih fun a y hy => h a y (.tail _ hy)]

theorem all_false_of {α : Type} {f : α → Bool} {l : List α} (hn : l ≠ []) (h : ∀ x ∈ l, f x = false) : ¬l.all f = true := by
  cases l with
  | nil => exact absurd rfl hn
  | cons x xs => rw [List.all_cons, h x (.head _)]; nofun

theorem any_false_of {α : Type} {f : α → Bool} {b : Bool} {l : List α} (h : ∀ x ∈ l, b = true → f x = false) : ¬(b && l.any f) = true := by
  rw [Bool.and_eq_true, List.any_eq_true]
  rintro ⟨hb, x, hx, hf⟩
  exact absurd hf (by rw [h x hx hb]; nofun)

theorem execLds_now (hp : prep s g { srcs := [idxSrc m], dst := some (loadDst d (sizeRegs size)) } false (ldsOwn s m size) = .go s0 s1 rows)
    (val : Nat × List (List Word) → List Word)
    (h : ∀ p ∈ rows, (s1.ldsAt s1.cur.core m (p.2.getD 0 []) (sizeBytes size) = .zeros ∧ val p = List.replicate (sizeRegs size) 0) ∨
      ∃ pl, s1.ldsAt s1.cur.core m (p.2.getD 0 []) (sizeBytes size) = .at_ pl ∧ size ≠ 6 ∧ isOwn s1.cur.core pl = true ∧
        (isSerai s1.cur.core = true → s1.heldPlace pl = false) ∧ val p = extend size (s1.rdHome pl (sizeBytes size))) :
    exec (.lds g size d m) s = .next (s1.writeDst { o := d, n := sizeRegs size } (rows.map fun p => (p.1, val p))).finish := by
  show execLds g size d m s = _
  unfold execLds
  dsimp only
  rw [hp]
  have hne := (prep_go hp).2.2.1
  simp only [List.any_map, List.all_map, List.foldl_map, List.filterMap_map]
  rw [if_neg, if_neg, foldl_fixed (s := s1) (bs := rows), filterMap_some_of (g := fun p => (p.1, val p)), foldl_fixed]
  · intro p hp
    rcases h p hp with ⟨he, -⟩ | ⟨pl, he, hsz, how, -⟩
    · rw [he]
    · rw [he]
      exact if_pos ⟨how, hsz⟩
  · intro p hp
    rcases h p hp with ⟨he, hv⟩ | ⟨pl, he, hsz, how, -, hv⟩
    · simp only [Function.comp, he, hv]
    · simp only [Function.comp, he, hv]
      exact if_pos ⟨how, hsz⟩
  · intro p hp
    rcases h p hp with ⟨he, -⟩ | ⟨pl, he, -⟩ <;> rw [he]
  · refine all_false_of hne fun p hp => ?_
    rcases h p hp with ⟨he, -⟩ | ⟨pl, he, -⟩ <;> simp only [Function.comp, he]
  · refine any_false_of fun p hp hs => ?_
    rcases h p hp with ⟨he, -⟩ | ⟨pl, he, -, how, hheld, -⟩
    · simp only [Function.comp, he]
    · simp only [Function.comp, he, how, hheld hs, Bool.and_false]

/-- The registers that a load fills (R206). -/
def loadRegs (d : Operand) (n : Nat) : List Nat := match d with | .reg x => (List.range n).map (x + ·) | _ => []

theorem execLds_later (hp : prep s g { srcs := [idxSrc m], dst := some (loadDst d (sizeRegs size)) } false (ldsOwn s m size) = .go s0 s1 rows)
    (pl : Nat × List (List Word) → Place)
    (h : ∀ p ∈ rows, s1.ldsAt s1.cur.core m (p.2.getD 0 []) (sizeBytes size) = .at_ (pl p) ∧
      (isOwn s1.cur.core (pl p) = false ∨ size = 6 ∧ (isSerai s1.cur.core = true → s1.heldPlace (pl p) = false))) :
    exec (.lds g size d m) s = .next (rows.foldl (fun s p => s.issueLoad p.1 (pl p) 0 size .plain none
      (loadRegs d (sizeRegs size))) s1).finish := by
  show execLds g size d m s = _
  unfold execLds
  dsimp only
  rw [hp]
  have hne := (prep_go hp).2.2.1
  have hno : ∀ p ∈ rows, ¬(isOwn s1.cur.core (pl p) = true ∧ size ≠ 6) := fun p hp hc => by
    rcases (h p hp).2 with ho | ⟨h6, -⟩
    · rw [ho] at hc; exact absurd hc.1 nofun
    · exact hc.2 h6
  simp only [List.any_map, List.all_map, List.foldl_map, List.filterMap_map]
  rw [if_neg, if_neg, foldl_fixed (s := s1) (bs := rows), filterMap_none_of]
  · refine congrArg (fun u : State => Host.Outcome.next u.finish) (foldl_congr_of (fun u p hp => ?_) s1)
    rw [(h p hp).1]
    exact if_neg (hno p hp)
  · intro p hp
    simp only [Function.comp, (h p hp).1]
    exact if_neg (hno p hp)
  · intro p hp
    rw [(h p hp).1]
  · exact all_false_of hne fun p hp => by simp only [Function.comp, (h p hp).1]
  · refine any_false_of fun p hp hs => ?_
    simp only [Function.comp, (h p hp).1]
    rcases (h p hp).2 with ho | ⟨-, hheld⟩
    · rw [ho, Bool.false_and]
    · rw [hheld hs, Bool.and_false]

theorem execLds_bad (hp : prep s g { srcs := [idxSrc m], dst := some (loadDst d (sizeRegs size)) } false (ldsOwn s m size) = .go s0 s1 rows)
    (bad : Nat × List (List Word) → Nat × Word × DWord)
    (h : ∀ p ∈ rows, s1.ldsAt s1.cur.core m (p.2.getD 0 []) (sizeBytes size) = .bad (bad p).1 (bad p).2.1 (bad p).2.2) :
    exec (.lds g size d m) s = .next (rows.foldl (fun s p => s.takeFault p.1 (bad p).1 (bad p).2.1 (bad p).2.2) s0).finish := by
  show execLds g size d m s = _
  unfold execLds
  dsimp only
  rw [hp]
  simp only [List.any_map, List.all_map, List.foldl_map, List.filterMap_map]
  rw [if_neg, if_pos]
  · exact congrArg (fun u : State => Host.Outcome.next u.finish) (foldl_congr_of (fun u p hp => by rw [h p hp]) s0)
  · exact List.all_eq_true.2 fun p hp => by simp only [Function.comp, h p hp]
  · exact any_false_of fun p hp _ => by simp only [Function.comp, h p hp]

theorem execSts_ok (hp : prep s g { srcs := [idxSrc m, { pos := 3, src := a, n := sizeRegs size, al := sizeRegs size }] } false
      (accessOwn fun _ => s.stsAt m (sizeBytes size)) = .go s0 s1 rows) (hm : m.mode ≠ .pw)
    (h : ∀ p ∈ rows, effAddr m (p.2.getD 0 []) % sizeBytes size = 0 ∧ s1.spOk s1.cur.core (effAddr m (p.2.getD 0 [])) (sizeBytes size) = true ∧
      (isSerai s1.cur.core = true → s1.heldPlace (.sram (ownAddr s1.cur.core (effAddr m (p.2.getD 0 [])))) = false)) :
    exec (.sts g size a m) s = .next (rows.foldl (fun s p => s.issueStore p.1 (.sram (ownAddr s1.cur.core (effAddr m (p.2.getD 0 [])))) (sizeBytes size)
      (natOfWords (p.2.getD 1 []) % 2 ^ (8 * sizeBytes size)) .data false none) s1).finish := by
  have hok : ∀ p ∈ rows, s1.stsAt m (sizeBytes size) (p.2.getD 0 []) = .ok (.sram (ownAddr s1.cur.core (effAddr m (p.2.getD 0 [])))) 0 := fun p hp => by
    obtain ⟨h1, h2, -⟩ := h p hp
    rw [State.stsAt]
    exact (if_neg (not_not_intro h1)).trans ((if_neg hm).trans (if_pos h2))
  show execSts g size a m s = _
  unfold execSts
  dsimp only
  rw [hp]
  have hne := (prep_go hp).2.2.1
  simp only [List.any_map, List.all_map, List.foldl_map]
  rw [if_neg, if_neg]
  · exact congrArg (fun u : State => Host.Outcome.next u.finish) (foldl_congr_of (fun u p hp => by rw [hok p hp]) s1)
  · exact all_false_of hne fun p hp => by simp only [Function.comp, hok p hp]
  · exact any_false_of fun p hp hs => by simp only [Function.comp, hok p hp, (h p hp).2.2 hs]
end

/-- Settles O30: by what `State.ldsAt` and `State.stsAt` find for the lanes. -/
theorem sliceAccessResults : Obligations.SliceAccessResults := by
  intro g size d a m s s0 s1 rows
  exact ⟨fun h => ⟨fun val hv => execLds_now h val hv, fun pl hl => execLds_later h pl hl, fun bad hb => execLds_bad h bad hb⟩,
    fun h hm hr => execSts_ok h hm hr⟩

/-! ## Quotas and walkers (O31) -/

section
variable {g : Guard} {sp : Spec} {s s0 s1 : State} {rows : List (Nat × List (List Word))}

theorem computeOnly_run (run : State) (h : isSerai s.cur.core = false) : computeOnly s run = run := by rw [computeOnly, h]; rfl

/-- An instruction that acts once or is refused with BINDING (R41, R209, R215): it acts, or is refused. -/
theorem next_bindOp_inl {body : State → List (List Word) → State ⊕ Word} {pre : Option Word} {u : State}
    (h : prep s g sp false (bindOwn s pre body) = .go s0 s1 rows) (hr : body s1 (firstRow rows) = .inl u) :
    (Host.Outcome.next (bindOp s g sp body pre) : Host.Outcome State Fault Refusal) = .next u.finish := by
  rw [bindOp_go body pre h, hr]

theorem next_bindOp_inr {body : State → List (List Word) → State ⊕ Word} {pre : Option Word} {info : Word}
    (h : prep s g sp false (bindOwn s pre body) = .go s0 s1 rows) (hr : body s1 (firstRow rows) = .inr info) :
    (Host.Outcome.next (bindOp s g sp body pre) : Host.Outcome State Fault Refusal) = .next (s0.takeFaults (rowMask rows) 0x0E info).finish := by
  rw [bindOp_go body pre h, hr]
  rfl

theorem next_onceOp {body : State → List Nat → List (List Word) → State} (h : prep s g sp = .go s0 s1 rows) :
    (Host.Outcome.next (onceOp s g sp body) : Host.Outcome State Fault Refusal) = .next (body s1 (rows.map (·.1)) (firstRow rows)).finish :=
  congrArg Host.Outcome.next (onceOp_go body h)

theorem wBits_low16 (w : Word) : wBits w 15 0 = w.toNat % 2 ^ 16 := by simp [wBits, bitsN]

theorem wBits_high16 (w : Word) : wBits w 31 16 = w.toNat / 2 ^ 16 := by
  simp only [wBits, bitsN]
  omega

/-- R209: `wseek` is refused by an unbound walker (cause 0) and by an index that its counts do not reach (cause 2). -/
theorem seekCause_eq (k : Walker) (vs : List (List Word)) : k.seekCause (fun _ => true) vs =
    if k.bound = false then some 0
    else if k.field 79 64 ≤ (wordAt vs 0 0).toNat % 2 ^ 16 ∨ k.field 143 128 ≤ (wordAt vs 0 0).toNat / 2 ^ 16 ∨
      k.field 207 192 ≤ (wordAt vs 1 0).toNat % 2 ^ 16 then some 2 else none := by
  rw [Walker.seekCause, wBits_low16, wBits_high16, wBits_low16]
  simp only [Bool.true_and, Bool.or_eq_true, decide_eq_true_eq, Bool.not_eq_true', or_assoc]

theorem execWseek_go {w : BitVec 3} {a b : Src} (h : prep s g { srcs := [{ pos := 0, src := a }, { pos := 1, src := b }] } false (seekOwn s w) = .go s0 s1 rows)
    {r : Option Nat} (hr : (s1.curWalker w).seekCause (fun _ => true) (firstRow rows) = r) :
    (∀ c, r = some c → exec (.wseek g w a b) s = .next (s0.takeFaults (rowMask rows) 0x0E (bindInfo c w.toNat)).finish) ∧
    (r = none → exec (.wseek g w a b) s = .next (s1.modCurWave fun wv => wv.modWalker w.toNat fun x =>
      { x with i0 := wBits (wordAt (firstRow rows) 0 0) 15 0, i1 := wBits (wordAt (firstRow rows) 0 0) 31 16,
               i2 := wBits (wordAt (firstRow rows) 1 0) 15 0, e0 := false, e1 := false, e2 := false, buf := [] }).finish) := by
  obtain ⟨-, -, hne, -⟩ := prep_go h
  cases rows with
  | nil => exact absurd rfl hne
  | cons p ps =>
    refine ⟨fun c hc => ?_, fun hc => ?_⟩ <;>
    · show execWseek g w a b s = _
      rw [hc] at hr
      rw [execWseek, h]
      dsimp only
      rw [show (s1.curWalker w).seekCause (fun _ => true) p.2 = _ from hr]
      rfl
end

/-- Settles O31: each body answers the new state or the cause of its BINDING fault (`bindOp_go`). -/
theorem quotaAndWalkerResults : Obligations.QuotaAndWalkerResults := by
  intro g w a b s s0 s1 rows c t v orBind
  refine ⟨fun hc => ⟨fun h => ?_, fun h => ?_, fun h => ?_⟩, fun h => ?_, fun h => next_onceOp h, fun h => ?_⟩
  · refine (congrArg Host.Outcome.next (computeOnly_run _ hc)).trans ?_
    cases hr : s1.resize c t v with
    | inl u => exact next_bindOp_inl h hr
    | inr info => exact next_bindOp_inr h hr
  · refine (congrArg Host.Outcome.next (computeOnly_run _ hc)).trans ?_
    cases hr : s1.setDead c t v with
    | inl u => exact next_bindOp_inl h hr
    | inr info => exact next_bindOp_inr h hr
  · refine (congrArg Host.Outcome.next (computeOnly_run _ hc)).trans ?_
    cases hr : s1.grant c t v with
    | inl u => exact next_bindOp_inl h hr
    | inr info => exact next_bindOp_inr h hr
  · intro d
    by_cases hd : Walker.descOk d = true
    · rw [if_pos hd]
      exact next_bindOp_inl h (if_pos hd)
    · rw [if_neg hd]
      exact next_bindOp_inr h (if_neg hd)
  · intro k i0 i1 i2
    obtain ⟨hbad, hok⟩ := execWseek_go h (seekCause_eq _ _)
    split
    next hb => exact hbad 0 (if_pos hb)
    next hb =>
      split
      next hi => exact hbad 2 ((if_neg hb).trans (if_pos hi))
      next hi =>
        refine (hok ((if_neg hb).trans (if_neg hi))).trans ?_
        rw [wBits_low16, wBits_high16, wBits_low16]

/-! ## Queue ports (O32) -/

/-- Settles O32: what a binding word asks of a port is `qbindBody`'s; the others are their frames at a compute core. -/
theorem queueResults : Obligations.QueueResults := by
  intro g cnt port p5 e d a s s0 s1 rows n k hc
  refine ⟨fun h => ?_, fun r hd h => ?_, fun h => ?_, fun h => ?_⟩
  · intro b kind k'
    refine ⟨fun hbad => ?_, fun h1 h2 h3 h4 => ?_⟩
    · refine (congrArg Host.Outcome.next (computeOnly_run _ hc)).trans ?_
      exact next_bindOp_inr h (if_pos hbad)
    · refine (congrArg Host.Outcome.next (computeOnly_run _ hc)).trans ?_
      have hok : ¬(5 ≤ kind ∨ bitsN b 7 3 ≠ 0 ∨ bitsN b 31 13 ≠ 0 ∨ (kind ≠ 1 ∧ bitsN b 12 8 ≠ 0)) := by
        rintro (h | h | h | ⟨h, h'⟩)
        · omega
        · exact h h2
        · exact h h3
        · exact h4.elim h h'
      cases hk : k'.portsCause s1 s1.cur.core with
      | none => exact next_bindOp_inl h ((if_neg hok).trans (by rw [hk]))
      | some cause => exact next_bindOp_inr h ((if_neg hok).trans (by rw [hk]))
  · refine (congrArg Host.Outcome.next (computeOnly_run _ hc)).trans ?_
    subst hd
    rw [h]
  · refine (congrArg Host.Outcome.next (computeOnly_run _ hc)).trans ?_
    exact (next_pureOp h rfl).trans (congrArg Host.Outcome.next (laneResult_of_noFlags _ _ _ _))
  · refine (congrArg Host.Outcome.next (computeOnly_run _ hc)).trans ?_
    rw [h]
    dsimp only
    cases hq : k.portQueue port with
    | none => rfl
    | some q => rfl

end Sys2Proof.Machine

namespace Sys2Proof.Machine

/-! ## Register quotas (R201 to R203) -/

theorem reg_clearRegs (t : Thread) (lo hi r : Nat) : (t.clearRegs lo hi).reg r = if r < lo ∨ hi ≤ r then t.reg r else 0 := by
  refine (getK_filter 0 t.regs (fun r => decide (r < lo) || decide (hi ≤ r)) r).trans ?_
  simp only [Bool.or_eq_true, decide_eq_true_eq]
  rfl

theorem any_filter_key {α : Type} (m : List (Nat × α)) (P : Nat → Bool) (r : Nat) :
    (m.filter fun p => P p.1).any (fun p => p.1 == r) = (m.any (fun p => p.1 == r) && P r) := by
  rw [List.any_filter]
  induction m with
  | nil => rfl
  | cons p t ih =>
    rw [List.any_cons, List.any_cons, ih]
    cases h : p.1 == r with
    | true =>
      rw [eq_of_beq h]
      cases P r <;> simp
    | false => simp

theorem isEmpty_clearRegs (t : Thread) (lo hi r : Nat) : (t.clearRegs lo hi).isEmpty r = (t.isEmpty r && decide (r < lo ∨ hi ≤ r)) := by
  refine (any_filter_key t.empty (fun r => decide (r < lo) || decide (hi ≤ r)) r).trans ?_
  rw [← Bool.decide_or]
  rfl

theorem getK_downKeys {α : Type} (d : α) (n : Nat) (m : List (Nat × α)) (x : Nat) : getK d (downKeys n m) x = getK d m (x + n) := by
  induction m with
  | nil => rfl
  | cons p t ih =>
    simp only [downKeys, List.filterMap_cons] at ih ⊢
    by_cases hn : n ≤ p.1
    · simp only [hn, if_true, getK, ih, show (x = p.1 - n) = (x + n = p.1) from propext (by omega)]
    · simp only [hn, if_false, getK, ih, if_neg (show ¬x + n = p.1 by omega)]

theorem any_downKeys {α : Type} (n : Nat) (m : List (Nat × α)) (x : Nat) :
    (downKeys n m).any (fun p => p.1 == x) = m.any fun p => p.1 == x + n := by
  induction m with
  | nil => rfl
  | cons p t ih =>
    simp only [downKeys, List.filterMap_cons] at ih ⊢
    by_cases hn : n ≤ p.1
    · simp only [hn, if_true, List.any_cons, ih]
      rw [show (p.1 - n == x) = (p.1 == x + n) by rw [Bool.eq_iff_iff, beq_iff_eq, beq_iff_eq]; omega]
    · simp only [hn, if_false, List.any_cons, ih]
      rw [show (p.1 == x + n) = false by rw [beq_eq_false_iff_ne]; omega, Bool.false_or]

theorem thread_mapThreads (w : Wave) {f : Thread → Thread} (hf : f {} = {}) (l : Nat) : (w.mapThreads f).thread l = f (w.thread l) :=
  getK_map (α := Thread) {} w.threads f hf l

/-! ### A change of the records of a wave (R201 to R203) -/

/-- The posted records of a wave that a change names. -/
def State.recsChanged (s : State) (c t : Nat) (f : TrapRec → TrapRec) : List (Nat × TrapRec) :=
  (s.cl (clusterOf c)).traps.filter fun p => p.2.core == c && p.2.turn == t && !p.2.absent && f p.2 != p.2

/-- The state with the posted records of a wave changed. -/
def State.postedMapped (s : State) (c t : Nat) (f : TrapRec → TrapRec) : State :=
  (s.recsChanged c t f).foldl (fun s p => if (f p.2).res = p.2.res then s.modCl (clusterOf c) fun k => { k with traps := insK k.traps p.1 (f p.2) }
    else s.setTrap (clusterOf c) p.1 (f p.2)) s

theorem cores_setTrap (s : State) (cl n : Nat) (r : TrapRec) : (s.setTrap cl n r).cores = s.cores := by simp only [State.setTrap, modCl_cores, wrSram_cores]

theorem hbm_setTrap (s : State) (cl n : Nat) (r : TrapRec) : (s.setTrap cl n r).hbm = s.hbm := by simp only [State.setTrap, modCl_hbm, wrSram_hbm]

/-- The records that a wave holds. -/
def Wave.recsMapped (f : TrapRec → TrapRec) (w : Wave) : Wave := { w with held := w.held.map f, restored := w.restored.map f }

/-- The records that a core holds of a wave. -/
def Core.recsMapped (f : TrapRec → TrapRec) (t : Nat) (k : Core) : Core :=
  { k.modWave t (Wave.recsMapped f) with stash := k.stash.map fun r => if r.turn = t then f r else r }

theorem thread_recsMapped (k : Core) (f : TrapRec → TrapRec) (t t' l : Nat) : ((k.recsMapped f t).wave t').thread l = (k.wave t').thread l := by
  show ((k.modWave t (Wave.recsMapped f)).wave t').thread l = _
  by_cases ht : t' = t
  · subst ht
    rw [wave_modWave_same]
    rfl
  · rw [wave_modWave_other _ _ ht]

theorem mapRecs_eq (s : State) (c t : Nat) (f : TrapRec → TrapRec) : s.mapRecs c t f = (s.postedMapped c t f).modCore c (Core.recsMapped f t) := rfl

theorem postedMapped_keeps (s : State) (c t : Nat) (f : TrapRec → TrapRec) :
    (s.postedMapped c t f).cores = s.cores ∧ (s.postedMapped c t f).hbm = s.hbm :=
  List.foldlRecOn (motive := fun u : State => u.cores = s.cores ∧ u.hbm = s.hbm) _ _ ⟨rfl, rfl⟩ fun u hu p _ => by
    split
    · exact ⟨hu.1, hu.2⟩
    · exact ⟨(cores_setTrap _ _ _ _).trans hu.1, (hbm_setTrap _ _ _ _).trans hu.2⟩

theorem memory_postedMapped {s : State} {c t : Nat} {f : TrapRec → TrapRec}
    (h : (∀ r, (f r).res = r.res) ∨ ∀ p ∈ (s.cl (clusterOf c)).traps, p.2.core ≠ c ∨ p.2.turn ≠ t) : SameMemory s (s.postedMapped c t f) := by
  rcases h with h | h
  · refine List.foldlRecOn (motive := fun u : State => SameMemory s u) _ _ (.of_eq rfl rfl rfl rfl) fun u hu p _ => ?_
    rw [if_pos (h _)]
    exact hu.trans (.of_eq rfl rfl rfl rfl)
  · have hnil : s.recsChanged c t f = [] := List.filter_eq_nil_iff.2 fun p hp hc => by
      simp only [Bool.and_eq_true, beq_iff_eq] at hc
      obtain ⟨⟨⟨hcore, hturn⟩, -⟩, -⟩ := hc
      exact (h p hp).elim (· hcore) (· hturn)
    rw [State.postedMapped, hnil]
    exact .of_eq rfl rfl rfl rfl

theorem memory_mapRecs {s : State} {c t : Nat} {f : TrapRec → TrapRec}
    (h : (∀ r, (f r).res = r.res) ∨ ∀ p ∈ (s.cl (clusterOf c)).traps, p.2.core ≠ c ∨ p.2.turn ≠ t) : SameMemory s (s.mapRecs c t f) :=
  (memory_postedMapped h).trans (.of_eq rfl rfl rfl rfl)

theorem core_mapRecs (s : State) (c t c' : Nat) (f : TrapRec → TrapRec) : ((s.mapRecs c t f).core c').quotas = (s.core c').quotas ∧
    ∀ t' l, (s.mapRecs c t f).thread c' t' l = s.thread c' t' l := by
  have hcores : ∀ j, (s.postedMapped c t f).core j = s.core j := fun j => by rw [State.core, State.core, (postedMapped_keeps s c t f).1]
  have hthread : ∀ t' l, (s.postedMapped c t f).thread c' t' l = s.thread c' t' l := fun t' l => by
    rw [State.thread, State.thread, State.wave, State.wave, hcores]
  rw [mapRecs_eq]
  constructor
  · rw [core_modCore]
    split
    next h => rw [h, hcores]; rfl
    next => rw [hcores]
  · intro t' l
    rw [← hthread, State.thread, State.wave, core_modCore]
    split
    next h => rw [h]; exact thread_recsMapped _ _ _ _ _
    next => rfl

theorem quota_mapRecs (s : State) (c t c' j : Nat) (f : TrapRec → TrapRec) : (s.mapRecs c t f).quota c' j = s.quota c' j := by
  rw [State.quota, State.quota, (core_mapRecs s c t c' f).1]

theorem thread_mapRecs (s : State) (c t c' t' l : Nat) (f : TrapRec → TrapRec) : (s.mapRecs c t f).thread c' t' l = s.thread c' t' l :=
  (core_mapRecs s c t c' f).2 t' l

theorem hbm_mapRecs (s : State) (c t : Nat) (f : TrapRec → TrapRec) : (s.mapRecs c t f).hbm = s.hbm := (postedMapped_keeps s c t f).2

/-! ### A change of quota (R201, R202) -/

/-- A turn's quota set, and its threads' registers changed alike. -/
def State.requota (s : State) (c t : Nat) (q : Quota) (f : Thread → Thread) : State :=
  (s.modCore c fun k => k.setQuota t q).modWave c t fun w => w.mapThreads f

theorem quota_modCore_setQuota (s : State) (c t j : Nat) (q : Quota) :
    (s.modCore c fun k => k.setQuota t q).quota c j = if j = t then q else s.quota c j := by
  rw [State.quota, core_modCore_same]
  exact getK_insK _ _ _ _ _

theorem quota_modWave (s : State) (c t c' j : Nat) (f : Wave → Wave) : (s.modWave c t f).quota c' j = s.quota c' j := by
  rw [State.quota, State.quota, State.modWave, core_modCore]
  split
  next h => rw [h]; rfl
  next => rfl

theorem quota_requota (s : State) (c t j : Nat) (q : Quota) (f : Thread → Thread) :
    (s.requota c t q f).quota c j = if j = t then q else s.quota c j := by
  rw [State.requota, quota_modWave, quota_modCore_setQuota]

theorem thread_setQuota (s : State) (c t c' t' l : Nat) (q : Quota) : (s.modCore c fun k => k.setQuota t q).thread c' t' l = s.thread c' t' l :=
  thread_modCore s c c' t' l (fun k => k.setQuota t q) fun _ => rfl

theorem thread_requota (s : State) (c t l : Nat) (q : Quota) {f : Thread → Thread} (hf : f {} = {}) :
    (s.requota c t q f).thread c t l = f (s.thread c t l) := by
  rw [State.requota, thread_modWave, if_pos ⟨rfl, rfl⟩, thread_mapThreads _ hf, ← thread_setQuota s c t c t l q]
  rfl

theorem memory_requota (s : State) (c t : Nat) (q : Quota) (f : Thread → Thread) : SameMemory s (s.requota c t q f) := .of_eq rfl rfl rfl rfl

/-- R201: the quota may grow into the blocks from its end on. -/
theorem blocksFree_iff (s : State) (c t : Nat) {n : Nat} (hn : (s.quota c t).count ≤ n) :
    (s.core c).blocksFree t ((s.quota c t).base + (s.quota c t).count) (n - (s.quota c t).count) = true ↔
      ∀ p ∈ (s.core c).quotas, p.1 ≠ t → ∀ i, (s.quota c t).count ≤ i → i < n → p.2.covers ((s.quota c t).base + i) = false := by
  simp only [Core.blocksFree, List.all_eq_true, List.mem_range, Bool.or_eq_true, beq_iff_eq, Bool.not_eq_true']
  constructor
  · intro h p hp ht i hi hin
    have := (h (i - (s.quota c t).count) (by omega) p hp).resolve_left ht
    rwa [Nat.add_assoc, Nat.add_sub_cancel' hi] at this
  · intro h i hi p hp
    refine (Decidable.em (p.1 = t)).imp_right fun ht => ?_
    rw [Nat.add_assoc]
    exact h p hp ht _ (Nat.le_add_right _ _) (by omega)

theorem resize_refused {s : State} {c t n : Nat} (h : 20 < n ∨ (s.quota c t).dead ≠ 0) : s.resize c t n = .inr (bindInfo 7 t) := if_pos h

theorem resize_shrinks {s : State} {c t n : Nat} (h : ¬(20 < n ∨ (s.quota c t).dead ≠ 0)) (hn : n ≤ (s.quota c t).count) :
    s.resize c t n = .inl ((s.requota c t { s.quota c t with count := n } fun th => th.clearRegs (32 * n) 640).mapRecs c t
      fun r => if 32 * n ≤ r.res then { r with cut := true } else r) := (if_neg h).trans (if_pos hn)

theorem resize_grows {s : State} {c t n : Nat} (h : ¬(20 < n ∨ (s.quota c t).dead ≠ 0)) (hn : ¬n ≤ (s.quota c t).count) :
    s.resize c t n = if 48 < (s.quota c t).base + n ∨
        !(s.core c).blocksFree t ((s.quota c t).base + (s.quota c t).count) (n - (s.quota c t).count) then .inr (bindInfo 7 t)
      else .inl (s.requota c t { s.quota c t with count := n } fun th => th.clearRegs (32 * (s.quota c t).count) 640) :=
  (if_neg h).trans (if_neg hn)

/-- A record whose write a change of quota cancels keeps its register. -/
theorem cut_res (P : Nat → Prop) [DecidablePred P] (r : TrapRec) : (if P r.res then { r with cut := true } else r).res = r.res := by
  split <;> rfl

theorem resize_frame {s u : State} {c t n : Nat} (h : s.resize c t n = .inl u) :
    SameMemory s u ∧ u.quota c t = { s.quota c t with count := n } ∧
      ∀ l, u.thread c t l = (s.thread c t l).clearRegs (32 * min n (s.quota c t).count) 640 := by
  by_cases hr : 20 < n ∨ (s.quota c t).dead ≠ 0
  · rw [resize_refused hr] at h
    cases h
  · by_cases hn : n ≤ (s.quota c t).count
    · rw [resize_shrinks hr hn] at h
      cases h
      refine ⟨(memory_requota _ _ _ _ _).trans (memory_mapRecs (.inl (cut_res (32 * n ≤ ·)))), ?_, fun l => ?_⟩
      · rw [quota_mapRecs, quota_requota, if_pos rfl]
      · rw [thread_mapRecs, thread_requota _ _ _ _ _ rfl, Nat.min_eq_left hn]
    · rw [resize_grows hr hn] at h
      split at h
      · cases h
      · cases h
        refine ⟨memory_requota _ _ _ _ _, ?_, fun l => ?_⟩
        · rw [quota_requota, if_pos rfl]
        · rw [thread_requota _ _ _ _ _ rfl, Nat.min_eq_right (by omega)]

/-! ### A grant (R203) -/

theorem setDead_frame {s u : State} {c t n : Nat} (h : s.setDead c t n = .inl u) :
    n ≤ (s.quota c t).count ∧ SameMemory s u ∧ u.quota c t = { s.quota c t with dead := n } ∧
      ∀ l, u.thread c t l = ((s.thread c t l).cancelBelow (32 * n)).clearRegs (32 * n) (32 * (s.quota c t).dead) := by
  have hs : s.setDead c t n = if (s.quota c t).count < n then .inr (bindInfo 7 t) else
      .inl ((s.requota c t { s.quota c t with dead := n } fun th => (th.cancelBelow (32 * n)).clearRegs (32 * n) (32 * (s.quota c t).dead)).mapRecs c t
        fun r => if r.res < 32 * n then { r with cut := true } else r) := rfl
  rw [hs] at h
  split at h
  · cases h
  next hn =>
    cases h
    refine ⟨Nat.le_of_not_lt hn, (memory_requota _ _ _ _ _).trans (memory_mapRecs (.inl (cut_res (· < 32 * n)))), ?_, fun l => ?_⟩
    · rw [quota_mapRecs, quota_requota, if_pos rfl]
    · rw [thread_mapRecs, thread_requota _ _ _ _ _ rfl]

/-- R203: a grant is made. -/
def State.grantOk (s : State) (c t r : Nat) : Prop :=
  0 < (s.quota c t).dead ∧ r ≠ t ∧ r ≤ 15 ∧ (s.quota c r).valid = true ∧ (s.quota c r).base + (s.quota c r).count = (s.quota c t).base ∧
    (s.quota c r).count + (s.quota c t).dead ≤ 20

/-- The two entries after a grant. -/
def State.grantQuotas (s : State) (c t r : Nat) : State :=
  s.modCore c fun k =>
    (k.setQuota r { s.quota c r with count := (s.quota c r).count + (s.quota c t).dead }).setQuota t
      { s.quota c t with base := (s.quota c t).base + (s.quota c t).dead, count := (s.quota c t).count - (s.quota c t).dead, dead := 0 }

/-- The registers after a grant. -/
def State.grantRegs (s : State) (c t r : Nat) : State :=
  ((s.grantQuotas c t r).modWave c r fun w => w.mapThreads fun th => th.clearRegs (32 * (s.quota c r).count) 640).modWave c t
    fun w => w.mapThreads fun th => th.renameDown (32 * (s.quota c t).dead)

/-- What a grant does to a record of the giver. -/
def TrapRec.granted (n : Nat) (r : TrapRec) : TrapRec := if r.cut ∨ r.res < n then { r with cut := true } else { r with res := r.res - n }

theorem grant_refused {s : State} {c t r : Nat} (h : ¬s.grantOk c t r) : s.grant c t r = .inr (bindInfo 7 (Nat.min r 31)) := by
  refine if_pos ?_
  refine Classical.byContradiction fun hc => ?_
  simp only [not_or, Bool.not_eq_true'] at hc
  obtain ⟨h1, h2, h3, h4, h5, h6⟩ := hc
  exact h ⟨Nat.pos_of_ne_zero h1, h2, Nat.le_of_not_lt h3, by simpa using h4, Classical.not_not.1 h5, Nat.le_of_not_lt h6⟩

theorem grant_made {s : State} {c t r : Nat} (h : s.grantOk c t r) :
    ∃ pr, s.grant c t r = .inl { (s.grantRegs c t r).mapRecs c t (TrapRec.granted (32 * (s.quota c t).dead)) with prods := pr } := by
  obtain ⟨h1, h2, h3, h4, h5, h6⟩ := h
  refine ⟨_, if_neg ?_⟩
  rintro (h | h | h | h | h | h)
  · omega
  · exact h2 h
  · omega
  · rw [h4] at h; cases h
  · exact h h5
  · omega

theorem quota_grantRegs (s : State) (c t r j : Nat) : (s.grantRegs c t r).quota c j = if j = t then
    { s.quota c t with base := (s.quota c t).base + (s.quota c t).dead, count := (s.quota c t).count - (s.quota c t).dead, dead := 0 }
    else if j = r then { s.quota c r with count := (s.quota c r).count + (s.quota c t).dead } else s.quota c j := by
  rw [State.grantRegs, quota_modWave, quota_modWave, State.grantQuotas, State.quota, core_modCore_same]
  exact (getK_insK _ _ _ _ _).trans (if_congr_val Iff.rfl (fun _ => rfl) (getK_insK _ _ _ _ _))

theorem thread_grantQuotas (s : State) (c t r c' t' l : Nat) : (s.grantQuotas c t r).thread c' t' l = s.thread c' t' l :=
  thread_modCore s c c' t' l (fun k =>
    (k.setQuota r { s.quota c r with count := (s.quota c r).count + (s.quota c t).dead }).setQuota t
      { s.quota c t with base := (s.quota c t).base + (s.quota c t).dead, count := (s.quota c t).count - (s.quota c t).dead, dead := 0 }) fun _ => rfl

theorem thread_grantRegs_giver {s : State} {c t r : Nat} (hr : r ≠ t) (l : Nat) :
    (s.grantRegs c t r).thread c t l = (s.thread c t l).renameDown (32 * (s.quota c t).dead) := by
  rw [State.grantRegs, thread_modWave, if_pos ⟨rfl, rfl⟩, thread_mapThreads _ rfl]
  refine congrArg (Thread.renameDown · _) ?_
  show State.thread _ c t l = _
  rw [thread_modWave, if_neg fun h => hr h.2.symm, thread_grantQuotas]

theorem thread_grantRegs_receiver {s : State} {c t r : Nat} (hr : r ≠ t) (l : Nat) :
    (s.grantRegs c t r).thread c r l = (s.thread c r l).clearRegs (32 * (s.quota c r).count) 640 := by
  rw [State.grantRegs, thread_modWave, if_neg fun h => hr h.2, thread_modWave, if_pos ⟨rfl, rfl⟩, thread_mapThreads _ rfl]
  exact congrArg (Thread.clearRegs · _ _) (thread_grantQuotas s c t r c r l)

theorem reg_renameDown (t : Thread) (n x : Nat) : (t.renameDown n).reg x = t.reg (x + n) := getK_downKeys 0 n t.regs x

theorem isEmpty_renameDown (t : Thread) (n x : Nat) : (t.renameDown n).isEmpty x = t.isEmpty (x + n) := any_downKeys n t.empty x

theorem memory_grantRegs (s : State) (c t r : Nat) : SameMemory s (s.grantRegs c t r) := .of_eq rfl rfl rfl rfl

/-- Settles O33: each change is a new quota, its threads' registers changed alike, and the records of the wave. -/
theorem quotaRegisters : Obligations.QuotaRegisters := by
  intro s u c t n r q
  refine ⟨fun h => ?_, resize_refused, ?_, ?_, fun h => ?_⟩
  · obtain ⟨hm, hq, ht⟩ := resize_frame h
    refine ⟨hm, hq, fun l x => ?_⟩
    rw [ht, reg_clearRegs, isEmpty_clearRegs]
    exact ⟨rfl, rfl⟩
  · intro free hn hd
    have hok : ¬(20 < n ∨ (s.quota c t).dead ≠ 0) := fun h => h.elim (fun h => absurd h (by omega)) fun h => h hd
    refine ⟨fun h => ?_, fun hlt hf => ?_⟩
    · by_cases hc : n ≤ q.count
      · exact ⟨_, resize_shrinks hok hc⟩
      · obtain ⟨hend, hfree⟩ := h.resolve_left hc
        refine ⟨_, (resize_grows hok hc).trans (if_neg ?_)⟩
        rintro (h | h)
        · exact absurd h (Nat.not_lt.2 hend)
        · rw [(blocksFree_iff s c t (Nat.le_of_not_le hc)).2 hfree] at h
          cases h
    · refine (resize_grows hok (Nat.not_le.2 hlt)).trans (if_pos ?_)
      refine (Decidable.em _).imp_right fun hend => ?_
      rw [Bool.not_eq_true', Bool.eq_false_iff]
      exact fun h => hf ⟨Nat.le_of_not_lt hend, (blocksFree_iff s c t (Nat.le_of_lt hlt)).1 h⟩
  · intro g ok
    refine ⟨grant_refused, fun h => (grant_made h).elim fun pr hp => ⟨_, hp⟩, fun h => ?_⟩
    by_cases hok : s.grantOk c t r
    · obtain ⟨pr, hp⟩ := grant_made hok
      have hr : r ≠ t := hok.2.1
      obtain rfl := Sum.inl.inj (h.symm.trans hp)
      have hquota : ∀ j, State.quota { (s.grantRegs c t r).mapRecs c t (TrapRec.granted (32 * (s.quota c t).dead)) with prods := pr } c j =
        (s.grantRegs c t r).quota c j := fun j => quota_mapRecs _ _ _ _ _ _
      have hthread : ∀ t' l, State.thread { (s.grantRegs c t r).mapRecs c t (TrapRec.granted (32 * (s.quota c t).dead)) with prods := pr } c t' l =
        (s.grantRegs c t r).thread c t' l := fun t' l => thread_mapRecs _ _ _ _ _ _ _
      refine ⟨?_, ?_, fun j hj hj' => ?_, fun l x => ?_, fun l x => ?_, fun k => ?_, fun h => ?_⟩
      · rw [hquota, quota_grantRegs, if_neg hr, if_pos rfl]
      · rw [hquota, quota_grantRegs, if_pos rfl]
      · rw [hquota, quota_grantRegs, if_neg hj', if_neg hj]
      · rw [hthread, thread_grantRegs_giver hr]
        exact ⟨reg_renameDown _ _ _, isEmpty_renameDown _ _ _, rfl⟩
      · rw [hthread, thread_grantRegs_receiver hr, reg_clearRegs, isEmpty_clearRegs]
        show (if x < 32 * g.count ∨ 640 ≤ x then _ else _) = _ ∧ (_ && decide (x < 32 * g.count ∨ 640 ≤ x)) = _
        constructor
        · by_cases hx : 32 * g.count ≤ x ∧ x < 640
          · rw [if_pos hx, if_neg (by omega)]
          · rw [if_neg hx, if_pos (by omega)]
        · rw [← Bool.decide_and, ← decide_not]
          exact congrArg _ (decide_eq_decide.2 (by omega))
      · exact congrArg (getK 0 · k) (hbm_mapRecs _ _ _ _)
      · exact (memory_grantRegs s c t r).trans ((memory_mapRecs (s := s.grantRegs c t r) (f := TrapRec.granted _) (.inr h)).trans (.of_eq rfl rfl rfl rfl))
    · rw [grant_refused hok] at h
      cases h
  · obtain ⟨hn, hm, hq, ht⟩ := setDead_frame h
    refine ⟨hn, hm, hq, fun l x => ?_⟩
    rw [ht, reg_clearRegs]
    rfl

end Sys2Proof.Machine

namespace Sys2Proof.Machine

/-! ## What issues (R108) -/

section
variable {g : Guard} {sp : Spec} {x : Extra} {s s0 s1 : State} {rows : List (Nat × List (List Word))}

theorem Issues.prep (h : Issues s g sp s0 s1 rows) : prep s g sp = .go s0 s1 rows := by
  cases h with
  | plain hp => exact prep_of_plain hp fun _ => rfl
  | found hp => exact hp

theorem IssuesWith.prep (h : IssuesWith s g sp x s0 s1 rows) : Machine.prep s g sp false x = .go s0 s1 rows := by
  cases h with
  | plain hp hx => exact prep_of_plain hp hx
  | found hp => exact hp

/-! ## Submission to a unit (R292, R293) -/

variable {pb n al cls queue : Nat} {e : Bool} {full : Wait} {room : State → List Word → Bool} {take : State → Nat → List Word → State}
  {extra : State → List Word → List (List Word)}

/-- The state in which a submission takes its operation's number and joins it to the open batches (R255). -/
def State.joined (s : State) (rows : List (Nat × List (List Word))) (cls : Nat) : State :=
  ({ s with nextId := s.nextId + 1 } : State).joinOp (rowMask rows) cls s.nextId

theorem submit_takes (h : Machine.prep s g { srcs := [{ pos := 0, src := { o := .reg pb, e }, n, al }] } = .go s0 s1 rows)
    (hr : room s1 ((firstRow rows).getD 0 []) = true) :
    submit s g pb n al e cls queue none full room take extra = (take (s1.joined rows cls) s1.nextId ((firstRow rows).getD 0 [])).finish := by
  obtain ⟨-, -, hne, -⟩ := prep_go h
  unfold submit
  rw [h]
  cases rows with
  | nil => exact absurd rfl hne
  | cons p ps => exact if_pos hr

theorem submit_waits (h : Machine.prep s g { srcs := [{ pos := 0, src := { o := .reg pb, e }, n, al }] } = .go s0 s1 rows)
    (hr : room s1 ((firstRow rows).getD 0 []) = false) :
    submit s g pb n al e cls queue none full room take extra = s0.block .blockedQueue full := by
  obtain ⟨-, -, hne, -⟩ := prep_go h
  unfold submit
  rw [h]
  cases rows with
  | nil => exact absurd rfl hne
  | cons p ps => exact if_neg (by rw [show room s1 (p.2.getD 0 []) = false from hr]; nofun)

theorem submit_pushes {port : Nat} (h : Machine.prep s g { srcs := [{ pos := 0, src := { o := .reg pb, e }, n, al }] } = .go s0 s1 rows)
    (hq : (s1.core s1.cur.core).portQueue port = some queue) (hr : s1.pushOk s1.cur.core (s1.core s1.cur.core) queue = true) :
    submit s g pb n al e cls queue (some port) full room take extra =
      ((s1.joined rows cls).modCore s1.cur.core fun k => k.setQueue queue (k.queue queue ++
        [.cmd ((firstRow rows).getD 0 []) s1.cur.turn (s1.wave s1.cur.core s1.cur.turn).uid s1.nextId (extra s1 ((firstRow rows).getD 0 [])) []])).finish := by
  obtain ⟨-, -, hne, -⟩ := prep_go h
  unfold submit
  rw [h]
  cases rows with
  | nil => exact absurd rfl hne
  | cons p ps =>
    dsimp only
    rw [Option.bind_some, hq]
    dsimp only
    rw [if_pos rfl]
    dsimp only
    rw [if_neg (by rw [hr]; nofun)]
    rfl
end

/-! ## Multicast (R297) -/

/-- What the depot does with a block of `cpymc` that it can take. -/
theorem execCpymc_takes {g : Guard} {pb : Nat} {e : Bool} {s s0 s1 : State} {rows : List (Nat × List (List Word))} (hc : isSerai s.cur.core = false)
    (h : prep s g { srcs := [{ pos := 0, src := { o := .reg pb, e }, n := 8, al := 8 }] } = .go s0 s1 rows)
    (hr : (s1.mcastBad s1.cur.core ((firstRow rows).getD 0 [])).isSome = true ∨ (s1.cl (clusterOf s1.cur.core)).freeSlot.isSome = true) :
    exec (.cpymc g pb e) s = .next (match s1.mcastBad s1.cur.core ((firstRow rows).getD 0 []), (s1.cl (clusterOf s1.cur.core)).freeSlot with
      | some c, _ => (s1.joined rows 4).completeOp s1.cur.core s1.nextId (some c)
      | none, some i => ({ s1.joined rows 4 with nextId := s1.nextId + 2 } : State).modSlot (clusterOf s1.cur.core) i fun _ =>
          { state := 1, sender := coreIndex s1.cur.core, chan := wBits (((firstRow rows).getD 0 []).getD 1 0) 31 16,
            nblk := wBits (((firstRow rows).getD 0 []).getD 1 0) 6 0,
            npend := popCount (BitVec.ofNat 128 (natOfWords (((firstRow rows).getD 0 []).drop 4))),
            mask := BitVec.ofNat 128 (natOfWords (((firstRow rows).getD 0 []).drop 4)),
            soff := (((firstRow rows).getD 0 []).getD 0 0).toNat, op := s1.nextId, order := s1.nextId + 1 }
      | none, none => s1.joined rows 4).finish := by
  obtain ⟨-, hk, -, -⟩ := prep_go h
  refine (congrArg Host.Outcome.next (computeOnly_run _ hc)).trans (congrArg Host.Outcome.next ((submit_takes h ?_).trans ?_))
  · rw [← hk.cur, Bool.or_eq_true]
    exact hr
  · rw [← hk.cur]
    rfl

/-! ## The lathe (R234 to R237) -/

/-- The registers that the descriptors of a command name, with their counts (R240). -/
def LatheCmd.ranges (c : LatheCmd) : List (Nat × Nat) := (descRegs c.kc c.a).toList ++ (descRegs c.kc c.b).toList

/-- The registers of a descriptor as every lane of a wave holds them. -/
def Wave.captured (w : Wave) (kc : Nat) (d : DWord) : List (List Word) :=
  match descRegs kc d with
  | some x => (List.range 32).map fun l => (List.range x.2).map fun i => (w.thread l).reg (x.1 + i)
  | none => []

/-- A lathe command whose checks pass (R237, R240). -/
structure LatheOk (s : State) (ws : List Word) : Prop where
  quota : firstOut (s.quotaOf s.cur.core s.cur.turn) (s.deadBelow s.cur.core s.cur.turn) ((LatheCmd.ofWords ws).ranges.map fun x => (x.1, x.2, 1)) = none
  full : ∀ x ∈ (LatheCmd.ofWords ws).ranges, ∀ l < 32, ∀ i < x.2, ((s.wave s.cur.core s.cur.turn).thread l).isEmpty (x.1 + i) = false
  good : latheBad ws = false
  banks : ∀ b ∈ (LatheCmd.ofWords ws).banks, ((s.core s.cur.core).bank b).owned s.cur.turn = true
  inside : s.descOutside s.cur.core (LatheCmd.ofWords ws).kc (32 * (LatheCmd.ofWords ws).mt) (LatheCmd.ofWords ws).a = false ∧
    s.descOutside s.cur.core (LatheCmd.ofWords ws).kc (16 * (LatheCmd.ofWords ws).nh) (LatheCmd.ofWords ws).b = false

/-- A lathe command joins: `put` says where. -/
def State.latheJoin (s : State) (rows : List (Nat × List (List Word))) (ws : List Word) (put : Core → Core) : State :=
  ((({ s with nextId := s.nextId + 1 } : State).modCore s.cur.core fun k =>
    (put k).modBanks (LatheCmd.ofWords ws).banks fun b => b.set 31 24 (b.pend + 1)).joinOp (rowMask rows) 1 s.nextId).finish

theorem latheHoles_nil {s : State} {ws : List Word} (h : LatheOk s ws) : ((LatheCmd.ofWords ws).ranges.flatMap fun x => (List.range 32).flatMap fun l =>
    (((List.range x.2).map (x.1 + ·)).filter ((s.wave s.cur.core s.cur.turn).thread l).isEmpty).map fun y => (l, y)) = [] := by
  simp only [List.flatMap_eq_nil_iff, List.map_eq_nil_iff, List.filter_eq_nil_iff, List.mem_range, List.mem_map]
  rintro x hx l hl _ ⟨i, hi, rfl⟩
  rw [h.full x hx l hl i hi]
  nofun

theorem lmmaOp_go {g : Guard} {pb : Nat} {e : Bool} {s s0 s1 : State} {rows : List (Nat × List (List Word))}
    (h : prep s g { srcs := [{ pos := 0, src := { o := .reg pb, e }, n := 6, al := 2 }], once := true } = .go s0 s1 rows)
    (hok : LatheOk s1 ((firstRow rows).getD 0 [])) :
    ((s1.core s1.cur.core).lathe.length < 4 → lmmaOp s g pb e none = s1.latheJoin rows ((firstRow rows).getD 0 []) fun k =>
      { k with lathe := k.lathe ++ [{ turn := s1.cur.turn, uid := (s1.wave s1.cur.core s1.cur.turn).uid, op := s1.nextId, words := (firstRow rows).getD 0 [],
                                      regsA := (s1.wave s1.cur.core s1.cur.turn).captured (LatheCmd.ofWords ((firstRow rows).getD 0 [])).kc (LatheCmd.ofWords ((firstRow rows).getD 0 [])).a,
                                      regsB := (s1.wave s1.cur.core s1.cur.turn).captured (LatheCmd.ofWords ((firstRow rows).getD 0 [])).kc (LatheCmd.ofWords ((firstRow rows).getD 0 [])).b }] }) ∧
    (∀ port, (s1.core s1.cur.core).portQueue port = some 32 → s1.pushOk s1.cur.core (s1.core s1.cur.core) 32 = true →
      lmmaOp s g pb e (some port) = s1.latheJoin rows ((firstRow rows).getD 0 []) fun k => k.setQueue 32 (k.queue 32 ++
        [.cmd ((firstRow rows).getD 0 []) s1.cur.turn (s1.wave s1.cur.core s1.cur.turn).uid s1.nextId
          ((s1.wave s1.cur.core s1.cur.turn).captured (LatheCmd.ofWords ((firstRow rows).getD 0 [])).kc (LatheCmd.ofWords ((firstRow rows).getD 0 [])).a)
          ((s1.wave s1.cur.core s1.cur.turn).captured (LatheCmd.ofWords ((firstRow rows).getD 0 [])).kc (LatheCmd.ofWords ((firstRow rows).getD 0 [])).b)])) := by
  obtain ⟨-, -, hne, -⟩ := prep_go h
  have hholes := latheHoles_nil hok
  have hbanks : (LatheCmd.ofWords ((firstRow rows).getD 0 [])).banks.find? (fun b => !((s1.core s1.cur.core).bank b).owned s1.cur.turn) = none :=
    List.find?_eq_none.2 fun b hb => by rw [hok.banks b hb]; nofun
  unfold lmmaOp
  rw [h]
  cases rows with
  | nil => exact absurd rfl hne
  | cons p ps =>
    have hq := hok.quota
    obtain ⟨hin, hin'⟩ := hok.inside
    have hgood := hok.good
    simp only [firstRow, List.headD_cons, LatheCmd.ranges] at *
    refine ⟨fun hroom => ?_, fun port hport hpush => ?_⟩
    · simp only [hq, hholes, hgood, hbanks, hin, hin', Option.bind_none, Bool.or_self, List.isEmpty_nil, Bool.not_true, Bool.false_and, List.map_nil, if_false,
        if_neg (Nat.not_le.2 hroom), Bool.false_eq_true]
      rfl
    · simp only [hq, hholes, hgood, hbanks, hin, hin', Option.bind_some, hport, if_true, Bool.or_self, List.isEmpty_nil, Bool.not_true, Bool.false_and, List.map_nil, if_false,
        hpush, Bool.false_eq_true]
      rfl

/-- Settles O34: each is a submission (`submit_takes`, `submit_waits`, `submit_pushes`), or a lathe command that passes its checks (`lmmaOp_go`). -/
theorem commandSubmissionResults : Obligations.CommandSubmissionResults := by
  refine ⟨?_, ?_⟩
  · intro g pb e port s s0 s1 rows c k id ws u push net
    refine ⟨fun hi => ?_, fun hi hc => ?_⟩
    · have h := hi.prep
      refine ⟨fun hc hr => ?_, fun hc hr => ?_, fun hc hq hr => ?_, fun hr => ?_, fun hq hr => ?_, fun hr => ?_⟩
      · exact (congrArg Host.Outcome.next (computeOnly_run _ hc)).trans (congrArg Host.Outcome.next (submit_takes h hr))
      · exact (congrArg Host.Outcome.next (computeOnly_run _ hc)).trans (congrArg Host.Outcome.next (submit_waits h hr))
      · exact (congrArg Host.Outcome.next (computeOnly_run _ hc)).trans (congrArg Host.Outcome.next (submit_pushes h hq hr))
      · exact congrArg Host.Outcome.next (submit_takes h (decide_eq_true hr))
      · exact congrArg Host.Outcome.next (submit_pushes h hq hr)
      · exact ⟨congrArg Host.Outcome.next (submit_takes h hr), congrArg Host.Outcome.next (submit_takes h hr), congrArg Host.Outcome.next (submit_takes h hr),
          congrArg Host.Outcome.next (submit_takes h hr), congrArg Host.Outcome.next (submit_takes h hr)⟩
    · have h := hi.prep
      obtain ⟨-, hk, -, -⟩ := prep_go h
      refine ⟨fun cause hbad => ?_, fun i hbad hslot => ?_, fun hbad hslot => ?_⟩
      · refine (execCpymc_takes hc h (.inl (by rw [hbad]; rfl))).trans ?_
        rw [hbad]
        rfl
      · refine (execCpymc_takes hc h (.inr (by rw [hslot]; rfl))).trans ?_
        rw [hbad, hslot]
        rfl
      · refine (congrArg Host.Outcome.next (computeOnly_run _ hc)).trans (congrArg Host.Outcome.next (submit_waits h ?_))
        rw [← hk.cur, Bool.or_eq_false_iff]
        exact ⟨by rw [hbad]; rfl, by rw [hslot]; rfl⟩
  · intro g pb e port s s0 s1 rows c t k w ws cmd ranges cap go hc hi hq hf hg hb ha hb'
    obtain ⟨hroom, hqueue⟩ := lmmaOp_go hi.prep (e := e) ⟨hq, hf, hg, hb, ha, hb'⟩
    exact ⟨fun hr => (congrArg Host.Outcome.next (computeOnly_run _ hc)).trans (congrArg Host.Outcome.next (hroom hr)),
      fun hp hr => (congrArg Host.Outcome.next (computeOnly_run _ hc)).trans (congrArg Host.Outcome.next (hqueue _ hp hr))⟩

end Sys2Proof.Machine

namespace Sys2Proof.Machine

/-! ## Banks of AMEM (R229 to R232, R241, R253) -/

section
variable {g : Guard} {sp : Spec} {s s0 s1 : State} {rows : List (Nat × List (List Word))} {body : State → Mask → List (List Word) → Once}
  {pre : List (List Word) → Option (Nat × Word)} {sp : Spec}

/-- An instruction that acts once on banks goes on, faults, or waits. -/
theorem next_bankOp (hc : isSerai s.cur.core = false) (h : prep s g sp false (bankOwn s pre body) = .go s0 s1 rows) :
    (∀ u, body s1 (rowMask rows) (firstRow rows) = .done u →
      (Host.Outcome.next (computeOnly s (bankOp s g sp body pre)) : Host.Outcome State Fault Refusal) = .next u.finish) ∧
    (∀ code info, body s1 (rowMask rows) (firstRow rows) = .fault code info →
      (Host.Outcome.next (computeOnly s (bankOp s g sp body pre)) : Host.Outcome State Fault Refusal) = .next (s0.takeFaults (rowMask rows) code info).finish) ∧
    (∀ w, body s1 (rowMask rows) (firstRow rows) = .wait w →
      (Host.Outcome.next (computeOnly s (bankOp s g sp body pre)) : Host.Outcome State Fault Refusal) = .next (s0.block .blockedQueue w)) := by
  obtain ⟨-, -, hne, -⟩ := prep_go h
  rw [computeOnly_run _ hc, bankOp, h]
  cases rows with
  | nil => exact absurd rfl hne
  | cons p ps =>
    have hb : ∀ r, body s1 (rowMask (p :: ps)) (firstRow (p :: ps)) = r → body s1 (Mask.ofLanes ((p :: ps).map (·.1))) p.2 = r := fun r hr => hr
    refine ⟨fun u hu => ?_, fun code info hu => ?_, fun w hu => ?_⟩
    · dsimp only
      rw [hb _ hu]
    · dsimp only
      rw [hb _ hu]
      rfl
    · dsimp only
      rw [hb _ hu]

theorem amemBand_mod (cause v : Nat) : amemBand cause (v % 16) = amemBand cause v := by rw [amemBand, amemBand, Nat.mod_mod]

theorem allocBad_iff (w : Word) : allocBad w = true ↔ w.toNat = 0 ∨ 16 < w.toNat := by
  simp only [allocBad, Bool.or_eq_true, beq_iff_eq, decide_eq_true_eq, ← BitVec.toNat_inj]
  exact Iff.rfl

theorem execAalloc_go {d : Operand} {a : Src} (hc : isSerai s.cur.core = false)
    (h : prep s g { srcs := [{ pos := 0, src := a }], dst := some { o := d }, once := true } false allocOwn = .go s0 s1 rows) :
    (allocBad (wordAt (firstRow rows) 0 0) = true → exec (.aalloc g d a) s = .next (s0.takeFaults (rowMask rows) 0x10 (amemBand 4 0)).finish) ∧
    (allocBad (wordAt (firstRow rows) 0 0) = false → exec (.aalloc g d a) s =
      match (s1.core s1.cur.core).freeRun (wordAt (firstRow rows) 0 0).toNat with
        | none => .next (s1.writeDst { o := d } (rows.map fun p => (p.1, [0xFFFFFFFF]))).finish
        | some b => .next ((s1.modCore s1.cur.core fun k => k.modBanks ((List.range (wordAt (firstRow rows) 0 0).toNat).map (b + ·)) fun _ =>
            { word := BitVec.ofNat 32 (1 + 2 * s1.cur.turn + 2 ^ 10 * b + 2 ^ 14 * (wordAt (firstRow rows) 0 0).toNat) }).writeDst { o := d }
              (rows.map fun p => (p.1, [BitVec.ofNat 32 b]))).finish) := by
  obtain ⟨-, -, hne, -⟩ := prep_go h
  show (_ → execAalloc g d a s = _) ∧ (_ → execAalloc g d a s = _)
  rw [execAalloc, computeOnly_run _ hc, h]
  cases rows with
  | nil => exact absurd rfl hne
  | cons p ps =>
    refine ⟨fun hb => ?_, fun hb => ?_⟩
    · exact congrArg Host.Outcome.next (if_pos hb)
    · refine (congrArg Host.Outcome.next (if_neg (by rw [show allocBad (wordAt p.2 0 0) = false from hb]; nofun))).trans ?_
      dsimp only [firstRow, List.headD_cons]
      cases (s1.core s1.cur.core).freeRun (wordAt p.2 0 0).toNat <;> rfl

theorem splitFaults_none {α : Type} {rows : List (Nat × α)} {f : Nat → α → Option (Nat × Word × DWord)} (h : ∀ p ∈ rows, f p.1 p.2 = none) :
    splitFaults rows f = ([], rows) := by
  refine Prod.ext (filterMap_none_of fun p hp => by rw [h p hp]; rfl) (List.filter_eq_self.2 fun p hp => by rw [h p hp]; rfl)

theorem filter_map_nil {α β : Type} {f : α → β} {P : β → Bool} {l : List α} (h : ∀ x ∈ l, P (f x) = false) : (l.map f).filter P = [] := by
  refine List.filter_eq_nil_iff.2 fun y hy => ?_
  obtain ⟨x, hx, rfl⟩ := List.mem_map.1 hy
  rw [h x hx]
  nofun

/-- What an `ald` reads of its bank for a lane, and delivers (R251). -/
def State.aldLane (c base : Nat) (s : State) (p : Nat × Nat) : State :=
  let b := bitsN p.2 3 0
  let n := bitsN p.2 14 9
  let ks := (List.range n).map fun j => 32 * p.1 + bitsN p.2 8 4 + j
  let r := ((s.core c).bank b).read ks
  let s := if p.2.testBit 15 then s.modCore c fun k => k.modBank b fun x => x.clear ks else s
  ((if r.2 then s.curFlags Flags.amu else s).newProd p.1 (.vals r.1) ((List.range n).map (base + ·))).2

/-- The words of the lanes of an `ald` that pass their checks (R251). -/
structure AldOk (s s1 : State) (base v : Nat) : Prop where
  quota : firstOut (s.quotaOf s.cur.core s.cur.turn) (s.deadBelow s.cur.core s.cur.turn) [(base, aldCount v, 1)] = none
  form : v < 2 ^ 16 ∧ 1 ≤ bitsN v 14 9 ∧ bitsN v 14 9 ≤ 32 ∧ bitsN v 8 4 + bitsN v 14 9 ≤ 32
  held : ((s1.core s.cur.core).bank (bitsN v 3 0)).heldBy s.cur.turn = true
  idle : ((s1.core s.cur.core).bank (bitsN v 3 0)).pend = 0
  quiet : reportFault ((s1.core s.cur.core).bank (bitsN v 3 0)) (bitsN v 3 0) = none

theorem execAld_go {r : Nat} {a : Src} (hc : isSerai s.cur.core = false)
    (h : prep s g { srcs := [{ pos := 0, src := a }], dst := some { o := .reg r } } false (aldOwn s r) = .go s0 s1 rows)
    (hok : ∀ p ∈ rows, AldOk s s1 r (wordAt p.2 0 0).toNat) :
    exec (.ald g (.reg r) a) s = .next ((rows.map fun p => (p.1, (wordAt p.2 0 0).toNat)).foldl (State.aldLane s.cur.core r)
      ((rows.map fun p => (p.1, (wordAt p.2 0 0).toNat)).foldl (fun u p => u.findBad s.cur.core (bitsN p.2 3 0)) (s1.unreport s.cur.core []))).finish := by
  obtain ⟨-, -, hne, -⟩ := prep_go h
  have hlanes : ∀ p ∈ rows.map (fun p => (p.1, (wordAt p.2 0 0).toNat)), AldOk s s1 r p.2 := fun p hp => by
    obtain ⟨q, hq, rfl⟩ := List.mem_map.1 hp
    exact hok q hq
  have hmap : (rows.map fun p => (p.1, (wordAt p.2 0 0).toNat)) ≠ [] := fun hn => hne (List.map_eq_nil_iff.1 hn)
  show execAld g (.reg r) a s = _
  unfold execAld
  dsimp only
  rw [computeOnly_run _ hc, h]
  dsimp only
  generalize (rows.map fun p => (p.1, (wordAt p.2 0 0).toNat)) = lanes at hlanes hmap
  have hout : s.aldOut r (lanes.map (·.2)) = none := by
    rw [State.aldOut]
    refine List.findSome?_eq_none_iff.2 fun v hv => ?_
    obtain ⟨p, hp, rfl⟩ := List.mem_map.1 hv
    exact (hlanes p hp).quota
  rw [hout]
  dsimp only
  rw [splitFaults_none, filter_map_nil, splitFaults_none, filter_map_nil, if_neg nofun, if_neg]
  · rfl
  · exact fun he => hmap (List.isEmpty_iff.1 he)
  · exact fun p hp => by rw [(hlanes p hp).quiet]; rfl
  · exact fun p hp => (hlanes p hp).quiet
  · exact fun p hp => by rw [(hlanes p hp).idle]; exact Bool.and_false _
  · intro p hp
    obtain ⟨h1, h2, h3, h4⟩ := (hlanes p hp).form
    rw [if_neg (by omega), (hlanes p hp).held]
    exact if_neg (by rw [Bool.not_true, Bool.and_false]; nofun)
end

theorem cur_suspect (s : State) (cl kind target : Nat) : (s.suspect cl kind target).cur = s.cur := by
  unfold State.suspect
  dsimp only
  split <;> rfl

theorem cur_latheEvent (s : State) (c kind bank : Nat) : (s.latheEvent c kind bank).cur = s.cur :=
  cur_suspect (s.raise (clusterOf c) 1 kind [BitVec.ofNat 32 c, BitVec.ofNat 32 bank]) (clusterOf c) 2 (c + 2 ^ 11 * bank)

theorem cur_poisonBank (s : State) (c bank : Nat) (array : Bool) : (s.poisonBank c bank array).cur = s.cur := by
  unfold State.poisonBank
  refine (cur_latheEvent _ _ _ _).trans ?_
  split
  · exact cur_latheEvent _ _ _ _
  · rfl

theorem cur_findBad (s : State) (c b : Nat) : (s.findBad c b).cur = s.cur := by
  unfold State.findBad
  split
  · exact cur_poisonBank _ _ _ _
  · rfl

/-- The rows of an `ast` leave the bank in `u`, for the turn `t` (R252). -/
def State.astTaken (u : State) (c t v off : Nat) (act : Mask) : State :=
  let n := bitsN v 3 0
  let nrow := bitsN v 14 9
  let cols := if v.testBit 16 then 16 else 32
  let keys := fun i => (List.range cols).map fun j => 32 * (bitsN v 8 4 + i) + j
  let img := (List.range nrow).map fun i => (ownAddr c (off + 64 * bitsN v 31 24 * i), bytesOfWords (((u.core c).bank n).read (keys i)).1)
  let taken := fun (k : Core) => if v.testBit 15 then k.modBank n fun x => (List.range nrow).foldl (fun x i => x.clear (keys i)) x else k
  (({ u with nextId := u.nextId + 1 } : State).modCore c fun k =>
    { taken k with asts := (taken k).asts ++ [{ op := u.nextId, turn := t, uid := ((taken k).wave t).uid, rows := img,
                                                fl := if (((u.core c).bank n).read []).2 then Flags.amu else 0 }] }).joinOp act 1 u.nextId

/-- What an `ast` takes when its checks pass (R252). -/
theorem astBody_done {s : State} {act : Mask} {vs : List (List Word)} (hbad : astBad (wordAt vs 0 0).toNat (wordAt vs 1 0).toNat = false)
    (hheld : ((s.core s.cur.core).bank (bitsN (wordAt vs 0 0).toNat 3 0)).heldBy s.cur.turn = true)
    (hidle : ((s.core s.cur.core).bank (bitsN (wordAt vs 0 0).toNat 3 0)).pend = 0)
    (hin : ∀ i < bitsN (wordAt vs 0 0).toNat 14 9, s.spOk s.cur.core ((wordAt vs 1 0).toNat + 64 * bitsN (wordAt vs 0 0).toNat 31 24 * i)
      (4 * if (wordAt vs 0 0).toNat.testBit 16 then 16 else 32) = true)
    (hquiet : reportFault ((s.core s.cur.core).bank (bitsN (wordAt vs 0 0).toNat 3 0)) (bitsN (wordAt vs 0 0).toNat 3 0) = none) :
    astBody s act vs = .done ((s.findBad s.cur.core (bitsN (wordAt vs 0 0).toNat 3 0)).astTaken s.cur.core s.cur.turn (wordAt vs 0 0).toNat
      (wordAt vs 1 0).toNat act) := by
  unfold astBody
  dsimp only
  rw [hbad, hheld, hidle, hquiet, if_neg nofun, if_neg (by simp), if_neg, if_neg (by simp)]
  · refine Eq.trans ?_ (congrArg (fun t => Once.done (State.astTaken _ _ t _ _ _)) (congrArg (·.turn) (cur_findBad s s.cur.core (bitsN (wordAt vs 0 0).toNat 3 0))))
    rfl
  · rw [List.any_eq_true]
    rintro ⟨i, hi, h⟩
    rw [hin i (List.mem_range.1 hi)] at h
    cases h

/-! ### The bodies of `afree`, `aband` and `arel` (R230 to R232) -/

section
variable {s : State} {act : Mask} {vs : List (List Word)}

theorem afreeBody_eq (h : (wordAt vs 0 0).toNat < 16) : afreeBody s act vs =
    if (((s.core s.cur.core).bank (wordAt vs 0 0).toNat).valid = false ∨ ((s.core s.cur.core).bank (wordAt vs 0 0).toNat).abase ≠ (wordAt vs 0 0).toNat ∨
      ((s.core s.cur.core).bank (wordAt vs 0 0).toNat).owner ≠ s.cur.turn ∨
      ∃ y ∈ (s.core s.cur.core).allocation (wordAt vs 0 0).toNat, ((s.core s.cur.core).bank y).granted = true) then
      .fault 0x10 (amemBand 3 (wordAt vs 0 0).toNat)
    else if ∃ y ∈ (s.core s.cur.core).allocation (wordAt vs 0 0).toNat, ((s.core s.cur.core).bank y).pend ≠ 0 then
      .wait (.pend ((s.core s.cur.core).allocation (wordAt vs 0 0).toNat))
    else .done (s.modCore s.cur.core fun k =>
      ((s.core s.cur.core).allocation (wordAt vs 0 0).toNat).foldl (fun k y => { k with banks := delK k.banks y }) k) := by
  have hmod : (wordAt vs 0 0).toNat % 16 = (wordAt vs 0 0).toNat := Nat.mod_eq_of_lt h
  unfold afreeBody
  dsimp only
  rw [hmod, if_neg (by omega)]
  refine if_congr_val (by simp [or_assoc]) (fun _ => rfl) (if_congr_val (by simp) (fun _ => rfl) rfl)

theorem afreeBody_malformed (h : 16 ≤ (wordAt vs 0 0).toNat) : afreeBody s act vs = .fault 0x10 (amemBand 4 (wordAt vs 0 0).toNat) := by
  unfold afreeBody
  dsimp only
  rw [if_pos h, amemBand_mod]
theorem abandBody_malformed (h : bandRange (wordAt vs 0 0).toNat 13 = none) : abandBody s act vs = .fault 0x10 (amemBand 4 (wordAt vs 0 0).toNat) := by
  unfold abandBody
  dsimp only
  rw [h]

theorem abandBody_other {banks : List Nat} {b : Nat} (h : bandRange (wordAt vs 0 0).toNat 13 = some banks)
    (hb : banks.find? (fun b => !((s.core s.cur.core).bank b).owned s.cur.turn) = some b) : abandBody s act vs = .fault 0x10 (amemBand 1 b) := by
  unfold abandBody
  dsimp only
  rw [h]
  dsimp only
  rw [hb]

theorem abandBody_owned {banks : List Nat} (h : bandRange (wordAt vs 0 0).toNat 13 = some banks)
    (hb : ∀ b ∈ banks, ((s.core s.cur.core).bank b).owned s.cur.turn = true) : abandBody s act vs =
      if bitsN (wordAt vs 0 0).toNat 12 9 = s.cur.turn ∨ !((s.core s.cur.core).wave (bitsN (wordAt vs 0 0).toNat 12 9)).live ∨
        ((s.core s.cur.core).wave (bitsN (wordAt vs 0 0).toNat 12 9)).alive = 0 then .fault 0x10 (amemBand 1 (wordAt vs 0 0).toNat)
      else .done (s.modCore s.cur.core fun k => k.modBanks banks fun b => (b.set 5 5 1).set 9 6 (bitsN (wordAt vs 0 0).toNat 12 9)) := by
  have hnone : banks.find? (fun b => !((s.core s.cur.core).bank b).owned s.cur.turn) = none := List.find?_eq_none.2 fun b hm => by rw [hb b hm]; nofun
  unfold abandBody
  dsimp only
  rw [h]
  dsimp only
  rw [hnone]

theorem arelBody_malformed (h : bandRange (wordAt vs 0 0).toNat 9 = none) : arelBody s act vs = .fault 0x10 (amemBand 4 (wordAt vs 0 0).toNat) := by
  unfold arelBody
  dsimp only
  rw [h]

theorem arelBody_other {banks : List Nat} {b : Nat} (h : bandRange (wordAt vs 0 0).toNat 9 = some banks)
    (hb : banks.find? (fun b => !(((s.core s.cur.core).bank b).live && ((s.core s.cur.core).bank b).granted &&
      ((s.core s.cur.core).bank b).grantee == s.cur.turn)) = some b) : arelBody s act vs = .fault 0x10 (amemBand 2 b) := by
  unfold arelBody
  dsimp only
  rw [h]
  dsimp only
  rw [hb]

theorem arelBody_granted {banks : List Nat} (h : bandRange (wordAt vs 0 0).toNat 9 = some banks)
    (hb : ∀ b ∈ banks, ((s.core s.cur.core).bank b).live = true ∧ ((s.core s.cur.core).bank b).granted = true ∧
      ((s.core s.cur.core).bank b).grantee = s.cur.turn) :
    arelBody s act vs = .done (s.modCore s.cur.core fun k => k.modBanks banks fun b => b.set 5 5 0) := by
  have hnone : banks.find? (fun b => !(((s.core s.cur.core).bank b).live && ((s.core s.cur.core).bank b).granted &&
      ((s.core s.cur.core).bank b).grantee == s.cur.turn)) = none := List.find?_eq_none.2 fun b hm => by
    obtain ⟨h1, h2, h3⟩ := hb b hm
    rw [h1, h2, h3, beq_self_eq_true]
    nofun
  unfold arelBody
  dsimp only
  rw [h]
  dsimp only
  rw [hnone]
end

/-- Settles O35: what each body answers is its case in the model; `ald` and `ast` when their checks pass. -/
theorem accumulatorBankResults : Obligations.AccumulatorBankResults := by
  refine ⟨?_, ?_⟩
  · intro g d a s s0 s1 rows c t k v fault hc
    refine ⟨fun hi hv => ?_, fun hi h1 h2 => ?_, fun hi => ?_, fun hi => ?_, fun hi => ?_, fun hi => ?_⟩
    · exact (execAalloc_go hc hi.prep).1 ((allocBad_iff _).2 hv)
    · refine (execAalloc_go hc hi.prep).2 (Bool.eq_false_iff.2 fun hb => ?_)
      have := (allocBad_iff _).1 hb
      omega
    · exact (congrArg Host.Outcome.next (computeOnly_run _ hc)).trans (next_laneOp hi.prep rfl)
    · obtain ⟨hdone, hfault, hwait⟩ := next_bankOp hc hi.prep
      refine ⟨fun hv => hfault _ _ (afreeBody_malformed hv), fun hv hb => hfault _ _ ((afreeBody_eq hv).trans (if_pos hb)), fun hv h1 h2 h3 h4 hp => ?_, fun hv h1 h2 h3 h4 => ?_⟩
      · refine hwait _ ((afreeBody_eq hv).trans ((if_neg ?_).trans (if_pos hp)))
        rintro (h | h | h | ⟨y, hy, h⟩)
        · exact absurd (h1.symm.trans h) nofun
        · exact h h2
        · exact h h3
        · exact absurd ((h4 y hy).symm.trans h) nofun
      · refine hdone _ ((afreeBody_eq hv).trans ((if_neg ?_).trans (if_neg ?_)))
        · rintro (h | h | h | ⟨y, hy, h⟩)
          · exact absurd (h1.symm.trans h) nofun
          · exact h h2
          · exact h h3
          · exact absurd ((h4 y hy).1.symm.trans h) nofun
        · rintro ⟨y, hy, h⟩
          exact h (h4 y hy).2
    · obtain ⟨hdone, hfault, -⟩ := next_bankOp hc hi.prep
      refine ⟨fun hr => hfault _ _ (abandBody_malformed hr), fun banks b hr hb => hfault _ _ (abandBody_other hr hb), fun banks hr hb ht => ?_, fun banks hr hb h1 h2 h3 => ?_⟩
      · refine hfault _ _ ((abandBody_owned hr hb).trans (if_pos ?_))
        rcases ht with h | h | h
        · exact .inl h
        · exact .inr (.inl (by rw [show ((s1.core s1.cur.core).wave _).live = false from h]; rfl))
        · exact .inr (.inr h)
      · refine hdone _ ((abandBody_owned hr hb).trans (if_neg ?_))
        rintro (h | h | h)
        · exact h1 h
        · rw [show ((s1.core s1.cur.core).wave _).live = true from h2] at h
          cases h
        · exact h3 h
    · obtain ⟨hdone, hfault, -⟩ := next_bankOp hc hi.prep
      exact ⟨fun hr => hfault _ _ (arelBody_malformed hr), fun banks b hr hb => hfault _ _ (arelBody_other hr hb), fun banks hr hb => hdone _ (arelBody_granted hr hb)⟩
  · intro g r a b s s0 s1 rows c t hc
    refine ⟨fun hi => ?_, fun hi => ?_⟩
    · intro sel bk hok
      refine ⟨fun u p => State.aldLane c r u (p.1, sel p), (execAld_go hc hi.prep fun p hp => ?_).trans ?_, fun u p => rfl⟩
      · obtain ⟨h1, h2, h3, h4, h5, h6, h7, h8⟩ := hok p hp
        exact ⟨h1, ⟨h2, h3, h4, h5⟩, h6, h7, h8⟩
      · rw [List.foldl_map, List.foldl_map]
    · intro v off n nrow cols u keys hbad hheld hidle hin hquiet img op taken
      obtain ⟨-, hk, -, -⟩ := prep_go hi.prep
      obtain ⟨hdone, -, -⟩ := next_bankOp hc hi.prep
      have hcur : s1.cur = s.cur := hk.cur
      refine (hdone _ (astBody_done hbad (by rw [hcur]; exact hheld) (by rw [hcur]; exact hidle) (by rw [hcur]; exact hin) (by rw [hcur]; exact hquiet))).trans ?_
      rw [hcur]
      rfl

end Sys2Proof.Machine

namespace Sys2Proof.Machine

/-! ## Batches (R254 to R260) -/

section
variable {g : Guard} {s s0 s1 : State} {rows : List (Nat × List (List Word))} {cl : EngClass}

theorem filterMap_eq_map_filter {α β : Type} {f : α → Option β} {P : α → Bool} {h : α → β} {l : List α}
    (hl : ∀ x ∈ l, f x = if P x then some (h x) else none) : l.filterMap f = (l.filter P).map h := by
  induction l with
  | nil => rfl
  | cons x xs ih =>
    have hx := hl x (.head _)
    have hxs := ih fun y hy => hl y (.tail _ hy)
    cases hP : P x with
    | true => rw [List.filterMap_cons_some (hx.trans (if_pos hP)), List.filter_cons_of_pos hP, List.map_cons, hxs]
    | false => rw [List.filterMap_cons_none (hx.trans (if_neg (by rw [hP]; nofun))), List.filter_cons_of_neg (by rw [hP]; nofun), hxs]

/-- No lane of the rows fails the condition with a failed batch. -/
theorem failedRows_none {cls : Nat} {met : BatchCtr → List (List Word) → Bool}
    (h : ∀ p ∈ rows, met ((s.curThread p.1).batch cls) p.2 = true ∨ ((s.curThread p.1).batch cls).failed = none) : s.failedRows cls rows met = ([], rows) :=
  splitFaults_none fun p hp => by
    rcases h p hp with hm | hf
    · exact if_pos hm
    · dsimp only
      rw [hf]
      exact ite_self _

theorem block_masked (s : State) (st : Status) (w : Wait) :
    ({ s with cur := { s.cur with lanes := s.cur.lanes &&& ~~~(Mask.ofLanes []) } } : State).block st w = s.block st w := by
  have h : s.cur.lanes &&& ~~~(Mask.ofLanes []) = s.cur.lanes := by
    show s.cur.lanes &&& ~~~(0#32) = _
    rw [BitVec.not_zero, BitVec.and_allOnes]
  rw [h]

theorem execSeal_room (h : prep s g {} = .go s0 s1 rows) (hr : ∀ p ∈ rows, ((s1.curThread p.1).batch (clsNo cl)).queue.length < 15) :
    exec (.seal g cl) s = .next (s1.modThreads s1.cur.core s1.cur.turn (rowMask rows) fun _ t => t.modBatch (clsNo cl) BatchCtr.seal).finish := by
  show execSeal g cl s = _
  unfold execSeal
  dsimp only
  rw [h]
  dsimp only
  rw [failedRows_none fun p hp => .inl (decide_eq_true (hr p hp))]
  dsimp only
  rw [filter_map_nil fun p hp => by rw [decide_eq_true (hr p hp)]; rfl]
  rfl

/-! ### `waitb` -/

/-- The rows of the lanes that `waitb` does not let go. -/
def State.unmet (s : State) (cls : Nat) (rows : List (Nat × List (List Word))) : List (Nat × List (List Word)) :=
  rows.filter fun p => decide ((wordAt p.2 0 0).toNat < ((s.curThread p.1).batch cls).queue.length)

theorem not_waitbMet (b : BatchCtr) (vs : List (List Word)) : (!waitbMet b vs) = decide ((wordAt vs 0 0).toNat < b.queue.length) := by
  rw [waitbMet, ← decide_not]
  exact decide_eq_decide.2 Nat.not_le

theorem execWaitb_met {a : Src} (h : prep s g (specWords [a]) = .go s0 s1 rows)
    (hr : ∀ p ∈ rows, ((s1.curThread p.1).batch (clsNo cl)).queue.length ≤ (wordAt p.2 0 0).toNat) : exec (.waitb g cl a) s = .next s1.finish := by
  obtain ⟨-, -, hne, -⟩ := prep_go h
  have hmet : ∀ p ∈ rows, waitbMet ((s1.curThread p.1).batch (clsNo cl)) p.2 = true := fun p hp => decide_eq_true (hr p hp)
  show execWaitb g cl a s = _
  unfold execWaitb
  dsimp only
  rw [h]
  dsimp only
  rw [failedRows_none fun p hp => .inl (hmet p hp), if_neg fun he => hne (List.isEmpty_iff.1 he), if_pos]
  · rfl
  · rw [List.isEmpty_iff, List.filter_eq_nil_iff]
    exact fun p hp => by rw [hmet p hp]; nofun

theorem execWaitb_waits {a : Src} (h : prep s g (specWords [a]) = .go s0 s1 rows) (hu : s1.unmet (clsNo cl) rows ≠ [])
    (hr : ∀ p ∈ s1.unmet (clsNo cl) rows, ((s1.curThread p.1).batch (clsNo cl)).failed = none) :
    exec (.waitb g cl a) s = .next (s0.block .blockedQueue (.waitb (clsNo cl) ((s1.unmet (clsNo cl) rows).map fun p => (p.1, (wordAt p.2 0 0).toNat)))) := by
  obtain ⟨-, -, hne, -⟩ := prep_go h
  have hfail : s1.failedRows (clsNo cl) rows waitbMet = ([], rows) := failedRows_none fun p hp => by
    cases hm : waitbMet ((s1.curThread p.1).batch (clsNo cl)) p.2 with
    | true => exact .inl rfl
    | false => exact .inr (hr p (List.mem_filter.2 ⟨hp, by rw [← not_waitbMet, hm]; rfl⟩))
  show execWaitb g cl a s = _
  unfold execWaitb
  dsimp only
  rw [h]
  dsimp only
  rw [hfail, if_neg fun he => hne (List.isEmpty_iff.1 he)]
  simp only [not_waitbMet]
  exact congrArg Host.Outcome.next ((if_neg fun he => hu (List.isEmpty_iff.1 he)).trans (block_masked _ _ _))

theorem execWaitb_fails {a : Src} (h : prep s g (specWords [a]) = .go s0 s1 rows)
    (hr : ∀ p ∈ s1.unmet (clsNo cl) rows, ((s1.curThread p.1).batch (clsNo cl)).failed.isSome = true) :
    exec (.waitb g cl a) s = .next (((if (s1.unmet (clsNo cl) rows).length = rows.length then s0 else s1).failLanes (clsNo cl)
      ((s1.unmet (clsNo cl) rows).map fun p => (p.1, (failFault (clsNo cl) (((s1.curThread p.1).batch (clsNo cl)).failed.getD 0)).1,
        (failFault (clsNo cl) (((s1.curThread p.1).batch (clsNo cl)).failed.getD 0)).2, 0))).finish) := by
  have hfail : s1.failedRows (clsNo cl) rows waitbMet = ((s1.unmet (clsNo cl) rows).map fun p =>
      (p.1, (failFault (clsNo cl) (((s1.curThread p.1).batch (clsNo cl)).failed.getD 0)).1,
        (failFault (clsNo cl) (((s1.curThread p.1).batch (clsNo cl)).failed.getD 0)).2, 0),
      rows.filter fun p => waitbMet ((s1.curThread p.1).batch (clsNo cl)) p.2) := by
    have hone : ∀ p ∈ rows, (if waitbMet ((s1.curThread p.1).batch (clsNo cl)) p.2 then (none : Option (Nat × Word × DWord))
        else ((s1.curThread p.1).batch (clsNo cl)).failed.map fun c => ((failFault (clsNo cl) c).1, (failFault (clsNo cl) c).2, 0)) =
        if decide ((wordAt p.2 0 0).toNat < ((s1.curThread p.1).batch (clsNo cl)).queue.length) then
          some ((failFault (clsNo cl) (((s1.curThread p.1).batch (clsNo cl)).failed.getD 0)).1,
            (failFault (clsNo cl) (((s1.curThread p.1).batch (clsNo cl)).failed.getD 0)).2, 0) else none := fun p hp => by
      rw [← not_waitbMet]
      cases hm : waitbMet ((s1.curThread p.1).batch (clsNo cl)) p.2 with
      | true => rfl
      | false =>
        obtain ⟨c, hc⟩ := Option.isSome_iff_exists.1 (hr p (List.mem_filter.2 ⟨hp, by rw [← not_waitbMet, hm]; rfl⟩))
        rw [hc]
        rfl
    refine Prod.ext (filterMap_eq_map_filter fun p hp => ?_) (List.filter_congr fun p hp => ?_)
    · dsimp only
      rw [hone p hp]
      split <;> rfl
    · dsimp only
      rw [hone p hp, ← not_waitbMet]
      cases waitbMet ((s1.curThread p.1).batch (clsNo cl)) p.2 <;> rfl
  have hunmet : (rows.filter fun p => waitbMet ((s1.curThread p.1).batch (clsNo cl)) p.2).filter
      (fun p => !waitbMet ((s1.curThread p.1).batch (clsNo cl)) p.2) = [] := List.filter_eq_nil_iff.2 fun p hp => by
    rw [(List.mem_filter.1 hp).2]
    nofun
  have hall : (rows.filter fun p => waitbMet ((s1.curThread p.1).batch (clsNo cl)) p.2).isEmpty = true ↔ (s1.unmet (clsNo cl) rows).length = rows.length := by
    rw [List.isEmpty_iff, List.filter_eq_nil_iff, State.unmet, List.length_filter_eq_length_iff]
    simp only [← not_waitbMet, Bool.not_eq_true, Bool.not_eq_true']
  show execWaitb g cl a s = _
  unfold execWaitb
  dsimp only
  rw [h]
  dsimp only
  rw [hfail]
  by_cases hl : (s1.unmet (clsNo cl) rows).length = rows.length
  · rw [if_pos (hall.2 hl), if_pos hl]
  · rw [if_neg fun he => hl (hall.1 he), if_neg hl, hunmet]
    rfl
end

/-- Settles O36: by which lanes of the path are met and which have a failed batch. -/
theorem batchResults : Obligations.BatchResults := by
  intro g cl d a s s0 s1 rows cls b
  refine ⟨fun hi hr => execSeal_room hi.prep hr, fun hi => ⟨fun hr => execWaitb_met hi.prep hr, ?_⟩, fun hi => next_laneOp hi.prep rfl⟩
  intro unmet hu
  exact ⟨fun hr => execWaitb_waits hi.prep hu hr, fun hr => execWaitb_fails hi.prep hr⟩

/-! ## Receiving (R298) -/

section
variable {g : Guard} {nb : Bool} {d : Operand} {srcs : List Src} {s s0 s1 : State} {rows : List (Nat × List (List Word))}
  {claim : State → Mask → Nat → Slot → List (List Word) → State}

/-- A match: the core's bit of the slot's mask goes, and the lanes get the tile's number, size and sender. -/
theorem receiveOp_match (h : prep s g { (specWords srcs) with dst := some { o := d } } = .go s0 s1 rows) {i : Nat} {x : Slot}
    (hm : (s1.cl (clusterOf s1.cur.core)).matchSlot (wBits (wordAt (firstRow rows) 0 0) 15 0) (coreIndex s1.cur.core) = some (i, x)) :
    receiveOp s g nb d srcs claim = ((claim (s1.modSlot (clusterOf s1.cur.core) i fun x =>
        { x with mask := x.mask &&& ~~~(BitVec.twoPow 128 (coreIndex s1.cur.core)), npend := x.npend - 1 }) (rowMask rows) i x (firstRow rows)).writeDst { o := d }
      (rows.map fun p => (p.1, [BitVec.ofNat 32 (i + 1 + x.nblk * 2 ^ 8 + x.sender * 2 ^ 16)]))).finish := by
  obtain ⟨-, -, hne, -⟩ := prep_go h
  unfold receiveOp
  rw [h]
  cases rows with
  | nil => exact absurd rfl hne
  | cons p ps =>
    dsimp only
    rw [show (s1.cl (clusterOf s1.cur.core)).matchSlot (wBits (wordAt p.2 0 0) 15 0) (coreIndex s1.cur.core) = some (i, x) from hm]
    dsimp only
    rw [List.map_map]
    rfl

theorem receiveOp_none (h : prep s g { (specWords srcs) with dst := some { o := d } } = .go s0 s1 rows)
    (hm : (s1.cl (clusterOf s1.cur.core)).matchSlot (wBits (wordAt (firstRow rows) 0 0) 15 0) (coreIndex s1.cur.core) = none) :
    receiveOp s g nb d srcs claim = if nb then (s1.writeDst { o := d } (rows.map fun p => (p.1, [0]))).finish
      else s0.block .blockedQueue (.depotMatch (wBits (wordAt (firstRow rows) 0 0) 15 0)) := by
  obtain ⟨-, -, hne, -⟩ := prep_go h
  unfold receiveOp
  rw [h]
  cases rows with
  | nil => exact absurd rfl hne
  | cons p ps =>
    dsimp only
    rw [show (s1.cl (clusterOf s1.cur.core)).matchSlot (wBits (wordAt p.2 0 0) 15 0) (coreIndex s1.cur.core) = none from hm]
    dsimp only
    rw [List.map_map]
    rfl
end

/-- Settles O37: a match or none (`receiveOp_match`, `receiveOp_none`). -/
theorem depotReceiveResults : Obligations.DepotReceiveResults := by
  intro g nb d a b s s0 s1 rows c cl vs chan got taken hc
  refine ⟨fun hi => ⟨fun i x hm => ?_, fun hm => ?_⟩, fun hi => ⟨fun i x hm => ?_, fun hm => ?_⟩, fun hi => ?_⟩
  · exact (congrArg Host.Outcome.next (computeOnly_run _ hc)).trans (congrArg Host.Outcome.next (receiveOp_match hi.prep hm))
  · refine (congrArg Host.Outcome.next (computeOnly_run _ hc)).trans ((congrArg Host.Outcome.next (receiveOp_none hi.prep hm)).trans ?_)
    cases nb <;> rfl
  · exact (congrArg Host.Outcome.next (computeOnly_run _ hc)).trans (congrArg Host.Outcome.next (receiveOp_match hi.prep hm))
  · refine (congrArg Host.Outcome.next (computeOnly_run _ hc)).trans ((congrArg Host.Outcome.next (receiveOp_none hi.prep hm)).trans ?_)
    cases nb <;> rfl
  · exact (congrArg Host.Outcome.next (computeOnly_run _ hc)).trans (next_laneOp hi.prep rfl)

/-! ## `trap` (R305 to R309) -/

section
variable {g : Guard} {r : Nat} {a : Src} {s s0 s1 : State} {rows : List (Nat × List (List Word))}

/-- The record that a `trap` of the lanes of `rows` makes (R306). -/
def State.trapRecord (s : State) (r : Nat) (rows : List (Nat × List (List Word))) : TrapRec :=
  { turn := s.cur.turn, res := r, lanes := rowMask rows, pend := rowMask rows,
    gmask := (trapGroups (rows.map fun p => (p.1, p.2.getD 0 []))).map (·.2), pc := s.cur.pc, time := s.lease, part := s.partOf s.cur.core,
    vec := rows.map fun p => (p.1, p.2.getD 0 []), core := s.cur.core, order := s.nextId }

/-- Where a new record goes: posted, stashed or held (R308, R309). -/
def State.placeRecord (s : State) (place : Nat) (r : TrapRec) : State :=
  match place, s.trapSlot (clusterOf s.cur.core) with
  | 0, some slot => s.postTrap (clusterOf s.cur.core) slot r
  | 1, _ => s.modCore s.cur.core fun k => { k with stash := k.stash ++ [r] }
  | _, _ => (s.modCurWave fun w => { w with held := some r }).crCount (clusterOf s.cur.core) nRSTAT 31 16 1

theorem execTrap_go (hc : isSerai s.cur.core = false)
    (h : prep s g { srcs := [{ pos := 0, src := a, n := 7 }], dst := some { o := .reg r, n := 2, al := 2 } } = .go s0 s1 rows) :
    ((rowMask rows).lanes.filter (fun l => !s1.fenceMet .domain s1.cur.core s1.cur.turn l) ≠ [] → exec (.trap g (.reg r) a) s =
      .next (s0.block .blockedQueue (.fence .domain ((rowMask rows).lanes.filter fun l => !s1.fenceMet .domain s1.cur.core s1.cur.turn l)))) ∧
    ((∀ l ∈ (rowMask rows).lanes, s1.fenceMet .domain s1.cur.core s1.cur.turn l = true) →
      (s1.trapPlace s1.cur.core s1.cur.turn = none → exec (.trap g (.reg r) a) s = .next (s0.block .blockedQueue .trapPlace)) ∧
      ∀ place, s1.trapPlace s1.cur.core s1.cur.turn = some place → exec (.trap g (.reg r) a) s =
        .next ((({ s1 with nextId := s1.nextId + 1 } : State).placeRecord place (s1.trapRecord r rows)).park (rowMask rows) .parkedTrap
          fun _ th => th.markEmpty [r, r + 1] s1.nextId)) := by
  refine ⟨fun hu => ?_, fun hm => ?_⟩
  · refine (congrArg Host.Outcome.next (computeOnly_run _ hc)).trans ?_
    rw [h]
    refine congrArg Host.Outcome.next (if_pos ?_)
    rw [Bool.not_eq_true', Bool.eq_false_iff]
    exact fun he => hu (List.isEmpty_iff.1 he)
  · have hnil : (rowMask rows).lanes.filter (fun l => !s1.fenceMet .domain s1.cur.core s1.cur.turn l) = [] :=
      List.filter_eq_nil_iff.2 fun l hl => by rw [hm l hl]; nofun
    have hmet : ¬(!((Mask.ofLanes (rows.map fun p => p.1)).lanes.filter fun l => !s1.fenceMet .domain s1.cur.core s1.cur.turn l).isEmpty) = true := by
      rw [show ((Mask.ofLanes (rows.map fun p => p.1)).lanes.filter fun l => !s1.fenceMet .domain s1.cur.core s1.cur.turn l) = [] from hnil]
      nofun
    refine ⟨fun hp => ?_, fun place hp => ?_⟩
    · refine (congrArg Host.Outcome.next (computeOnly_run _ hc)).trans ?_
      rw [h]
      refine congrArg Host.Outcome.next ((if_neg hmet).trans ?_)
      rw [hp]
    · refine (congrArg Host.Outcome.next (computeOnly_run _ hc)).trans ?_
      rw [h]
      refine congrArg Host.Outcome.next ((if_neg hmet).trans ?_)
      rw [hp]
      rfl
end

/-- Settles O38: the fence, then the place of the record. -/
theorem trapResults : Obligations.TrapResults := by
  intro g r a s s0 s1 rows c t m id vec rec_ u park hc hi
  obtain ⟨hwait, hgo⟩ := execTrap_go hc hi.prep
  refine ⟨fun hm => ?_, hwait⟩
  obtain ⟨hnone, hplace⟩ := hgo hm
  refine ⟨hnone, fun slot h0 hs => ?_, fun h1 => hplace 1 h1, fun h2 => hplace 2 h2⟩
  refine (hplace 0 h0).trans ?_
  have hs' : u.trapSlot (clusterOf c) = some slot := hs
  have hrec : u.placeRecord 0 (s1.trapRecord r rows) = u.postTrap (clusterOf c) slot rec_ := by
    unfold State.placeRecord
    rw [show State.trapSlot u (clusterOf u.cur.core) = some slot from hs]
    rfl
  exact congrArg (fun x : State => Host.Outcome.next (x.park m .parkedTrap fun _ th => th.markEmpty [r, r + 1] id)) hrec

end Sys2Proof.Machine

namespace Sys2Proof.Machine

/-! ## Serai instructions (R310 to R323) -/

section
variable {g : Guard} {sp : Spec} {s s0 s1 : State} {rows : List (Nat × List (List Word))} {body : State → State → List (List Word) → State}

theorem next_seraiOp (hs : isSerai s.cur.core = true) (h : prep s g sp = .go s0 s1 rows) {u : State} (hb : body s0 s1 (firstRow rows) = u) :
    (Host.Outcome.next (seraiOp s g sp body) : Host.Outcome State Fault Refusal) = .next u := by
  obtain ⟨-, -, hne, -⟩ := prep_go h
  rw [seraiOp, privileged, if_pos hs, h]
  cases rows with
  | nil => exact absurd rfl hne
  | cons p ps => exact congrArg Host.Outcome.next hb

/-- `resume` of a posted record whose stores are done (R310). -/
theorem next_resumeOp {d : Operand} {a m : Src} {b : Option Src} (hs : isSerai s.cur.core = true)
    (h : prep s g { srcs := [{ pos := 0, src := a }, { pos := 1, src := m }] ++ (match b with | some x => [{ pos := 2, src := x, n := 2, al := 2 }] | none => []),
                    dst := some { o := d } } = .go s0 s1 rows)
    (hst : s1.storesMet s1.cur.core s1.cur.turn 0 true = true) {r : TrapRec}
    (hr : findK (s1.cl (clusterOf s1.cur.core)).traps (wBits (wordAt (firstRow rows) 0 0) 7 0) = some r) (hsv : s1.saving r.core r.waveTurn r.area = false)
    (ha : r.absent = true → s1.areaWaits (clusterOf s1.cur.core) r.part r.save
      ((Mask.lanes (wordAt (firstRow rows) 1 0 &&& r.pend)).flatMap fun l => savedParts l r.res) = false)
    {val : State → Nat → List Word} (hval : ∀ u l, val u l = if b.isSome then (firstRow rows).getD 2 []
      else wordsOf 2 (natOfBytes (u.rdSram (u.slotPlace (clusterOf s1.cur.core) (wBits (wordAt (firstRow rows) 0 0) 7 0) + 0x40 + 28 * l) 8))) :
    (Host.Outcome.next (resumeOp s g d a m b) : Host.Outcome State Fault Refusal) =
      let x := s1.resumeMask (clusterOf s1.cur.core) r (Mask.lanes (wordAt (firstRow rows) 1 0 &&& r.pend)) val
      .next (((if r.absent then x.2 else x.2.poke r.core).setTrap (clusterOf s1.cur.core) (wBits (wordAt (firstRow rows) 0 0) 7 0)
        { r with pend := r.pend &&& ~~~x.1 }).giveD d [x.1]).finish := by
  obtain rfl : val = fun u l => if b.isSome then (firstRow rows).getD 2 []
      else wordsOf 2 (natOfBytes (u.rdSram (u.slotPlace (clusterOf s1.cur.core) (wBits (wordAt (firstRow rows) 0 0) 7 0) + 0x40 + 28 * l) 8)) :=
    funext fun u => funext fun l => hval u l
  unfold resumeOp
  refine next_seraiOp hs h ?_
  dsimp only
  rw [hst, hr, if_neg nofun]
  dsimp only
  rw [hsv, if_neg nofun, if_neg]
  rw [Bool.and_eq_true]
  rintro ⟨h1, h2⟩
  rw [ha h1] at h2
  cases h2

theorem execKill_record {d : Operand} {a b : Src} (hs : isSerai s.cur.core = true)
    (h : prep s g { srcs := [{ pos := 0, src := a }, { pos := 1, src := b }], dst := some { o := d } } = .go s0 s1 rows) :
    (findK (s1.cl (clusterOf s1.cur.core)).traps (wBits (wordAt (firstRow rows) 0 0) 7 0) = none → exec (.kill g true d a b) s = .next (s1.putD d 0).finish) ∧
    (∀ r, findK (s1.cl (clusterOf s1.cur.core)).traps (wBits (wordAt (firstRow rows) 0 0) 7 0) = some r → r.absent = false →
      s1.saving r.core r.turn 0xFFFFFFFFFFFFFFFF = false → exec (.kill g true d a b) s =
        .next (((s1.killLanes r.core r.turn (wordAt (firstRow rows) 1 0 &&& r.pend)).poke r.core).putD d (wordAt (firstRow rows) 1 0 &&& r.pend)).finish) := by
  refine ⟨fun hr => ?_, fun r hr ha hsv => ?_⟩
  · refine next_seraiOp hs h ?_
    dsimp only
    rw [if_pos rfl, hr]
  · have hsv' : s1.saving r.core r.waveTurn r.area = false := by
      rw [TrapRec.waveTurn, TrapRec.area, ha]
      exact hsv
    refine next_seraiOp hs h ?_
    dsimp only
    rw [if_pos rfl, hr]
    dsimp only
    rw [hsv', ha, if_neg nofun, if_neg nofun]

theorem killTarget_present {s : State} {c t : Nat} (hl : (s.wave c t).live = true) (h : s.awaited c = none ∨ (s.killTarget c t).1 = some t) :
    ∃ v, s.killTarget c t = (some t, v) := by
  rcases h with h | h
  · refine ⟨none, ?_⟩
    rw [State.killTarget, h]
    exact if_pos hl
  · exact ⟨_, Prod.ext h rfl⟩

theorem execKill_wave {d : Operand} {a b : Src} (hs : isSerai s.cur.core = true)
    (h : prep s g { srcs := [{ pos := 0, src := a }, { pos := 1, src := b }], dst := some { o := d } } = .go s0 s1 rows) {c t : Nat}
    (hn : waveName (clusterOf s1.cur.core) (wordAt (firstRow rows) 0 0) = some (c, [t])) (hsv : s1.saving c t 0xFFFFFFFFFFFFFFFF = false)
    (hl : (s1.wave c t).live = true) (ht : s1.awaited c = none ∨ (s1.killTarget c t).1 = some t) :
    exec (.kill g false d a b) s = .next (((s1.killLanes c t (wordAt (firstRow rows) 1 0 &&& (s1.wave c t).alive)).poke c).putD d
      (wordAt (firstRow rows) 1 0 &&& (s1.wave c t).alive)).finish := by
  obtain ⟨v, hk⟩ := killTarget_present hl ht
  refine next_seraiOp hs h ?_
  dsimp only
  rw [if_neg nofun, hn]
  dsimp only
  rw [hsv, hk, Bool.and_false, if_neg nofun]
  dsimp only
  rw [hsv, if_neg nofun]

theorem execXres_wave {step : Bool} {d : Operand} {a b : Src} (hs : isSerai s.cur.core = true)
    (h : prep s g { srcs := [{ pos := 0, src := a }, { pos := 1, src := b }], dst := some { o := d } } = .go s0 s1 rows) {c t : Nat}
    (hn : waveName (clusterOf s1.cur.core) (wordAt (firstRow rows) 0 0) = some (c, [t])) (hsv : s1.saving c t 0xFFFFFFFFFFFFFFFF = false)
    (hl : (s1.wave c t).live = true) :
    exec (.xres g step d a b) s =
      let f := wordAt (firstRow rows) 1 0 &&& (s1.wave c t).lanesWith (· == .faulted)
      let up := s1.modThreads c t f fun _ th => { th with status := .ready, wait := .none }
      .next (((if step then (Mask.lanes f).foldl (fun s l => s.stepOver c t l) up else up).poke c).putD d f).finish := by
  refine next_seraiOp hs h ?_
  dsimp only
  rw [hn]
  dsimp only
  rw [hsv, hl, if_neg nofun]
  rfl

theorem next_saveOp {restore : Bool} {d : Operand} {a b : Src} (hs : isSerai s.cur.core = true)
    (h : prep s g { srcs := [{ pos := 0, src := a }, { pos := 1, src := b, n := 2, al := 2 }], dst := some { o := d } } = .go s0 s1 rows)
    (hst : restore = true → s1.storesMet s1.cur.core s1.cur.turn 0 false = true) :
    (∀ e, s1.saveChecks restore (clusterOf s1.cur.core) (wordAt (firstRow rows) 0 0) (pairAt (firstRow rows) 1) = .error e →
      (Host.Outcome.next (saveOp s g restore d a b) : Host.Outcome State Fault Refusal) = .next (s1.giveD d [BitVec.ofNat 32 e]).finish) ∧
    (∀ c ts r, d = .reg r → s1.saveChecks restore (clusterOf s1.cur.core) (wordAt (firstRow rows) 0 0) (pairAt (firstRow rows) 1) = .ok (c, ts) →
      (Host.Outcome.next (saveOp s g restore d a b) : Host.Outcome State Fault Refusal) =
        .next ((s1.newProd 0 .await [r]).2.beginSave restore c ts (pairAt (firstRow rows) 1) s1.nextId).finish) := by
  have hmet : ¬(restore && !s1.storesMet s1.cur.core s1.cur.turn 0 false) = true := by
    rw [Bool.and_eq_true]
    rintro ⟨h1, h2⟩
    rw [hst h1] at h2
    cases h2
  refine ⟨fun e he => ?_, fun c ts r hd hok => ?_⟩
  · refine next_seraiOp hs h ?_
    dsimp only
    rw [if_neg hmet, he]
  · subst hd
    refine next_seraiOp hs h ?_
    dsimp only
    rw [if_neg hmet, hok]
    rfl
end

/-- Settles O39: each body with its checks passed. -/
theorem waveControlResults : Obligations.WaveControlResults := by
  intro g rec step restore d a b p s s0 s1 rows cl vs slot absent inst hs
  refine ⟨fun r hi hst hr hsv => ?_, fun r hi hst hr hsv => ?_, fun hi => ⟨(execKill_record hs hi.prep).1, (execKill_record hs hi.prep).2, fun c t hn hsv hl => ?_⟩, fun hi hst => ?_⟩
  · intro ls ha
    exact next_resumeOp (b := none) hs hi.prep hst hr hsv ha fun _ _ => rfl
  · intro ls ha
    exact next_resumeOp (b := some p) hs hi.prep hst hr hsv ha fun _ _ => rfl
  · exact ⟨fun ht => execKill_wave hs hi.prep hn hsv hl ht, execXres_wave hs hi.prep hn hsv hl⟩
  · obtain ⟨herr, hok⟩ := next_saveOp hs hi.prep hst
    cases restore with
    | false => exact ⟨herr, hok⟩
    | true => exact ⟨herr, hok⟩

end Sys2Proof.Machine

namespace Sys2Proof.Machine

/-! ## Control registers (R11, R303) -/

/-- A register whose writes have no check and no other effect: its access types, and what reads and writes of it are. -/
structure CrPlain (num : Nat) (rw w1c : DWord) : Prop where
  mask : crMask num = (rw, w1c)
  disjoint : ∀ k, rw.getLsbD k = true → w1c.getLsbD k = false
  write : ∀ (s : State) (cl turn : Nat) (v : DWord), s.writeCr cl turn num v = s.modCr cl num fun old => crWrite num old v
  read : ∀ (s : State) (cl turn : Nat), s.readCr cl turn num = s.cr cl num

/-- A register outside those that a read computes (R216, R303, R470). -/
theorem readCr_eq {num : Nat} (hp : num = 1 ∨ 3 < num) (hu : num / 65536 < 8) (s : State) (cl turn : Nat) : s.readCr cl turn num = s.cr cl num := by
  have hp : crPerThread num = false := by
    simp only [crPerThread, nSMODE, nMEPC, nMINFO, crNum, Bool.or_eq_false_iff, beq_eq_false_iff_ne]
    omega
  unfold State.readCr
  dsimp only
  rw [hp, if_neg nofun, if_neg (by omega), if_neg (by omega)]

/-! ### Plain writes, unit by unit -/

section
variable (s : State) (cl turn w : Nat) (v : DWord)

theorem writeCr_unit0 (h : w = 1 ∨ w = 0x18 ∨ 0x40 ≤ w ∧ w ≤ 0x7F) :
    s.writeCr cl turn (crNum 0 w) v = s.modCr cl (crNum 0 w) fun old => crWrite (crNum 0 w) old v := by
  unfold State.writeCr nMEPC nTSLOTS nXRING nERING nMBOX nSRCLS crNum
  simp (disch := omega) only [if_pos, if_neg]

theorem writeCr_unit1 (h : w < 3 ∨ 0x400 ≤ w ∧ w < 0x500) :
    s.writeCr cl turn (crNum 1 w) v = s.modCr cl (crNum 1 w) fun old => crWrite (crNum 1 w) old v := by
  unfold State.writeCr crNum
  simp (disch := omega) only [if_pos, if_neg]

theorem writeCr_unit2 (h : w = 0x92 ∨ w = 0x93) :
    s.writeCr cl turn (crNum 2 w) v = s.modCr cl (crNum 2 w) fun old => crWrite (crNum 2 w) old v := by
  unfold State.writeCr nTCTL nTLOG nTLOGPTR nTQUANT crNum
  simp (disch := omega) only [if_pos, if_neg]

theorem writeCr_unit3 (h : w = 1) : s.writeCr cl turn (crNum 3 w) v = s.modCr cl (crNum 3 w) fun old => crWrite (crNum 3 w) old v := by
  unfold State.writeCr nTBINV crNum
  simp (disch := omega) only [if_pos, if_neg]

theorem writeCr_unit4 (h : 0x80 ≤ w ∧ w < 0x88 ∨ 0xC8 ≤ w ∧ w < 0xD0) :
    s.writeCr cl turn (crNum 4 w) v = s.modCr cl (crNum 4 w) fun old => crWrite (crNum 4 w) old v := by
  unfold State.writeCr nBTLEN nHMIG crNum
  simp (disch := omega) only [if_pos, if_neg]

theorem writeCr_unit5 (h : 1 ≤ w ∧ w ≤ 8) :
    s.writeCr cl turn (crNum 5 w) v = s.modCr cl (crNum 5 w) fun old => crWrite (crNum 5 w) old v := by
  unfold State.writeCr nFABCTL crNum
  simp (disch := omega) only [if_pos, if_neg]
end

theorem getLsbD_zero_of (k : Nat) {x : DWord} (_ : x.getLsbD k = true) : (0 : DWord).getLsbD k = false := BitVec.getLsbD_zero

theorem false_of_getLsbD_zero (k : Nat) {x : DWord} (h : (0 : DWord).getLsbD k = true) : x.getLsbD k = false :=
  absurd (h.symm.trans BitVec.getLsbD_zero) nofun

/-! ### The registers -/

theorem crPlain_mvec : CrPlain nMVEC 0xFFFFFFFFFFFFFFFF 0 where
  mask := rfl
  disjoint := fun k => getLsbD_zero_of k
  write s cl turn v := writeCr_unit0 s cl turn _ v (by omega)
  read := readCr_eq (by unfold nMVEC crNum; omega) (by unfold nMVEC crNum; omega)

theorem crPlain_rstat : CrPlain nRSTAT 0 0xFFFFFFFFFFFF where
  mask := rfl
  disjoint := fun k => false_of_getLsbD_zero k
  write s cl turn v := writeCr_unit0 s cl turn _ v (by omega)
  read := readCr_eq (by unfold nRSTAT crNum; omega) (by unfold nRSTAT crNum; omega)

theorem crPlain_csctl : CrPlain nCSCTL 0xFFFF 0 where
  mask := rfl
  disjoint := fun k => getLsbD_zero_of k
  write s cl turn v := writeCr_unit1 s cl turn _ v (by omega)
  read := readCr_eq (by unfold nCSCTL crNum; omega) (by unfold nCSCTL crNum; omega)

theorem crPlain_cpstat : CrPlain nCPSTAT 0 0xFFFFFFFF where
  mask := rfl
  disjoint := fun k => false_of_getLsbD_zero k
  write s cl turn v := writeCr_unit1 s cl turn _ v (by omega)
  read := readCr_eq (by unfold nCPSTAT crNum; omega) (by unfold nCPSTAT crNum; omega)

theorem crPlain_tstat : CrPlain nTSTAT 0 0xFFFFFFFFFFFF where
  mask := rfl
  disjoint := fun k => false_of_getLsbD_zero k
  write s cl turn v := writeCr_unit1 s cl turn _ v (by omega)
  read := readCr_eq (by unfold nTSTAT crNum; omega) (by unfold nTSTAT crNum; omega)

theorem crPlain_tlim : CrPlain nTLIM 0xFFF1FFF0FFF 0 where
  mask := rfl
  disjoint := fun k => getLsbD_zero_of k
  write s cl turn v := writeCr_unit2 s cl turn _ v (by omega)
  read := readCr_eq (by unfold nTLIM crNum; omega) (by unfold nTLIM crNum; omega)

theorem crPlain_tcnt : CrPlain nTCNT 0 0xFFFF0000FFFFFFFF where
  mask := rfl
  disjoint := fun k => false_of_getLsbD_zero k
  write s cl turn v := writeCr_unit2 s cl turn _ v (by omega)
  read := readCr_eq (by unfold nTCNT crNum; omega) (by unfold nTCNT crNum; omega)

theorem crPlain_tbstat : CrPlain nTBSTAT 0 0xFFFFFFFFFFFF where
  mask := rfl
  disjoint := fun k => false_of_getLsbD_zero k
  write s cl turn v := writeCr_unit3 s cl turn _ v (by omega)
  read := readCr_eq (by unfold nTBSTAT crNum; omega) (by unfold nTBSTAT crNum; omega)

theorem crPlain_stkstat {i : Nat} (hi : i < 8) : CrPlain (nSTKSTAT i) 0 0xFFFFFFFF00000000 where
  mask := by
    unfold crMask nSTKSTAT crNum
    simp (disch := omega) only [if_pos, if_neg]
  disjoint := fun k => false_of_getLsbD_zero k
  write s cl turn v := writeCr_unit4 s cl turn _ v (by omega)
  read := readCr_eq (by unfold nSTKSTAT crNum; omega) (by unfold nSTKSTAT crNum; omega)

theorem crPlain_wstat {i : Nat} (hi : i < 8) : CrPlain (nWSTAT i) 0 0xFFFF0000 where
  mask := by
    unfold crMask nWSTAT crNum
    simp (disch := omega) only [if_pos, if_neg]
  disjoint := fun k => false_of_getLsbD_zero k
  write s cl turn v := writeCr_unit4 s cl turn _ v (by omega)
  read := readCr_eq (by unfold nWSTAT crNum; omega) (by unfold nWSTAT crNum; omega)

theorem crPlain_portstat {i : Nat} (hi : i < 8) : CrPlain (nPORTSTAT i) 0 0xFFFFFFFF0000 where
  mask := by
    unfold crMask nPORTSTAT crNum
    simp (disch := omega) only [if_pos, if_neg]
  disjoint := fun k => false_of_getLsbD_zero k
  write s cl turn v := writeCr_unit5 s cl turn _ v (by omega)
  read := readCr_eq (by unfold nPORTSTAT crNum; omega) (by unfold nPORTSTAT crNum; omega)

theorem crPlain_sbslot {i : Nat} (hi : i < 64) : CrPlain (nSBSLOT i) 0x1FFFF 0 where
  mask := by
    unfold crMask nSBSLOT crNum
    simp (disch := omega) only [if_pos, if_neg]
  disjoint := fun k => getLsbD_zero_of k
  write s cl turn v := writeCr_unit0 s cl turn _ v (by omega)
  read := readCr_eq (by unfold nSBSLOT crNum; omega) (by unfold nSBSLOT crNum; omega)

theorem crPlain_nctr {i : Nat} (hi : i < 256) : CrPlain (nNCTR i) 0xFFFFFFFFFFFFFFFF 0 where
  mask := by
    unfold crMask nNCTR crNum
    simp (disch := omega) only [if_pos, if_neg]
  disjoint := fun k => getLsbD_zero_of k
  write s cl turn v := writeCr_unit1 s cl turn _ v (by omega)
  read := readCr_eq (by unfold nNCTR crNum; omega) (by unfold nNCTR crNum; omega)

/-- R11: what a write of a plain register leaves, bit by bit, and that it leaves the rest. -/
theorem CrPlain.written {num : Nat} {rw w1c : DWord} (h : CrPlain num rw w1c) (y : State) (c turn : Nat) (v : DWord) :
    SameMemory y (y.writeCr c turn num v) ∧ (∀ c' n, crKey c' 0 n ≠ crKey c 0 num → (y.writeCr c turn num v).cr c' n = y.cr c' n) ∧
    ∀ k < 64, ((y.writeCr c turn num v).readCr c turn num).getLsbD k =
      if rw.getLsbD k then v.getLsbD k else (y.readCr c turn num).getLsbD k && !(w1c.getLsbD k && v.getLsbD k) := by
  rw [h.read, h.read, h.write]
  refine ⟨.of_eq rfl rfl rfl rfl, fun c' n hn => getK_putK_of_ne _ _ _ _ hn, fun k hk => ?_⟩
  have hcr : (y.modCr c num fun old => crWrite num old v).cr c num = crWrite num (y.cr c num) v := getK_putK_same _ _ _ _
  rw [hcr, crWrite, h.mask]
  simp only [BitVec.getLsbD_and, BitVec.getLsbD_or, BitVec.getLsbD_not, hk, decide_true, Bool.true_and]
  cases hrw : rw.getLsbD k with
  | true => simp [h.disjoint k hrw]
  | false => simp [Bool.and_comm]

/-! ### `crget`, `crset` and the modes (R301, R302, R315) -/

section
variable {g : Guard} {a b : Src} {s s0 s1 : State} {rows : List (Nat × List (List Word))} (hs : isSerai s.cur.core = true)
  (h : prep s g { srcs := [{ pos := 0, src := a }, { pos := 1, src := b, n := 2, al := 2 }] } = .go s0 s1 rows)
include hs h

theorem execCrset_denied (ha : s1.crAllowed (clusterOf s1.cur.core) s1.cur.turn (wBits (wordAt (firstRow rows) 0 0) 23 0) = false) :
    exec (.crset g a b) s = .next s0.privilegeFault := by
  refine next_seraiOp hs h ?_
  dsimp only
  rw [ha]
  exact if_pos rfl

theorem execCrset_writes (ha : s1.crAllowed (clusterOf s1.cur.core) s1.cur.turn (wBits (wordAt (firstRow rows) 0 0) 23 0) = true)
    (hw : ∀ k < 8, wBits (wordAt (firstRow rows) 0 0) 23 0 = nWCTX k → s1.wctxWaits k (pairAt (firstRow rows) 1) = false)
    (ht : wBits (wordAt (firstRow rows) 0 0) 23 0 = nTCTL → dwBit (pairAt (firstRow rows) 1) 9 = true → swst (s1.cr (clusterOf s1.cur.core) nTCTL) = 7) :
    exec (.crset g a b) s = .next ((s1.writeCr (clusterOf s1.cur.core) s1.cur.turn (wBits (wordAt (firstRow rows) 0 0) 23 0) (pairAt (firstRow rows) 1)).pokeUnit
      (clusterOf s1.cur.core) (wBits (wordAt (firstRow rows) 0 0) 23 0)).finish := by
  refine next_seraiOp hs h ?_
  dsimp only
  rw [ha, if_neg nofun, if_neg, if_neg]
  · rintro ⟨h1, h2, h3⟩
    exact h3 (ht h1 h2)
  · generalize wBits (wordAt (firstRow rows) 0 0) 23 0 = num at hw
    rintro ⟨h1, h2, h3⟩
    rw [hw (num - nWCTX 0) (by unfold nWCTX crNum at *; omega) (by unfold nWCTX crNum at *; omega)] at h3
    cases h3

theorem execCrset_swaps (ha : s1.crAllowed (clusterOf s1.cur.core) s1.cur.turn (wBits (wordAt (firstRow rows) 0 0) 23 0) = true)
    (hn : wBits (wordAt (firstRow rows) 0 0) 23 0 = nTCTL) (hb : dwBit (pairAt (firstRow rows) 1) 9 = true)
    (ht : swst (s1.cr (clusterOf s1.cur.core) nTCTL) ≠ 7) :
    exec (.crset g a b) s = .next ((s1.writeTctl (clusterOf s1.cur.core) (pairAt (firstRow rows) 1)).finish).holdSwap := by
  refine next_seraiOp hs h ?_
  dsimp only
  rw [ha, if_neg nofun, if_neg, if_pos ⟨hn, hb, ht⟩]
  rw [hn]
  rintro ⟨h1, -⟩
  exact absurd h1 (by decide)
end

/-- Settles O40: the bodies of the five instructions, and the registers of `CrPlain`. -/
theorem seraiControlResults : Obligations.SeraiControlResults := by
  intro g d a b p s s0 s1 rows cl t vs num denied hs
  refine ⟨fun hi => next_seraiOp hs hi.prep rfl, fun hi => ⟨execCrset_denied hs hi.prep, execCrset_writes hs hi.prep, execCrset_swaps hs hi.prep⟩,
    fun hi => next_seraiOp hs hi.prep rfl, fun hi => next_seraiOp hs hi.prep rfl, fun hi => ⟨fun hm => ?_, fun hm => ?_⟩, fun x y dest w la2 hx => ?_, ?_⟩
  · refine next_seraiOp hs hi.prep ?_
    dsimp only
    rw [show s1.isMonitor (clusterOf s1.cur.core) s1.cur.turn = true from hm, if_neg nofun]
  · refine next_seraiOp hs hi.prep ?_
    dsimp only
    rw [show s1.isMonitor (clusterOf s1.cur.core) s1.cur.turn = false from hm]
    exact if_pos rfl
  · unfold State.seraiJump
    dsimp only
    rw [hx]
  · intro all regs r hr y c turn v _
    suffices CrPlain r.1 r.2.1 r.2.2 from this.written y c turn v
    simp only [regs, List.mem_append, List.mem_flatMap, List.mem_map, List.mem_range, List.mem_cons, List.not_mem_nil, or_false] at hr
    rcases hr with (((rfl | rfl | rfl | rfl | rfl | rfl | rfl | rfl) | ⟨i, hi, rfl | rfl | rfl⟩) | ⟨i, hi, rfl⟩) | ⟨i, hi, rfl⟩
    · exact crPlain_mvec
    · exact crPlain_rstat
    · exact crPlain_csctl
    · exact crPlain_cpstat
    · exact crPlain_tstat
    · exact crPlain_tlim
    · exact crPlain_tcnt
    · exact crPlain_tbstat
    · exact crPlain_stkstat hi
    · exact crPlain_wstat hi
    · exact crPlain_portstat hi
    · exact crPlain_sbslot hi
    · exact crPlain_nctr hi

end Sys2Proof.Machine

namespace Sys2Proof.Machine

/-! ## Global memory accesses as they issue (R381 to R387) -/

section
variable {g : Guard} {s s0 s1 : State} {rows : List (Nat × List (List Word))} {m : MemOp}

theorem slotIndex_newProd (s : State) (l : Nat) (src : ProdSrc) (ds : List Nat) (mem : Bool) (c n : Nat) :
    (s.newProd l src ds mem).2.slotIndex c n = s.slotIndex c n := rfl
theorem slotOff_newProd (s : State) (l : Nat) (src : ProdSrc) (ds : List Nat) (mem : Bool) (idx : List Word) :
    (s.newProd l src ds mem).2.slotOff m idx = s.slotOff m idx := rfl

/-- An access all of whose lanes pass their checks acts in each of them. -/
theorem memOp_ok {size right : Nat} {body : State → Nat → Place → BitVec 512 → List (List Word) → State}
    {pl : Nat × List (List Word) → Place} {ex : Nat × List (List Word) → BitVec 512} (hne : rows ≠ [])
    (h : ∀ p ∈ rows, s1.checkMem s1.cur.core s1.cur.turn p.1 m (p.2.getD 0 []) size right = .ok (pl p) (ex p) ∧
      (isSerai s1.cur.core = true → isOwn s1.cur.core (pl p) = true → s1.heldPlace (pl p) = false)) :
    memOp s0 s1 m size right rows body =
      (rows.foldl (fun s p => body (s.useSlot m (p.2.getD 0 [])) p.1 (pl p) (ex p) p.2) s1).finish := by
  have hres : (rows.map fun p => (p.1, s1.checkMem s1.cur.core s1.cur.turn p.1 m (p.2.getD 0 []) size right, p.2)) =
      rows.map fun p => (p.1, Chk.ok (pl p) (ex p), p.2) :=
    List.map_congr_left fun p hp => by rw [(h p hp).1]
  unfold memOp
  dsimp only
  rw [hres]
  have hres' : ∀ r ∈ rows.map fun p => (p.1, Chk.ok (pl p) (ex p), p.2), ∃ p ∈ rows, r = (p.1, Chk.ok (pl p) (ex p), p.2) := fun r hr =>
    let ⟨p, hp, e⟩ := List.mem_map.1 hr
    ⟨p, hp, e.symm⟩
  split
  next b q hmiss =>
    obtain ⟨r, hr, hq⟩ := List.exists_of_findSome?_eq_some hmiss
    obtain ⟨p, -, rfl⟩ := hres' r hr
    cases hq
  · rw [if_neg, if_neg, List.foldl_map]
    · intro hall
      obtain ⟨p, ps, rfl⟩ := List.exists_cons_of_ne_nil hne
      exact Bool.false_ne_true (List.all_eq_true.1 hall _ (List.mem_map_of_mem List.mem_cons_self))
    · intro hheld
      obtain ⟨hs, hany⟩ := Bool.and_eq_true_iff.1 hheld
      obtain ⟨r, hr, hq⟩ := List.any_eq_true.1 hany
      obtain ⟨p, hp, rfl⟩ := hres' r hr
      obtain ⟨hown, hh⟩ := Bool.and_eq_true_iff.1 hq
      rw [(h p hp).2 hs hown] at hh
      cases hh

theorem loadOp_ok {size : BitVec 3} {d : Operand} {kind : LoadKind} {pl : Nat × List (List Word) → Place} {ex : Nat × List (List Word) → BitVec 512}
    (hp : prep s g { srcs := [idxSrc m], dst := some (loadDst d (sizeRegs size)) } = .go s0 s1 rows)
    (h : ∀ p ∈ rows, s1.checkMem s1.cur.core s1.cur.turn p.1 m (p.2.getD 0 []) (sizeBytes size) rREAD = .ok (pl p) (ex p) ∧
      (isSerai s1.cur.core = true → isOwn s1.cur.core (pl p) = true → s1.heldPlace (pl p) = false)) :
    loadOp s g size d m kind = (rows.foldl (fun s p => (s.useSlot m (p.2.getD 0 [])).issueLoad p.1 (pl p) (ex p) size kind
      ((s.useSlot m (p.2.getD 0 [])).slotOff m (p.2.getD 0 [])) (prodRegs d (sizeRegs size))) s1).finish := by
  unfold loadOp
  dsimp only
  rw [hp]
  exact memOp_ok (prep_go hp).2.2.1 h


theorem releaseThen_none {go : State} : releaseThen none s0 s1 rows go = go := rfl

theorem releaseThen_met {sc : BitVec 2} {go : State} (h : s1.unfenced (scopeOf sc) (rows.map (·.1)) = []) :
    releaseThen (some sc) s0 s1 rows go = go := by
  simp [releaseThen, h]

theorem releaseThen_unmet {sc : BitVec 2} {go : State} (h : s1.unfenced (scopeOf sc) (rows.map (·.1)) ≠ []) :
    releaseThen (some sc) s0 s1 rows go = s0.block .blockedQueue (.fence (scopeOf sc) (s1.unfenced (scopeOf sc) (rows.map (·.1)))) := by
  simp [releaseThen, h]

section store
variable {size : BitVec 3} {a : Src}
  (hp : prep s g { srcs := [idxSrc m, { pos := 3, src := a, n := sizeRegs size, al := sizeRegs size }] } false
    (s.memOwn m (sizeBytes size) rWRITE) = .go s0 s1 rows)
include hp

theorem storeOp_rel (sc : BitVec 2) : storeOp s g size (some sc) a m = releaseThen (some sc) s0 s1 rows (storeOp s g size none a m) := by
  unfold storeOp
  dsimp only
  rw [hp]
  rfl

theorem storeOp_ok {pl : Nat × List (List Word) → Place} {ex : Nat × List (List Word) → BitVec 512}
    (h : ∀ p ∈ rows, s1.checkMem s1.cur.core s1.cur.turn p.1 m (p.2.getD 0 []) (sizeBytes size) rWRITE = .ok (pl p) (ex p) ∧
      (isSerai s1.cur.core = true → isOwn s1.cur.core (pl p) = true → s1.heldPlace (pl p) = false)) :
    storeOp s g size none a m = (rows.foldl (fun s p => (s.useSlot m (p.2.getD 0 [])).issueStore p.1 (pl p) (sizeBytes size)
      (natOfWords (p.2.getD 1 []) % 2 ^ (8 * sizeBytes size)) .data false ((s.useSlot m (p.2.getD 0 [])).slotOff m (p.2.getD 0 []))) s1).finish := by
  unfold storeOp
  dsimp only
  rw [hp]
  exact releaseThen_none.trans (memOp_ok (prep_go hp).2.2.1 h)

end store

section atom
variable {op : BitVec 4} {w64 : Bool} {a : Src}
  (hp : prep s g { srcs := [idxSrc m, { pos := 3, src := a, n := atomRegs op w64, al := atomRegs op w64 }] } false
    (s.memOwn m (4 * (if w64 then 2 else 1)) rATOM) = .go s0 s1 rows)
include hp

theorem atomOp_rel (sc : BitVec 2) (acq : Bool) :
    atomOp s g (some sc) acq op w64 a m = releaseThen (some sc) s0 s1 rows (atomOp s g none acq op w64 a m) := by
  unfold atomOp
  dsimp only
  rw [hp]
  rfl

theorem atomOp_ok {acq : Bool} {pl : Nat × List (List Word) → Place} {ex : Nat × List (List Word) → BitVec 512}
    (h : ∀ p ∈ rows, s1.checkMem s1.cur.core s1.cur.turn p.1 m (p.2.getD 0 []) (4 * (if w64 then 2 else 1)) rATOM = .ok (pl p) (ex p) ∧
      (isSerai s1.cur.core = true → isOwn s1.cur.core (pl p) = true → s1.heldPlace (pl p) = false)) :
    let r := if w64 then 2 else 1
    atomOp s g none acq op w64 a m = (rows.foldl (fun s p =>
      (State.newProd (s.useSlot m (p.2.getD 0 [])) p.1 .await (prodRegs a.o r) true).2.issueStore p.1 (pl p) (4 * r) 0
        (.atom op w64 (BitVec.ofNat 64 (natOfWords ((p.2.getD 1 []).take r))) (BitVec.ofNat 64 (natOfWords ((p.2.getD 1 []).drop r)))
          (State.newProd (s.useSlot m (p.2.getD 0 [])) p.1 .await (prodRegs a.o r) true).1) acq
        ((s.useSlot m (p.2.getD 0 [])).slotOff m (p.2.getD 0 []))) s1).finish := by
  unfold atomOp
  dsimp only
  rw [hp]
  exact releaseThen_none.trans (memOp_ok (prep_go hp).2.2.1 h)

end atom

theorem execLdtag_ok {d : Operand} {pl : Nat × List (List Word) → Place} {ex : Nat × List (List Word) → BitVec 512}
    (hp : prep s g { srcs := [idxSrc m], dst := some { o := d } } = .go s0 s1 rows)
    (h : ∀ p ∈ rows, s1.checkMem s1.cur.core s1.cur.turn p.1 m (p.2.getD 0 []) 1 rREAD = .ok (pl p) (ex p) ∧
      (isSerai s1.cur.core = true → isOwn s1.cur.core (pl p) = true → s1.heldPlace (pl p) = false)) :
    exec (.ldtag g d m) s = .next (rows.foldl (fun s p => (s.useSlot m (p.2.getD 0 [])).issueLoad p.1 (pl p) (ex p) 4 .tag
      ((s.useSlot m (p.2.getD 0 [])).slotOff m (p.2.getD 0 [])) (prodRegs d 1)) s1).finish := by
  change execLdtag g d m s = _
  unfold execLdtag
  rw [hp]
  exact congrArg Host.Outcome.next (memOp_ok (prep_go hp).2.2.1 h)

theorem execSttag_ok {a : Src} {pl : Nat × List (List Word) → Place} {ex : Nat × List (List Word) → BitVec 512}
    (hp : prep s g { srcs := [idxSrc m, { pos := 3, src := a }] } false (s.memOwn m 1 rWRITE) = .go s0 s1 rows)
    (h : ∀ p ∈ rows, s1.checkMem s1.cur.core s1.cur.turn p.1 m (p.2.getD 0 []) 1 rWRITE = .ok (pl p) (ex p) ∧
      (isSerai s1.cur.core = true → isOwn s1.cur.core (pl p) = true → s1.heldPlace (pl p) = false)) :
    exec (.sttag g a m) s = .next (rows.foldl (fun s p => (s.useSlot m (p.2.getD 0 [])).issueStore p.1 (pl p) 1
      ((wordAt p.2 1 0).toNat % 65536) .tag false ((s.useSlot m (p.2.getD 0 [])).slotOff m (p.2.getD 0 []))) s1).finish := by
  change execSttag g a m s = _
  unfold execSttag
  rw [hp]
  exact congrArg Host.Outcome.next (memOp_ok (prep_go hp).2.2.1 h)

end

/-- Settles O41: what `memOp` does when every lane passes, under each instruction's checks. -/
theorem memoryAccessResults : Obligations.MemoryAccessResults := by
  unfold Obligations.MemoryAccessResults
  intro g size op w64 d a m s s0 s1 rows pl ex ok each load r atom
  refine ⟨fun hi h => ?_, fun hi h => ?_, fun hi h => ?_, fun hi h => execLdtag_ok hi.prep h, fun hi h => execSttag_ok hi.prep h⟩
  · exact ⟨congrArg Host.Outcome.next (loadOp_ok hi.prep h), congrArg Host.Outcome.next (loadOp_ok hi.prep h),
      congrArg Host.Outcome.next (loadOp_ok hi.prep h)⟩
  · exact congrArg Host.Outcome.next (storeOp_ok hi.prep h)
  · exact ⟨congrArg Host.Outcome.next (atomOp_ok hi.prep h), congrArg Host.Outcome.next (atomOp_ok hi.prep h)⟩

/-! ## Releases, fences and barriers (R384, R387 to R396) -/

section
variable {g : Guard} {s s0 s1 : State} {rows : List (Nat × List (List Word))}

theorem execFence_go {fs : BitVec 3} (hp : prep s g {} = .go s0 s1 rows) :
    (s1.unfenced (fenceScope fs) (rows.map (·.1)) = [] → exec (.fence g fs) s = .next s1.finish) ∧
    (s1.unfenced (fenceScope fs) (rows.map (·.1)) ≠ [] → exec (.fence g fs) s =
      .next (s0.block .blockedQueue (.fence (fenceScope fs) (s1.unfenced (fenceScope fs) (rows.map (·.1)))))) := by
  refine ⟨fun hm => ?_, fun hm => ?_⟩ <;> change execFence g fs s = _ <;> unfold execFence <;> rw [hp] <;> simp [hm]

theorem arriveOp_armed {sc : Scope} {ss : Bool} (hp : prep s g {} = .go s0 s1 rows) (hw : (s1.wave s1.cur.core s1.cur.turn).armed ≠ 0) :
    arriveOp s g sc ss = (s1.takeFaults (rowMask rows) 0x0C ((s1.wave s1.cur.core s1.cur.turn).satf.setWidth 32)).finish := by
  unfold arriveOp
  rw [hp]
  exact if_pos hw

theorem arriveOp_park {sc : Scope} {ss : Bool} (hp : prep s g {} = .go s0 s1 rows) (hw : (s1.wave s1.cur.core s1.cur.turn).armed = 0) :
    arriveOp s g sc ss = s1.park (rowMask rows) .parkedBarrier fun _ t =>
      { t with arrived := some { key := s1.barKey s1.cur.core sc, gen := BitVec.ofNat 16 (getK 0 s1.bars (s1.barKey s1.cur.core sc)),
                                 ss := if ss then some (if sc = .cohort then .cohort else .domain) else none,
                                 ops := t.batches.flatMap fun b => b.2.queue.flatMap (·.ops) } } := by
  unfold arriveOp
  rw [hp]
  exact if_neg (not_not_intro hw)

end

/-- Settles O42: a release is the plain access behind its fence (`storeOp_rel`, `atomOp_rel`); a barrier is `arriveOp`. -/
theorem orderingResults : Obligations.OrderingResults := by
  unfold Obligations.OrderingResults
  refine ⟨?_, ?_⟩
  · intro g size fs sc op w64 a m s s0 s1 rows pl ex wait n k r ok each atom met
    refine ⟨fun hi => ?_, fun hi => ?_, fun hi => execFence_go hi.prep⟩
    · have hrel := storeOp_rel hi.prep sc
      have hmet : met → storeOp s g size (some sc) a m = storeOp s g size none a m := fun hm => hrel.trans (releaseThen_met hm)
      exact ⟨fun hm => congrArg Host.Outcome.next (hmet hm),
        fun hm h => congrArg Host.Outcome.next ((hmet hm).trans (storeOp_ok hi.prep h)),
        fun hm => congrArg Host.Outcome.next (hrel.trans (releaseThen_unmet hm))⟩
    · have hrel := atomOp_rel hi.prep sc
      have hmet : met → ∀ acq, atomOp s g (some sc) acq op w64 a m = atomOp s g none acq op w64 a m :=
        fun hm acq => (hrel acq).trans (releaseThen_met hm)
      have hun : ¬met → ∀ acq, (Host.Outcome.next (atomOp s g (some sc) acq op w64 a m) : Host.Outcome State Fault Refusal) = wait (scopeOf sc) :=
        fun hm acq => congrArg Host.Outcome.next ((hrel acq).trans (releaseThen_unmet hm))
      exact ⟨fun hm => ⟨congrArg Host.Outcome.next (hmet hm false), congrArg Host.Outcome.next (hmet hm true)⟩,
        fun hm h => ⟨congrArg Host.Outcome.next ((hmet hm false).trans (atomOp_ok hi.prep h)),
          congrArg Host.Outcome.next ((hmet hm true).trans (atomOp_ok hi.prep h))⟩,
        fun hm => ⟨hun hm false, hun hm true⟩⟩
  · intro g sc s s0 s1 rows c w park hi
    exact ⟨fun hw => ⟨congrArg Host.Outcome.next (arriveOp_armed hi.prep hw), congrArg Host.Outcome.next (arriveOp_armed hi.prep hw)⟩,
      fun hw => ⟨congrArg Host.Outcome.next (arriveOp_park hi.prep hw), congrArg Host.Outcome.next (arriveOp_park hi.prep hw)⟩⟩
end Sys2Proof.Machine

namespace Sys2Proof.Machine

/-! ## What a predicate of the state keeps while an instruction issues -/

/-- What faults of lanes, pops and walker moves keep, issuing keeps (R108). -/
theorem prep_keeps {P : State → Prop} (hf : ∀ s l code finfo extra, P s → P (s.takeFault l code finfo extra))
    (hm : ∀ (s : State) c q w, P s → P ((s.modCore c fun c => { c with queues := q }).modCurWave fun wv => { wv with walkers := w }))
    {s s0 s1 : State} {g : Guard} {sp : Spec} {mov : Bool} {x : Extra} {rows : List (Nat × List (List Word))}
    (h : prep s g sp mov x = .go s0 s1 rows) (hs : P s) : P s0 ∧ P s1 := by
  unfold prep at h
  repeat' first | split at h | extract_lets at h
  all_goals try (cases h; done)
  all_goals
    injection h with h1 h2 h3
    have k0 : P s0 := by
      rw [← h1]
      exact List.foldlRecOn _ _ (List.foldlRecOn _ _ hs fun t ht p _ => hf _ _ _ _ _ ht) fun t ht p _ => hf _ _ _ _ _ ht
    refine ⟨k0, ?_⟩
    rw [← h2]
    exact hm _ _ _ _ (h1 ▸ k0)

/-! ## Faults leave the manifest -/

section
variable (s : State) (c : Nat)

theorem manifest_modCl {f : Cluster → Cluster} (hf : ∀ k, (f k).manifest = k.manifest) (cl : Nat) :
    ((s.modCl cl f).cl c).manifest = (s.cl c).manifest := by
  by_cases h : c = cl
  · subst h; rw [cl_modCl_same, hf]
  · rw [cl_modCl_other _ _ h]

theorem manifest_raise (cl source kind : Nat) (ws : List Word) : ((s.raise cl source kind ws).cl c).manifest = (s.cl c).manifest :=
  manifest_modCl s c (fun k => by dsimp only; split <;> rfl) cl

theorem manifest_monitorFault (cl : Nat) : ((s.monitorFault cl).cl c).manifest = (s.cl c).manifest := by
  have hr : ∀ t : State, ((t.toRestart cl).cl c).manifest = (t.cl c).manifest := fun t => by
    rw [State.toRestart]; split <;> rfl
  rw [State.monitorFault]
  split
  · rw [hr]; exact manifest_raise s c _ _ _ _
  · exact hr s

theorem manifest_suspect (cl kind target : Nat) : ((s.suspect cl kind target).cl c).manifest = (s.cl c).manifest := by
  unfold State.suspect
  dsimp only
  split <;> rfl

theorem manifest_foundSram (cl code : Nat) (finfo : Word) (extra : DWord) :
    ((s.foundSram cl code finfo extra).cl c).manifest = (s.cl c).manifest := by
  unfold State.foundSram
  extract_lets a
  split
  · exact manifest_suspect _ _ _ _ _
  · rfl

theorem manifest_takeFault (l code : Nat) (finfo : Word) (extra : DWord) :
    ((s.takeFault l code finfo extra).cl c).manifest = (s.cl c).manifest := by
  unfold State.takeFault State.faultAt
  have hcount : ((if code = 6 then s.crCount (clusterOf s.cur.core) nTBSTAT 31 16 1 else s).cl c).manifest = (s.cl c).manifest := by
    split <;> rfl
  generalize (if code = 6 then s.crCount (clusterOf s.cur.core) nTBSTAT 31 16 1 else s) = u at hcount
  dsimp only
  split
  · split
    · rw [manifest_monitorFault]
      exact (manifest_foundSram u c _ _ _ _).trans hcount
    · exact (manifest_foundSram u c _ _ _ _).trans hcount
  · refine (manifest_modCl _ c ?_ _).trans hcount
    exact fun _ => rfl

end

/-- Issuing leaves every manifest. -/
theorem manifest_prep {s s0 s1 : State} {g : Guard} {sp : Spec} {mov : Bool} {x : Extra} {rows : List (Nat × List (List Word))}
    (h : prep s g sp mov x = .go s0 s1 rows) (c : Nat) : (s1.cl c).manifest = (s.cl c).manifest :=
  (prep_keeps (P := fun t => (t.cl c).manifest = (s.cl c).manifest)
    (fun t l code finfo extra ht => (manifest_takeFault t c l code finfo extra).trans ht) (fun _ _ _ _ ht => ht) h rfl).2

/-! ## `spawn` (R341) -/

/-- The register of a D of one word, if it is one. -/
def oneReg (d : Operand) : List Nat := match d with | .reg r => [r] | _ => []

theorem prodRegs_one (d : Operand) : prodRegs d 1 = oneReg d := by
  cases d <;> rfl

/-- The producers of one destination in each lane. -/
theorem foldl_newProd (dsts : List Nat) (rows : List (Nat × List (List Word))) (l : List Nat) (s : State) :
    let r := rows.foldl (fun (a : List Nat × State) p => let x := a.2.newProd p.1 .await dsts; (a.1 ++ [x.1], x.2)) (l, s)
    r.2 = rows.foldl (fun s p => (s.newProd p.1 .await dsts).2) s ∧ r.1.length = l.length + rows.length ∧ r.2.cur = s.cur := by
  induction rows generalizing l s with
  | nil => exact ⟨rfl, rfl, rfl⟩
  | cons p ps ih =>
    obtain ⟨hs, hl, hc⟩ := ih (l ++ [(s.newProd p.1 .await dsts).1]) (s.newProd p.1 .await dsts).2
    refine ⟨hs, hl.trans ?_, hc⟩
    simp only [List.length_append, List.length_cons, List.length_nil]
    omega

section
variable {g : Guard} {s s0 s1 : State} {rows : List (Nat × List (List Word))} {d : Operand} {a b : Src}

section spawn
variable (hp : prep s g { srcs := [{ pos := 0, src := a, n := 16, al := 16 }], dst := some { o := d } } = .go s0 s1 rows)
include hp

theorem execSpawn_bad (hb : wsBits ((firstRow rows).getD 0 []) 15 2 ≠ 0 ∨
      (s1.qdesc (clusterOf s1.cur.core) (nTQ (wsBits ((firstRow rows).getD 0 []) 1 0) 0)).en = false ∨
      (s1.qdesc (clusterOf s1.cur.core) (nTQ (wsBits ((firstRow rows).getD 0 []) 1 0) 0)).part ≠ (s1.cl (clusterOf s1.cur.core)).part) :
    exec (.spawn g d a) s = .next (s1.writeDst { o := d } (rows.map fun p => (p.1, [0xFFFFFFFF]))).finish := by
  change execSpawn g d a s = _
  unfold execSpawn
  rw [hp]
  exact congrArg Host.Outcome.next (if_pos (by simpa [firstRow] using hb))

theorem execSpawn_full (hb : ¬(wsBits ((firstRow rows).getD 0 []) 15 2 ≠ 0 ∨
      (s1.qdesc (clusterOf s1.cur.core) (nTQ (wsBits ((firstRow rows).getD 0 []) 1 0) 0)).en = false ∨
      (s1.qdesc (clusterOf s1.cur.core) (nTQ (wsBits ((firstRow rows).getD 0 []) 1 0) 0)).part ≠ (s1.cl (clusterOf s1.cur.core)).part))
    (hf : 8 ≤ (s1.core s1.cur.core).spawns.length) : exec (.spawn g d a) s = .next (s0.block .blockedQueue .spawnRoom) := by
  change execSpawn g d a s = _
  unfold execSpawn
  rw [hp]
  exact congrArg Host.Outcome.next ((if_neg (by simpa [firstRow] using hb)).trans (if_pos hf))

theorem execSpawn_enters (hb : ¬(wsBits ((firstRow rows).getD 0 []) 15 2 ≠ 0 ∨
      (s1.qdesc (clusterOf s1.cur.core) (nTQ (wsBits ((firstRow rows).getD 0 []) 1 0) 0)).en = false ∨
      (s1.qdesc (clusterOf s1.cur.core) (nTQ (wsBits ((firstRow rows).getD 0 []) 1 0) 0)).part ≠ (s1.cl (clusterOf s1.cur.core)).part))
    (hf : (s1.core s1.cur.core).spawns.length < 8) :
    ∃ u e, exec (.spawn g d a) s = .next (State.modCore u s1.cur.core fun k => { k with spawns := k.spawns ++ [e] }).finish ∧
      u = rows.foldl (fun s p => (s.newProd p.1 .await (prodRegs d 1)).2) s1 ∧
      SpawnEnt.words e = (firstRow rows).getD 0 [] ∧ e.turn = s1.cur.turn ∧ e.lanes = rowMask rows ∧ e.prods.length = rows.length ∧ e.claimed = none := by
  obtain ⟨hs, hl, hcur⟩ := foldl_newProd (oneReg d) rows [] s1
  rw [prodRegs_one]
  let r := rows.foldl (fun (a : List Nat × State) p =>
    let x := a.2.newProd p.1 .await (oneReg d); (a.1 ++ [x.1], x.2)) ([], s1)
  let e : SpawnEnt := {
    words := (firstRow rows).getD 0 [], turn := r.2.cur.turn, lanes := rowMask rows, uid := (r.2.wave s1.cur.core r.2.cur.turn).uid
    prods := r.1, upTo := r.2.nextId
    wh := (rowMask rows).lanes.foldl (fun v l => Lease.later v (r.2.curThread l).wh) (r.2.curThread (rows.headD (0, [])).1).wh }
  refine ⟨r.2, e, ?_, hs, rfl, congrArg (·.turn) hcur, rfl, hl.trans (Nat.zero_add _), rfl⟩
  change execSpawn g d a s = _
  unfold execSpawn
  rw [hp]
  exact congrArg Host.Outcome.next ((if_neg (by simpa [firstRow] using hb)).trans (if_neg (by omega)))

end spawn

/-! ## The manifest's instructions (R342 to R344) -/

theorem next_onceWord {srcs : List SrcReq} {body : State → List (List Word) → State × Word}
    (hp : prep s g { srcs, dst := some { o := d } } = .go s0 s1 rows) {u : State} {v : Word} (hb : body s1 (firstRow rows) = (u, v)) :
    (Host.Outcome.next (onceWord s g srcs d body) : Host.Outcome State Fault Refusal) =
      .next (u.writeDst { o := d } (rows.map fun p => (p.1, [v]))).finish := by
  unfold onceWord
  rw [hp]
  change Host.Outcome.next (State.writeAll (body s1 (firstRow rows)).1 d rows (body s1 (firstRow rows)).2).finish = _
  rw [hb]
  rfl

/-- What `mfind` finds in a manifest for its sources (R344). -/
def mfindWord (k : Cluster) (vs : List (List Word)) : List Word :=
  match (mfWays (wBits (wordAt vs 0 0) 23 0)).find? fun n => decide (wBits (wordAt vs 1 0) 11 0 ≤ n) &&
      mfValid (k.mf n) && mfTile (k.mf n) == wBits (wordAt vs 0 0) 23 0 with
  | some n => [BitVec.ofNat 32 n]
  | none => [0xFFFFFFFF]

theorem mfindWord_congr {k k' : Cluster} (h : k'.manifest = k.manifest) (vs : List (List Word)) : mfindWord k' vs = mfindWord k vs := by
  simp only [mfindWord, Cluster.mf, h]

theorem execMfind_eq : execMfind g d a b s = .next (pureOp s g { srcs := [{ pos := 0, src := a }, { pos := 1, src := b }], dst := some { o := d } }
    fun vs => (mfindWord (s.cl (clusterOf s.cur.core)) vs, 0)) := by
  unfold execMfind
  congr 2
  funext vs
  unfold mfindWord
  dsimp only
  generalize List.find? _ _ = o
  cases o <;> rfl

theorem execMfind_go (hp : prep s g { srcs := [{ pos := 0, src := a }, { pos := 1, src := b }], dst := some { o := d } } = .go s0 s1 rows) :
    exec (.mfind g d a b) s = .next (laneValue s1 { o := d } rows fun _ vs => mfindWord (s1.cl (clusterOf s1.cur.core)) vs) := by
  refine execMfind_eq.trans ((next_pureOp hp rfl).trans ?_)
  rw [laneResult_of_noFlags]
  obtain ⟨-, hk, -, -⟩ := prep_go hp
  congr 2
  funext _ vs
  rw [hk.cur]
  exact (mfindWord_congr (manifest_prep hp _) vs).symm

end

/-- Settles O43: `spawn` by the room in its unit, and the manifest's instructions by the word each answers. -/
theorem taskResults : Obligations.TaskResults := by
  unfold Obligations.TaskResults
  refine ⟨?_, ?_⟩
  · intro g d a s s0 s1 rows hi c ws q bad
    exact ⟨execSpawn_bad hi.prep, execSpawn_full hi.prep, execSpawn_enters hi.prep⟩
  · intro g d a b s s0 s1 rows cl vs give
    refine ⟨?_, fun hi => next_laneOp hi.prep rfl, ?_⟩
    · intro hi ws e ins
      refine ⟨fun hb => ?_, fun hb => ?_⟩
      · refine next_onceWord hi.prep ?_
        exact if_pos hb
      · refine next_onceWord hi.prep ?_
        exact if_neg (Bool.eq_false_iff.1 hb)
    · intro hi tile hit
      exact ⟨next_onceWord hi.prep rfl, execMfind_go hi.prep⟩

end Sys2Proof.Machine

namespace Sys2Proof.Machine

/-! ## Counters, mail and drive registers (R447 to R449, R454, R455, R500, R501) -/

section
variable {g : Guard} {s s0 s1 : State} {rows : List (Nat × List (List Word))} {d : Operand} {a b : Src}

section nwait
variable (hp : prep s g { srcs := [{ pos := 0, src := a }, { pos := 1, src := b }], dst := some { o := d } } = .go s0 s1 rows)
include hp

theorem execNwait_met (h : ∀ p ∈ rows, nctrMet (s1.cr s1.curCl (nNCTR (wBits (wordAt p.2 0 0) 7 0))) ((wordAt p.2 1 0).setWidth 64) = true) :
    exec (.nwait g d a b) s =
      .next (laneValue s1 { o := d } rows fun _ vs => [hiOf (s1.cr s1.curCl (nNCTR (wBits (wordAt vs 0 0) 7 0)))]) := by
  change execNwait g d a b s = _
  unfold execNwait
  rw [hp]
  dsimp only
  rw [List.filter_map, List.filter_eq_nil_iff.2 fun p hm => by simp [h p hm], List.map_map]
  rfl

theorem execNwait_unmet (h : (rows.filter fun p =>
      !nctrMet (s1.cr s1.curCl (nNCTR (wBits (wordAt p.2 0 0) 7 0))) ((wordAt p.2 1 0).setWidth 64)) ≠ []) :
    exec (.nwait g d a b) s = .next (s0.block .blockedQueue (.nctr ((rows.filter fun p =>
      !nctrMet (s1.cr s1.curCl (nNCTR (wBits (wordAt p.2 0 0) 7 0))) ((wordAt p.2 1 0).setWidth 64)).map fun p =>
        (p.1, wBits (wordAt p.2 0 0) 7 0, (wordAt p.2 1 0).setWidth 64)))) := by
  change execNwait g d a b s = _
  unfold execNwait
  rw [hp]
  dsimp only
  rw [List.filter_map]
  exact congrArg Host.Outcome.next (if_pos (by simpa [Function.comp_def] using h))

end nwait

section msend
variable {nb : Bool} (hs : isSerai s.cur.core = true)
  (hp : prep s g { srcs := [{ pos := 0, src := a, n := 16, al := 16 }, { pos := 1, src := b }], dst := some { o := d } } = .go s0 s1 rows)
  (hf : s1.fenceMet .domain s1.cur.core s1.cur.turn 0 = true)
include hs hp hf

theorem execMsend_refused (hr : s1.accepts (wordAt (firstRow rows) 1 0).toNat = false) :
    exec (.msend g nb d a b) s = .next (s1.writeDst { o := d } [(0, [2])]).finish := by
  refine next_seraiOp hs hp ?_
  dsimp only
  rw [hf, hr, if_neg nofun]
  exact if_pos rfl

theorem execMsend_malformed (hr : s1.accepts (wordAt (firstRow rows) 1 0).toNat = true) (hm : wBits (wordAt (firstRow rows) 0 0) 31 28 ≠ 0) :
    exec (.msend g nb d a b) s = .next (s1.writeDst { o := d } [(0, [3])]).finish := by
  refine next_seraiOp hs hp ?_
  dsimp only
  rw [hf, hr, if_neg nofun, if_neg nofun]
  exact if_pos hm

theorem execMsend_room (hr : s1.accepts (wordAt (firstRow rows) 1 0).toNat = true) (hm : wBits (wordAt (firstRow rows) 0 0) 31 28 = 0)
    (hu : (s1.cl (wordAt (firstRow rows) 1 0).toNat).mailUsed (clusterOf s1.cur.core) < 16) :
    exec (.msend g nb d a b) s = .next ((s1.putMail (clusterOf s1.cur.core) (wordAt (firstRow rows) 1 0).toNat
      ((firstRow rows).getD 0 [])).writeDst { o := d } [(0, [0])]).finish := by
  refine next_seraiOp hs hp ?_
  dsimp only
  rw [hf, hr, if_neg nofun, if_neg nofun, if_neg (not_not_intro hm)]
  exact if_neg (Nat.not_le.2 hu)

theorem execMsend_full (hr : s1.accepts (wordAt (firstRow rows) 1 0).toNat = true) (hm : wBits (wordAt (firstRow rows) 0 0) 31 28 = 0)
    (hu : 16 ≤ (s1.cl (wordAt (firstRow rows) 1 0).toNat).mailUsed (clusterOf s1.cur.core)) :
    exec (.msend g nb d a b) s = if nb then .next (s1.writeDst { o := d } [(0, [1])]).finish else
      .next (s0.block .blockedQueue (.mailRoom (wordAt (firstRow rows) 1 0).toNat (clusterOf s1.cur.core))) := by
  refine (next_seraiOp hs hp ?_).trans (apply_ite Host.Outcome.next (nb = true) _ _)
  dsimp only
  rw [hf, hr, if_neg nofun, if_neg nofun, if_neg (not_not_intro hm)]
  exact if_pos hu

end msend

section mrecv
variable {nb : Bool} (hs : isSerai s.cur.core = true)
  (hp : prep s g { srcs := [{ pos := 0, src := a }], dst := some { o := d, n := 16, al := 16 } } = .go s0 s1 rows)
include hs hp

theorem execMrecv_message {f : Nat}
    (hn : (s1.cl (clusterOf s1.cur.core)).nextSender (wBits (wordAt (firstRow rows) 0 0) 15 0) = some f)
    (hh : s1.regionHeld (s1.mailSlot (clusterOf s1.cur.core) f (getK 0 (s1.cl (clusterOf s1.cur.core)).mailHead f)) = false) :
    let slot := s1.mailSlot (clusterOf s1.cur.core) f (getK 0 (s1.cl (clusterOf s1.cur.core)).mailHead f)
    (s1.badSram.contains (slot / 128) = false → exec (.mrecv g nb d a) s = .next ((s1.dropMail (clusterOf s1.cur.core) f).writeDst { o := d, n := 16 }
      [(0, (s1.headMail (clusterOf s1.cur.core) f).getD [])]).finish) ∧
    (s1.badSram.contains (slot / 128) = true → exec (.mrecv g nb d a) s =
      .next (s0.takeFault 0 8 32 (BitVec.ofNat 64 (slot % 2 ^ 20))).finish) := by
  refine ⟨fun hb => ?_, fun hb => ?_⟩ <;> refine next_seraiOp hs hp ?_ <;> dsimp only <;> rw [hn] <;> dsimp only <;> rw [hh, if_neg nofun, hb]
  · exact if_neg nofun
  · exact if_pos rfl

theorem execMrecv_none (hn : (s1.cl (clusterOf s1.cur.core)).nextSender (wBits (wordAt (firstRow rows) 0 0) 15 0) = none) :
    exec (.mrecv g nb d a) s = if nb then .next (s1.writeDst { o := d } [(0, [0xFFFFFFFF])]).finish
      else .next (s0.block .blockedQueue (.mail (wBits (wordAt (firstRow rows) 0 0) 15 0))) := by
  refine (next_seraiOp hs hp ?_).trans (apply_ite Host.Outcome.next (nb = true) _ _)
  dsimp only
  rw [hn]

end mrecv

section mmio
variable {p : DWord} {go : State}

theorem mmioOp_misaligned (h : dwBits p 31 0 % 4 ≠ 0) :
    mmioOp s0 s1 p go = (s0.takeFault 0 4 1 (BitVec.ofNat 64 (dwBits p 31 0))).finish := if_pos h

theorem mmioOp_mode (h : dwBits p 31 0 % 4 = 0) (hl : dwBits p 31 0 < 0x1000) (hm : s1.isMonitor (clusterOf s1.cur.core) s1.cur.turn = false) :
    mmioOp s0 s1 p go = s0.privilegeFault :=
  (if_neg (not_not_intro h)).trans (if_pos ⟨hl, by rw [hm]; rfl⟩)

theorem mmioOp_goes (h : dwBits p 31 0 % 4 = 0) (hm : 0x1000 ≤ dwBits p 31 0 ∨ s1.isMonitor (clusterOf s1.cur.core) s1.cur.turn = true) :
    mmioOp s0 s1 p go = go := by
  refine (if_neg (not_not_intro h)).trans (if_neg ?_)
  rintro ⟨hl, hn⟩
  rcases hm with hm | hm
  · omega
  · rw [hm] at hn
    cases hn

/-- The endpoint that a drive address names, when there is one, decides whether it answers (R455; open, LOG 7). -/
theorem mmioOk_eq (s : State) (p : DWord) : s.mmioOk p =
    if dwBits p 63 33 = 0 ∧ s.drives.getLsbD (dwBits p 32 32) = true then s.openBit else (false, s) := by
  unfold State.mmioOk
  by_cases h : dwBits p 63 33 = 0 ∧ s.drives.getLsbD (dwBits p 32 32) = true
  · rw [if_pos h, if_neg (by simp [h.1, h.2])]
  · rw [if_neg h, if_pos]
    rw [Decidable.not_and_iff_not_or_not] at h
    simpa using h

/-- The state once a drive has been asked, if there is one. -/
def State.driveAsked (s : State) (p : DWord) : State :=
  if dwBits p 63 33 = 0 ∧ s.drives.getLsbD (dwBits p 32 32) = true then { s with fresh := s.fresh + 1 } else s

theorem mmioOk_ite {α : Type} (s : State) (p : DWord) (yes no : State → α) :
    (if (s.mmioOk p).1 then yes (s.mmioOk p).2 else no (s.mmioOk p).2) =
      if (dwBits p 63 33 = 0 ∧ s.drives.getLsbD (dwBits p 32 32) = true) ∧ Config.freeBit s.fresh = true then yes (s.driveAsked p)
      else no (s.driveAsked p) := by
  rw [mmioOk_eq, State.driveAsked]
  by_cases h : dwBits p 63 33 = 0 ∧ s.drives.getLsbD (dwBits p 32 32) = true
  · rw [if_pos h, if_pos h]
    exact if_congr_val ⟨fun hb => ⟨h, hb⟩, fun hb => hb.2⟩ (fun _ => rfl) rfl
  · rw [if_neg h, if_neg h]
    exact (if_neg Bool.false_ne_true).trans (if_neg fun hc => h hc.1).symm

section write
variable (hs : isSerai s.cur.core = true)
  (hp : prep s g { srcs := [{ pos := 0, src := a, n := 2, al := 2 }, { pos := 1, src := b }] } = .go s0 s1 rows)
include hs hp

theorem execMmiow_eq : exec (.mmiow g a b) s = .next (mmioOp s0 s1 (pairAt (firstRow rows) 0)
    (if !s1.storesMet s1.cur.core s1.cur.turn 0 false then s0.block .blockedQueue (.stores false)
     else if (s1.mmioOk (pairAt (firstRow rows) 0)).1 then ((s1.mmioOk (pairAt (firstRow rows) 0)).2.emit (.mmio (dwBits (pairAt (firstRow rows) 0) 32 32)
        (dwBits (pairAt (firstRow rows) 0) 31 0) (some (wordAt (firstRow rows) 1 0)))).finish
     else ((s1.mmioOk (pairAt (firstRow rows) 0)).2.raiseOpen (clusterOf s1.cur.core) 6 2).finish)) :=
  next_seraiOp hs hp rfl

end write

section read
variable (hs : isSerai s.cur.core = true)
  (hp : prep s g { srcs := [{ pos := 0, src := a, n := 2, al := 2 }], dst := some { o := d } } = .go s0 s1 rows)
include hs hp

theorem execMmior_eq : exec (.mmior g d a) s = .next (mmioOp s0 s1 (pairAt (firstRow rows) 0)
    (if (s1.mmioOk (pairAt (firstRow rows) 0)).1 then
      ((({ (s1.mmioOk (pairAt (firstRow rows) 0)).2 with fresh := (s1.mmioOk (pairAt (firstRow rows) 0)).2.fresh + 1 } : State).emit
        (.mmio (dwBits (pairAt (firstRow rows) 0) 32 32) (dwBits (pairAt (firstRow rows) 0) 31 0) none)).giveD d
          [BitVec.ofNat 32 (Config.freeNat (s1.mmioOk (pairAt (firstRow rows) 0)).2.fresh)]).finish
     else (((s1.mmioOk (pairAt (firstRow rows) 0)).2.raiseOpen (clusterOf s1.cur.core) 6 2).giveD d [0xFFFFFFFF]).finish)) :=
  next_seraiOp hs hp rfl

end read
end mmio
end

/-- Settles O44: counters by `nwait` and its kin, mail by the state of the ring, drive registers by the endpoint's answer. -/
theorem counterAndMailResults : Obligations.CounterAndMailResults := by
  unfold Obligations.CounterAndMailResults
  intro g nb d a b s s0 s1 rows cl ctr vs give
  refine ⟨fun hi => next_laneOp hi.prep rfl, fun hi => ⟨execNwait_met hi.prep, execNwait_unmet hi.prep⟩, fun hi => next_laneOp hi.prep rfl,
    fun hi => next_onceOp hi.prep, fun hs => ⟨?_, fun hi => ⟨fun f hn => execMrecv_message hs hi.prep hn, execMrecv_none hs hi.prep⟩, ?_⟩⟩
  · intro hi hf r
    exact ⟨execMsend_refused hs hi.prep hf, execMsend_malformed hs hi.prep hf, execMsend_room hs hi.prep hf, execMsend_full hs hi.prep hf⟩
  · rintro (_ | _) hi inst p off
    · have he := execMmior_eq hs hi.prep
      refine ⟨fun h => he.trans (congrArg _ (mmioOp_misaligned h)), fun h hl hm => he.trans (congrArg _ (mmioOp_mode h hl hm)), fun h hm => ⟨nofun, fun _ => ?_⟩⟩
      refine he.trans (congrArg Host.Outcome.next ((mmioOp_goes h hm).trans ?_))
      exact mmioOk_ite s1 p (fun u => ((({ u with fresh := u.fresh + 1 } : State).emit (.mmio (dwBits p 32 32) off none)).giveD d
        [BitVec.ofNat 32 (Config.freeNat u.fresh)]).finish) fun u => ((u.raiseOpen (clusterOf s1.cur.core) 6 2).giveD d [0xFFFFFFFF]).finish
    · have he := execMmiow_eq hs hi.prep
      refine ⟨fun h => he.trans (congrArg _ (mmioOp_misaligned h)), fun h hl hm => he.trans (congrArg _ (mmioOp_mode h hl hm)),
        fun h hm => ⟨fun _ hst => ?_, fun hst => ?_⟩⟩
      · refine he.trans (congrArg Host.Outcome.next ((mmioOp_goes h hm).trans (if_pos ?_)))
        rw [hst]
        rfl
      · refine he.trans (congrArg Host.Outcome.next ((mmioOp_goes h hm).trans ((if_neg ?_).trans ?_)))
        · rw [hst rfl]
          nofun
        · exact mmioOk_ite s1 p (fun u => (u.emit (.mmio (dwBits p 32 32) off (some (wordAt vs 1 0)))).finish)
            fun u => (u.raiseOpen (clusterOf s1.cur.core) 6 2).finish

end Sys2Proof.Machine

namespace Sys2Proof.Machine

/-! ## The values of the tariff's arithmetic (R354) -/

section
variable (a b : Word)

theorem tariff_sub : a - b = BitVec.ofInt 32 (a.toNat - b.toNat : Int) := by
  apply BitVec.eq_of_toNat_eq
  rw [BitVec.toNat_sub, BitVec.toNat_ofInt]
  omega

theorem tariff_mul : a * b = BitVec.ofNat 32 (a.toNat * b.toNat) := BitVec.eq_of_toNat_eq (BitVec.toNat_mul _ _)

theorem tariff_shl : (if 32 ≤ b.toNat then 0 else a <<< b.toNat) = BitVec.ofNat 32 (a.toNat * 2 ^ b.toNat) := by
  apply BitVec.eq_of_toNat_eq
  rw [BitVec.toNat_ofNat]
  split
  next h =>
    obtain ⟨k, hk⟩ := Nat.exists_eq_add_of_le h
    rw [hk, Nat.pow_add, Nat.mul_left_comm, Nat.mul_mod_right]
    rfl
  next => rw [BitVec.toNat_shiftLeft, Nat.shiftLeft_eq]

theorem tariff_shr_nat (n : Nat) : a >>> n = BitVec.ofNat 32 (a.toNat / 2 ^ n) := by
  apply BitVec.eq_of_toNat_eq
  rw [BitVec.toNat_ushiftRight, BitVec.toNat_ofNat, Nat.shiftRight_eq_div_pow,
    Nat.mod_eq_of_lt (Nat.lt_of_le_of_lt (Nat.div_le_self _ _) a.isLt)]

theorem tariff_shr : (if 32 ≤ b.toNat then 0 else a >>> b.toNat) = BitVec.ofNat 32 (a.toNat / 2 ^ b.toNat) := by
  split
  next h =>
    rw [Nat.div_eq_of_lt (Nat.lt_of_lt_of_le a.isLt (Nat.pow_le_pow_right (by decide) h))]
    rfl
  next => exact tariff_shr_nat a _

theorem tariff_min : (if a.toNat ≤ b.toNat then a else b) = BitVec.ofNat 32 (min a.toNat b.toNat) := by
  split
  next h => rw [Nat.min_eq_left h, BitVec.ofNat_toNat, BitVec.setWidth_eq]
  next h => rw [Nat.min_eq_right (Nat.le_of_not_le h), BitVec.ofNat_toNat, BitVec.setWidth_eq]

theorem tariff_max : (if a.toNat ≤ b.toNat then b else a) = BitVec.ofNat 32 (max a.toNat b.toNat) := by
  split
  next h => rw [Nat.max_eq_right h, BitVec.ofNat_toNat, BitVec.setWidth_eq]
  next h => rw [Nat.max_eq_left (Nat.le_of_not_le h), BitVec.ofNat_toNat, BitVec.setWidth_eq]

theorem tariff_addi (i : BitVec 14) : a + i.signExtend 32 = BitVec.ofInt 32 (a.toNat + i.toInt) := by
  rw [BitVec.signExtend, BitVec.ofInt_add, BitVec.ofInt_natCast, BitVec.ofNat_toNat, BitVec.setWidth_eq]

theorem tariff_andi (i : BitVec 14) : a &&& i.setWidth 32 = a &&& BitVec.ofNat 32 i.toNat := by
  rw [BitVec.ofNat_toNat]

theorem tariff_movhi (i : BitVec 16) : i ++ a.extractLsb' 0 16 = BitVec.ofNat 32 (i.toNat * 2 ^ 16 + a.toNat % 2 ^ 16) := by
  apply BitVec.eq_of_toNat_eq
  have hi := i.isLt
  rw [BitVec.toNat_append, BitVec.extractLsb'_toNat, Nat.shiftRight_zero, BitVec.toNat_ofNat, Nat.shiftLeft_eq,
    ← Nat.mul_comm, ← Nat.two_pow_add_eq_or_of_lt (Nat.mod_lt _ (by decide))]
  omega

end

/-! ## One instruction of a decision (R352, R353) -/

section
variable {s : State} {d : Decision}

/-- An instruction that is not the last, or with the budget at its end, leaves its registers and the next index. -/
theorem next_tStep {f : Decision → List Word × Nat} {x : List Word × Nat} (hd : (s.cl s.curCl).decision = some d) (hf : f d = x)
    (hfit : x.2 < (s.cl s.curCl).alen ∨ 64 ≤ d.cycles + 1) :
    tStep s f = .next (s.modCl s.curCl fun k =>
      { k with decision := some { d with t := x.1, idx := x.2, last := d.idx, cycles := d.cycles + 1 } }) := by
  subst hf
  unfold tStep
  extract_lets cl
  rw [show (s.cl cl).decision = some d from hd]
  refine congrArg Host.Outcome.next (if_neg ?_)
  rintro ⟨h1, h2⟩
  have h1 : (s.cl s.curCl).alen ≤ (f d).2 := h1
  have h2 : d.cycles + 1 < 64 := h2
  omega


theorem next_tOp {td ta tb : BitVec 4} {f : Word → Word → Word} {v : Word} (hd : (s.cl s.curCl).decision = some d)
    (hv : f (d.r ta) (d.r tb) = v) (hfit : d.idx + 1 < (s.cl s.curCl).alen ∨ 64 ≤ d.cycles + 1) :
    tOp s td ta tb f = .next (s.modCl s.curCl fun k =>
      { k with decision := some { d with t := d.t.set td.toNat v, idx := d.idx + 1, last := d.idx, cycles := d.cycles + 1 } }) :=
  next_tStep (x := (d.t.set td.toNat v, d.idx + 1)) hd (by rw [hv]; rfl) hfit

end

/-- Settles O45: each instruction is `tStep` with the registers and the index of its rule. -/
theorem tariffInstructions : Obligations.TariffInstructions := by
  unfold Obligations.TariffInstructions
  refine ⟨?_, ?_⟩
  · intro td ta tb i i22 i16 s d cl a b W hd hfit
    have put : ∀ {f : Decision → Word} {v : Word}, f d = v → tStep s (fun x => x.put td (f x)) = W v :=
      fun hv => next_tStep (x := (d.t.set td.toNat _, d.idx + 1)) hd (by rw [hv]; rfl) hfit
    have op : ∀ {f : Word → Word → Word} {v : Word}, f a b = v → tOp s td ta tb f = W v := fun hv => next_tOp hd hv hfit
    refine ⟨op ?add, op ?sub, op ?mul, op rfl, op rfl, op rfl, ?shl, ?shr, ?min, ?max, ?slt, put ?addi, put ?andi, put ?shri, put rfl,
      put ?movhi⟩
    case add => exact BitVec.add_def _ _
    case sub => exact tariff_sub a b
    case mul => exact tariff_mul a b
    case shl => change execTShl td ta tb s = _; exact op (tariff_shl a b)
    case shr => change execTShr td ta tb s = _; exact op (tariff_shr a b)
    case min => change execTMin td ta tb s = _; exact op (tariff_min a b)
    case max => change execTMax td ta tb s = _; exact op (tariff_max a b)
    case slt => change execTSlt td ta tb s = _; exact op rfl
    case addi => exact tariff_addi a i
    case andi => exact tariff_andi a i
    case shri => exact tariff_shr_nat a _
    case movhi => exact tariff_movhi _ _
  · intro td ta tb i sel f s d cl a b dest fits br put n hd
    refine ⟨next_tStep hd rfl, next_tStep hd rfl, next_tStep hd rfl, next_tStep hd rfl, next_tStep hd rfl, fun hfit => ⟨next_tStep hd rfl hfit, ?_, ?_,
      next_tStep hd rfl hfit⟩, fun hc hfit => next_tStep hd ?_ hfit, fun hc hfit => next_tStep hd ?_ hfit, fun hn hfit => next_tStep hd ?_ hfit,
      fun hn hfit => next_tStep hd ?_ hfit⟩
    · rintro rfl
      exact next_tStep hd rfl hfit
    · rintro rfl
      exact next_tStep hd rfl hfit
    · have he : d.cands.isEmpty = true := List.isEmpty_iff.2 hc
      exact Prod.ext rfl (if_pos he)
    · have he : ¬d.cands.isEmpty = true := fun h => hc (List.isEmpty_iff.1 h)
      exact Prod.ext rfl (if_neg he)
    · exact Prod.ext rfl (if_pos hn)
    · exact Prod.ext rfl (if_neg (Nat.not_lt.2 hn))

end Sys2Proof.Machine

namespace Sys2Proof.Machine

/-! ## What a tariff emits (R359 to R363) -/

section
variable {s : State} {d0 : Decision}

/-- The decision as its `emit` finds it: one more cycle has gone. -/
def Decision.emitted (d : Decision) : Decision := { d with last := d.idx, cycles := d.cycles + 1 }

section
variable (hd : (s.cl s.curCl).decision = some d0)
include hd

theorem tEmit_refused {ev : Nat} {body : Nat → Decision → State} (he : d0.evkind ≠ ev) :
    tEmit s (some ev) body = .next (s.tariffError s.curCl d0.emitted 1 d0.idx) := by
  unfold tEmit
  extract_lets cl
  rw [show (s.cl cl).decision = some d0 from hd]
  exact congrArg Host.Outcome.next (if_pos (bne_iff_ne.2 he))

theorem tEmit_accepted {ev : Nat} {body : Nat → Decision → State} {u : State} (he : d0.evkind = ev) (hb : body s.curCl d0.emitted = u) :
    tEmit s (some ev) body = .next u := by
  unfold tEmit
  extract_lets cl
  rw [show (s.cl cl).decision = some d0 from hd, ← hb]
  exact congrArg Host.Outcome.next (if_neg (by simp [he]))

theorem tEmit_any {body : Nat → Decision → State} : tEmit s none body = .next (body s.curCl d0.emitted) := by
  unfold tEmit
  extract_lets cl
  rw [show (s.cl cl).decision = some d0 from hd]
  rfl

end

theorem placeWave_core {cl c : Nat} {g : Gather} (hg : (s.cl cl).gather = some g) :
    (s.placeWave cl (some c)).2 = (s.startWave c g.recs).modCl cl fun k => { k with gather := none, preTick := none } := by
  rw [State.placeWave, hg]

theorem placeWave_waits {cl : Nat} {g : Gather} (hg : (s.cl cl).gather = some g) :
    (s.placeWave cl none).2 = s.modCl cl fun k => { k with gather := some { g with waiting := true }, preTick := some (k.preTick.getD s.lease) } := by
  rw [State.placeWave, hg]

end

/-- Settles O46: `tEmit` accepts or refuses by the event, then each decision's own effect. -/
theorem tariffDecisions : Obligations.TariffDecisions := by
  unfold Obligations.TariffDecisions
  intro ta s d0 cl d n c core done err hd
  refine ⟨fun he => ⟨fun g hn hg hc => ?_, fun hn => ?_, fun g hg => ?_⟩, ?_, fun e he hf => ⟨?_, ?_, fun hr => ?_, fun hr => ?_⟩,
    fun he => ⟨(tEmit_refused hd he : execEmitDisp ta s = _), (tEmit_refused hd he : execEmitDefer s = _)⟩,
    fun he => ⟨(tEmit_refused hd he : execEmitPreempt ta s = _), (tEmit_refused hd he : execEmitNone s = _)⟩,
    fun he => ⟨(tEmit_refused hd he : execEmitKill s = _), (tEmit_refused hd he : execEmitPark s = _), (tEmit_refused hd he : execEmitRetry s = _)⟩,
    (tEmit_any hd : execEmitFallback s = _)⟩
  · change execEmitDisp ta s = _
    refine tEmit_accepted hd he ((if_neg (Nat.not_le.2 hn)).trans ((if_pos ?_).trans ?_))
    · rw [hg]
      exact hc
    · rw [placeWave_core hg]
      rfl
  · change execEmitDisp ta s = _
    exact tEmit_accepted hd he (if_pos hn)
  · change execEmitDefer s = _
    refine tEmit_accepted hd he ?_
    rw [placeWave_waits hg]
    rfl
  · intro he victim
    exact ⟨fun hn => (tEmit_accepted hd he (if_neg (Nat.not_le.2 hn)) : execEmitPreempt ta s = _),
      fun hn => (tEmit_accepted hd he (if_pos hn) : execEmitPreempt ta s = _), _, (tEmit_accepted hd he rfl : execEmitNone s = _)⟩
  · change execEmitKill s = _
    refine tEmit_accepted hd he ?_
    rw [show d0.emitted.fault = some e from hf]
    rfl
  · change execEmitPark s = _
    refine tEmit_accepted hd he ?_
    rw [show d0.emitted.fault = some e from hf]
    rfl
  · change execEmitRetry s = _
    refine tEmit_accepted hd he ?_
    rw [show d0.emitted.fault = some e from hf]
    exact if_pos hr
  · change execEmitRetry s = _
    refine tEmit_accepted hd he ?_
    rw [show d0.emitted.fault = some e from hf]
    exact if_neg (Bool.eq_false_iff.1 hr)

end Sys2Proof.Machine

namespace Sys2Proof.Machine

/-! ## Events of a core (R20, R28, R45, R175, R184, R188) -/

theorem modCore_congr {s : State} {c : Nat} {f g : Core → Core} (h : f (s.core c) = g (s.core c)) : s.modCore c f = s.modCore c g := by
  rw [State.modCore, h]
  rfl

theorem core_modWave_congr {k : Core} {t : Nat} {f g : Wave → Wave} (h : f (k.wave t) = g (k.wave t)) : k.modWave t f = k.modWave t g := by
  rw [Core.modWave, h]
  rfl

/-- A change of one wave depends on what it does to that wave. -/
theorem next_modWave {s : State} {c t : Nat} {f g : Core → Wave → Wave} (h : f (s.core c) (s.wave c t) = g (s.core c) (s.wave c t)) :
    (Host.Outcome.next (s.modCore c fun k => k.modWave t (f k)) : Host.Outcome State Fault Refusal) =
      .next (s.modCore c fun k => k.modWave t (g k)) :=
  congrArg Host.Outcome.next (modCore_congr (core_modWave_congr h))

theorem rotateIfDue_due {w : Wave} {ps : List (DWord × Mask)} (hr : w.rot = false) (hp : ps ≠ []) (hq : w.quant ≤ w.qcnt) :
    w.rotateIfDue ps = w.beginRot ps 0 := by
  have hp' : ps.isEmpty = false := Bool.eq_false_iff.2 fun h => hp (List.isEmpty_iff.1 h)
  rw [Wave.rotateIfDue, hr, hp', decide_eq_true hq]
  rfl

/-- A rotation that is over ends. -/
theorem rotation_ends {w : Wave} (hr : w.rot = true) (h : (∀ q ∈ w.paths, q.2 &&& w.rotMask = 0) ∨ w.rotLeft = 0) :
    (if w.rot && !(w.paths.any fun q => (q.2 &&& w.rotMask) != 0) then w.endRot else w.endIfDone) = w.endRot := by
  rw [Wave.endIfDone, hr]
  rcases h with h | h
  · have hn : (w.paths.any fun q => (q.2 &&& w.rotMask) != 0) = false :=
      List.any_eq_false.2 fun q hq => by rw [h q hq]; nofun
    rw [hn]
    rfl
  · rw [h]
    split <;> rfl

theorem gate_asleep {k : Core} (h : ∀ w ∈ k.waves, ∀ x ∈ w.2.threads, x.2.status ≠ .ready) : k.gate = { k with gated := true } := by
  rw [Core.gate]
  refine if_neg fun ha => ?_
  obtain ⟨w, hw, ha⟩ := List.any_eq_true.1 ha
  obtain ⟨x, hx, ha⟩ := List.any_eq_true.1 ha
  exact h w hw x hx (beq_iff_eq.1 ha)

section
variable {s : State} {c : Nat}

theorem execProducerComplete_vals {id : Nat} {bs : List Byte} {p : Prod} {ws : List Word} (hp : findK s.prods id = some p) (hs : p.src = .vals ws) :
    let u : State := { s with prods := delK s.prods id }
    exec (.producerComplete id bs) s =
      .next (if (s.wave p.core p.turn).uid = p.uid then u.modThread p.core p.turn p.lane fun x => x.fill id p.dsts ws else u) := by
  change execProducerComplete id bs s = _
  rw [execProducerComplete, hp]
  dsimp only
  rw [hs]
  dsimp only
  rw [State.completeProd, hp]
  rfl

theorem execBlockedReady_met {t l : Nat} (hb : (s.wave c t).isBlocked l = true) (hm : s.waitMet c t l (s.thread c t l).wait = true) :
    exec (.blockedReady c t l) s = .next (s.modWave c t fun w => { w with threads := w.threads.map fun p =>
      if p.2.status = (s.thread c t l).status ∧ p.2.wait = (s.thread c t l).wait ∧ p.2.pc = (s.thread c t l).pc then
        (p.1, { p.2 with status := .ready }) else p }) := by
  change execBlockedReady c t l s = _
  refine congrArg Host.Outcome.next (if_neg ?_)
  rw [hb, hm]
  decide

theorem core_installLine_room {n : Nat} {x : ILine} (h : (s.core c).icache.length < icacheLines) :
    (s.installLine c n x).core c =
      { s.core c with fills := (s.core c).fills.filter (· != n), icache := insK ((s.core c).icache.filter fun y => y.1 != n) n x } := by
  have hlen : ((s.core c).icache.filter fun y => y.1 != n).length < icacheLines := Nat.lt_of_le_of_lt (List.length_filter_le _ _) h
  unfold State.installLine
  refine (core_modCore_same _ _ _).trans ?_
  change ({ s.core c with
    fills := (s.core c).fills.filter (· != n)
    icache := insK (if ((s.core c).icache.filter fun y => y.1 != n).length < icacheLines then (s.core c).icache.filter fun y => y.1 != n
      else ((s.core c).icache.filter fun y => y.1 != n).eraseIdx _) n x } : Core) = _
  rw [if_pos hlen]

section fill
variable {line : DWord} (hn : line.toNat ∈ (s.core c).fills)
include hn

theorem execIcacheLineFill_sram (hl : 2 ^ 60 ≤ line.toNat)
    (hb : seraiAddr (clusterOf c) ((line.toNat - 2 ^ 60) * 64) / 128 ∉ s.badSram) :
    exec (.icacheLineFill c line) s = .next (s.installLine c line.toNat { la2 := false, words := (List.range 8).map fun i =>
      (BitVec.ofNat 64 (natOfBytes (((s.rdSram (seraiAddr (clusterOf c) ((line.toNat - 2 ^ 60) * 64)) 64).drop (8 * i)).take 8)) : DWord) }) := by
  change execIcacheLineFill c line s = _
  refine congrArg Host.Outcome.next ((if_neg ?_).trans ((if_pos hl).trans (if_neg ?_)))
  · rw [List.contains_iff_mem.2 hn]
    decide
  · rwa [List.contains_iff_mem]

theorem execIcacheLineFill_hbm (hl : line.toNat < 2 ^ 60) {d : Nat} {e : BitVec 512}
    (hk : s.checkBuf (clusterOf c) [] (s.partOf c) (some (caBti (BitVec.ofNat 64 (line.toNat * 64)))) (caOff (BitVec.ofNat 64 (line.toNat * 64))) 8 rEXEC =
      .ok (.hbm d) e) (hh : s.heldPlace (.hbm d) = false) (hd : s.homeDown (.hbm d) 64 = none) :
    exec (.icacheLineFill c line) s = .next (((s.touchPlace (.hbm d) (if isSerai c then none else some c)).useTlb (clusterOf c)
      (caBti (BitVec.ofNat 64 (line.toNat * 64))) (caOff (BitVec.ofNat 64 (line.toNat * 64)) / 65536)).installLine c line.toNat
        { la2 := eLa2 e, words := (List.range 8).map fun i => (BitVec.ofNat 64 (natOfBytes (((s.rdHome (.hbm d) 64).drop (8 * i)).take 8)) : DWord) }) := by
  change execIcacheLineFill c line s = _
  unfold execIcacheLineFill
  refine congrArg Host.Outcome.next ((if_neg ?_).trans ((if_neg (Nat.not_le.2 hl)).trans ?_))
  · rw [List.contains_iff_mem.2 hn]
    decide
  · dsimp only
    rw [hk]
    dsimp only
    rw [hh, hd, if_neg nofun]
    rfl

end fill

section walker
variable {t w : Nat} (hb : ((s.wave c t).walker w).bound = true)
include hb

theorem execWalkerFetchArrive_none (hn : s.walkerNext c t ((s.wave c t).walker w) = none) : exec (.walkerFetchArrive c t w) s = .next s := by
  change execWalkerFetchArrive c t w s = _
  unfold execWalkerFetchArrive
  dsimp only
  rw [hb, hn]
  rfl

theorem execWalkerFetchArrive_some {i : Nat} {ps : List (Nat × Place)} (hn : s.walkerNext c t ((s.wave c t).walker w) = some (i, ps))
    (hh : (ps.any fun x => (s.thread c t x.1).status != .exited && s.fetchHeld c t x.1 ((s.wave c t).walker w) x.2) = false) :
    let r := ps.foldl (fun (a : Sparse DWord × State) x =>
      let v := a.2.walkerLoad (clusterOf c) x.2 (2 ^ ((s.wave c t).walker w).esize)
      (insK a.1 x.1 (BitVec.ofNat 64 (natOfBytes v.1)), v.2)) ([], s)
    exec (.walkerFetchArrive c t w) s = .next (r.2.modWave c t fun wv => wv.modWalker w fun x => x.put i r.1) := by
  change execWalkerFetchArrive c t w s = _
  unfold execWalkerFetchArrive
  dsimp only
  rw [hb, hn]
  exact if_neg (Bool.eq_false_iff.1 hh)

end walker
end

/-- Settles O47: each event by the lemma of its condition. -/
theorem coreEvents : Obligations.CoreEvents := by
  unfold Obligations.CoreEvents
  intro s c t l id w line bs k wv th n pc words put
  exact ⟨fun p ws hp hs => execProducerComplete_vals hp hs, execBlockedReady_met,
    fun hr hp hq => next_modWave (f := fun k w => w.rotateIfDue (k.cycle.waiting t)) (g := fun _ w => w.beginRot (k.cycle.waiting t) 0)
      (rotateIfDue_due hr hp hq),
    fun hr h => next_modWave (f := fun _ w => if w.rot && !(w.paths.any fun q => (q.2 &&& w.rotMask) != 0) then w.endRot else w.endIfDone)
      (g := fun _ w => w.endRot) (rotation_ends hr h),
    rfl, fun hp h => congrArg Host.Outcome.next (modCore_congr ((if_pos hp).trans (gate_asleep h))),
    execIcacheLineFill_sram, fun d e hf hl => execIcacheLineFill_hbm hf hl, fun h x => core_installLine_room h,
    fun hb => ⟨execWalkerFetchArrive_none hb, fun i ps hn hh => execWalkerFetchArrive_some hb hn hh⟩⟩

end Sys2Proof.Machine

namespace Sys2Proof.Machine

/-! ## Events of the lathe and of `ast` (R236 to R247, R252) -/

section
variable {s : State} {c : Nat}

theorem execLatheCommandAccept_room {ws : List Word} {t uid op : Nat} {ra rb : List (List Word)} {rest : List QEntry}
    (hq : (s.core c).queue 32 = .cmd ws t uid op ra rb :: rest) (hl : (s.core c).lathe.length < 4) :
    exec (.latheCommandAccept c) s = .next (s.modCore c fun k =>
      { k.setQueue 32 rest with lathe := k.lathe ++ [{ turn := t, uid, op, words := ws, regsA := ra, regsB := rb }] }) := by
  change execLatheCommandAccept c s = _
  rw [execLatheCommandAccept, hq]
  exact congrArg Host.Outcome.next (if_neg (Nat.not_le.2 hl))

/-- The mismatch of one step is counted and posted (R246). -/
def State.mismatch (s : State) (c b : Nat) : State := (s.crCount (clusterOf c) (nLERR (coreIndex c)) 11 0 1).latheEvent c 0 b
/-- A step of a command ends without a product. -/
def State.stepSkipped (s : State) (c : Nat) (r : LatheRun) : State := s.modCore c fun k => k.setRun { r with step := r.step + 1 }
/-- A step of a command adds its products to the bank (R241). -/
def State.stepAdded (s : State) (c : Nat) (r : LatheRun) (cmd : LatheCmd) (bank : Bank) (b mt g ch : Nat) : State :=
  s.modCore c fun k => (k.modBank b fun x =>
      { x with data := (s.latheProduct r cmd bank mt g ch).1, bad := x.bad && !(ch = 0 && !cmd.acc && decide (2 * g + 1 < cmd.nh)) }).setRun
    { r with step := r.step + 1, flags := r.flags ||| (s.latheProduct r cmd bank mt g ch).2 }

section step
variable {r : LatheRun} {rest : List LatheRun} (hr : (s.core c).lathe = r :: rest) (hs : r.step < (LatheCmd.ofWords r.words).steps)
include hr hs

/-- A step that is left, by the bank it adds to (R241, R245, R246). -/
theorem execLatheStep_eq (err : LatheErr) :
    exec (.latheStep c err) s =
      let cmd := LatheCmd.ofWords r.words
      let b := (cmd.at_ r.step).1
      let mt := (cmd.at_ r.step).2.1
      let g := (cmd.at_ r.step).2.2.1
      let ch := (cmd.at_ r.step).2.2.2
      let bank := (s.core c).bank b
      .next (if bank.poison then s.stepSkipped c r
        else if (ch ≠ 0 ∨ cmd.acc) ∧ (err = .array ∨ bank.bad) then (s.poisonBank c b true).stepSkipped c r
        else if err = .mismatchTwice then (((s.mismatch c b).mismatch c b).poisonBank c b false).stepSkipped c r
        else (if err = .mismatchOnce then s.mismatch c b else s).stepAdded c r cmd bank b mt g ch) := by
  change execLatheStep c err s = _
  unfold execLatheStep
  rw [hr]
  exact congrArg Host.Outcome.next (if_neg (Nat.not_le.2 hs))

end step

theorem execLatheCommandComplete_done {r : LatheRun} {rest : List LatheRun} (hr : (s.core c).lathe = r :: rest)
    (hs : (LatheCmd.ofWords r.words).steps ≤ r.step) :
    exec (.latheCommandComplete c) s = .next (((s.modCore c fun k =>
      { (LatheCmd.ofWords r.words).banks.foldl Core.lowerPend k with lathe := rest }).opFlags c r.uid r.flags).completeOp c r.op none) := by
  change execLatheCommandComplete c s = _
  unfold execLatheCommandComplete
  rw [hr]
  exact congrArg Host.Outcome.next (if_neg (Nat.not_lt.2 hs))

section ast
variable {id : Nat} {a : AstOp} (ha : ((s.core c).asts.find? fun a => a.op == id) = some a)
include ha

theorem execAstWriteComplete_writes (hv : a.vis = none) :
    exec (.astWriteComplete c id) s = .next ((a.rows.foldl (fun s r =>
      (List.range (r.2.length / 64)).foldl (fun s i => s.setTag (.sram (r.1 + 64 * i)) 0x7F01) (s.wrSram r.1 r.2)) s).modCore c fun k =>
        { k with asts := k.asts.flatMap fun x => if x.op == id then
            [{ x with vis := some (a.rows.foldl (fun v r => Lease.later v (s.visSpan (.sram r.1) r.2.length)) s.lease) }] else [x] }) := by
  change execAstWriteComplete c id s = _
  unfold execAstWriteComplete
  rw [ha]
  dsimp only
  rw [hv]

theorem execAstWriteComplete_visible {v : Lease} (hv : a.vis = some v) (hb : Lease.before v s.lease = true) :
    exec (.astWriteComplete c id) s = .next (((s.opFlags c a.uid a.fl).completeOp c id none).modCore c fun k =>
      { k with asts := k.asts.flatMap fun x => if x.op == id then [] else [x] }) := by
  change execAstWriteComplete c id s = _
  unfold execAstWriteComplete
  rw [ha]
  dsimp only
  rw [hv]
  exact congrArg Host.Outcome.next (if_pos hb)

end ast
end

/-- Settles O48: a step by its bank's state (`execLatheStep_eq`), and the other events by their conditions. -/
theorem latheEvents : Obligations.LatheEvents := by
  unfold Obligations.LatheEvents
  intro s c id k
  refine ⟨fun ws t uid op ra rb rest => execLatheCommandAccept_room, ?_, fun r rest => execLatheCommandComplete_done,
    fun a ha => ⟨execAstWriteComplete_writes ha, fun v => execAstWriteComplete_visible ha⟩⟩
  intro r rest hr hs cmd b mt g ch bank skip
  refine ⟨fun hp e => ?_, fun hp hc => ?_, fun hp hc => ?_⟩
  · exact (execLatheStep_eq hr hs e).trans (congrArg Host.Outcome.next (if_pos hp))
  · exact (execLatheStep_eq hr hs .array).trans (congrArg Host.Outcome.next ((if_neg (Bool.eq_false_iff.1 hp)).trans (if_pos ⟨hc, .inl rfl⟩)))
  · intro once twice add
    have held : ∀ e : LatheErr, e ≠ .array → exec (.latheStep c e) s = .next (if e = .mismatchTwice then (twice.poisonBank c b false).stepSkipped c r
        else (if e = .mismatchOnce then once else s).stepAdded c r cmd bank b mt g ch) := fun e he =>
      (execLatheStep_eq hr hs e).trans (congrArg Host.Outcome.next ((if_neg (Bool.eq_false_iff.1 hp)).trans
        (if_neg fun h => hc ⟨h.1, h.2.resolve_left he⟩)))
    exact ⟨held .none nofun, held .mismatchOnce nofun, held .mismatchTwice nofun⟩

end Sys2Proof.Machine

namespace Sys2Proof.Machine

/-! ## The copy engine takes a packet (R288, R482) -/

section
variable {s u v : State} {cl q : Nat} {ws : List Word}

/-- A packet is taken: it is an operation of the engine, and its slot is free (R282, R288). -/
def State.copyTaken (s : State) (cl q : Nat) (ws : List Word) (o : CopyOp) : State :=
  let v := (s.queueAdvance cl (nCQ q 0)).bump
  ({ v.2 with copies := insK v.2.copies v.1 o } : State).modCl cl fun k =>
    { k with rr := (q + 1) % 64, cpySlots := k.cpySlots.erase (q, noSeq ws) }

theorem execCopyQueueSlotTake_bad (hr : (s.copies.filter fun p => p.2.cl == cl).length < copyEngines)
    (hq : s.queueHead cl (nCQ q 0) = (some ws, u)) {f : Nat} {ctr : List (Place × Nat)}
    (hc : u.packetCheck cl q (u.qdesc cl (nCQ q 0)).part ws = (.bad f, ctr, v)) :
    exec (.copyQueueSlotTake cl q) s = .next ((v.copyTaken cl q ws
      { cl, q, words := ws, fail := some f, done := true, ctr, part := (u.qdesc cl (nCQ q 0)).part, start := v.lease }).copyReject cl q f) := by
  change execCopyQueueSlotTake cl q s = _
  unfold execCopyQueueSlotTake
  rw [if_neg (Nat.not_le.2 hr), hq]
  dsimp only
  rw [hc]
  rfl

theorem findK_copyTaken (o : CopyOp) : findK (s.copyTaken cl q ws o).copies (s.queueAdvance cl (nCQ q 0)).bump.1 = some o :=
  findK_insK_same _ _ _

theorem copyTaken_injective {o o' : CopyOp} {f : Nat} (h : (Host.Outcome.next ((s.copyTaken cl q ws o).copyReject cl q f) : Host.Outcome State Fault Refusal) =
    .next ((s.copyTaken cl q ws o').copyReject cl q f)) : o = o' := by
  have hcopies : ∀ t : State, (t.copyReject cl q f).copies = t.copies := fun _ => rfl
  have he := congrArg State.copies (Host.Outcome.next.inj h)
  rw [hcopies, hcopies] at he
  have hf := findK_copyTaken (s := s) (cl := cl) (q := q) (ws := ws) o
  rw [he, findK_copyTaken] at hf
  exact (Option.some.inj hf).symm

/-- A packet that no check can pass fails with cause 1 (R288). -/
theorem packetCheck_malformed (hm : packetMalformed ws = true) (hk : wsBit ws 369 = false) (part : BitVec 4) :
    s.packetCheck cl q part ws = (.bad 1, [], s) := by
  unfold State.packetCheck
  dsimp only
  rw [hk, hm]
  rfl

end
/-- The image of a fill with a TAGMODE that is reserved (R287). -/
def malformedPacket : List Word := [0x10001, 3] ++ List.replicate 14 0
theorem malformedPacket_bad : packetMalformed malformedPacket = true ∧ wsBit malformedPacket 369 = false := by decide +kernel
/-- Copy queue 0 of cluster 0, at offset 0x1000 of core 0's slice, with a malformed packet at its head, when the lease clock reads 1. -/
def malformedHead : State :=
  ((({ State.reset with lease := 1 } : State).setCr 0 (nCQ 0 0) 0x1000).setCr 0 (nCQ 0 1) 0x208).wrSram 0x1080 (bytesOf 64 0x300010001)
theorem malformedHead_queueHead :
    (malformedHead.queueHead 0 (nCQ 0 0)).1 = some malformedPacket ∧ (malformedHead.queueHead 0 (nCQ 0 0)).2.lease = 1 := by
  decide +kernel
theorem malformedHead_free : (malformedHead.copies.filter fun p => p.2.cl == 0).length < copyEngines := by decide

/-- Refutes O49: an operation that is taken records the time of its taking (`CopyOp.start`, R482), which the clause of `copyQueueSlotTake`
leaves 0. -/
theorem not_copyEvents : ¬ Obligations.CopyEvents := by
  unfold Obligations.CopyEvents
  intro h
  obtain ⟨hw, hl⟩ := malformedHead_queueHead
  have hq : malformedHead.queueHead 0 (nCQ 0 0) = (some (malformedPacket), (malformedHead.queueHead 0 (nCQ 0 0)).2) :=
    Prod.ext hw rfl
  generalize (malformedHead.queueHead 0 (nCQ 0 0)).2 = u at hl hq
  have hc : u.packetCheck 0 0 (u.qdesc 0 (nCQ 0 0)).part (malformedPacket) = (.bad 1, [], u) :=
    packetCheck_malformed malformedPacket_bad.1 malformedPacket_bad.2 _
  obtain ⟨-, -, take, -, -⟩ := h malformedHead 0 0 0 0
  have stated := (take _ _ malformedHead_free hq).2 1 [] u hc
  have started := congrArg CopyOp.start (copyTaken_injective (stated.symm.trans (execCopyQueueSlotTake_bad malformedHead_free hq hc)))
  have zero : (0 : Lease) = u.lease := started
  rw [hl] at zero
  cases zero

end Sys2Proof.Machine

namespace Sys2Proof.Machine

/-! ## Events of the depot (R296, R298, R300) -/

section
variable {s : State} {cl slot id : Nat}

theorem execDepotSlotFull_filling (h : ((s.cl cl).slot slot).state = 1) :
    let x := (s.cl cl).slot slot
    let sa := sliceAddr (cl * 128 + x.sender) x.soff
    exec (.depotSlotFull cl slot) s = .next ((s.modSlot cl slot fun x => Slot.settle { x with
        state := 2, data := s.rdSram sa (64 * x.nblk), tags := (List.range ((s.cl cl).slot slot).nblk).map fun i => s.tagAt (.sram (sa + 64 * i)) }).completeOp
          (cl * 128 + x.sender) x.op none) := by
  change execDepotSlotFull cl slot s = _
  exact congrArg Host.Outcome.next (if_neg (not_not_intro h))

theorem execDepotSlotLost_filling (h : ((s.cl cl).slot slot).state = 1) :
    exec (.depotSlotLost cl slot) s = .next (s.modSlot cl slot fun x => { x with lost := true }) := by
  change execDepotSlotLost cl slot s = _
  exact congrArg Host.Outcome.next (if_pos h)

section drain
variable {d : Drain} (hd : findK s.drains id = some d) (hcl : d.cl = cl)
include hd hcl

section writes
variable (hx : ((s.cl cl).slot d.slot).state = 2) (hv : d.vis = none)
include hx hv

theorem execMcdrainWritesDone_bad (hb : d.bad = true) : exec (.mcdrainWritesDone cl id) s = .next (s.endDrain id d (some 3)) := by
  subst hcl
  change execMcdrainWritesDone d.cl id s = _
  rw [execMcdrainWritesDone, hd]
  dsimp only
  rw [hv, if_neg (not_not_intro rfl), hb]
  exact congrArg Host.Outcome.next ((if_neg (not_not_intro hx)).trans (if_pos rfl))

theorem execMcdrainWritesDone_writes (hb : d.bad = false) (hl : ((s.cl cl).slot d.slot).lost = false) :
    let y := (s.cl cl).slot d.slot
    let a := sliceAddr d.core d.off
    let u := (List.range y.nblk).foldl (fun (s : State) i => s.setTag (.sram (a + 64 * i)) (y.tags.getD i 0)) (s.wrSram a y.data)
    let v := (List.range y.nblk).foldl (fun v i => Lease.later v (s.visTime (.sram (a + 64 * i)))) s.lease
    exec (.mcdrainWritesDone cl id) s = .next { u with drains := insK u.drains id { d with vis := some v } } := by
  subst hcl
  change execMcdrainWritesDone d.cl id s = _
  rw [execMcdrainWritesDone, hd]
  dsimp only
  rw [hv, if_neg (not_not_intro rfl), hb]
  exact congrArg Host.Outcome.next ((if_neg (not_not_intro hx)).trans ((if_neg nofun).trans (if_neg (by rw [hl]; nofun))))

theorem execMcdrainWritesDone_lost (hb : d.bad = false) (hl : ((s.cl cl).slot d.slot).lost = true) :
    ∃ u, exec (.mcdrainWritesDone cl id) s = .next u ∧ ∃ v, findK u.drains id = some { d with vis := some v, fail := some 2 } := by
  subst hcl
  change ∃ u, execMcdrainWritesDone d.cl id s = .next u ∧ _
  rw [execMcdrainWritesDone, hd]
  dsimp only
  rw [hv, if_neg (not_not_intro rfl), hb]
  exact ⟨_, congrArg Host.Outcome.next ((if_neg (not_not_intro hx)).trans ((if_neg nofun).trans (if_pos hl))), _, findK_insK_same _ _ _⟩

end writes

theorem execMcdrainWritesDone_visible {v : Lease} (hv : d.vis = some v) (hb : Lease.before v s.lease = true) :
    (d.gone = false → exec (.mcdrainWritesDone cl id) s = .next (s.endDrain id d d.fail)) ∧
    (d.gone = true → exec (.mcdrainWritesDone cl id) s = .next (({ s with drains := delK s.drains id } : State).completeOp d.core d.op d.fail)) := by
  subst hcl
  have he : exec (.mcdrainWritesDone d.cl id) s =
      .next (if d.gone then ({ s with drains := delK s.drains id } : State).completeOp d.core d.op d.fail else s.endDrain id d d.fail) := by
    change execMcdrainWritesDone d.cl id s = _
    rw [execMcdrainWritesDone, hd]
    dsimp only
    rw [hv, if_neg (not_not_intro rfl)]
    exact congrArg Host.Outcome.next (if_neg (by rw [hb]; nofun))
  exact ⟨fun h => he.trans (by rw [h]; rfl), fun h => he.trans (by rw [h]; rfl)⟩

end drain

theorem execDepotSlotRelease_used (h : ((s.cl cl).slot slot).state ≠ 0) :
    let x := (s.cl cl).slot slot
    let u := (s.drains.filter fun p => p.2.cl == cl && p.2.slot == slot && !p.2.gone).foldl (fun (s : State) p =>
      if p.2.vis.isSome then { s with drains := insK s.drains p.1 { p.2 with fail := some 2, gone := true } }
      else ({ s with drains := delK s.drains p.1 } : State).completeOp p.2.core p.2.op (some 2)) s
    exec (.depotSlotRelease cl slot) s = .next ((if x.state = 1 then u.completeOp (cl * 128 + x.sender) x.op (some 2) else u).modSlot
      cl slot fun _ => {}) := by
  change execDepotSlotRelease cl slot s = _
  exact congrArg Host.Outcome.next (if_neg h)

end

/-! ## Records and events that the serai reads (R304, R307 to R309, R314) -/

section
variable {s : State} {c cl : Nat}

theorem execExceptionRecordPost_room {r : XRec} {rest : List XRec} {off : Nat} (hr : (s.core c).xrecs = r :: rest)
    (ho : s.ringPlace (clusterOf c) nXRING nXPTR 64 = some off) :
    exec (.exceptionRecordPost c) s = .next (((s.ringWrite (clusterOf c) nXPTR off
      (withSeq (r.bytes c (s.partOf c).toNat) (s.cl (clusterOf c)).xSeq)).modCore c fun k => { k with xrecs := rest }).modCl (clusterOf c)
        fun k => { k with xSeq := k.xSeq + 1 }) := by
  change execExceptionRecordPost c s = _
  rw [execExceptionRecordPost, hr, ho]

theorem execTrapRecordPost_slot {r : TrapRec} {rest : List TrapRec} {slot : Nat} (hr : (s.core c).stash = r :: rest)
    (hs : s.trapSlot (clusterOf c) = some slot) :
    exec (.trapRecordPost c) s = .next ((s.modCore c fun k => { k with stash := rest }).postTrap (clusterOf c) slot r) := by
  change execTrapRecordPost c s = _
  rw [execTrapRecordPost, hr, hs]

theorem execTrapRecordStash_restored (hl : (s.core c).stash.length < 4) {t : Nat} {r : TrapRec} (hr : oldestRec (s.core c).restoredRecs = some (t, r)) :
    exec (.trapRecordStash c) s = .next (s.modCore c fun k =>
      { k.modWave t (fun w => { w with restored := w.restored.drop 1 }) with stash := k.stash ++ [{ r with turn := t }] }) := by
  change execTrapRecordStash c s = _
  refine congrArg Host.Outcome.next ((if_neg (Nat.not_le.2 hl)).trans ?_)
  rw [hr]

theorem execTrapRecordStash_held (hl : (s.core c).stash.length < 4) {t : Nat} {r : TrapRec} (hn : oldestRec (s.core c).restoredRecs = none)
    (hr : oldestRec (s.core c).heldRecs = some (t, r)) :
    exec (.trapRecordStash c) s = .next (s.modCore c fun k =>
      { k.modWave t (fun w => { w with held := none }) with stash := k.stash ++ [{ r with turn := t }] }) := by
  change execTrapRecordStash c s = _
  refine congrArg Host.Outcome.next ((if_neg (Nat.not_le.2 hl)).trans ?_)
  rw [hn, hr]

theorem execEventPost_room {src : Nat} {e : List Byte} {rest : List (List Byte)} {off : Nat} (he : getK [] (s.cl cl).events src = e :: rest)
    (ho : s.ringPlace cl nERING nEPTR 64 = some off) :
    exec (.eventPost cl src) s = .next ((s.postEvent cl off e).modCl cl fun k => { k with events := putK [] k.events src rest }) := by
  change execEventPost cl src s = _
  rw [execEventPost, he, ho]

theorem execEventDropCountPost_room {src off : Nat} (he : getK [] (s.cl cl).events src = []) (ho : s.ringPlace cl nERING nEPTR 64 = some off)
    (hd : (getK (0, 0) (s.cl cl).drops src).1 ≠ 0) :
    exec (.eventDropCountPost cl src) s = .next ((s.postEvent cl off
      (eventRecord src 0xFF s.lease [BitVec.ofNat 32 (getK (0, 0) (s.cl cl).drops src).1, BitVec.ofNat 32 ((getK (0, 0) (s.cl cl).drops src).2 % 256)])).modCl
        cl fun k => { k with drops := delK k.drops src }) := by
  change execEventDropCountPost cl src s = _
  unfold execEventDropCountPost
  rw [he, ho]
  exact congrArg Host.Outcome.next (if_neg hd)

end

/-! ## The end of a save and of a restore (R319, R322) -/

theorem eraseDups_of_nodup {l : List Nat} (h : l.Nodup) : l.eraseDups = l := by
  induction l with
  | nil => rfl
  | cons a l ih =>
    obtain ⟨ha, hl⟩ := List.nodup_cons.1 h
    have hf : l.filter (fun b => !b == a) = l := List.filter_eq_self.2 fun b hb => by
      have hne : b ≠ a := fun e => ha (e ▸ hb)
      simp [hne]
    rw [List.eraseDups_cons, hf, ih hl]

section
variable {s : State} {id : Nat} {o : SaveOp} (ho : findK s.saves id = some o)
include ho

theorem execPsaveDone_visible {v : Lease} (hr : o.restore = false) (hv : o.vis = some v) (hb : Lease.before v s.lease = true) :
    exec (.psaveDone id) s = .next ((o.parts.foldl (fun s p =>
      if (s.wave o.core p.1).alive = 0 then (s.retireWave o.core p.1).modWave o.core p.1 fun w => { w with freed := some o.time }
      else s.freeSaved o.core p.1 p.2 o.time o.kept) s).endSave id o 0) := by
  change execPsaveDone id s = _
  rw [execPsaveDone, ho]
  dsimp only
  rw [hr, hv]
  exact congrArg Host.Outcome.next ((if_neg nofun).trans (if_neg (by rw [hb]; nofun)))

end

/-- A field of a save area's image (R320). -/
def areaField (img off hi lo : Nat) : Nat := bitsN img (8 * off + hi) (8 * off + lo)
/-- The banks of an image (R320). -/
def areaBanks (img : Nat) : List Nat := (List.range 16).filter fun b => (areaField img 0x2C 15 0).testBit b
/-- The images of a restore's areas, as they are read with the partition `part` (R322). -/
def SaveOp.areaImages (o : SaveOp) (part : BitVec 4) (s : State) : List (Nat × DWord × Nat) × State :=
  o.parts.foldl (fun (a : List (Nat × DWord × Nat) × State) p =>
    let r := a.2.areaRead (clusterOf o.core) part p.2 0 areaSize
    (a.1 ++ [(p.1, p.2, natOfBytes (o.asRead a.1.length (r.1.getD [])))], r.2)) ([], s)
/-- The last checks of a restore and what it does with its images (R322). -/
def State.restoreImages (s : State) (id : Nat) (o : SaveOp) (part : BitVec 4) (imgs : List (Nat × DWord × Nat)) : State :=
  if imgs.any fun (x : Nat × DWord × Nat) => areaField x.2.2 0 15 0 != 1 || areaField x.2.2 0 16 16 != 1 || areaField x.2.2 0 34 24 != o.core then
    s.endSave id o 7
  else match placeQuotas (s.core o.core).quotas (imgs.map fun (x : Nat × DWord × Nat) => (x.1, areaField x.2.2 0xC 5 0, areaField x.2.2 0xC 10 6)) with
  | none => s.endSave id o 8
  | some qs =>
    let banks := imgs.flatMap fun (x : Nat × DWord × Nat) => areaBanks x.2.2
    if banks.any (fun b => !(s.core o.core).bankFree b) || banks.eraseDups.length != banks.length then s.endSave id o 9
    else
      let turns := imgs.map fun (x : Nat × DWord × Nat) => (areaField x.2.2 0 23 20, x.1)
      (imgs.foldl (fun s (x : Nat × DWord × Nat) =>
        ((s.loadWave o.core x.1 x.2.2 x.2.1 turns o.time).areaWrite (clusterOf o.core) part x.2.1 2 [BitVec.ofNat 8 (2 * areaField x.2.2 0 23 17)] rREAD).2)
        (s.modCore o.core fun k => { k with quotas := qs })).endSave id o 0

section
variable {s : State} {id : Nat} {o : SaveOp}

/-- A restore of one wave whose area can be read goes on with its image. -/
theorem execPrestDone_read (ho : findK s.saves id = some o) (hr : o.restore = true) {t : Nat} {a : DWord} (hp : o.parts = [(t, a)])
    {ls : List (Place × Nat)} {u v : State} (ha : s.areaPlace (clusterOf o.core) (s.partOf o.core) a 0 areaSize rREAD = (.ok ls, u))
    (hh : (ls.any fun x => u.heldSpan x.1 x.2) = false) {imgs : List (Nat × DWord × Nat)}
    (hi : o.areaImages (s.partOf o.core) u = (imgs, v)) :
    exec (.prestDone id) s = .next (v.restoreImages id o (s.partOf o.core) imgs) := by
  change execPrestDone id s = _
  unfold execPrestDone
  rw [ho]
  refine congrArg Host.Outcome.next ((if_neg (by rw [hr]; nofun)).trans ?_)
  extract_lets c cl part chk rd
  have hchk : chk = (0, u) := by
    subst chk
    rw [hp, List.foldl_cons, List.foldl_nil]
    split
    next =>
      have ha' : (0, s).2.areaPlace cl part (t, a).2 0 areaSize rREAD = (.ok ls, u) := ha
      rw [ha']
      exact Prod.ext (if_neg (Bool.eq_false_iff.1 hh)) rfl
    next hz => exact absurd rfl hz
  have hrd : rd = (imgs, v) := by
    subst rd
    rw [hchk]
    exact hi
  clear_value rd chk
  subst hchk hrd
  rfl

section one
variable {t : Nat} {a : DWord} (hp : o.parts = [(t, a)])
include hp

theorem areaImages_one (part : BitVec 4) : o.areaImages part s =
    ([(t, a, natOfBytes (o.asRead 0 ((s.areaRead (clusterOf o.core) part a 0 areaSize).1.getD [])))],
      (s.areaRead (clusterOf o.core) part a 0 areaSize).2) := by
  rw [SaveOp.areaImages, hp, List.foldl_cons, List.foldl_nil]
  rfl

end one

theorem restoreImages_malformed {part : BitVec 4} {t : Nat} {a : DWord} {img : Nat}
    (h : areaField img 0 15 0 ≠ 1 ∨ areaField img 0 16 16 ≠ 1 ∨ areaField img 0 34 24 ≠ o.core) :
    s.restoreImages id o part [(t, a, img)] = s.endSave id o 7 :=
  if_pos (by simpa [or_assoc] using h)

/-- Of the banks of one image, none of which comes twice, one is taken. -/
theorem bankTaken_iff (t : Nat) (a : DWord) (img : Nat) (free : Nat → Bool) :
    (([(t, a, img)].flatMap fun (x : Nat × DWord × Nat) => areaBanks x.2.2).any (fun b => !free b) ||
      ([(t, a, img)].flatMap fun (x : Nat × DWord × Nat) => areaBanks x.2.2).eraseDups.length !=
        ([(t, a, img)].flatMap fun (x : Nat × DWord × Nat) => areaBanks x.2.2).length) = true ↔
    ∃ b ∈ areaBanks img, free b = false := by
  have hnd : (areaBanks img).eraseDups = areaBanks img := eraseDups_of_nodup (List.nodup_range.filter _)
  rw [List.flatMap_singleton, hnd, bne_self_eq_false, Bool.or_false]
  simp

section fits
variable {part : BitVec 4} {t : Nat} {a : DWord} {img : Nat}
  (h1 : areaField img 0 15 0 = 1) (h2 : areaField img 0 16 16 = 1) (h3 : areaField img 0 34 24 = o.core)
include h1 h2 h3

theorem restoreImages_wellFormed : s.restoreImages id o part [(t, a, img)] =
    match placeQuotas (s.core o.core).quotas [(t, areaField img 0xC 5 0, areaField img 0xC 10 6)] with
    | none => s.endSave id o 8
    | some qs =>
      if ∃ b ∈ areaBanks img, (s.core o.core).bankFree b = false then s.endSave id o 9
      else ((((s.modCore o.core fun k => { k with quotas := qs }).loadWave o.core t img a [(areaField img 0 23 20, t)] o.time).areaWrite
        (clusterOf o.core) part a 2 [BitVec.ofNat 8 (2 * areaField img 0 23 17)] rREAD).2).endSave id o 0 := by
  unfold State.restoreImages
  refine (if_neg (by simp [h1, h2, h3])).trans ?_
  rw [List.map_singleton]
  dsimp only
  cases placeQuotas (s.core o.core).quotas [(t, areaField img 0xC 5 0, areaField img 0xC 10 6)] with
  | none => rfl
  | some qs =>
    refine if_congr_val (bankTaken_iff t a img _) (fun _ => rfl) ?_
    rw [List.map_singleton, List.foldl_cons, List.foldl_nil]

end fits
end

/-- Settles O50: the depot's, the records' and the ring's events by their conditions, and a restore of one wave by its image
(`restoreImages_wellFormed`). -/
theorem depotAndSeraiEvents : Obligations.DepotAndSeraiEvents := by
  unfold Obligations.DepotAndSeraiEvents
  refine ⟨?_, ?_⟩
  · intro s cl slot id x sa
    exact ⟨fun h => ⟨execDepotSlotFull_filling h, execDepotSlotLost_filling h⟩,
      fun d hd hcl hx => ⟨fun hb hv => execMcdrainWritesDone_bad hd hcl hx hv hb,
        fun hb hl hv => execMcdrainWritesDone_writes hd hcl hx hv hb hl, fun hb hl hv => execMcdrainWritesDone_lost hd hcl hx hv hb hl⟩,
      fun d v hd hcl hv hb => execMcdrainWritesDone_visible hd hcl hv hb, execDepotSlotRelease_used⟩
  · intro s c cl src id k
    refine ⟨fun r rest off => execExceptionRecordPost_room, fun r rest slot => execTrapRecordPost_slot,
      fun hl => ⟨fun t r => execTrapRecordStash_restored hl, fun t r => execTrapRecordStash_held hl⟩, fun e rest off => execEventPost_room,
      fun off he ho => execEventDropCountPost_room he ho, fun o ho => ⟨fun v => execPsaveDone_visible ho, ?_⟩⟩
    intro ls u t a hr hp ha hh
    have read := execPrestDone_read ho hr hp ha hh (areaImages_one hp _)
    generalize u.areaRead (clusterOf o.core) (s.partOf o.core) a 0 areaSize = r at read ⊢
    intro r'
    subst r'
    generalize natOfBytes (o.asRead 0 (r.1.getD [])) = img at read ⊢
    intro img' f c
    refine ⟨fun h => read.trans (congrArg Host.Outcome.next (restoreImages_malformed h)), fun h1 h2 h3 => ?_⟩
    have fits := read.trans (congrArg Host.Outcome.next (restoreImages_wellFormed h1 h2 h3))
    refine ⟨fun hq => ?_, fun qs hq => ⟨fun hb => ?_, fun hb => ?_⟩⟩
    · rw [fits, show placeQuotas (r.2.core o.core).quotas [(t, areaField img 0xC 5 0, areaField img 0xC 10 6)] = none from hq]
    · rw [fits, show placeQuotas (r.2.core o.core).quotas [(t, areaField img 0xC 5 0, areaField img 0xC 10 6)] = some qs from hq]
      exact congrArg Host.Outcome.next (if_pos hb)
    · rw [fits, show placeQuotas (r.2.core o.core).quotas [(t, areaField img 0xC 5 0, areaField img 0xC 10 6)] = some qs from hq]
      refine congrArg Host.Outcome.next (if_neg ?_)
      rintro ⟨b, hm, hf⟩
      rw [hb b hm] at hf
      cases hf

end Sys2Proof.Machine

namespace Sys2Proof.Machine

/-! ## The heads of the dispatcher's queues (R328) -/

/-- One queue's head joins those that have been read (R328). -/
def headStep (cl : Nat) (a : List (Nat × List Word) × State) (q : Nat) : List (Nat × List Word) × State :=
  match (a.2.taskHead cl q).1 with
  | some ws => (a.1 ++ [(q, ws)], (a.2.taskHead cl q).2.taskSee cl q)
  | none => (a.1, (a.2.taskHead cl q).2)

theorem taskHeads_eq (s : State) (cl : Nat) : s.taskHeads cl = (List.range 5).foldl (headStep cl) ([], s) := by
  unfold State.taskHeads
  refine foldl_congr_of (fun a q _ => ?_) _
  unfold headStep
  generalize a.2.taskHead cl q = r
  obtain ⟨_ | ws, u⟩ := r <;> rfl

section
variable {s u : State} {cl q : Nat} {ws : List Word} {hs : List (Nat × List Word)}

theorem headStep_none (h : s.taskHead cl q = (none, u)) : headStep cl (hs, s) q = (hs, u) := by
  rw [headStep, h]

theorem headStep_some (h : s.taskHead cl q = (some ws, u)) : headStep cl (hs, s) q = (hs ++ [(q, ws)], u.taskSee cl q) := by
  rw [headStep, h]

theorem taskHead_unserved (hq : q ≠ 4) (h : s.taskServed cl q = false) : s.taskHead cl q = (none, s) := by
  rw [State.taskHead, if_neg hq, h]
  rfl

theorem taskHead_served (hq : q ≠ 4) (h : s.taskServed cl q = true) : s.taskHead cl q = s.queueHead cl (nTQ q 0) := by
  rw [State.taskHead, if_neg hq, h]
  rfl

theorem taskHead_pool : s.taskHead cl 4 = (((s.cl cl).pool.head?).map (·.2), s) := rfl

/-- The heads ascend by their queues. -/
theorem foldl_headStep_sorted {qs : List Nat} (hq : qs.Pairwise (· < ·)) {hs' : List (Nat × List Word)} (hh : (hs.map (·.1)).Pairwise (· < ·))
    (hlt : ∀ h ∈ hs, ∀ q ∈ qs, h.1 < q) {v : State} (h : qs.foldl (headStep cl) (hs, s) = (hs', v)) :
    (hs'.map (·.1)).Pairwise (· < ·) ∧ ∀ x ∈ hs', x ∈ hs ∨ x.1 ∈ qs := by
  induction qs generalizing hs s with
  | nil =>
    cases h
    exact ⟨hh, fun x hx => .inl hx⟩
  | cons q qs ih =>
    obtain ⟨hfirst, hrest⟩ := List.pairwise_cons.1 hq
    rw [List.foldl_cons, headStep] at h
    split at h
    next ws _ =>
      obtain ⟨hs1, hs2⟩ := ih hrest (by
        rw [List.map_append, List.map_singleton]
        refine List.pairwise_append.2 ⟨hh, List.pairwise_singleton _ _, fun a ha b hb => ?_⟩
        obtain ⟨x, hx, rfl⟩ := List.mem_map.1 ha
        rw [List.mem_singleton.1 hb]
        exact hlt x hx q List.mem_cons_self) (fun x hx p hp => by
        rcases List.mem_append.1 hx with hx | hx
        · exact hlt x hx p (List.mem_cons_of_mem _ hp)
        · rw [List.mem_singleton.1 hx]
          exact hfirst p hp) h
      refine ⟨hs1, fun x hx => ?_⟩
      rcases hs2 x hx with hx | hx
      · rcases List.mem_append.1 hx with hx | hx
        · exact .inl hx
        · rw [List.mem_singleton.1 hx]
          exact .inr List.mem_cons_self
      · exact .inr (List.mem_cons_of_mem _ hx)
    next =>
      obtain ⟨hs1, hs2⟩ := ih hrest hh (fun x hx p hp => hlt x hx p (List.mem_cons_of_mem _ hp)) h
      exact ⟨hs1, fun x hx => (hs2 x hx).imp_right (List.mem_cons_of_mem _)⟩

theorem taskHeads_sorted {v : State} (h : s.taskHeads cl = (hs, v)) : (hs.map (·.1)).Pairwise (· < ·) ∧ ∀ x ∈ hs, x.1 ≤ 4 := by
  rw [taskHeads_eq] at h
  obtain ⟨hsort, hmem⟩ := foldl_headStep_sorted List.pairwise_lt_range (hs := []) (by simp) (by simp) h
  exact ⟨hsort, fun x hx => (hmem x hx).elim (fun h => absurd h List.not_mem_nil) fun h => by
    have := List.mem_range.1 h
    omega⟩

/-! ## The head that is served (R328) -/

/-- The best head so far against one more. -/
def betterHead (b : Option (Nat × List Word)) (h : Nat × List Word) : Option (Nat × List Word) :=
  match b with | some x => if tPrio x.2 < tPrio h.2 then some h else b | none => some h

theorem bestHead_eq (hs : List (Nat × List Word)) : bestHead hs = hs.foldl betterHead none := rfl

/-- Heads of no higher PRIO leave the best one. -/
theorem foldl_betterHead_le {x : Nat × List Word} (h : ∀ y ∈ hs, tPrio y.2 ≤ tPrio x.2) : hs.foldl betterHead (some x) = some x := by
  induction hs with
  | nil => rfl
  | cons y ys ih =>
    have hy : betterHead (some x) y = some x := if_neg (Nat.not_lt.2 (h y List.mem_cons_self))
    rw [List.foldl_cons, hy]
    exact ih fun z hz => h z (List.mem_cons_of_mem _ hz)

/-- Heads of lower PRIO give way to one of a higher. -/
theorem foldl_betterHead_lt {x : Nat × List Word} {b : Option (Nat × List Word)} (hb : ∀ y ∈ b, tPrio y.2 < tPrio x.2)
    (h : ∀ y ∈ hs, tPrio y.2 < tPrio x.2) : ∀ y ∈ hs.foldl betterHead b, tPrio y.2 < tPrio x.2 := by
  induction hs generalizing b with
  | nil => exact hb
  | cons z zs ih =>
    refine ih (fun y hy => ?_) fun y hy => h y (List.mem_cons_of_mem _ hy)
    cases b with
    | none =>
      obtain rfl := Option.some.inj hy
      exact h _ List.mem_cons_self
    | some w =>
      rw [betterHead] at hy
      split at hy
      · obtain rfl := Option.some.inj hy
        exact h _ List.mem_cons_self
      · exact hb y hy

theorem betterHead_wins {x : Nat × List Word} {b : Option (Nat × List Word)} (hb : ∀ y ∈ b, tPrio y.2 < tPrio x.2) : betterHead b x = some x := by
  cases b with
  | none => rfl
  | some w => exact if_pos (hb w rfl)

/-- The head of the highest PRIO, and the lowest queue on a tie. -/
theorem bestHead_of_best (hsort : (hs.map (·.1)).Pairwise (· < ·)) (hm : (q, ws) ∈ hs)
    (hbest : ∀ h ∈ hs, tPrio h.2 < tPrio ws ∨ tPrio h.2 = tPrio ws ∧ q ≤ h.1) : bestHead hs = some (q, ws) := by
  obtain ⟨before, after, rfl⟩ := List.append_of_mem hm
  rw [List.map_append, List.map_cons, List.pairwise_append] at hsort
  obtain ⟨-, -, hlt⟩ := hsort
  have hbefore : ∀ y ∈ before, tPrio y.2 < tPrio ws := fun y hy => by
    rcases hbest y (List.mem_append_left _ hy) with h | ⟨-, h⟩
    · exact h
    · have := hlt y.1 (List.mem_map_of_mem hy) q List.mem_cons_self
      omega
  have hafter : ∀ y ∈ after, tPrio y.2 ≤ tPrio ws := fun y hy => by
    rcases hbest y (List.mem_append_right _ (List.mem_cons_of_mem _ hy)) with h | ⟨h, -⟩ <;> omega
  rw [bestHead_eq, List.foldl_append, List.foldl_cons,
    betterHead_wins (x := (q, ws)) (foldl_betterHead_lt (x := (q, ws)) (by simp) hbefore)]
  exact foldl_betterHead_le hafter

/-! ## Taking a record (R327 to R330) -/

section take
variable {v : State} (hg : (s.cl cl).gather = none) (hd : s.draining cl = false) (hh : s.taskHeads cl = (hs, v))
include hg hd hh

theorem execTaskRecordTake_eq : exec (.taskRecordTake cl) s = .next (match bestHead (hs.filter fun h => !v.headWaits cl h) with
    | none => v
    | some (q, ws) => match v.headBad cl q ws with
      | some cause => v.taskReject cl q cause
      | none => if q ≠ 4 ∧ tForward cl ws then v.taskForward cl q ws else v.taskGather cl q ws) := by
  change execTaskRecordTake cl s = _
  unfold execTaskRecordTake
  rw [hg, hd, if_neg nofun, hh] <;> rfl

theorem execTaskRecordTake_waits (h : ∀ x ∈ hs, v.headWaits cl x = true) : exec (.taskRecordTake cl) s = .next v := by
  have hnone : hs.filter (fun h => !v.headWaits cl h) = [] := List.filter_eq_nil_iff.2 fun x hx => by rw [h x hx]; nofun
  rw [execTaskRecordTake_eq hg hd hh, hnone]
  rfl

theorem execTaskRecordTake_best (hm : (q, ws) ∈ hs) (hw : v.headWaits cl (q, ws) = false)
    (hbest : ∀ h ∈ hs, v.headWaits cl h = false → tPrio h.2 < tPrio ws ∨ tPrio h.2 = tPrio ws ∧ q ≤ h.1) :
    (∀ cause, v.headBad cl q ws = some cause → exec (.taskRecordTake cl) s = .next (v.taskReject cl q cause)) ∧
    (v.headBad cl q ws = none → q ≠ 4 → tForward cl ws = true → exec (.taskRecordTake cl) s = .next (v.taskForward cl q ws)) ∧
    (v.headBad cl q ws = none → q = 4 ∨ tForward cl ws = false → exec (.taskRecordTake cl) s = .next (v.taskGather cl q ws)) := by
  have hb : bestHead (hs.filter fun h => !v.headWaits cl h) = some (q, ws) := by
    refine bestHead_of_best (((taskHeads_sorted hh).1).sublist (List.filter_sublist.map _)) (List.mem_filter.2 ⟨hm, by rw [hw]; rfl⟩) fun x hx => ?_
    obtain ⟨hx, hxw⟩ := List.mem_filter.1 hx
    exact hbest x hx (by simpa using hxw)
  have he := execTaskRecordTake_eq hg hd hh
  rw [hb] at he
  refine ⟨fun cause hc => ?_, fun hc hq hf => ?_, fun hc hf => ?_⟩ <;> rw [he] <;> dsimp only <;> rw [hc]
  · exact congrArg Host.Outcome.next (if_pos ⟨hq, hf⟩)
  · refine congrArg Host.Outcome.next (if_neg ?_)
    rintro ⟨hq, ht⟩
    rcases hf with hf | hf
    · exact hq hf
    · rw [hf] at ht
      cases ht

end take

/-- The heads of a cluster that has none but that of the pool. -/
theorem taskHeads_pool {t : Lease} {rest : List (Lease × List Word)} (hp : (s.cl cl).pool = (t, ws) :: rest)
    (hn : ∀ q < 4, s.taskServed cl q = false) : s.taskHeads cl = ([(4, ws)], s) := by
  have hpool : s.taskHead cl 4 = (some ws, s) := by rw [taskHead_pool, hp]; rfl
  rw [taskHeads_eq, show List.range 5 = [0, 1, 2, 3, 4] from rfl]
  simp only [List.foldl_cons, List.foldl_nil]
  rw [headStep_none (taskHead_unserved (by decide) (hn 0 (by decide))), headStep_none (taskHead_unserved (by decide) (hn 1 (by decide))),
    headStep_none (taskHead_unserved (by decide) (hn 2 (by decide))), headStep_none (taskHead_unserved (by decide) (hn 3 (by decide))),
    headStep_some hpool]
  rfl

/-- The heads of a cluster that has none but that of its first queue. -/
theorem taskHeads_first (h0 : s.taskServed cl 0 = true) (hq : s.queueHead cl (nTQ 0 0) = (some ws, u))
    (hn : ∀ q, 1 ≤ q → q < 4 → (u.taskSee cl 0).taskServed cl q = false) (hp : ((u.taskSee cl 0).cl cl).pool = []) :
    s.taskHeads cl = ([(0, ws)], u.taskSee cl 0) := by
  have hhead : s.taskHead cl 0 = (some ws, u) := (taskHead_served (by decide) h0).trans hq
  have hpool : (u.taskSee cl 0).taskHead cl 4 = (none, u.taskSee cl 0) := by rw [taskHead_pool, hp]; rfl
  rw [taskHeads_eq, show List.range 5 = [0, 1, 2, 3, 4] from rfl]
  simp only [List.foldl_cons, List.foldl_nil]
  rw [headStep_some hhead, headStep_none (taskHead_unserved (by decide) (hn 1 (by decide) (by decide))),
    headStep_none (taskHead_unserved (by decide) (hn 2 (by decide) (by decide))),
    headStep_none (taskHead_unserved (by decide) (hn 3 (by decide) (by decide))), headStep_none hpool]
  rfl

/-! ## Forwarding (R335) -/

theorem tForward_iff : tForward cl ws = true ↔ 2 ≤ tLevel ws ∨ tLevel ws = 0 ∧ tCore ws / 128 ≠ cl := by
  simp [tForward, or_comm]

theorem forwardTo_levelZero (hl : tLevel ws = 0) {d : Nat} (h : s.forwardTo cl ws = some d) : d = tCore ws / 128 := by
  rw [State.forwardTo, if_pos hl] at h
  split at h
  · cases h
  · exact (Option.some.inj h).symm

/-- The clusters that may take a forwarded record. -/
def State.eligible (s : State) (cl : Nat) (ws : List Word) : List Nat :=
  (List.range 16).filter fun c => (s.cl c).part == tPart ws && !s.draining c && (tLevel ws == 3 || c / 2 == cl / 2)

theorem mem_eligible {d : Nat} : d ∈ s.eligible cl ws ↔
    d < 16 ∧ (s.cl d).part = tPart ws ∧ s.draining d = false ∧ (tLevel ws = 3 ∨ d / 2 = cl / 2) := by
  simp [State.eligible, and_assoc]

/-- The largest score so far over a list of clusters is no less than where it began and than any of them, and is one of these. -/
theorem foldl_max_scores (f : Nat → Nat) (l : List Nat) (b : Nat) :
    b ≤ (l.map f).foldl Nat.max b ∧ (∀ e ∈ l, f e ≤ (l.map f).foldl Nat.max b) ∧
      ((l.map f).foldl Nat.max b = b ∨ ∃ d ∈ l, f d = (l.map f).foldl Nat.max b) := by
  induction l generalizing b with
  | nil => exact ⟨Nat.le_refl _, nofun, .inl rfl⟩
  | cons x xs ih =>
    obtain ⟨hb, hle, hone⟩ := ih (Nat.max b (f x))
    rw [List.map_cons, List.foldl_cons]
    refine ⟨Nat.le_trans (Nat.le_max_left _ _) hb, fun e he => ?_, ?_⟩
    · rcases List.mem_cons.1 he with rfl | he
      · exact Nat.le_trans (Nat.le_max_right _ _) hb
      · exact hle e he
    · rcases hone with hone | ⟨d, hd, hone⟩
      · rcases Nat.le_total (f x) b with hx | hx
        · exact .inl (hone.trans (Nat.max_eq_left hx))
        · exact .inr ⟨x, List.mem_cons_self, (hone.trans (Nat.max_eq_right hx)).symm⟩
      · exact .inr ⟨d, List.mem_cons_of_mem _ hd, hone⟩

/-- Some member of a list that has one reaches the best score. -/
theorem exists_max_score (f : Nat → Nat) {l : List Nat} (h : l ≠ []) : ∃ d ∈ l, f d = (l.map f).foldl Nat.max 0 := by
  obtain ⟨-, hle, hone⟩ := foldl_max_scores f l 0
  rcases hone with hone | hone
  · obtain ⟨x, hx⟩ := List.exists_mem_of_ne_nil l h
    have := hle x hx
    exact ⟨x, hx, by omega⟩
  · exact hone

/-- The eligible clusters of the highest score. -/
def State.topClusters (s : State) (cl : Nat) (ws : List Word) : List Nat :=
  (s.eligible cl ws).filter fun c => s.summaryScore c ws == ((s.eligible cl ws).map fun c => s.summaryScore c ws).foldl Nat.max 0

theorem mem_topClusters {d : Nat} : d ∈ s.topClusters cl ws ↔
    d ∈ s.eligible cl ws ∧ s.summaryScore d ws = ((s.eligible cl ws).map fun c => s.summaryScore c ws).foldl Nat.max 0 := by
  simp [State.topClusters]

theorem mem_topClusters_iff {d e : Nat} (hd : d ∈ s.topClusters cl ws) :
    e ∈ s.topClusters cl ws ↔ e ∈ s.eligible cl ws ∧ s.summaryScore e ws = s.summaryScore d ws := by
  rw [mem_topClusters, (mem_topClusters.1 hd).2]

theorem topClusters_sorted : (s.topClusters cl ws).Pairwise (· < ·) :=
  List.pairwise_lt_range.sublist (List.filter_sublist.trans List.filter_sublist)

theorem topClusters_eq_nil : s.topClusters cl ws = [] ↔ s.eligible cl ws = [] := by
  refine ⟨fun h => Classical.byContradiction fun hne => ?_, fun h => by rw [State.topClusters, h]; rfl⟩
  obtain ⟨d, hd, hmax⟩ := exists_max_score (fun c => s.summaryScore c ws) hne
  exact List.not_mem_nil (h ▸ mem_topClusters.2 ⟨hd, hmax⟩)

theorem forwardTo_eq (hl : tLevel ws ≠ 0) : s.forwardTo cl ws =
    if (s.topClusters cl ws).contains cl then some cl else (s.topClusters cl ws).head? := if_neg hl

theorem forwardTo_none_iff (hl : tLevel ws ≠ 0) : s.forwardTo cl ws = none ↔ ∀ d, d ∉ s.eligible cl ws := by
  rw [forwardTo_eq hl, ← List.eq_nil_iff_forall_not_mem, ← topClusters_eq_nil]
  constructor
  · intro h
    split at h
    · cases h
    · exact List.head?_eq_none_iff.1 h
  · intro h
    rw [h]
    rfl

/-- The forwarded record goes to an eligible cluster of the highest score: to the taking one where that is one, and else to the lowest. -/
theorem forwardTo_some (hl : tLevel ws ≠ 0) {d : Nat} (h : s.forwardTo cl ws = some d) : d ∈ s.topClusters cl ws ∧
    (d = cl ∨ cl ∉ s.topClusters cl ws ∧ ∀ e ∈ s.topClusters cl ws, d ≤ e) := by
  rw [forwardTo_eq hl] at h
  split at h
  next hc =>
    obtain rfl := Option.some.inj h
    exact ⟨List.contains_iff_mem.1 hc, .inl rfl⟩
  next hc =>
    refine ⟨List.mem_of_head? h, .inr ⟨fun hm => hc (List.contains_iff_mem.2 hm), fun e he => ?_⟩⟩
    have hsort := topClusters_sorted (s := s) (cl := cl) (ws := ws)
    generalize s.topClusters cl ws = top at h he hsort
    cases top with
    | nil => cases h
    | cons x xs =>
      obtain rfl := Option.some.inj h
      rcases List.mem_cons.1 he with rfl | he
      · exact Nat.le_refl _
      · exact Nat.le_of_lt ((List.pairwise_cons.1 hsort).1 e he)

theorem forwardTo_best (hl : tLevel ws ≠ 0) {d : Nat} (h : s.forwardTo cl ws = some d) : d ∈ s.eligible cl ws ∧
    ∀ e ∈ s.eligible cl ws, s.summaryScore e ws ≤ s.summaryScore d ws ∧ (s.summaryScore e ws = s.summaryScore d ws →
      d = cl ∨ ¬(cl ∈ s.eligible cl ws ∧ s.summaryScore cl ws = s.summaryScore d ws) ∧ d ≤ e) := by
  obtain ⟨hd, hbest⟩ := forwardTo_some hl h
  obtain ⟨helig, hmax⟩ := mem_topClusters.1 hd
  refine ⟨helig, fun e he => ⟨?_, fun heq => hbest.imp_right fun ⟨hcl, hlow⟩ => ?_⟩⟩
  · rw [hmax]
    exact (foldl_max_scores (fun c => s.summaryScore c ws) _ 0).2.1 e he
  · exact ⟨fun hc => hcl ((mem_topClusters_iff hd).2 hc), hlow e ((mem_topClusters_iff hd).2 ⟨he, heq⟩)⟩

theorem taskForward_of_forwardTo {d : Nat} (h : s.forwardTo cl ws = some d) : ∃ t u,
    s.taskForward cl q ws = u.modCl d (fun k => { k with pool := k.pool ++ [(t, ws)] }) ∧ u = s.taskAdvance cl q := by
  refine ⟨getK s.lease (s.cl cl).firstSeen (seenKey q (s.qdesc cl (nTQ q 0)).ridx.toNat), _, ?_, rfl⟩
  rw [State.taskForward, h]
  rfl

/-! ## The events of one record -/

theorem taskRecordTake_pool (hg : (s.cl cl).gather = none) (hd : s.draining cl = false) {t : Lease} {rest : List (Lease × List Word)}
    (hp : (s.cl cl).pool = (t, ws) :: rest) (hn : ∀ q < 4, s.taskServed cl q = false) :
    exec (.taskRecordTake cl) s = .next (s.taskGather cl 4 ws) :=
  (execTaskRecordTake_best hg hd (taskHeads_pool hp hn) List.mem_cons_self rfl
    fun h hm _ => .inr (by rw [List.mem_singleton.1 hm]; exact ⟨rfl, Nat.le_refl _⟩)).2.2 rfl (.inl rfl)

section firstQueue
variable (hg : (s.cl cl).gather = none) (hd : s.draining cl = false) (h0 : s.taskServed cl 0 = true)
  (hq : s.queueHead cl (nTQ 0 0) = (some ws, u)) (hn : ∀ q, 1 ≤ q → q < 4 → (u.taskSee cl 0).taskServed cl q = false)
  (hp : ((u.taskSee cl 0).cl cl).pool = [])
include hg hd h0 hq hn hp

theorem taskRecordTake_first (hw : (u.taskSee cl 0).headWaits cl (0, ws) = false) :
    (∀ cause, (u.taskSee cl 0).headBad cl 0 ws = some cause →
      exec (.taskRecordTake cl) s = .next ((u.taskSee cl 0).taskReject cl 0 cause)) ∧
    ((u.taskSee cl 0).headBad cl 0 ws = none → tForward cl ws = false →
      exec (.taskRecordTake cl) s = .next ((u.taskSee cl 0).taskGather cl 0 ws)) := by
  obtain ⟨hbad, -, hgood⟩ := execTaskRecordTake_best hg hd (taskHeads_first h0 hq hn hp) List.mem_cons_self hw
    fun h hm _ => .inr (by rw [List.mem_singleton.1 hm]; exact ⟨rfl, Nat.le_refl _⟩)
  exact ⟨hbad, fun hb hf => hgood hb (.inr hf)⟩

end firstQueue

theorem headWaits_of_bad {cause : Nat} (h : s.headBad cl q ws = some cause) : s.headWaits cl (q, ws) = false := by
  simp [State.headWaits, h]

theorem headWaits_of_stays (h : tForward cl ws = false) : s.headWaits cl (q, ws) = false := by
  simp [State.headWaits, h]

/-! ## Decisions, the pre-empt tick, the summary and the spawn unit -/

theorem execDecisionRetake_eq {g : Gather} (hg : (s.cl cl).gather = some g) (hw : g.waiting = true) (ha : g.again = true) :
    exec (.decisionRetake cl) s = .next ((s.modCl cl fun k => { k with
      gather := some { g with waiting := false, again := false, retakes := Nat.min 255 (g.retakes + 1) } }).crCount cl nTSTAT 47 32 1) := by
  change execDecisionRetake cl s = _
  rw [execDecisionRetake, hg]
  exact congrArg Host.Outcome.next (if_pos (by rw [hw, ha]; rfl))

theorem execPreemptTick_eq {g : Gather} {t : Lease} (hg : (s.cl cl).gather = some g) (hw : g.waiting = true)
    (ht : (s.cl cl).preTick = some t) (hq : dwBits (s.cr cl nTQUANT) 15 0 ≠ 0)
    (hdue : dwBits (s.cr cl nTQUANT) 15 0 * 1000 ≤ (s.lease - t).toNat) :
    exec (.preemptTick cl) s = .next (s.modCl cl fun k =>
      { k with preEv := k.preEv + 1, preTick := some (t + BitVec.ofNat 48 (dwBits (s.cr cl nTQUANT) 15 0 * 1000)) }) := by
  have hpre : s.preDue cl = some (t + BitVec.ofNat 48 (dwBits (s.cr cl nTQUANT) 15 0 * 1000)) := by
    rw [State.preDue, hg, ht]
    refine if_pos ?_
    rw [hw, Bool.true_and, Bool.and_eq_true, decide_eq_true_iff, bne_iff_ne]
    exact ⟨by omega, hdue⟩
  change execPreemptTick cl s = _
  rw [execPreemptTick, hpre]

/-! ## The summary (R336) -/

section summary
variable {tile : Nat}

theorem execSummaryUpdate_none (h : findK s.summary (tile % 16384) = none) : exec (.summaryUpdate cl tile) s =
    .next (if (s.cl cl).holds tile && s.sumQ.contains (cl, tile) then
      { s with sumQ := s.sumQ.erase (cl, tile), summary := insK s.summary (tile % 16384) (tile, BitVec.twoPow 16 cl) }
      else { s with sumQ := s.sumQ.erase (cl, tile) }) := by
  change execSummaryUpdate cl tile s = _
  unfold execSummaryUpdate
  dsimp only
  rw [h]

theorem execSummaryUpdate_same {m : BitVec 16} (h : findK s.summary (tile % 16384) = some (tile, m)) : exec (.summaryUpdate cl tile) s =
    .next (if (if (s.cl cl).holds tile then (if s.sumQ.contains (cl, tile) then m ||| BitVec.twoPow 16 cl else m) else m &&& ~~~BitVec.twoPow 16 cl) = 0
      then { s with sumQ := s.sumQ.erase (cl, tile), summary := delK s.summary (tile % 16384) }
      else { s with
        sumQ := s.sumQ.erase (cl, tile)
        summary := insK s.summary (tile % 16384) (tile,
          if (s.cl cl).holds tile then (if s.sumQ.contains (cl, tile) then m ||| BitVec.twoPow 16 cl else m) else m &&& ~~~BitVec.twoPow 16 cl) }) := by
  change execSummaryUpdate cl tile s = _
  unfold execSummaryUpdate
  dsimp only
  rw [h]
  exact congrArg Host.Outcome.next (if_neg (not_not_intro rfl))

theorem execSummaryUpdate_other {t : Nat} {m : BitVec 16} (h : findK s.summary (tile % 16384) = some (t, m)) (ht : t ≠ tile) :
    exec (.summaryUpdate cl tile) s = .next { s with sumQ := s.sumQ.erase (cl, tile) } := by
  change execSummaryUpdate cl tile s = _
  unfold execSummaryUpdate
  dsimp only
  rw [h]
  exact congrArg Host.Outcome.next (if_pos ht)

end summary

/-! ## The spawn unit (R341) -/

section spawn
variable {v : State} {c w : Nat} {e : SpawnEnt} {rest : List SpawnEnt} (hk : (s.core c).spawns = e :: rest)
include hk

theorem execSpawnRecordWrite_claims {p : Unit} (he : e.claimed = none) (hf : s.spawnFence c e = true)
    (hm : s.queueMem (clusterOf c) (s.qdesc (clusterOf c) (nTQ (wsBits e.words 1 0) 0)) = (.ok p, u))
    (hc : u.queueClaim (clusterOf c) (nTQ (wsBits e.words 1 0) 0) = (.ok w, v)) : exec (.spawnRecordWrite c) s =
      .next (v.modCore c fun k => { k with spawns := { e with claimed := some w } :: rest }) := by
  change execSpawnRecordWrite c s = _
  rw [execSpawnRecordWrite, hk]
  dsimp only
  rw [he, hf, hm]
  dsimp only
  rw [hc]
  exact congrArg Host.Outcome.next (if_neg nofun)

theorem execSpawnRecordWrite_writes (he : e.claimed = some w)
    (hp : s.queuePut (clusterOf c) (nTQ (wsBits e.words 1 0) 0) w e.words = (.ok (), v)) :
    exec (.spawnRecordWrite c) s = .next (v.spawnEnd c e (BitVec.ofNat 32 (w % 2 ^ 31))) := by
  change execSpawnRecordWrite c s = _
  rw [execSpawnRecordWrite, hk]
  dsimp only
  rw [he]
  dsimp only
  rw [hp]

end spawn

end

/-- Settles O51: the dispatcher's heads ascend by their queues and the best of them is the one of the highest PRIO, the lowest
queue on a tie; the best score of the eligible clusters is reached by one of them. -/
theorem taskEvents : Obligations.TaskEvents := by
  intro s c cl tile k me
  refine ⟨fun hg hd => ⟨fun t ws rest hp hn => taskRecordTake_pool hg hd hp hn, fun ws u h0 hq hn hp => ⟨fun cause hc => ?_, fun hb hf => ?_⟩,
      fun hs v hh => ?_⟩, fun ws => ⟨tForward_iff, fun hl d h => forwardTo_levelZero hl h, fun hl => ⟨?_, fun d h => ?_⟩, fun q d h => taskForward_of_forwardTo h⟩,
    fun g hg hw => ⟨fun ha => execDecisionRetake_eq hg hw ha, fun t ht hq hdue => execPreemptTick_eq hg hw ht hq hdue⟩, ⟨?_, ?_, ?_⟩,
    fun e rest hk => ⟨fun p u w v he hf hm hc => execSpawnRecordWrite_claims hk he hf hm hc, fun w v he hp => execSpawnRecordWrite_writes hk he hp⟩⟩
  · exact (taskRecordTake_first hg hd h0 hq hn hp (headWaits_of_bad (cause := cause) hc)).1 cause hc
  · exact (taskRecordTake_first hg hd h0 hq hn hp (headWaits_of_stays hf)).2 hb hf
  · obtain ⟨hsort, hle⟩ := taskHeads_sorted hh
    exact ⟨hsort, hle, execTaskRecordTake_waits hg hd hh, fun q ws hm hw hbest => execTaskRecordTake_best hg hd hh hm hw hbest⟩
  · exact (forwardTo_none_iff hl).trans (forall_congr' fun d => not_congr mem_eligible)
  · obtain ⟨he, hbest⟩ := forwardTo_best hl h
    refine ⟨mem_eligible.1 he, fun e hee => ?_⟩
    obtain ⟨hle, htie⟩ := hbest e (mem_eligible.2 hee)
    exact ⟨hle, fun heq => (htie heq).imp_right fun ⟨hcl, hlow⟩ => ⟨fun h => hcl ⟨mem_eligible.2 h.1, h.2⟩, hlow⟩⟩
  · exact fun h => execSummaryUpdate_none h
  · exact fun m h => execSummaryUpdate_same h
  · exact fun t m h ht => execSummaryUpdate_other h ht

end Sys2Proof.Machine

namespace Sys2Proof.Machine

/-! ## The tariff engine's events (R345, R349, R350, R363 to R365) -/

section
variable {s : State} {cl : Nat}

/-- R345: a decision begins on an event: it is taken at once where no tariff is loaded. -/
def State.beginDecision (s : State) (cl : Nat) (empty : Prop) [Decidable empty] (ev : Nat) (e : Option FaultEv) : Host.Outcome State Fault Refusal :=
  .next (if empty then (s.snapshot cl ev e).2.defaultDecision cl (s.snapshot cl ev e).1 false false false
    else (s.snapshot cl ev e).2.modCl cl fun k => { k with decision := some (s.snapshot cl ev e).1 })

section begin
variable (hd : (s.cl cl).decision = none)
include hd

theorem execTariffDecisionBegin_fault {e : FaultEv} {rest : List FaultEv} (he : (s.cl cl).faultEvs = e :: rest) :
    exec (.tariffDecisionBegin cl) s = (s.modCl cl fun k => { k with faultEvs := rest }).beginDecision cl ((s.cl cl).alen = 0) 2 (some e) := by
  change execTariffDecisionBegin cl s = _
  rw [execTariffDecisionBegin]
  dsimp only
  rw [hd, he]
  rfl

theorem execTariffDecisionBegin_preempt (he : (s.cl cl).faultEvs = []) (hp : (s.cl cl).preEv ≠ 0) :
    exec (.tariffDecisionBegin cl) s = (s.modCl cl fun k => { k with preEv := k.preEv - 1 }).beginDecision cl ((s.cl cl).alen = 0) 1 none := by
  change execTariffDecisionBegin cl s = _
  rw [execTariffDecisionBegin]
  dsimp only
  rw [hd, he]
  exact congrArg Host.Outcome.next ((if_neg nofun).trans (if_pos hp))

theorem execTariffDecisionBegin_dispatch {g : Gather} (he : (s.cl cl).faultEvs = []) (hp : (s.cl cl).preEv = 0)
    (hg : (s.cl cl).gather = some g) (hw : g.waiting = false) :
    exec (.tariffDecisionBegin cl) s = s.beginDecision cl ((s.cl cl).alen = 0) 0 none := by
  change execTariffDecisionBegin cl s = _
  rw [execTariffDecisionBegin]
  dsimp only
  rw [hd, he, hg]
  exact congrArg Host.Outcome.next ((if_neg nofun).trans ((if_neg (not_not_intro hp)).trans (if_neg (by rw [hw]; nofun))))

end begin

theorem execTariffOverrun_eq {d : Decision} (hd : (s.cl cl).decision = some d) (hc : 64 ≤ d.cycles) : exec (.tariffOverrun cl) s =
    .next (((s.crCount cl nTCNT 15 0 1).raise cl 2 0 [BitVec.ofNat 32 d.evkind, BitVec.ofNat 32 d.gen, BitVec.ofNat 32 d.last]).defaultDecision
      cl d false true false) := by
  change execTariffOverrun cl s = _
  rw [execTariffOverrun, hd]
  exact congrArg Host.Outcome.next (if_neg (by omega))

section load
variable {v : DWord} {len : Nat} {prog : List Word} (hv : s.cr cl nTCTL = v) (hlen : dwBits v 8 0 = len) (hw : swst v = 7)
include hv hlen hw

theorem execTariffSwapRequest_long (hl : 256 < len) : exec (.tariffSwapRequest cl) s = .next (s.setCr cl nTCTL (dwSet v 13 10 6)) := by
  change execTariffSwapRequest cl s = _
  rw [execTariffSwapRequest, hv]
  dsimp only
  rw [hlen]
  exact congrArg Host.Outcome.next ((if_neg (not_not_intro hw)).trans (if_pos hl))

variable (hl : len ≤ 256) (hprog : (s.shadow cl).take len = prog)
include hl hprog

theorem execTariffSwapRequest_eq : exec (.tariffSwapRequest cl) s = .next (match loadCheck prog 0 prog with
    | some (c, i) => s.setCr cl nTCTL (dwSet (dwSet v 13 10 c) 22 14 i)
    | none => s) := by
  change execTariffSwapRequest cl s = _
  rw [execTariffSwapRequest, hv]
  dsimp only
  rw [hlen, hprog]
  exact congrArg Host.Outcome.next ((if_neg (not_not_intro hw)).trans (if_neg (by omega)))

/-- R365: the shadow program and its initial values have changed places with the active ones. -/
def State.swapTariff (s : State) (cl : Nat) (v : DWord) (len : Nat) : State :=
  let k := s.cl cl
  let i0 := s.cr cl (nTINIT 0)
  let i1 := s.cr cl (nTINIT 1)
  let init := [loOf i0, hiOf i0, loOf i1, hiOf i1]
  let u := (List.range 128).foldl (fun (s : State) n =>
    s.setCr cl (nTPROG n) (pairOf (k.active.getD (2 * n) 0) (k.active.getD (2 * n + 1) 0))) s
  let u := (u.setCr cl (nTINIT 0) (pairOf (k.ainit.getD 0 0) (k.ainit.getD 1 0))).setCr cl (nTINIT 1) (pairOf (k.ainit.getD 2 0) (k.ainit.getD 3 0))
  (u.setCr cl nTCTL (dwSet (dwSet (dwSet v 8 0 k.alen) 13 10 1) 63 32 (dwBits v 63 32 + 1))).modCl cl fun k =>
    { k with active := s.shadow cl, alen := len, ainit := init, tvals := init }

theorem execTariffSwap_eq (hc : loadCheck prog 0 prog = none) (hd : (s.cl cl).decision = none) :
    exec (.tariffSwap cl) s = .next (s.swapTariff cl v len) := by
  change execTariffSwap cl s = _
  rw [execTariffSwap, hv]
  dsimp only
  rw [hlen, hprog, hc, hd]
  refine congrArg Host.Outcome.next (if_neg ?_)
  rintro (h | h | h | h)
  · exact h hw
  · omega
  · cases h
  · cases h

end load

theorem execClusterPartitionAssign_eq {part : BitVec 4} : exec (.clusterPartitionAssign cl part) s =
    .next (((s.emptyTariff cl).modCr cl nTCTL fun v => dwSet v 63 32 (dwBits v 63 32 + 1)).modCl cl fun k => { k with part }) := rfl

end

/-- Settles O52: each event of the tariff engine by the branch of it that its hypotheses choose. -/
theorem tariffEvents : Obligations.TariffEvents := by
  intro s cl part k v len prog
  refine ⟨fun hd => ⟨fun e rest he => execTariffDecisionBegin_fault hd he, fun he hp => execTariffDecisionBegin_preempt hd he hp,
      fun g he hp hg hw => execTariffDecisionBegin_dispatch hd he hp hg hw⟩,
    fun d hd hc => execTariffOverrun_eq hd hc,
    fun hw => ⟨fun hl => execTariffSwapRequest_long rfl rfl hw hl, fun cause i hl hc => ?_, fun hl hc => ?_,
      fun hl hc hd => execTariffSwap_eq rfl rfl hw hl rfl hc hd⟩,
    execClusterPartitionAssign_eq⟩
  · refine (execTariffSwapRequest_eq rfl rfl hw hl rfl).trans ?_
    rw [hc]
  · refine (execTariffSwapRequest_eq rfl rfl hw hl rfl).trans ?_
    rw [hc]

end Sys2Proof.Machine

namespace Sys2Proof.Machine

/-! ## A store at its cohort point and at its home (R276, R371, R374, R377, R387) -/

section
variable {s : State} {id : Nat} {x : PStore}

/-- Two changes of a cluster that agree on it. -/
theorem modCl_congr {cl : Nat} {f g : Cluster → Cluster} (h : f (s.cl cl) = g (s.cl cl)) : s.modCl cl f = s.modCl cl g := by
  rw [State.modCl, State.modCl, h]

/-- The earlier stores of a cluster that have its copies and not yet their home (R374). -/
def State.copiesBefore (s : State) (x : PStore) : Bool :=
  s.stores.any fun y => clusterOf y.2.core == clusterOf x.core && y.2.stage == 1 && decide (y.2.ford < x.ford) &&
    sameBytes x.kind.isTag x.place x.size y.2.kind.isTag y.2.place y.2.size

theorem execStorePerform_cohort (hx : findK s.stores id = some x) : exec (.storePerform id .cohort) s = .next (s.storeCohort id x) := by
  change execStorePerform id .cohort s = _
  rw [execStorePerform, hx]

theorem execStorePerform_home (hx : findK s.stores id = some x) : exec (.storePerform id .home) s = .next (s.storeHome id x) := by
  change execStorePerform id .home s = _
  rw [execStorePerform, hx]

/-- R374: a store has reached its cohort point, the `n`-th. -/
def State.cohortDone (s : State) (id : Nat) (x : PStore) (n : Nat) : State := { s with stores := insK s.stores id { x with stage := 1, ford := n } }

/-- R374: a store at its cohort point has numbered itself and changed the copies of its cluster. -/
def State.atCohort (s : State) (id : Nat) (x : PStore) (f : Cluster → Cluster) : State :=
  (s.bump.2.modCl (clusterOf x.core) f).cohortDone id x s.bump.1

theorem atCohort_congr {f g : Cluster → Cluster} (h : f (s.cl (clusterOf x.core)) = g (s.cl (clusterOf x.core))) :
    s.atCohort id x f = s.atCohort id x g := congrArg (State.cohortDone · id x s.bump.1) (modCl_congr h)

section cohort
variable (h0 : x.stage = 0) (hc : cacheable (clusterOf x.core) x.place = true)
  (hh : s.heldByEarlier id x.who x.kind.isTag x.place x.size false true = false)
include h0 hc hh

theorem storeCohort_eq : ∃ f : Cluster → Cluster, s.storeCohort id x = s.atCohort id x f ∧
    ∀ k : Cluster, (findK k.lines (lineKey x.place) = none → f k = k) ∧
      ∀ old, x.kind = .data → findK k.lines (lineKey x.place) = some old → Lease.before s.lease old.expiry = true →
        f k = { k with lines := insK k.lines (lineKey x.place) (old.store (linePos x.place) (bytesOf x.size x.data)) } := by
  refine ⟨_, (if_neg ?_).trans rfl, fun k => ⟨fun hn => ?_, fun old hk hf ho => ?_⟩⟩
  · rw [h0, hc, hh]
    simp
  · dsimp only
    rw [hn]
  · dsimp only
    rw [hf, hk]
    exact if_pos ho

theorem storeCohort_of_noLine (hn : findK (s.cl (clusterOf x.core)).lines (lineKey x.place) = none) :
    s.storeCohort id x = s.atCohort id x fun k => k := by
  obtain ⟨f, hf, hk⟩ := storeCohort_eq h0 hc hh
  exact hf.trans (atCohort_congr ((hk _).1 hn))

theorem storeCohort_of_line {old : CLine} (hk : x.kind = .data) (hl : findK (s.cl (clusterOf x.core)).lines (lineKey x.place) = some old)
    (ho : Lease.before s.lease old.expiry = true) : s.storeCohort id x = s.atCohort id x fun k =>
      { k with lines := insK k.lines (lineKey x.place) (old.store (linePos x.place) (bytesOf x.size x.data)) } := by
  obtain ⟨f, hf, hfk⟩ := storeCohort_eq h0 hc hh
  exact hf.trans (atCohort_congr ((hfk _).2 old hk hl ho))

end cohort

/-- R371: a store has performed at its home, to be visible at `v`. -/
def State.storeDone (s : State) (id : Nat) (x : PStore) (v : Lease) : State := { s with stores := insK s.stores id { x with stage := 2, vis := v } }

section home
variable (hst : x.stage = if cacheable (clusterOf x.core) x.place = true then 1 else 0)
  (hb : (if cacheable (clusterOf x.core) x.place = true then s.copiesBefore x
    else s.heldByEarlier id x.who x.kind.isTag x.place x.size false false) = false)
  (hd : s.homeDown x.place (if x.kind.isTag then 1 else x.size) = none)
include hb

/-- Nothing in the cluster goes before a store whose turn it is. -/
theorem noStoreBefore : (s.stores.any fun y : Nat × PStore =>
    if cacheable (clusterOf x.core) x.place then clusterOf y.2.core == clusterOf x.core && y.2.stage == 1 && decide (y.2.ford < x.ford) &&
      sameBytes x.kind.isTag x.place x.size y.2.kind.isTag y.2.place y.2.size
    else false) = false := by
  split at hb
  next hc =>
    refine Eq.trans ?_ hb
    rw [State.copiesBefore, hc]
    rfl
  next hc =>
    simp [hc]

include hst

/-- The two conditions under which a store waits do not hold. -/
theorem storeHome_goes (hp : x.sent.isNone = true → s.heldPlace x.place = false) {a b : State} :
    (if x.stage ≠ (if cacheable (clusterOf x.core) x.place then 1 else 0) ∨ (x.sent.isNone ∧ s.heldPlace x.place) ∨ (s.stores.any fun y : Nat × PStore =>
      if cacheable (clusterOf x.core) x.place then clusterOf y.2.core == clusterOf x.core && y.2.stage == 1 && decide (y.2.ford < x.ford) &&
        sameBytes x.kind.isTag x.place x.size y.2.kind.isTag y.2.place y.2.size
      else false) then a
     else if !cacheable (clusterOf x.core) x.place ∧ s.heldByEarlier id x.who x.kind.isTag x.place x.size false false then a else b) = b := by
  have hnone := noStoreBefore hb
  refine (if_neg ?_).trans (if_neg ?_)
  · rw [hnone]
    rintro (h | ⟨hs, h⟩ | h)
    · exact h hst
    · rw [hp hs] at h
      cases h
    · cases h
  · rintro ⟨hc, h⟩
    rw [if_neg (by simpa using hc), h] at hb
    cases hb

include hd

theorem storeHome_near (hfar : x.place.isFar = false) (hp : s.heldPlace x.place = false) : s.storeHome id x =
    match x.kind with
    | .data => ((s.touchPlace x.place (some x.core)).wrHome x.place (bytesOf x.size x.data)).storeDone id x (s.visTime x.place)
    | .tag => ((s.touchPlace x.place (some x.core)).setTag x.place (BitVec.ofNat 16 x.data)).storeDone id x (s.visTime x.place)
    | .atom op w64 o1 o2 prod =>
      let r := (s.touchPlace x.place (some x.core)).performAtom x.place op w64 o1 o2
      ({ r.2.2 with prods := match findK r.2.2.prods prod with
          | some q => insK r.2.2.prods prod { q with src := .vals (wordsOf 2 r.1) }
          | none => r.2.2.prods } : State).storeDone id x (if r.2.1 then s.visTime x.place else r.2.2.lease) := by
  unfold State.storeHome
  refine (storeHome_goes hst hb fun _ => hp).trans ?_
  rw [hd]
  dsimp only
  split
  next h _ => rw [h] at hfar; cases hfar
  next h _ => rw [h] at hfar; cases hfar
  next => rfl

theorem storeHome_near_data (hfar : x.place.isFar = false) (hp : s.heldPlace x.place = false) (hk : x.kind = .data) : s.storeHome id x =
    ((s.touchPlace x.place (some x.core)).wrHome x.place (bytesOf x.size x.data)).storeDone id x (s.visTime x.place) :=
  (storeHome_near hst hb hd hfar hp).trans (by rw [hk])

theorem storeHome_near_tag (hfar : x.place.isFar = false) (hp : s.heldPlace x.place = false) (hk : x.kind = .tag) : s.storeHome id x =
    ((s.touchPlace x.place (some x.core)).setTag x.place (BitVec.ofNat 16 x.data)).storeDone id x (s.visTime x.place) :=
  (storeHome_near hst hb hd hfar hp).trans (by rw [hk])

theorem storeHome_near_atom {op : BitVec 4} {w64 : Bool} {o1 o2 : DWord} {prod : Nat} {q : Prod} (hfar : x.place.isFar = false)
    (hp : s.heldPlace x.place = false) (hk : x.kind = .atom op w64 o1 o2 prod) {r : Nat × Bool × State}
    (hr : (s.touchPlace x.place (some x.core)).performAtom x.place op w64 o1 o2 = r) (hq : findK r.2.2.prods prod = some q) : s.storeHome id x =
      ({ r.2.2 with prods := insK r.2.2.prods prod { q with src := .vals (wordsOf 2 r.1) } } : State).storeDone id x
        (if r.2.1 then s.visTime x.place else r.2.2.lease) := by
  refine (storeHome_near hst hb hd hfar hp).trans ?_
  rw [hk]
  dsimp only
  rw [hr, hq]

/-- R482: at another package the request leaves first. -/
theorem storeHome_asks {b o d' a : Nat} (hfar : x.place = .far b o d' a) (hs : x.sent = none) (hp : s.heldPlace x.place = false) :
    s.storeHome id x = s.farStore id x b o := by
  unfold State.storeHome
  refine (storeHome_goes hst hb fun _ => hp).trans ?_
  rw [hd]
  dsimp only
  split
  next b' o' _ _ h _ =>
    rw [hfar] at h
    cases h
    rfl
  next h => rw [hs] at h; cases h
  next h _ => exact absurd hs (h _ _ _ _ hfar)

/-- R482: the response has come in time. -/
theorem storeHome_answered {b o d' a port : Nat} {t : Lease} (hfar : x.place = .far b o d' a) (hs : x.sent = some (port, t))
    (ht : s.farLate t = false) (hk : x.kind = .data ∨ x.kind = .tag) :
    s.storeHome id x = (s.farUsed x.place).storeDone id x (s.visTime x.place t) := by
  unfold State.storeHome
  refine (storeHome_goes hst hb fun h => by rw [hs] at h; cases h).trans ?_
  rw [hd]
  dsimp only
  split
  next h => rw [hs] at h; cases h
  next t' _ h =>
    obtain rfl : t = t' := congrArg Prod.snd (Option.some.inj (hs.symm.trans h))
    refine (if_neg (by rw [ht]; nofun)).trans ?_
    split
    next h => rcases hk with hk | hk <;> rw [hk] at h <;> cases h
    next => rfl
  next h => exact (h _ _ _ _ _ _ hfar hs).elim

end home

/-! ## Acknowledgements (R373, R377, R381) -/

/-- The deferred fault that a store which failed leaves. -/
def PStore.deferred (x : PStore) (info : Word) : DefFault := { finfo := info, pc := x.pc, extra := BitVec.ofNat 64 x.off, word := x.word }

theorem defer_ackFailed {info : Word} (hu : (s.wave x.core x.turn).uid = x.uid) (he : (s.thread x.core x.turn x.lane).status ≠ .exited) :
    ((s.ackFailed x info).thread x.core x.turn x.lane).defer = (s.thread x.core x.turn x.lane).defer ++ [x.deferred info] := by
  have hmine : ∀ f : Thread → Thread, (s.modThread x.core x.turn x.lane f).thread x.core x.turn x.lane = f (s.thread x.core x.turn x.lane) :=
    fun f => by rw [thread_modThread, if_pos ⟨rfl, rfl, rfl⟩]
  unfold State.ackFailed
  extract_lets f mine u
  have hdefer : (u.thread x.core x.turn x.lane).defer = (s.thread x.core x.turn x.lane).defer ++ [x.deferred info] := by
    have hm : u = s.modThread x.core x.turn x.lane fun t => { t with defer := if t.status = .exited then [] else t.defer ++ [f] } := if_pos hu
    rw [hm, hmine]
    exact if_neg he
  split
  next prod _ =>
    extract_lets w
    rw [if_pos hu, thread_modThread, if_pos ⟨rfl, rfl, rfl⟩]
    exact hdefer
  next => exact hdefer

theorem stores_ackFailed {info : Word} : (s.ackFailed x info).stores = s.stores := by
  unfold State.ackFailed
  extract_lets f mine u
  have hu : u.stores = s.stores := by
    unfold u
    split <;> rfl
  split
  next prod _ =>
    extract_lets w
    split <;> exact hu
  next => exact hu

theorem memory_ackFailed {info : Word} : SameMemory s (s.ackFailed x info) := by
  unfold State.ackFailed
  extract_lets f mine u
  have hu : SameMemory s u := by
    unfold u
    split <;> exact .of_eq rfl rfl rfl rfl
  split
  next prod _ =>
    extract_lets w
    split <;> exact hu.trans (.of_eq rfl rfl rfl rfl)
  next => exact hu

theorem execStoreAcknowledge_failed {info : Word} (hx : findK s.stores id = some x) (hs : 2 ≤ x.stage) (hf : x.fail = some info)
    (hp : x.pair = none) : exec (.storeAcknowledge id) s = .next (({ s with stores := delK s.stores id } : State).ackFailed x info) := by
  change execStoreAcknowledge id s = _
  rw [execStoreAcknowledge, hx]
  dsimp only
  rw [if_neg (by omega), State.mate, hp]
  dsimp only
  rw [hf]
  dsimp only
  rw [if_neg nofun]

theorem execStoreAcknowledge_alone (hx : findK s.stores id = some x) (hs : 2 ≤ x.stage) (hf : x.fail = none)
    (hp : x.pair = none) : exec (.storeAcknowledge id) s = .next (({ s with stores := delK s.stores id } : State).ackStore id x) := by
  change execStoreAcknowledge id s = _
  rw [execStoreAcknowledge, hx]
  dsimp only
  rw [if_neg (by omega), State.mate, hp]
  dsimp only
  rw [hf]
  rfl

theorem execStoreAcknowledge_pair {i : Nat} {y : PStore} (hx : findK s.stores id = some x) (hs : 2 ≤ x.stage) (hf : x.fail = none)
    (hp : x.pair = some i) (hy : findK s.stores i = some y) (hys : 2 ≤ y.stage) (hyf : y.fail = none) : exec (.storeAcknowledge id) s =
      .next ((({ s with stores := delK (delK s.stores i) id } : State).ackStore id x).ackStore id y) := by
  change execStoreAcknowledge id s = _
  rw [execStoreAcknowledge, hx]
  dsimp only
  rw [if_neg (by omega), State.mate, hp]
  dsimp only
  rw [hy]
  dsimp only
  rw [if_pos hys]
  dsimp only
  rw [Option.bind_some, hf, hyf]
  dsimp only
  rw [if_pos rfl, if_pos rfl]

/-- The spawns of a core that an acknowledgement reaches keep the waves. -/
theorem ackStore_eq : s.ackStore id x = if (s.wave x.core x.turn).uid = x.uid then
      (s.modCore x.core fun k => { k with spawns := k.spawns.map fun e =>
        if e.turn = x.turn ∧ e.uid = x.uid ∧ e.lanes.getLsbD x.lane ∧ id < e.upTo then { e with wh := Lease.later e.wh x.vis } else e }).modThread
          x.core x.turn x.lane fun t => t.horizon x.vis
    else s.modCore x.core fun k => { k with spawns := k.spawns.map fun e =>
        if e.turn = x.turn ∧ e.uid = x.uid ∧ e.lanes.getLsbD x.lane ∧ id < e.upTo then { e with wh := Lease.later e.wh x.vis } else e } := by
  unfold State.ackStore
  extract_lets u
  have hw : u.wave x.core x.turn = s.wave x.core x.turn := by
    show ((s.modCore x.core _).core x.core).wave x.turn = _
    rw [core_modCore_same]
    rfl
  rw [hw]

/-! ## Lines, leases and horizons (R16, R275, R439) -/

theorem execCacheLineFill_single {i cl line : Nat} {p : Prod} {a : Access} (hps : s.prods = [(i, p)]) (hp : p.src = .load a)
    (hcl : clusterOf p.core = cl) (hk : a.kind = .plain) (hl : lineKey a.place = line) (hle : a.lease ≠ 0) (hc : cacheable cl a.place = true)
    (hlive : s.liveLine cl (lineBase a.place) = none) (hbusy : s.lineBusy cl (lineBase a.place) = false)
    (hheld : s.heldPlace (lineBase a.place) = false) (hdown : s.homeDown (lineBase a.place) 128 = none) (hfar : a.place.isFar = false) :
    exec (.cacheLineFill cl line) s =
      .next (((s.touchLine p.core a (lineBase a.place)).lineBytes (lineBase a.place) []).2.fillLine cl (lineBase a.place)
        ((s.touchLine p.core a (lineBase a.place)).lineBytes (lineBase a.place) []).1.1
        ((s.touchLine p.core a (lineBase a.place)).lineBytes (lineBase a.place) []).1.2 a.lease none) := by
  change execCacheLineFill cl line s = _
  unfold execCacheLineFill
  extract_lets want
  have hwant : want = some (p, a) := by
    unfold want
    rw [hps, List.findSome?_cons, hp]
    dsimp only
    rw [if_pos ⟨hcl, hk, hl, hle, hc, fun h => by rw [hfar] at h; cases h⟩]
  clear_value want
  subst hwant
  dsimp only
  refine congrArg Host.Outcome.next ((if_neg ?_).trans ?_)
  · rw [hlive, hbusy, hheld, hdown]
    simp
  · split
    next h =>
      cases hpl : a.place with
      | far => rw [hpl] at hfar; cases hfar
      | sram => rw [hpl] at h; cases h
      | hbm => rw [hpl] at h; cases h
    next => rfl

theorem execLineLeaseExpire_eq {cl line : Nat} {l : CLine} (hl : findK (s.cl cl).lines line = some l)
    (he : Lease.before s.lease l.expiry = false) : exec (.lineLeaseExpire cl line) s = .next (s.modCl cl fun k =>
      { k with lines := insK k.lines line { l with data := List.replicate 128 0, tags := [0, 0] } }) := by
  change execLineLeaseExpire cl line s = _
  rw [execLineLeaseExpire, hl]
  exact congrArg Host.Outcome.next (if_neg (by rw [he]; nofun))

theorem execWhAgeing_eq {c t l : Nat} (h : 2 ^ 47 - 1 ≤ (s.lease - (s.thread c t l).wh).toNat)
    (hb : Lease.before s.lease (s.thread c t l).wh = false) :
    exec (.whAgeing c t l) s = .next (s.modThread c t l fun x => { x with wh := s.lease - 1 }) := by
  change execWhAgeing c t l s = _
  refine congrArg Host.Outcome.next (if_neg ?_)
  rintro (h' | h')
  · exact absurd h' (by omega)
  · rw [hb] at h'
    cases h'

/-! ## The release of a barrier (R393, R394) -/

/-- R394: a thread parked at a barrier is ready again once its arrival is released. -/
def Thread.unbarred (key : Nat) (t : Thread) : Thread :=
  match t.arrived with
  | some a => if t.status = .parkedBarrier ∧ a.key = key then { t with status := .ready, arrived := none } else t
  | none => t

/-- R394: a wave's threads are freed. -/
def Wave.unbarred (key : Nat) (w : Wave) : Wave := { w with threads := w.threads.map fun t => (t.1, t.2.unbarred key) }

/-- R394: a core's threads are freed, and its saved ones. -/
def Core.unbarred (key : Nat) (k : Core) : Core := { k with
  waves := k.waves.map fun w => (w.1, w.2.unbarred key)
  saved := k.saved.map fun v => { v with bars := v.bars.filter fun b => b.2.key != key } }

theorem execBarrierRelease_eq {key : Nat} {v : State} (h : s.barReady key = (true, v)) : exec (.barrierRelease key) s =
    .next { v with bars := putK 0 v.bars key ((getK 0 v.bars key + 1) % 65536), cores := v.cores.map fun k => (k.1, k.2.unbarred key) } := by
  change execBarrierRelease key s = _
  rw [execBarrierRelease, h]
  rfl

theorem thread_freed {u : State} {key : Nat} (h : u.cores = s.cores.map fun k => (k.1, k.2.unbarred key)) (c t l : Nat) :
    u.thread c t l = (s.thread c t l).unbarred key := by
  have hk : u.core c = (s.core c).unbarred key := by
    show getK {} u.cores c = _
    rw [h]
    exact getK_map (α := Core) {} s.cores (Core.unbarred key) rfl c
  have hw : u.wave c t = (s.wave c t).unbarred key := by
    show (u.core c).wave t = _
    rw [hk]
    exact getK_map (α := Wave) {} (s.core c).waves (Wave.unbarred key) rfl t
  show (u.wave c t).thread l = _
  rw [hw]
  exact getK_map (α := Thread) {} (s.wave c t).threads (Thread.unbarred key) rfl l

end

/-- Settles O53: a store at its cohort point (`storeCohort_eq`) and at its home (`storeHome_near`, `storeHome_asks`,
`storeHome_answered`), its acknowledgement, and the other events by the branches that their hypotheses choose. -/
theorem memoryEvents : Obligations.MemoryEvents := by
  intro s id cl line c t l key
  refine ⟨fun x hx => ⟨fun h0 hc hh => ⟨fun hn => ?_, fun old hk hl ho => ?_⟩, fun hfar hst hp hb hd => ⟨fun hk => ?_, fun hk => ?_,
      fun op w64 o1 o2 prod q hk hq => ?_⟩, fun b f d a hfar hst hb hd => ⟨fun hs hp => ?_, fun port t hs ht hk => ?_⟩⟩,
    fun x info hx hs hf hp hu he => ⟨_, execStoreAcknowledge_failed hx hs hf hp, stores_ackFailed, (SameMemory.of_eq (s := s) (t := { s with stores := delK s.stores id }) rfl rfl rfl rfl).trans memory_ackFailed, defer_ackFailed hu he⟩,
    fun x hx hs hf => ⟨fun hp => (execStoreAcknowledge_alone hx hs hf hp).trans (congrArg Host.Outcome.next ackStore_eq),
      fun i y hp hy hys hyf => execStoreAcknowledge_pair hx hs hf hp hy hys hyf⟩,
    fun i p a hps hp hcl hk hl hle hc hlive hbusy hheld hdown hfar =>
      execCacheLineFill_single hps hp hcl hk hl hle hc hlive hbusy hheld hdown hfar,
    fun x hx he => execLineLeaseExpire_eq hx he, fun h hb => execWhAgeing_eq h hb,
    fun v h => ⟨_, execBarrierRelease_eq h, rfl, .of_eq rfl rfl rfl rfl, fun c t l => thread_freed rfl c t l⟩⟩
  · exact (execStorePerform_cohort hx).trans (congrArg Host.Outcome.next (storeCohort_of_noLine h0 hc hh hn))
  · exact (execStorePerform_cohort hx).trans (congrArg Host.Outcome.next (storeCohort_of_line h0 hc hh hk hl ho))
  · exact (execStorePerform_home hx).trans (congrArg Host.Outcome.next (storeHome_near_data hst hb hd hfar hp hk))
  · exact (execStorePerform_home hx).trans (congrArg Host.Outcome.next (storeHome_near_tag hst hb hd hfar hp hk))
  · exact (execStorePerform_home hx).trans (congrArg Host.Outcome.next (storeHome_near_atom hst hb hd hfar hp hk rfl hq))
  · have hc : cacheable (clusterOf x.core) x.place = true := by rw [hfar]; rfl
    exact (execStorePerform_home hx).trans (congrArg Host.Outcome.next (storeHome_asks (hst.trans (if_pos hc).symm) ((if_pos hc).trans hb) hd hfar hs hp))
  · have hc : cacheable (clusterOf x.core) x.place = true := by rw [hfar]; rfl
    refine (execStorePerform_home hx).trans (congrArg Host.Outcome.next
      ((storeHome_answered (hst.trans (if_pos hc).symm) ((if_pos hc).trans hb) hd hfar hs ht hk).trans ?_))
    have hstores : (s.farUsed x.place).stores = s.stores := by rw [hfar]; rfl
    rw [State.storeDone, hstores]

end Sys2Proof.Machine

namespace Sys2Proof.Machine

/-- The bits of a register after one of its fields has been set. -/
theorem dwBit_dwSet (v : DWord) {hi lo i : Nat} (x : Nat) (hi64 : i < 64) (hlo : lo ≤ hi) :
    dwBit (dwSet v hi lo x) i = if lo ≤ i ∧ i ≤ hi then x.testBit (i - lo) else dwBit v i := by
  have hm : (BitVec.ofNat 64 ((2 ^ (hi - lo + 1) - 1) * 2 ^ lo)).getLsbD i = decide (lo ≤ i ∧ i ≤ hi) := by
    rw [BitVec.getLsbD_ofNat, Nat.testBit_mul_two_pow, Nat.testBit_two_pow_sub_one, Bool.eq_iff_iff]
    simp only [Bool.and_eq_true, decide_eq_true_iff]
    omega
  have hx : (BitVec.ofNat 64 (x * 2 ^ lo)).getLsbD i = (decide (lo ≤ i) && x.testBit (i - lo)) := by
    rw [BitVec.getLsbD_ofNat, Nat.testBit_mul_two_pow]
    simp [hi64]
  rw [dwBit, dwSet, BitVec.getLsbD_or, BitVec.getLsbD_and, BitVec.getLsbD_and, BitVec.getLsbD_not, hm, hx, dwBit]
  by_cases h : lo ≤ i ∧ i ≤ hi
  · simp [h]
  · rw [if_neg h, decide_eq_false h]
    simp [hi64]

theorem cr_modCr_same (s : State) (cl num : Nat) (f : DWord → DWord) : (s.modCr cl num f).cr cl num = f (s.cr cl num) := crT_setCrT_same _ _ _ _ _

section
variable {s u : State} {cl idx page stack : Nat}

/-! ## Walks (R407, R409) -/

section walk
variable (hw : (((s.cl cl).walks.take 32).any fun w => w.bti == idx && w.page == page) = true) (hh : s.walkHeld idx page = false)
  {e : BitVec 512} {f : BitVec 64}
include hw hh

theorem translationWalk_goes {a b : State} :
    (if !(((s.cl cl).walks.take 32).any fun w => w.bti == idx && w.page == page) ∨ s.walkHeld idx page then a else b) = b :=
  if_neg (by rw [hw, hh]; simp)

theorem execTranslationWalk_eq {r f : Nat} (hr : s.walkPage idx page = (r, e, f, u)) (h6 : r ≠ 6) : exec (.translationWalk cl idx page) s =
    .next (if r = 0 then u.bump.2.modCl cl fun k => (k.install (pageKey idx page) { entry := e, frame := f, used := u.bump.1 }).dropWalk idx page
      else (u.tellWalk cl { bti := idx, page, entry := e, res := r }).modCl cl fun k => k.dropWalk idx page) := by
  change execTranslationWalk cl idx page s = _
  refine congrArg Host.Outcome.next ((translationWalk_goes hw hh).trans ?_)
  rw [hr]
  exact if_neg h6

end walk

theorem execZbusyWaitTimeout_eq {w : Walk} {t : Lease} {e : BitVec 512} {f : Nat}
    (hw : ((s.cl cl).walks.find? fun w => w.bti == idx && w.page == page) = some w) (ht : w.busy = some t) (he : w.eng = false)
    (hr : s.walkPage idx page = (6, e, f, u)) (hl : Lease.before s.lease (t + 200000) = false) : exec (.zbusyWaitTimeout cl idx page) s =
      .next ((u.tellWalk cl { bti := idx, page, entry := e, res := 16 + locStack (s.locate ((ebits e 166 128 + 8 * page) % 2 ^ 39)) }).modCl cl
        fun k => k.dropWalk idx page) := by
  change execZbusyWaitTimeout cl idx page s = _
  rw [execZbusyWaitTimeout, hw]
  dsimp only
  rw [ht]
  dsimp only
  rw [hr]
  refine congrArg Host.Outcome.next ((if_neg ?_).trans (if_neg ?_))
  · rw [hl]
    simp
  · rw [he]
    nofun

/-! ## Hash windows and unit moves (R412, R414) -/

theorem execHashWindowEnd_eq (h : s.lease.toNat / 1000000 ≠ s.hwin)
    (hu : (if dwBits (s.cr 16 nHMIG) 31 16 ≠ 0 ∧ (List.range 8).any fun k => decide (dwBits (s.cr 16 nHMIG) 31 16 ≤ dwBits (s.cr 16 (nSTKSTAT k)) 23 0)
      then s.beginVersion else s) = u) : exec .hashWindowEnd s =
    .next { (List.range 8).foldl (fun (s : State) k => s.modCr 16 (nSTKSTAT k) fun v => dwSet v 23 0 0) u with hwin := u.lease.toNat / 1000000 } := by
  subst hu
  change execHashWindowEnd s = _
  exact congrArg Host.Outcome.next (if_neg h)

/-- R414: the pairs of blocks that change places as a unit of a group moves. -/
def State.unitPairs (s : State) (g : Nat) : List (Nat × Nat) :=
  let n := dwBits (s.cr 16 (nHGSTATE g)) 47 32
  let d := (hashG n (dwBits (s.cr 16 (nHGSTATE g)) 31 16) ^^^ hashG n (dwBits (s.cr 16 (nHGSTATE g)) 15 0)) * 2
  let loc := fun (x : Nat) => placeBlock 0 g (n * 8192 + x)
  if d = 0 then [] else ((List.range 8192).filter fun x => decide (x < x ^^^ d)).map fun x => (loc x, loc (x ^^^ d))

theorem execMigrationUnitMove_eq {m : Migration} {g : Nat} {gs : List Nat} (hm : s.mig = some m) (ht : m.todo = g :: gs)
    (hheld : ∀ p ∈ s.unitPairs g, s.held p.1 = false ∧ s.held p.2 = false) (hlt : dwBits (s.cr 16 (nHGSTATE g)) 47 32 + 1 < 32768) :
    exec (.migrationUnitMove g) s = .next (((s.unitPairs g).foldl (fun (s : State) p =>
      ((s.touch p.1 none true).touch p.2 none true).swapBlocks p.1 p.2) s).modCr 16 (nHGSTATE g) fun v =>
        dwSet v 47 32 (dwBits (s.cr 16 (nHGSTATE g)) 47 32 + 1)) := by
  change execMigrationUnitMove g s = _
  rw [execMigrationUnitMove, hm]
  dsimp only
  rw [ht]
  refine congrArg Host.Outcome.next ((if_neg (not_not_intro rfl)).trans ((if_neg ?_).trans (if_pos hlt)))
  intro h
  obtain ⟨p, hp, h⟩ := List.any_eq_true.1 h
  obtain ⟨h1, h2⟩ := hheld p hp
  rw [h1, h2] at h
  cases h

/-! ## Banks, rows and throttling (R416 to R419) -/

theorem execBankBlockEnd_eq {bank : Nat} {t : Lease} (h : (getK {} s.hbanks bank).block = some t) (hl : Lease.before s.lease t = false) :
    exec (.bankBlockEnd bank) s = .next (s.modBank bank fun b => { b with block := none }) := by
  change execBankBlockEnd bank s = _
  rw [execBankBlockEnd, h]
  exact congrArg Host.Outcome.next (if_neg (by rw [hl]; nofun))

theorem execRowIdleClose_eq {bank r : Nat} (h : (getK {} s.hbanks bank).row = some r)
    (hl : Lease.before s.lease ((getK {} s.hbanks bank).last + 100) = false) :
    exec (.rowIdleClose bank) s = .next (s.modBank bank fun b => { b with row := none }) := by
  change execRowIdleClose bank s = _
  rw [execRowIdleClose]
  dsimp only
  rw [h, hl]
  exact congrArg Host.Outcome.next (if_neg (by simp))

theorem execThrottleEnd_eq {c : Nat} {t : Lease} (h : (s.core c).throttle = some t) (hl : Lease.before s.lease t = false) :
    exec (.throttleEnd c) s = .next ((s.modCore c fun k => { k with throttle := none, admitted := [] }).modCr (clusterOf c)
      (nTHR (coreIndex c)) fun v => dwSet v 0 0 0) := by
  change execThrottleEnd c s = _
  rw [execThrottleEnd, h]
  exact congrArg Host.Outcome.next (if_neg (by rw [hl]; nofun))

/-! ## The row-remap table (R420, R421) -/

theorem execRemapTableError_eq (hu : s.crCount 16 (nSTKSTAT stack) 63 48 1 = u) (hr : u.stkReload stack = false) (ha : u.stkUnavail stack = false) :
    exec (.remapTableError stack) s = .next (({ u.modCr 16 (nSTKSTAT stack) (fun v => dwSet v 24 24 1) with
      reloadAt := insK (u.modCr 16 (nSTKSTAT stack) fun v => dwSet v 24 24 1).reloadAt stack
        (u.modCr 16 (nSTKSTAT stack) fun v => dwSet v 24 24 1).lease } : State).remapEvent stack 0 0) := by
  change execRemapTableError stack s = _
  rw [execRemapTableError, hu]
  exact congrArg Host.Outcome.next (if_neg (by rw [hr, ha]; simp))

section reload
variable (hr : s.stkReload stack = true)
include hr

theorem execRemapReloadDone_eq : exec (.remapReloadDone stack) s =
    .next (((s.modCr 16 (nSTKSTAT stack) fun v => dwSet v 24 24 0).loadRemap stack).remapEvent stack 1 (s.reloadFor stack / 1000)) := by
  change execRemapReloadDone stack s = _
  exact congrArg Host.Outcome.next (if_neg (by rw [hr]; nofun))

variable (hl : 200000 ≤ s.reloadFor stack)
include hl

theorem reload_late {a b : State} : (if !s.stkReload stack ∨ s.reloadFor stack < 200000 then a else b) = b :=
  if_neg (by rw [hr]; simp; omega)

theorem execRemapHoldTimeout_eq (id : Nat) : exec (.remapHoldTimeout stack id) s =
    .next (if id = 0 then s.failHeldOthers stack else s.failHeld stack id) := by
  change execRemapHoldTimeout stack id s = _
  exact congrArg Host.Outcome.next (reload_late hr hl)

/-- R421: what the stack holds has failed, and it has left service. -/
def State.stackFailed (s : State) (stack : Nat) : State :=
  (((s.prods.map (·.1) ++ s.stores.map (·.1) ++ s.copies.map (·.1)).foldl (fun (s : State) id => s.failHeld stack id) s).failHeldOthers stack).modCr 16
    (nSTKSTAT stack) fun v => dwSet (dwSet v 24 24 0) 25 25 1

theorem execRemapStackTimeout_eq : exec (.remapStackTimeout stack) s =
    .next (({ s.stackFailed stack with reloadAt := delK (s.stackFailed stack).reloadAt stack } : State).remapEvent stack 2 (s.reloadFor stack / 1000)) := by
  change execRemapStackTimeout stack s = _
  exact congrArg Host.Outcome.next (reload_late hr hl)

end reload

theorem stkReload_stackFailed : (s.stackFailed stack).stkReload stack = false := by
  rw [State.stkReload, State.stackFailed, cr_modCr_same, dwBit_dwSet _ _ (by omega) (by omega), if_neg (by omega),
    dwBit_dwSet _ _ (by omega) (by omega), if_pos (by omega)]
  rfl

theorem stkUnavail_stackFailed : (s.stackFailed stack).stkUnavail stack = true := by
  rw [State.stkUnavail, State.stackFailed, cr_modCr_same, dwBit_dwSet _ _ (by omega) (by omega), if_pos (by omega)]
  rfl

end

/-- Settles O54: each event by the branch of it that its hypotheses choose; a stack that leaves service by its status word
(`stkReload_stackFailed`, `stkUnavail_stackFailed`). -/
theorem translationAndHbmEvents : Obligations.TranslationAndHbmEvents := by
  intro s cl idx page c bank row stack v
  refine ⟨fun hw hh => ⟨fun e f u hr => execTranslationWalk_eq hw hh hr (by decide), fun r e f u hr h0 h6 =>
      (execTranslationWalk_eq hw hh hr h6).trans (congrArg Host.Outcome.next (if_neg h0))⟩,
    fun w t e f u hw ht he hr hl => execZbusyWaitTimeout_eq hw ht he hr hl, rfl, rfl, fun h => execHashWindowEnd_eq h rfl,
    fun m g gs hm ht hheld hlt => execMigrationUnitMove_eq hm ht hheld hlt, fun t h hl => execBankBlockEnd_eq h hl,
    fun r h hl => execRowIdleClose_eq h hl, rfl, fun t h hl => execThrottleEnd_eq h hl,
    fun hr ha => execRemapTableError_eq rfl hr ha, fun hr => execRemapReloadDone_eq hr,
    fun hr hl => ⟨execRemapHoldTimeout_eq hr hl row, s.stackFailed stack, execRemapStackTimeout_eq hr hl, stkReload_stackFailed, stkUnavail_stackFailed⟩⟩

end Sys2Proof.Machine

namespace Sys2Proof.Machine

section
variable {s u : State} {c n : Nat} {e : WayEnt} {rest : List WayEnt}

/-! ## The issue units of the wayside (R428) -/

theorem execWaysideIssueSend_queued {ws : List Word} {t uid op : Nat} {slots rb : List (List Word)} {q : List QEntry}
    (hq : (s.core c).queue 34 = .cmd ws t uid op slots rb :: q) (hl : (s.core c).ways.length < 8) :
    exec (.waysideIssueSend c) s = .next ((s.modCore c fun k => k.setQueue 34 q).takeWay c t uid op ws slots) := by
  change execWaysideIssueSend c s = _
  rw [execWaysideIssueSend]
  dsimp only
  rw [hq, decide_eq_true hl]

theorem execWaysideIssueSend_sends (hq : (s.core c).queue 34 = []) (hw : (s.core c).ways = e :: rest)
    (hl : (s.way (WCmd.ofWords e.words).stack).queue.length < 64) :
    exec (.waysideIssueSend c) s = .next ((s.modCore c fun k => { k with ways := rest }).setWays (WCmd.ofWords e.words).stack
      ((s.way (WCmd.ofWords e.words).stack).queue ++ [e])) := by
  change execWaysideIssueSend c s = _
  rw [execWaysideIssueSend]
  dsimp only
  rw [hq]
  dsimp only
  rw [hw]
  exact congrArg Host.Outcome.next (if_neg (by omega))

/-! ## Acceptance (R430, R436) -/

/-- R430: a stack has accepted a command, which has failed at once where `fail` says so. -/
def State.wayAccepted (s : State) (n : Nat) (e : WayEnt) (rest : List WayEnt) (fail : Option Nat) (segs : List (List (Place × Nat))) : State :=
  (s.setWays n rest).modWay n fun w => { w with
    cur := some e, ran := fail.isSome, fail, flags := 0, vis := none, segs, late := false, ahead := [], aheadT := [] }

section accept
variable (hc : (s.way n).cur = none) (hq : (s.way n).queue = e :: rest)
include hc hq

theorem execWaysideAccept_malformed (hm : wMalformed e.words = true) : exec (.waysideAccept n) s = .next (s.wayAccepted n e rest (some 1) []) := by
  change execWaysideAccept n s = _
  rw [execWaysideAccept, hc, hq]
  exact congrArg Host.Outcome.next (if_pos hm)

variable (hm : wMalformed e.words = false)
include hm

theorem execWaysideAccept_context
    (hx : (s.wctx n (WCmd.ofWords e.words).ctx).2 = false ∨ (s.wctx n (WCmd.ofWords e.words).ctx).1 ≠ e.part.toNat) :
    exec (.waysideAccept n) s = .next (s.wayAccepted n e rest (some 5) []) := by
  change execWaysideAccept n s = _
  rw [execWaysideAccept, hc, hq]
  refine congrArg Host.Outcome.next ((if_neg (by rw [hm]; nofun)).trans (if_pos (hx.imp_left fun h => ?_)))
  rw [h]
  rfl

theorem execWaysideAccept_checked {r : WayChk} (h2 : (s.wctx n (WCmd.ofWords e.words).ctx).2 = true)
    (h1 : (s.wctx n (WCmd.ofWords e.words).ctx).1 = e.part.toNat) (hb : s.wayBuffers e (WCmd.ofWords e.words) = (r, u)) (hw : r.wait = false) :
    exec (.waysideAccept n) s = .next (match firstCause r.causes with
      | some f => u.wayAccepted n e rest (some f) []
      | none => u.wayAccepted n e rest none r.segs) := by
  change execWaysideAccept n s = _
  rw [execWaysideAccept, hc, hq]
  refine congrArg Host.Outcome.next ((if_neg (by rw [hm]; nofun)).trans ((if_neg ?_).trans ?_))
  · rintro (h | h)
    · rw [h2] at h
      cases h
    · exact h h1
  · rw [hb]
    dsimp only
    rw [hw]
    generalize firstCause r.causes = f
    cases f <;> rfl

end accept

/-! ## The commands (R432 to R435) -/

section run
variable (hc : (s.way n).cur = some e) (hr : (s.way n).ran = false) {cmd : Nat} (hcmd : (WCmd.ofWords e.words).cmd = cmd)
include hc hr hcmd

theorem wayRun_eq (body : State → WCmd → WayEnt → State) :
    s.wayRun n cmd body = (body s (WCmd.ofWords e.words) e).modWay n fun w => { w with ran := true } := by
  rw [State.wayRun, hc]
  refine if_neg ?_
  rw [hr]
  rintro (h | h)
  · cases h
  · exact h hcmd

variable (hh : s.wayHeld n = false)
include hh

/-- A command whose accesses are not held runs. -/
theorem wayRun_unheld (body : State → WCmd → WayEnt → State) :
    (if s.wayHeld n then s else s.wayRun n cmd body) = (body s (WCmd.ofWords e.words) e).modWay n fun w => { w with ran := true } :=
  (if_neg (by rw [hh]; nofun)).trans (wayRun_eq hc hr hcmd body)

end run

section commands
variable (hc : (s.way n).cur = some e) (hr : (s.way n).ran = false)
include hc hr

theorem execRstore_eq {f : Fmt} (hcmd : (WCmd.ofWords e.words).cmd = 12) (hh : s.wayHeld n = false)
    (hf : wStoreFmt (WCmd.ofWords e.words).ofmt = some f) {down : Bool}
    (hd : ((s.way n).late || ((s.way n).segs.flatMap segBlocks).any fun p => (s.homeDown p.1 0).isSome) = down)
    {b : List Byte × Flags} (hb : s.rstoreBytes n (WCmd.ofWords e.words) f = b) {r : Lease × State}
    (hw : s.rstoreBlocks (BitVec.ofNat 16 ((WCmd.ofWords e.words).ofmt.toNat + 256 * (WCmd.ofWords e.words).oscl)) down
      ((s.way n).segs.flatMap segBlocks) b.1 s.lease = r) : exec (.rstore n) s =
    .next (((r.2.wayFlags n b.2).modWay n fun w => { w with vis := some r.1, fail := if down then some 7 else none }).modWay n
      fun w => { w with ran := true }) := by
  change execRstore n s = _
  refine congrArg Host.Outcome.next ((wayRun_unheld hc hr hcmd hh _).trans ?_)
  dsimp only
  rw [hf]
  dsimp only
  rw [hd, hb, hw]

theorem execWcount_eq {p : Place} {q : Nat} (hcmd : (WCmd.ofWords e.words).cmd = 13) (hh : s.wayHeld n = false)
    (hp : ((s.way n).segs.flatMap id).head? = some (p, q)) (hw : s.wayCause n [(p, 8)] = none) : exec (.wcount n) s =
    .next ((((s.eAdd64 p 1).2).modWay n fun w => { w with vis := some (s.visTime p) }).modWay n fun w => { w with ran := true }) := by
  change execWcount n s = _
  refine congrArg Host.Outcome.next ((wayRun_unheld hc hr hcmd hh _).trans ?_)
  dsimp only
  rw [hp]
  dsimp only
  rw [hw]

end commands

/-! ## Completion (R424, R436, R438) -/

/-- R438: a command that has run leaves its stack, gives its flags to its wave and its failure to its token. -/
def State.wayCompleted (s : State) (n : Nat) (e : WayEnt) : State :=
  ((s.modWay n fun w => { w with
    cur := none, ran := false, fail := none, flags := 0, vis := none, segs := [], late := false, ahead := [], aheadT := [] }).opFlags
      e.core e.uid (s.way n).flags).completeOp e.core e.op (s.way n).fail

theorem execWaysideCommandComplete_eq (hc : (s.way n).cur = some e) (hr : (s.way n).ran = true)
    (hv : ∀ v, (s.way n).vis = some v → Lease.before v s.lease = true) : exec (.waysideCommandComplete n) s =
    .next (match (s.way n).fail with
      | none => s.wayCompleted n e
      | some f => ((s.wayCompleted n e).crCount 16 (nWSTAT n) 31 16 1).raise (clusterOf e.core) 4 5
        [BitVec.ofNat 32 n, BitVec.ofNat 32 ((WCmd.ofWords e.words).ctx + 16 * f), BitVec.ofNat 32 e.core]) := by
  change execWaysideCommandComplete n s = _
  rw [execWaysideCommandComplete]
  dsimp only
  rw [hc]
  dsimp only
  refine congrArg Host.Outcome.next ((if_neg ?_).trans ?_)
  · rw [hr]
    rintro (h | h)
    · cases h
    · revert h hv
      generalize (s.way n).vis = vis
      cases vis with
      | none => nofun
      | some v =>
        intro hv h
        dsimp only at h
        rw [hv v rfl] at h
        cases h
  · unfold State.wayCompleted
    generalize (s.way n).fail = fail
    cases fail <;> rfl

theorem execWaysideCommandComplete_passed (hc : (s.way n).cur = some e) (hr : (s.way n).ran = true)
    (hv : ∀ v, (s.way n).vis = some v → Lease.before v s.lease = true) (hf : (s.way n).fail = none) :
    exec (.waysideCommandComplete n) s = .next (s.wayCompleted n e) :=
  (execWaysideCommandComplete_eq hc hr hv).trans (by rw [hf])

theorem execWaysideCommandComplete_failed {f : Nat} (hc : (s.way n).cur = some e) (hr : (s.way n).ran = true)
    (hv : ∀ v, (s.way n).vis = some v → Lease.before v s.lease = true) (hf : (s.way n).fail = some f) :
    exec (.waysideCommandComplete n) s = .next (((s.wayCompleted n e).crCount 16 (nWSTAT n) 31 16 1).raise (clusterOf e.core) 4 5
      [BitVec.ofNat 32 n, BitVec.ofNat 32 ((WCmd.ofWords e.words).ctx + 16 * f), BitVec.ofNat 32 e.core]) :=
  (execWaysideCommandComplete_eq hc hr hv).trans (by rw [hf])

theorem execWctxWrite_eq {v : DWord} (h : s.wctxWaits n v = false) : exec (.wctxWrite n v) s = .next (s.setWctx n v) := by
  change execWctxWrite n v s = _
  exact congrArg Host.Outcome.next (if_neg (by rw [h]; nofun))

end

/-- Settles O55: each command of arrays alone runs in `wayRun_eq`, one that reads or writes memory in `wayRun_unheld`; the issue
unit, the acceptance and the completion by the branches that their hypotheses choose. -/
theorem waysideEvents : Obligations.WaysideEvents := by
  intro s c n v k y
  refine ⟨fun ws t uid op slots rb rest hq hl => execWaysideIssueSend_queued hq hl, fun e rest hq hw hl => execWaysideIssueSend_sends hq hw hl,
    fun e rest hc hq => ⟨fun hm => execWaysideAccept_malformed hc hq hm, fun hm hx => execWaysideAccept_context hc hq hm hx,
      fun r u hm h2 h1 hb hw => ⟨fun hf => ?_, fun f hf => ?_⟩⟩,
    fun e hc hr => ⟨fun h => ?_, fun h hh => ?_, fun h => ?_, fun h => ?_, fun h => ?_, fun h hh => ?_, fun h => ?_, fun h hh => ?_, fun h => ?_,
      fun h => ?_, fun h => ?_, fun f h hh hf => execRstore_eq hc hr h hh hf rfl rfl rfl, fun p q h hh hp hw => execWcount_eq hc hr h hh hp hw⟩,
    fun e hc hr hv => ⟨fun hf => execWaysideCommandComplete_passed hc hr hv hf, fun f hf => execWaysideCommandComplete_failed hc hr hv hf⟩,
    fun h => execWctxWrite_eq h⟩
  · refine (execWaysideAccept_checked hc hq hm h2 h1 hb hw).trans ?_
    rw [hf]
    rfl
  · refine (execWaysideAccept_checked hc hq hm h2 h1 hb hw).trans ?_
    rw [hf]
    rfl
  · exact congrArg Host.Outcome.next (wayRun_eq hc hr h _)
  · exact congrArg Host.Outcome.next (wayRun_unheld hc hr h hh _)
  · exact congrArg Host.Outcome.next (wayRun_eq hc hr h _)
  · exact congrArg Host.Outcome.next (wayRun_eq hc hr h _)
  · exact congrArg Host.Outcome.next (wayRun_eq hc hr h _)
  · exact congrArg Host.Outcome.next (wayRun_unheld hc hr h hh _)
  · exact congrArg Host.Outcome.next (wayRun_eq hc hr h _)
  · exact congrArg Host.Outcome.next (wayRun_unheld hc hr h hh _)
  · exact congrArg Host.Outcome.next (wayRun_eq hc hr h _)
  · exact congrArg Host.Outcome.next (wayRun_eq hc hr h _)
  · exact congrArg Host.Outcome.next (wayRun_eq hc hr h _)

end Sys2Proof.Machine

namespace Sys2Proof.Machine

section
variable {s u v : State} {me dest : Nat} {xid : BitVec 16} {handle len : Word} {off : DWord} {ws : List Word}

/-! ## Extents asked for, answered and taken back (R450, R453) -/

theorem execExtreq_eq (ho : (s.shard me).owner handle.toNat = dest) (hne : me ≠ dest) (hc : (s.shard me).cached handle.toNat off.toNat = false)
    (hs : s.sendMsg me dest (message 1 xid [handle, 0, loOf off, hiOf off, len]) = some u) : exec (.extreq me dest xid handle off len) s =
      .next (u.modShard me fun k => { k with asked := k.asked ++ [(xid, handle.toNat)] }) := by
  change execExtreq me dest xid handle off len s = _
  refine congrArg Host.Outcome.next ((if_neg ?_).trans ?_)
  · rw [hc]
    rintro (h | h | h)
    · exact h ho
    · exact hne h
    · cases h
  · rw [hs]

theorem execExtrep_eq (ho : (s.shard me).owner handle.toNat = me) (ht : s.takeMsg me dest 1 xid handle = some (ws, u)) :
    exec (.extrep me dest xid handle off len) s = .next ((u.giveExtent me dest xid handle.toNat off.toNat len.toNat).getD s) := by
  change execExtrep me dest xid handle off len s = _
  refine congrArg Host.Outcome.next ((if_neg (not_not_intro ho)).trans ?_)
  rw [ht]

section give
variable {h o n : Nat} {e : Option Extent} (he : s.extentFor h o n = e) (hs : s.sendAnswer me dest (message 2 xid (extrepWords e)) = some v)
include he hs

theorem giveExtent_some {x : Extent} (hx : e = some x) : s.giveExtent me dest xid h o n = some (v.modShard dest fun k =>
    { k with asked := k.asked.filter fun a => a.1 != xid, cache := k.cache ++ [(h, x)] }) := by
  rw [State.giveExtent, he, hs, hx]
  rfl

theorem giveExtent_none (hx : e = none) : s.giveExtent me dest xid h o n = some (v.modShard dest fun k =>
    { k with asked := k.asked.filter fun a => a.1 != xid, bad := k.bad ++ [h] }) := by
  rw [State.giveExtent, he, hs, hx]
  rfl

end give

theorem extentFor_of_closed {h o n : Nat} (hf : s.handleFile h = none) : s.extentFor h o n = none := by
  rw [State.extentFor, hf]
  rfl

/-- R453: the extent of a request that begins and ends on blocks inside one. -/
theorem extentFor_inside {h o n : Nat} {f : FileObj} {x : Extent} (hf : s.handleFile h = some f) (hx : f.extentAt o = some x)
    (hx512 : x.foff % 512 = 0) (ho512 : o % 512 = 0) (hn : 0 < n) (hend : o + n ≤ x.foff + x.len) : s.extentFor h o n =
      some { foff := o, len := (n + 511) / 512 * 512, drive := x.drive, lba := x.lba + (o - x.foff) / 512, ver := x.ver } := by
  have hle : x.foff ≤ o := by
    have := List.find?_some hx
    simp only [Bool.and_eq_true, decide_eq_true_eq] at this
    exact this.1
  have hlo : x.foff + (o - x.foff) / 512 * 512 = o := by omega
  have hlen : Nat.min (o + n) (x.foff + x.len) - o = n := by
    rw [show Nat.min (o + n) (x.foff + x.len) = o + n from Nat.min_eq_left hend]
    omega
  rw [State.extentFor, hf, Option.map_some, hx]
  dsimp only
  rw [hlo, hlen]

theorem execExtinv_eq (ho : (s.shard me).owner handle.toNat = me) (hs : s.sendMsg me dest (message 3 xid [handle, 0]) = some u) :
    exec (.extinv me dest xid handle) s = .next (u.modShard me fun k =>
      let old := ((k.inval.find? fun p => p.1 == handle.toNat).map (·.2)).getD ([], [])
      { k with inval := (k.inval.filter fun p => p.1 != handle.toNat) ++ [(handle.toNat, old.1 ++ [dest], old.2 ++ [dest])] }) := by
  change execExtinv me dest xid handle s = _
  refine congrArg Host.Outcome.next ((if_neg (not_not_intro ho)).trans ?_)
  rw [hs]

theorem execExtack_eq (ht : s.takeMsg me dest 3 xid handle = some (ws, u)) (hsvc : (s.shard me).svc = []) (hbufs : (s.shard me).bufs = [])
    (ha : u.sendAnswer me dest (message 4 xid [handle, 0]) = some v) : exec (.extack me dest xid handle) s =
      .next ((v.modShard me fun k => { k with cache := k.cache.filter fun p => p.1 != handle.toNat }).modShard dest
        fun k => { k with inval := k.inval.map fun p => if p.1 = handle.toNat then (p.1, p.2.1, p.2.2.filter (· != me)) else p }) := by
  change execExtack me dest xid handle s = _
  rw [execExtack, ht]
  dsimp only
  rw [hsvc, hbufs]
  refine congrArg Host.Outcome.next ((if_neg (by simp)).trans ?_)
  rw [ha]

/-! ## Calls sent on (R442, R450, R453) -/

section fwd
variable {call : MsgWords}

theorem execFwd_own {f : Nat × Nat × Nat} (hf : s.fwdOf me dest call = some f) (hs : s.sendMsg me dest (message 5 xid call) = some u) :
    exec (.fwd me dest xid call) s = .next (u.modShard me fun k => { k with fwds := k.fwds ++ [{ xid, peer := dest, from_ := some f }] }) := by
  change execFwd me dest xid call s = _
  rw [execFwd]
  dsimp only
  rw [hf]
  dsimp only
  rw [hs]
  rfl

variable (hf : s.fwdOf me dest call = none) {g : Nat} (hs : (s.dropMail me g).sendMsg me dest (message 5 xid call) = some u)
include hf hs

theorem execFwd_asked (he : s.fwdExt me xid call = some (g, dest)) :
    exec (.fwd me dest xid call) s = .next (u.modShard me fun k => { k with fwds := k.fwds ++ [{ xid, peer := dest, asker := some g }] }) := by
  change execFwd me dest xid call s = _
  rw [execFwd]
  dsimp only
  rw [hf]
  dsimp only
  rw [he]
  refine congrArg Host.Outcome.next ((if_neg (not_not_intro rfl)).trans ?_)
  rw [hs]
  rfl

theorem execFwd_sentOn (he : s.fwdExt me xid call = none) (hon : s.fwdOn me dest xid call = some g) :
    exec (.fwd me dest xid call) s = .next (u.modShard me fun k => { k with fwds := k.fwds ++ [{ xid, peer := dest, via := some g }] }) := by
  change execFwd me dest xid call s = _
  rw [execFwd]
  dsimp only
  rw [hf]
  dsimp only
  rw [he]
  dsimp only
  rw [hon]
  dsimp only
  rw [hs]
  rfl

end fwd

/-- R450: the note of a FWD goes as it is answered. -/
def Shard.notSent (k : Shard) (xid : BitVec 16) : Shard := { k with fwds := k.fwds.filter fun p => p.xid != xid }

theorem answerFwd_direct {pay : List Word} {n : Nat} (hv : ((s.shard dest).fwds.find? fun p => p.xid == xid).bind (·.via) = none)
    (hs : s.sendAnswer me dest (message 6 xid pay) = some u) : s.answerFwd xid pay (n + 1) me dest = some (u.modShard dest (·.notSent xid)) := by
  rw [State.answerFwd]
  dsimp only
  rw [hv, hs]
  rfl

section fwdrep
variable {r0 r1 : Word} {x : Fwd} (hm : s.headMail me dest = some ws) (hty : msgType ws = 5) (hxid : msgXid ws = xid)
  (hx : ((s.shard dest).fwds.find? fun p => p.xid == xid) = some x) (hvia : x.via = none)
include hm hty hxid hx hvia

theorem execFwdrep_extent {g : Nat} (ha : x.asker = some g) (ho : (s.shard me).owner (ws.getD 2 0).toNat = me) (h1 : r1 = 0)
    (h0 : r0 = if (s.handleFile (ws.getD 2 0).toNat).isSome then 0 else errWord 9)
    (hs : (s.dropMail me dest).sendAnswer me dest (message 6 xid [r0, r1]) = some u)
    (hg : (u.modShard dest (·.notSent xid)).giveExtent me g xid (ws.getD 2 0).toNat ((ws.getD 3 0).toNat + 2 ^ 32 * (ws.getD 4 0).toNat)
      (ws.getD 5 0).toNat = some v) : exec (.fwdrep me dest xid r0 r1) s = .next v := by
  have hans : (s.dropMail me dest).answerFwd xid [r0, r1] 16 me dest = some (u.modShard dest (·.notSent xid)) :=
    answerFwd_direct (by rw [show (s.dropMail me dest).shard dest = s.shard dest from rfl, hx]; exact hvia) hs
  change execFwdrep me dest xid r0 r1 s = _
  rw [execFwdrep, hm]
  dsimp only
  rw [hx, Option.bind_some, ha]
  dsimp only
  refine congrArg Host.Outcome.next ((if_neg ?_).trans ((if_neg ?_).trans ?_))
  · rintro (h | h)
    · exact h hty
    · exact h hxid
  · rintro (h | h | h)
    · exact h ho
    · exact h h1
    · exact h h0
  · rw [hans, Option.bind_some, hg]
    rfl

theorem execFwdrep_call {slot group : Nat} {r : TrapRec} {m : Mask} {c : List Word} {val : Word} {y : Option Lease} {z : State} (ha : x.asker = none)
    (hf : x.from_ = some (slot, group, r.order)) (hg : s.svcGroup dest slot group = some (r, m, c)) (hsvc : svcAt s dest me r c = .give val y z)
    (h0 : r0 = val) (h1 : r1 = 0) (hfw : (z.shard dest).fwds = (s.shard dest).fwds)
    (hs : (z.dropMail me dest).sendAnswer me dest (message 6 xid [r0, r1]) = some u) :
    exec (.fwdrep me dest xid r0 r1) s = .next ((u.modShard dest (·.notSent xid)).svcGive dest slot r m val) := by
  have hans : (z.dropMail me dest).answerFwd xid [r0, r1] 16 me dest = some (u.modShard dest (·.notSent xid)) :=
    answerFwd_direct (by rw [show ((z.dropMail me dest).shard dest).fwds = (s.shard dest).fwds from hfw, hx]; exact hvia) hs
  have hroot : s.fwdRoot xid 16 dest = some (dest, slot, group, r.order) := by
    rw [State.fwdRoot, hx]
    obtain ⟨xid', peer', from', asker', via'⟩ := x
    obtain rfl : from' = some (slot, group, r.order) := hf
    rfl
  change execFwdrep me dest xid r0 r1 s = _
  rw [execFwdrep, hm]
  dsimp only
  rw [hx, Option.bind_some, ha]
  dsimp only
  rw [hroot]
  dsimp only
  rw [hg]
  dsimp only
  refine congrArg Host.Outcome.next ((if_neg ?_).trans ((if_neg (not_not_intro rfl)).trans ?_))
  · rintro (h | h)
    · exact h hty
    · exact h hxid
  · rw [hsvc]
    refine (if_pos ⟨h0, h1⟩).trans ?_
    rw [hans]

end fwdrep

/-! ## Updates and migrations (R443, R466) -/

theorem execUpd_eq {b o : Nat} (hu : s.update = none) (hr : s.running.getLsbD 0 = true)
    (ha : ∀ i ∈ s.runningShards, s.accepts i = true ∧ (s.cl i).mailUsed 0 < 16) : exec (.upd b o) s =
      .next { s.runningShards.foldl (fun (s' : State) i => s'.putMail 0 i (message 7 (BitVec.ofNat 16 ((s.shard 0).ver + 1))
        (updWords ((s.shard 0).ver + 1) (b % 16) (o % 16)))) s with update := some ((s.shard 0).ver + 1, b % 16, o % 16, s.runningShards) } := by
  change execUpd b o s = _
  refine congrArg Host.Outcome.next (if_neg ?_)
  rw [hu, hr]
  rintro (h | h | h)
  · cases h
  · cases h
  · obtain ⟨i, hi, h⟩ := List.any_eq_true.1 h
    obtain ⟨hacc, hroom⟩ := ha i hi
    rw [hacc, decide_eq_false (by omega)] at h
    cases h

theorem execUpdack_eq {ver b o : Nat} {left : List Nat} (hu : s.update = some (ver, b, o, left))
    (ht : s.takeMsg me 0 7 (BitVec.ofNat 16 ver) (BitVec.ofNat 32 ver) = some (ws, u))
    (hs : u.sendAnswer me 0 (message 8 (BitVec.ofNat 16 ver) (updWords ver b o)) = some v) {w : State}
    (hw : (v.modShard me fun k => { Shard.apply k b o with ver := ver }) = w) {rest : List Nat}
    (hrest : (left.filter fun i => i != me && w.running.getLsbD i) = rest) : exec (.updack me) s =
      .next { w with update := if rest.isEmpty then none else some (ver, b, o, rest) } := by
  change execUpdack me s = _
  rw [execUpdack, hu]
  dsimp only
  rw [ht]
  dsimp only
  rw [hs]
  dsimp only
  rw [hw, hrest]

theorem execMigrate_eq {obj : DWord}
    (hs : s.sendAnswer me dest (message 9 0 ([loOf obj, hiOf obj] ++ (List.range 13).map fun i => Config.freeWord (s.fresh + i))) = some u) :
    exec (.migrate me dest obj) s = .next ((({ u with fresh := u.fresh + 13 } : State).modShard me fun k =>
      { k with objs := k.objs.filter (· != obj.toNat) }).modShard dest fun k => { k with objs := k.objs ++ [obj.toNat] }) := by
  change execMigrate me dest obj s = _
  rw [execMigrate, State.migrate]
  dsimp only
  rw [hs]

end

/-- Settles O56: each message by the branch that its hypotheses choose; a FWD that no other shard sent on is answered at once
(`answerFwd_direct`). -/
theorem shardMessages : Obligations.ShardMessages := by
  intro s me dest b o xid handle len r0 r1 off obj call k h notAsked notSent
  refine ⟨fun u ho hne hc hs => execExtreq_eq ho hne hc hs, fun ws u v ho ht hs => ⟨fun x hx => ?_, fun hx => ?_⟩,
    fun hf => ⟨extentFor_of_closed hf, rfl⟩, fun f x hf hx h1 h2 hn he => ⟨extentFor_inside hf hx h1 h2 hn he, ?_⟩,
    fun u ho hs => execExtinv_eq ho hs, fun ws u v ht h1 h2 hs => execExtack_eq ht h1 h2 hs, fun f u hf hs => execFwd_own hf hs,
    fun g u hf he hs => execFwd_asked hf hs he, fun g u hf he hon hs => execFwd_sentOn hf hs he hon,
    fun ws x hm hty hxid hx hvia => ⟨fun g u v ha ho h1 h0 hs hg => execFwdrep_extent hm hty hxid hx hvia ha ho h1 h0 hs hg,
      fun slot group r m c v y z u ha hf hg hsvc h0 h1 hfw hs => execFwdrep_call hm hty hxid hx hvia ha hf hg hsvc h0 h1 hfw hs⟩,
    fun hu hr ha => execUpd_eq hu hr ha, fun ver left ws u v hu ht hs => execUpdack_eq hu ht hs rfl rfl, fun u hs => execMigrate_eq hs⟩
  · refine (execExtrep_eq ho ht).trans ?_
    rw [giveExtent_some rfl hs hx]
    rfl
  · refine (execExtrep_eq ho ht).trans ?_
    rw [giveExtent_none rfl hs hx]
    rfl
  · rw [extentFor_inside hf hx h1 h2 hn he, extrepWords, Nat.mul_div_cancel _ (by decide)]

end Sys2Proof.Machine

namespace Sys2Proof.Machine

section
variable {s u : State} {cl slot group : Nat} {r : TrapRec} {m : Mask} {ws : List Word}

/-! ## Serving a group once (R451, R452) -/

section op
variable (hg : s.svcGroup cl slot group = some (r, m, ws)) (hs : (s.shard cl).sentOn slot group r = false)
  (hd : (s.shard cl).served slot group r = none) {call : Nat}
include hg hs hd

theorem svcOp_give {body : TrapRec → List Word → SvcRes} {v : Word} (hc : (ws.getD 0 0).toNat = call) (hb : body r ws = .give v none u) :
    svcOp s cl slot group call body = u.svcGive cl slot r m v := by
  rw [svcOp, hg]
  dsimp only
  rw [hd]
  refine (if_neg (by rw [hs]; nofun)).trans ((if_pos hc).trans ?_)
  rw [hb]

theorem svcOp_later {body : TrapRec → List Word → SvcRes} (hc : (ws.getD 0 0).toNat = call) (hb : body r ws = .later u) :
    svcOp s cl slot group call body = u := by
  rw [svcOp, hg]
  dsimp only
  rw [hd]
  refine (if_neg (by rw [hs]; nofun)).trans ((if_pos hc).trans ?_)
  rw [hb]

theorem svcOp_giveAt {body : TrapRec → List Word → SvcRes} {v : Word} {t : Lease} (hc : (ws.getD 0 0).toNat = call)
    (hb : body r ws = .give v (some t) u) : svcOp s cl slot group call body =
      u.modShard cl fun k => { k with svc := k.svc ++ [{ slot, group, order := r.order, vis := t, res := v }] } := by
  rw [svcOp, hg]
  dsimp only
  rw [hd]
  refine (if_neg (by rw [hs]; nofun)).trans ((if_pos hc).trans ?_)
  rw [hb]

/-- R451: a call that does not exist is refused, whichever call is tried. -/
theorem svcOp_unknown {body : TrapRec → List Word → SvcRes} (hc : svcCalls.contains (ws.getD 0 0).toNat = false) (hcall : svcCalls.contains call = true) :
    svcOp s cl slot group call body = s.svcGive cl slot r m (errWord 38) := by
  rw [svcOp, hg]
  dsimp only
  rw [hd]
  refine (if_neg (by rw [hs]; nofun)).trans ((if_neg fun h => ?_).trans (if_neg (by rw [hc]; nofun)))
  rw [h, hcall] at hc
  cases hc

end op

/-! ## `open` and `close` (R442, R451) -/

theorem svcOpenAt_noSlot {at_ : Nat} (h : s.slotIndex r.core (callArg ws 0 % 64) = none) : svcOpenAt s cl at_ r ws = .give (errWord 14) none s := by
  rw [svcOpenAt, h]

theorem svcOpenAt_ok {at_ bti : Nat} {path : List Byte} {f : FileObj} (h : s.slotIndex r.core (callArg ws 0 % 64) = some bti)
    (hp : s.readPath cl r.part bti (callArg ws 1) 4096 = (.ok path, u)) (hf : (u.files.find? fun f => f.path == path) = some f)
    (ho : (u.shard at_).owner f.id = at_) : svcOpenAt s cl at_ r ws = .give (BitVec.ofNat 32 (f.id % 2 ^ 32)) none
      { u with handles := insK u.handles (f.id % 2 ^ 32) { file := f.id, part := r.part, write := (callArg ws 2).testBit 0 } } := by
  rw [svcOpenAt, h]
  dsimp only
  rw [hp]
  dsimp only
  rw [hf]
  exact if_neg (not_not_intro ho)

section close
variable {at_ : Nat} (ho : (s.shard at_).owner (callArg ws 0) = at_)
include ho

theorem svcCloseAt_ok {x : Handle} (h : findK s.handles (callArg ws 0) = some x) :
    svcCloseAt s at_ ws = .give 0 none { s with handles := delK s.handles (callArg ws 0) } := by
  refine (if_neg (not_not_intro ho)).trans ?_
  rw [h]

theorem svcCloseAt_bad (h : findK s.handles (callArg ws 0) = none) : svcCloseAt s at_ ws = .give (errWord 9) none s := by
  refine (if_neg (not_not_intro ho)).trans ?_
  rw [h]

end close

/-! ## `write` (R442, R451, R453) -/

section write
variable {at_ : Nat} (ho : (s.shard at_).owner (callArg ws 0) = at_)
include ho

theorem svcWriteAt_bad (h : findK s.handles (callArg ws 0) = none) : svcWriteAt s cl at_ r ws = .give (errWord 9) none s := by
  refine (if_neg (not_not_intro ho)).trans ?_
  rw [h]

/-- R453: the file that a write leaves: its bytes, and where its extents change a new one. -/
def FileObj.written (f : FileObj) (off len : Nat) (gap bs : List Byte) (d lba : Nat) : FileObj :=
  let lo := off / 512 * 512
  let new : FileObj := { f with data := (f.data ++ gap).take off ++ bs ++ f.data.drop (off + len) }
  if f.grows off len then
    { new with ver := f.ver + 1
               exts := (f.exts.filter fun e => e.foff + e.len ≤ lo || decide (off + len ≤ e.foff)) ++
                 [{ foff := lo, len := (off + len - lo + 511) / 512 * 512, drive := d % 2, lba, ver := f.ver + 1 }] } else new

theorem svcWriteAt_ok {x : Handle} {f : FileObj} {segs : List (Place × Nat)} {off len : Nat} (hoff : callArg ws 1 + 2 ^ 32 * callArg ws 2 = off)
    (hlen : callArg ws 3 = len) (hx : findK s.handles (callArg ws 0) = some x) (hf : s.handleFile (callArg ws 0) = some f) (h0 : 0 < len)
    (hmax : len ≤ 1048576) (hw : x.write = true) (hi : f.grows off len = true → s.invalidated at_ (callArg ws 0) = true)
    (hp : s.svcPlace cl r ws rREAD len = (some (.inl segs), u)) (hgone : u.driveGone f.exts off len = false)
    (hfree : ∀ p ∈ segs.flatMap (fun p => blocksOf p.1 p.2), u.eHeld p.1 = false ∧ u.homeDown p.1 p.2 = none)
    {b gap : List Byte × State} {dr lba : Nat × State} (hb : u.svcReadBlocks (segs.flatMap fun p => blocksOf p.1 p.2) = b)
    (hgap : b.2.openBytes (off - f.data.length) = gap) (hdr : gap.2.openNat = dr) (hlba : dr.2.openNat = lba)
    {new : FileObj} (hnew : f.written off len gap.1 b.1 dr.1 lba.1 = new) {w : State}
    (hwr : ((lba.2.drive at_ 1 new.exts off len segs).modShard at_ fun k => { k with inval := k.inval.filter fun p => p.1 != callArg ws 0 }) = w) :
    svcWriteAt s cl at_ r ws = .give (BitVec.ofNat 32 len) none { w with files := w.files.map fun g => if g.id = f.id then new else g } := by
  subst hb hgap hdr hlba hnew hwr
  refine (if_neg (not_not_intro ho)).trans ?_
  dsimp only
  rw [hx, hf, hoff, hlen]
  dsimp only
  refine (if_neg (by omega)).trans ((if_neg (by rw [hw]; nofun)).trans ((if_neg ?_).trans ?_))
  · rintro ⟨h, hn⟩
    rw [hi h] at hn
    cases hn
  · rw [hp]
    dsimp only
    refine (if_neg (by rw [hgone]; nofun)).trans ((if_neg ?_).trans ((if_neg ?_).trans rfl))
    · intro h
      obtain ⟨p, hp, h⟩ := List.any_eq_true.1 h
      rw [(hfree p hp).1] at h
      cases h
    · intro h
      obtain ⟨p, hp, h⟩ := List.any_eq_true.1 h
      rw [(hfree p hp).2] at h
      cases h

end write

/-! ## `read` (R442, R451 to R453) -/

theorem insK_insK {α : Type} (m : Sparse α) (k : Nat) (a b : α) : insK (insK m k a) k b = insK m k b := by
  induction m with
  | nil => simp [insK]
  | cons p m ih =>
    obtain ⟨j, x⟩ := p
    simp only [insK]
    split
    · simp [insK]
    · split
      · simp [insK]
      · rename_i h1 h2
        simp [insK, h1, h2, ih]

theorem modShard_modShard (s : State) (c : Nat) (f g : Shard → Shard) : (s.modShard c f).modShard c g = s.modShard c fun k => g (f k) := by
  have h : (s.modShard c f).shard c = f (s.shard c) := by simp [State.modShard, State.shard]
  rw [State.modShard, h, State.modShard]
  simp only [insK_insK, State.modShard]

section read
variable (hg : s.svcGroup cl slot group = some (r, m, ws)) (hs : (s.shard cl).sentOn slot group r = false)
  (hd : (s.shard cl).served slot group r = none) (hc : (ws.getD 0 0).toNat = 0x12)
include hg hs hd hc

theorem execSvcRead_closed (ho : (s.shard cl).owner (callArg ws 0) = cl) (hf : s.handleFile (callArg ws 0) = none) :
    exec (.svcRead cl slot group) s = .next (s.svcGive cl slot r m (errWord 9)) := by
  have hr : s.readFile cl (callArg ws 0) = none := (if_pos (beq_iff_eq.2 ho)).trans hf
  change execSvcRead cl slot group s = _
  refine congrArg Host.Outcome.next (svcOp_give hg hs hd hc ?_)
  dsimp only
  rw [hr]
  exact if_pos ho

variable {f : FileObj} (hf : s.readFile cl (callArg ws 0) = some f)
include hf

theorem execSvcRead_length (hl : callArg ws 3 = 0 ∨ 1048576 < callArg ws 3) :
    exec (.svcRead cl slot group) s = .next (s.svcGive cl slot r m (errWord 22)) := by
  change execSvcRead cl slot group s = _
  refine congrArg Host.Outcome.next (svcOp_give hg hs hd hc ?_)
  dsimp only
  rw [hf]
  exact if_pos hl

variable {off len : Nat} (hoff : callArg ws 1 + 2 ^ 32 * callArg ws 2 = off) (hlen : callArg ws 3 = len) (h0 : 0 < len) (hmax : len ≤ 1048576)
  (he : s.hasExtents cl (callArg ws 0) off len = true) {segs : List (Place × Nat)} (hp : s.svcPlace cl r ws rWRITE len = (some (.inl segs), u))
include hoff hlen h0 hmax he hp

theorem execSvcRead_fetches
    (hheld : ((u.shard cl).bufs.find? fun p => p.slot == slot && p.group == group && p.order == r.order) = none)
    (hgone : u.driveGone (u.extentsOf cl (callArg ws 0)) off len = false)
    (hfree : ∀ p ∈ firstBlocks segs (Nat.min len (f.data.length - off)), u.eHeld p.1 = false ∧ u.writeCause p.1 p.2 (p.2 == 64) = none) :
    exec (.svcRead cl slot group) s =
      .next (u.svcFetch cl f (u.extentsOf cl (callArg ws 0)) off (svcDirect ws) segs slot group r.order) := by
  change execSvcRead cl slot group s = _
  refine congrArg Host.Outcome.next (svcOp_later hg hs hd hc ?_)
  dsimp only
  rw [hf, hoff, hlen]
  dsimp only
  refine (if_neg (by omega)).trans ((if_neg (by rw [he]; nofun)).trans ?_)
  rw [hp]
  dsimp only
  rw [hheld]
  refine (if_neg ?_).trans ((if_neg fun h => ?_).trans ((if_neg fun h => ?_).trans rfl))
  · rw [hgone]
    rintro ⟨-, h⟩
    cases h
  · obtain ⟨p, hp, h⟩ := List.any_eq_true.1 h
    rw [(hfree p hp).1] at h
    cases h
  · obtain ⟨p, hp, h⟩ := List.any_eq_true.1 h
    rw [(hfree p hp).2] at h
    cases h

theorem execSvcRead_moves {b : SvcBuf}
    (hheld : ((u.shard cl).bufs.find? fun p => p.slot == slot && p.group == group && p.order == r.order) = some b)
    (hfree : ∀ p ∈ firstBlocks segs b.n, u.eHeld p.1 = false ∧ u.writeCause p.1 p.2 (p.2 == 64) = none)
    (hat : ∀ a, b.at_ = some a → u.regionHeld a = false ∧ u.readCause (.sram a) b.n = none)
    (hside : ∀ a, b.side = some a → u.regionHeld a = false ∧ u.readCause (.sram a) (2 * ((off + b.n + 63) / 64)) = none)
    {x : Lease × State} (hx : u.svcMove b off segs = x) : exec (.svcRead cl slot group) s = .next (x.2.modShard cl fun k =>
      { k with
        bufs := k.bufs.filter fun p => !(p.slot == slot && p.group == group)
        svc := k.svc ++ [{ slot, group, order := r.order, vis := x.1, res := BitVec.ofNat 32 b.n }] }) := by
  subst hx
  change execSvcRead cl slot group s = _
  refine congrArg Host.Outcome.next ((svcOp_giveAt hg hs hd hc (v := BitVec.ofNat 32 b.n) (t := (u.svcMove b off segs).1) (u := (u.svcMove b off segs).2.modShard cl
    fun k => { k with bufs := k.bufs.filter fun p => !(p.slot == slot && p.group == group) }) ?_).trans (modShard_modShard _ _ _ _))
  dsimp only
  rw [hf, hoff, hlen]
  dsimp only
  refine (if_neg (by omega)).trans ((if_neg (by rw [he]; nofun)).trans ?_)
  rw [hp]
  dsimp only
  rw [hheld]
  refine (if_neg ?_).trans ((if_neg fun h => ?_).trans ((if_neg fun h => ?_).trans ((if_neg fun h => ?_).trans ((if_neg ?_).trans rfl))))
  · rintro ⟨h, -⟩
    cases h
  · obtain ⟨p, hp, h⟩ := List.any_eq_true.1 h
    rw [(hfree p hp).1] at h
    cases h
  · obtain ⟨p, hp, h⟩ := List.any_eq_true.1 h
    rw [(hfree p hp).2] at h
    cases h
  · obtain ⟨a, ha, h⟩ := List.any_eq_true.1 h
    obtain ⟨o, ho, ha⟩ := List.mem_filterMap.1 ha
    rcases List.mem_cons.1 ho with rfl | ho
    · rw [(hat a ha).1] at h
      cases h
    · obtain rfl := List.mem_singleton.1 ho
      rw [(hside a ha).1] at h
      cases h
  · rintro (h | h)
    · obtain ⟨a, ha, h⟩ := (Option.any_eq_true _ _).1 h
      rw [(hat a ha).2] at h
      cases h
    · obtain ⟨a, ha, h⟩ := (Option.any_eq_true _ _).1 h
      rw [(hside a ha).2] at h
      cases h

end read

/-! ## `pmap` and `punmap` (R410, R442, R451) -/

section pages
variable {at_ bti : Nat} {pages : List Nat}

theorem svcPmapAt_bad {e : Word} (hp : s.svcPages r ws = .inr e) : svcPmapAt s at_ r ws = .give e none s := by
  rw [svcPmapAt, hp]

theorem svcPunmapAt_bad {e : Word} (hp : s.svcPages r ws = .inr e) : svcPunmapAt s at_ r ws = .give e none s := by
  rw [svcPunmapAt, hp]

variable (hp : s.svcPages r ws = .inl (bti, pages)) (ho : (s.shard at_).owner (bufferId bti) = at_)
include hp ho

theorem svcPmapAt_ok (hm : s.mapPages at_ bti pages = (.ok (), u)) : svcPmapAt s at_ r ws = .give 0 none (u.dropPages bti pages) := by
  rw [svcPmapAt, hp]
  refine (if_neg (not_not_intro ho)).trans ?_
  rw [hm]

theorem svcPmapAt_fails {e : Nat} (hm : s.mapPages at_ bti pages = (.bad e, u)) :
    svcPmapAt s at_ r ws = .give (errWord e) none (u.dropPages bti pages) := by
  rw [svcPmapAt, hp]
  refine (if_neg (not_not_intro ho)).trans ?_
  rw [hm]

theorem svcPunmapAt_ok (hm : s.unmapPages bti pages = (.ok (), u)) : svcPunmapAt s at_ r ws = .give 0 none (u.dropPages bti pages) := by
  rw [svcPunmapAt, hp]
  refine (if_neg (not_not_intro ho)).trans ?_
  rw [hm]

theorem svcPunmapAt_fails {e : Nat} (hm : s.unmapPages bti pages = (.bad e, u)) :
    svcPunmapAt s at_ r ws = .give (errWord e) none (u.dropPages bti pages) := by
  rw [svcPunmapAt, hp]
  refine (if_neg (not_not_intro ho)).trans ?_
  rw [hm]

end pages

/-! ## The drives (R456, R457) -/

section drive
variable {port : Nat} {addr : DWord} {data : List Byte} (hw : s.portWaits port = false)
include hw

theorem execDriveInboundWrite_mem {p : Place} (hb : s.busAddr addr data.length = .mem p)
    (hh : ∀ b ∈ blocksOf p data.length, s.eHeld b.1 = false) {w : Lease × State} (hd : s.driveBlocks (blocksOf p data.length) data s.lease = w) :
    exec (.driveInboundWrite port addr data) s = .next { w.2 with pcieVis := insK w.2.pcieVis port w.1 } := by
  change execDriveInboundWrite port addr data s = _
  refine congrArg Host.Outcome.next ((if_neg (by rw [hw]; nofun)).trans ?_)
  rw [hb]
  dsimp only
  refine (if_neg fun h => ?_).trans ?_
  · obtain ⟨p, hp, h⟩ := List.any_eq_true.1 h
    rw [hh p hp] at h
    cases h
  · rw [hd]

theorem execDriveInboundWrite_refused (hb : s.busAddr addr data.length = .refused) :
    exec (.driveInboundWrite port addr data) s = .next (s.driveEvent 2 none) := by
  change execDriveInboundWrite port addr data s = _
  refine congrArg Host.Outcome.next ((if_neg (by rw [hw]; nofun)).trans ?_)
  rw [hb]

theorem execDriveInboundWrite_msix (hb : s.busAddr addr data.length = .msix) (hl : data.length = 4) :
    exec (.driveInboundWrite port addr data) s = .next (msixEvent s port (BitVec.ofNat 32 (natOfBytes data))) := by
  change execDriveInboundWrite port addr data s = _
  refine congrArg Host.Outcome.next ((if_neg (by rw [hw]; nofun)).trans ?_)
  rw [hb]
  exact if_pos hl

theorem execMsixMessage_eq {d : Word} : exec (.msixMessage port d) s = .next (msixEvent s port d) := by
  change execMsixMessage port d s = _
  exact congrArg Host.Outcome.next (if_neg (by rw [hw]; nofun))

end drive

theorem execUnsupportedRequest_eq {port : Nat} {addr : DWord} (h : s.busAddr addr 1 = .refused) :
    exec (.unsupportedRequest port addr) s = .next (s.driveEvent 2 none) := by
  change execUnsupportedRequest port addr s = _
  rw [execUnsupportedRequest, h]

theorem execDriveInboundRead_eq {port n : Nat} {addr : DWord} {p : Place} (h : s.busAddr addr n = .mem p) (hh : s.heldSpan p n = false)
    (hd : s.homeDown p n = none) : exec (.driveInboundRead port addr n) s = .next (s.touchSpan p n none) := by
  change execDriveInboundRead port addr n s = _
  rw [execDriveInboundRead, h]
  exact congrArg Host.Outcome.next ((if_neg (by rw [hh]; nofun)).trans (if_neg (by rw [hd]; nofun)))

end

/-- Settles O57: what each call gives, at the shard that owns its object, reaches the group through `svcOp_give`, `svcOp_later` or
`svcOp_giveAt`; the drives' accesses go by what their bus address names. -/
theorem serviceEvents : Obligations.ServiceEvents := by
  intro s cl slot group port addr data d r m ws call h len off mine give
  refine ⟨fun hg hs hd => ⟨fun hc => congrArg Host.Outcome.next (svcOp_unknown hg hs hd hc (by decide)),
      fun hc hn => congrArg Host.Outcome.next (svcOp_give hg hs hd hc (svcOpenAt_noSlot hn)),
      fun bti path u f hc hn hp hf ho => congrArg Host.Outcome.next (svcOp_give hg hs hd hc (svcOpenAt_ok hn hp hf ho)),
      fun x hc ho hx => congrArg Host.Outcome.next (svcOp_give hg hs hd hc (svcCloseAt_ok ho hx)),
      fun hc ho hx => congrArg Host.Outcome.next (svcOp_give hg hs hd hc (svcCloseAt_bad ho hx)),
      fun hc ho hf => execSvcRead_closed hg hs hd hc ho hf, fun f hc hf hl => execSvcRead_length hg hs hd hc hf hl,
      fun f segs u hc hf h0 hmax he hp => ⟨fun hheld hgone hfree => execSvcRead_fetches hg hs hd hc hf rfl rfl h0 hmax he hp hheld hgone hfree,
        fun b hheld hfree hat hside => execSvcRead_moves hg hs hd hc hf rfl rfl h0 hmax he hp hheld hfree hat hside rfl⟩,
      fun hc ho hx => congrArg Host.Outcome.next (svcOp_give hg hs hd hc (svcWriteAt_bad ho hx)),
      fun x f segs u hc ho hx hf h0 hmax hw hi hp hgone hfree => congrArg Host.Outcome.next (svcOp_give hg hs hd hc
        (svcWriteAt_ok ho rfl rfl hx hf h0 hmax hw hi hp hgone hfree rfl rfl rfl rfl rfl rfl)),
      fun bti pages _ hp ho => ⟨fun u hc hm => congrArg Host.Outcome.next (svcOp_give hg hs hd hc (svcPmapAt_ok hp ho hm)),
        fun e u hc hm => congrArg Host.Outcome.next (svcOp_give hg hs hd hc (svcPmapAt_fails hp ho hm)),
        fun u hc hm => congrArg Host.Outcome.next (svcOp_give hg hs hd hc (svcPunmapAt_ok hp ho hm)),
        fun e u hc hm => congrArg Host.Outcome.next (svcOp_give hg hs hd hc (svcPunmapAt_fails hp ho hm))⟩,
      fun e hp => ⟨fun hc => congrArg Host.Outcome.next (svcOp_give hg hs hd hc (svcPmapAt_bad hp)),
        fun hc => congrArg Host.Outcome.next (svcOp_give hg hs hd hc (svcPunmapAt_bad hp))⟩⟩,
    fun hw => ⟨fun p hb hh => execDriveInboundWrite_mem hw hb hh rfl, fun hb => execDriveInboundWrite_refused hw hb,
      fun hb hl => execDriveInboundWrite_msix hw hb hl, execMsixMessage_eq hw⟩,
    fun h => execUnsupportedRequest_eq h, fun p h hh hd => execDriveInboundRead_eq h hh hd⟩

end Sys2Proof.Machine

namespace Sys2Proof.Machine

section
variable {s u : State} {cl : Nat}

/-! ## Reset (R459, R463) -/

theorem dwBit_beginWarm (retain : Bool) : dwBit ((s.beginWarm retain).cr 16 nRSTCTL) 1 = retain := by
  have h : (s.beginWarm retain).cr 16 nRSTCTL = dwSet (s.cr 16 nRSTCTL) 1 1 (if retain then 1 else 0) := by
    unfold State.beginWarm
    extract_lets u
    have hu : u.cr 16 nRSTCTL = dwSet (s.cr 16 nRSTCTL) 1 1 (if retain then 1 else 0) := cr_modCr_same _ _ _ _
    split
    · exact hu
    · exact hu
  rw [h, dwBit_dwSet _ _ (by omega) (by omega), if_pos (by omega)]
  cases retain <;> rfl

theorem beginWarm_of_run (retain : Bool) (h : s.warm = .run) :
    s.beginWarm retain = { s.modCr 16 nRSTCTL fun v => dwSet v 1 1 (if retain then 1 else 0) with warm := .quiesce } := if_pos h

/-- R463: what a warm reset leaves of the cores. -/
theorem wave_of_mapped {cores : List (Nat × Core)} (h : u.cores = cores.filterMap fun p =>
    if p.2.mapped.isEmpty then none else some (p.1, { mapped := p.2.mapped })) (c t : Nat) : (u.wave c t).live = false := by
  have hw : ∀ l : List (Nat × Core), (getK ({} : Core) (l.filterMap fun p => if p.2.mapped.isEmpty then none else some (p.1, { mapped := p.2.mapped })) c).waves = [] := by
    intro l
    induction l with
    | nil => rfl
    | cons p l ih =>
      rw [List.filterMap_cons]
      split
      · exact ih
      next q hq =>
        split at hq
        · cases hq
        · obtain rfl := Option.some.inj hq
          rw [getK]
          split
          · rfl
          · exact ih
  have hc : (u.core c).waves = [] := by
    rw [State.core, h]
    exact hw cores
  rw [State.wave, Core.wave, hc]
  rfl

/-- R463: the stacks that fail to train become UNAVAILABLE. -/
def State.untrained (s : State) (failed : BitVec 8) (l : List Nat) : State :=
  l.foldl (fun (s : State) k => if failed.getLsbD k then s.modCr 16 (nSTKSTAT k) fun v => dwSet v 25 25 1 else s) s

theorem stkUnavail_modCr_other {j k : Nat} (hj : j < 8) (hk : k < 8) (hne : j ≠ k) (f : DWord → DWord) :
    (s.modCr 16 (nSTKSTAT j) f).stkUnavail k = s.stkUnavail k := by
  rw [State.stkUnavail, State.cr, State.modCr, State.setCr, crT_setCrT_other _ _ _ _ _ _ (by simp only [nSTKSTAT, crNum]; omega)]
  rfl

theorem stkUnavail_modCr_same {k : Nat} : (s.modCr 16 (nSTKSTAT k) fun v => dwSet v 25 25 1).stkUnavail k = true := by
  rw [State.stkUnavail, cr_modCr_same, dwBit_dwSet _ _ (by omega) (by omega), if_pos (by omega)]
  rfl

theorem stkUnavail_untrained (failed : BitVec 8) {l : List Nat} (hl : ∀ j ∈ l, j < 8) {k : Nat} (hk : k < 8) :
    (s.untrained failed l).stkUnavail k = ((decide (k ∈ l) && failed.getLsbD k) || s.stkUnavail k) := by
  induction l generalizing s with
  | nil => simp [State.untrained]
  | cons j l ih =>
    have hrest : ∀ v : State, (v.untrained failed l).stkUnavail k = ((decide (k ∈ l) && failed.getLsbD k) || v.stkUnavail k) :=
      fun v => ih (s := v) fun i hi => hl i (List.mem_cons_of_mem _ hi)
    rw [State.untrained, List.foldl_cons]
    refine (hrest _).trans ?_
    by_cases hf : failed.getLsbD j = true
    · rw [if_pos hf]
      by_cases hjk : j = k
      · subst hjk
        rw [stkUnavail_modCr_same]
        simp [hf]
      · rw [stkUnavail_modCr_other (hl j List.mem_cons_self) hk hjk]
        simp [Ne.symm hjk]
    · rw [if_neg hf]
      by_cases hjk : j = k
      · subst hjk
        simp [hf]
      · simp [Ne.symm hjk]

theorem memory_untrained (failed : BitVec 8) (l : List Nat) : SameMemory s (s.untrained failed l) := by
  induction l generalizing s with
  | nil => exact .of_eq rfl rfl rfl rfl
  | cons j l ih =>
    rw [State.untrained, List.foldl_cons]
    refine SameMemory.trans ?_ ih
    split <;> exact .of_eq rfl rfl rfl rfl

theorem execWarmResetRetrained_eq {failed : BitVec 8} (h : s.warm = .retrain) :
    exec (.warmResetRetrained failed) s = .next { s.untrained failed (List.range 8) with warm := .check } := by
  change execWarmResetRetrained failed s = _
  exact congrArg Host.Outcome.next (if_neg (not_not_intro h))

theorem execWarmResetChecked_eq (h : s.warm = .check) : exec .warmResetChecked s =
    .next ({ (if dwBit (s.cr 16 nRSTCTL) 1 then s else { s with hbm := [], hbmTag := [], badHbm := [], softHbm := [] }) with
      warm := .run, remap := s.hub } : State).bootSequence := by
  change execWarmResetChecked s = _
  refine congrArg Host.Outcome.next ((if_neg (not_not_intro h)).trans ?_)
  split <;> rfl

/-! ## Self-test (R464) -/

section test
variable {target : BitVec 40}

/-- A test of the kind and target runs. -/
theorem testing_goes {k : Nat} (h : s.testing cl k target = true) {a b : State} : (if !s.testing cl k target then a else b) = b :=
  if_neg (by rw [h]; nofun)

theorem execSelfTestHbmRow_pass (h : s.testing cl 0 target = true) : exec (.selfTestHbmRow cl target true) s =
    .next ((s.openNat.2.modBank (bankOfWord (bitsN target.toNat 14 0)) fun k =>
      { k with block := some (s.openNat.2.lease + BitVec.ofNat 48 (s.openNat.1 % 20001)) }).testEnds 0 false 8) := by
  change execSelfTestHbmRow cl target true s = _
  exact congrArg Host.Outcome.next ((testing_goes h).trans (if_pos rfl))

section core
variable (h : s.testing cl 1 target = true)
include h

theorem execSelfTestCore_idle (hi : ∀ w ∈ (s.core (bitsN target.toNat 10 0)).waves, w.2.alive = 0) (pass : Bool) :
    exec (.selfTestCore cl target pass) s = .next (if pass then s.testEnds 0 false 8 else s.testEnds 1 false 9) := by
  change execSelfTestCore cl target pass s = _
  refine congrArg Host.Outcome.next ((testing_goes h).trans (if_neg fun ha => ?_))
  obtain ⟨w, hw, ha⟩ := List.any_eq_true.1 ha
  exact bne_iff_ne.1 ha (hi w hw)

theorem execSelfTestCore_busy {w : Nat × Wave} (hw : w ∈ (s.core (bitsN target.toNat 10 0)).waves) (ha : w.2.alive ≠ 0) (pass : Bool) :
    exec (.selfTestCore cl target pass) s = .next (s.testEnds 2 false 0) := by
  change execSelfTestCore cl target pass s = _
  exact congrArg Host.Outcome.next ((testing_goes h).trans (if_pos (List.any_eq_true.2 ⟨w, hw, by simpa using ha⟩)))

end core

section bank
variable (h : s.testing cl 2 target = true)
include h

theorem execSelfTestAmemBank_busy (hb : (s.core (bitsN target.toNat 10 0)).bankIdle (bitsN target.toNat 14 11) = false) (pass : Bool) :
    exec (.selfTestAmemBank cl target pass) s = .next (s.testEnds 2 false 0) := by
  change execSelfTestAmemBank cl target pass s = _
  exact congrArg Host.Outcome.next ((testing_goes h).trans (if_pos (by rw [hb]; rfl)))

theorem execSelfTestAmemBank_idle (hb : (s.core (bitsN target.toNat 10 0)).bankIdle (bitsN target.toNat 14 11) = true) (pass : Bool) :
    exec (.selfTestAmemBank cl target pass) s = .next (if pass then
      (s.modCore (bitsN target.toNat 10 0) fun k => { k with toTest := k.toTest.filter (· != bitsN target.toNat 14 11) }).testEnds 0 false 8
    else (s.modCore (bitsN target.toNat 10 0) fun k => { k with
      toTest := k.toTest.filter (· != bitsN target.toNat 14 11), mapped := k.mapped ++ [bitsN target.toNat 14 11] }).testEnds 1 false 9) := by
  change execSelfTestAmemBank cl target pass s = _
  exact congrArg Host.Outcome.next ((testing_goes h).trans (if_neg (by rw [hb]; nofun)))

end bank

theorem execSelfTestCacheSet_eq (h : s.testing cl 3 target = true) (hu : (s.modCl (bitsN target.toNat 3 0) fun k =>
      (k.lines.filter fun p => Config.cacheSet p.1 % 1536 == bitsN target.toNat 14 4).foldl (fun k p => k.dropLine p.1) k) = u) (pass : Bool) :
    exec (.selfTestCacheSet cl target pass) s = .next (if pass then u.testEnds 0 false 8 else (u.modCl (bitsN target.toNat 3 0) fun k =>
      { k with waysOut := insK k.waysOut (bitsN target.toNat 14 4) (Nat.min 16 (getK 0 k.waysOut (bitsN target.toNat 14 4) + 1)) }).testEnds 1 false 9) := by
  subst hu
  change execSelfTestCacheSet cl target pass s = _
  exact congrArg Host.Outcome.next (testing_goes h)

theorem execSelfTestFabricLane_eq (h : s.testing cl 4 target = true) (pass : Bool) : exec (.selfTestFabricLane cl target pass) s =
    .next (if pass then s.testEnds 0 false 8 else
      (s.setWidth (bitsN target.toNat 2 0) (dwBits (s.cr 16 (nPORTSTAT (bitsN target.toNat 2 0))) 1 0 - 1)).testEnds 1 false 9) := by
  change execSelfTestFabricLane cl target pass s = _
  exact congrArg Host.Outcome.next (testing_goes h)

theorem execSelfTestSeraiSram_pass (h : s.testing cl 5 target = true) :
    exec (.selfTestSeraiSram cl target true) s = .next (s.testEnds 0 false 8) := by
  change execSelfTestSeraiSram cl target true s = _
  exact congrArg Host.Outcome.next ((testing_goes h).trans (if_pos rfl))

end test

theorem execSelfTestDone_eq {x : SelfTest} {r e : Nat} {m : Bool} (h : s.selfTest = some x) (hr : x.res = some (r, m, e))
    (hu : ({ s with selfTest := none } : State).setCr 16 nSTSTAT (BitVec.ofNat 64 (2 * r + if m then 8 else 0)) = u) : exec .selfTestDone s =
      .next (if e = 0 then u else u.raise x.cl 4 e [BitVec.ofNat 32 x.kind, x.target.extractLsb' 0 32, (x.target.extractLsb' 32 8).setWidth 32]) := by
  obtain ⟨cl, kind, target, res⟩ := x
  obtain rfl : res = some (r, m, e) := hr
  subst hu
  change execSelfTestDone s = _
  rw [execSelfTestDone, h]

/-! ## Repair (R465) -/

section repairCore
variable {core : Nat} (hr : s.repair = some (0, core))
include hr

/-- R465: a core is idle, to be replaced. -/
def Core.repairable (k : Core) : Prop := (∀ w ∈ k.waves, w.2.alive = 0) ∧ k.copyTrk = [] ∧ k.spawns = [] ∧ k.ways = []

omit hr in
theorem repairable_iff (k : Core) : ¬k.repairable ↔
    ((k.waves.any fun w => w.2.alive != 0) = true ∨ (!k.copyTrk.isEmpty) = true ∨ (!k.spawns.isEmpty) = true ∨ (!k.ways.isEmpty) = true) := by
  simp only [Core.repairable, List.any_eq_true, bne_iff_ne, Bool.not_eq_true', List.isEmpty_eq_false_iff]
  constructor
  · intro h
    refine Classical.byContradiction fun hno => h ?_
    simpa only [not_or, not_exists, not_and, ne_eq, Classical.not_not] using hno
  · rintro (⟨w, hw, h⟩ | h | h | h) ⟨h1, h2, h3, h4⟩
    · exact h (h1 w hw)
    · exact h h2
    · exact h h3
    · exact h h4

theorem execRepairCoreToSpare_busy (hi : ¬(s.core core).repairable) : exec (.repairCoreToSpare core) s =
    .next ((s.repairEnds 2).modCr 16 nREPSTAT fun v => dwSet v 11 8 (4 - getK 0 s.spares (clusterOf core))) := by
  change execRepairCoreToSpare core s = _
  exact congrArg Host.Outcome.next ((if_neg (not_not_intro hr)).trans (if_pos ((repairable_iff _).1 hi)))

theorem execRepairCoreToSpare_noSpare (hi : (s.core core).repairable) (hu : 4 ≤ getK 0 s.spares (clusterOf core)) :
    exec (.repairCoreToSpare core) s = .next ((s.repairEnds 1).modCr 16 nREPSTAT fun v => dwSet v 11 8 0) := by
  change execRepairCoreToSpare core s = _
  exact congrArg Host.Outcome.next ((if_neg (not_not_intro hr)).trans
    ((if_neg fun h => (repairable_iff _).2 h hi).trans (if_pos hu)))

omit hr in
/-- R465: what a spare takes of the core that it replaces. -/
def Core.spare (k : Core) : Core :=
  { ports := k.ports, queues := k.queues, banks := k.banks, saved := k.saved, xrecs := k.xrecs, cyc := k.cyc, netTrk := k.netTrk
    waves := k.waves.map fun w => (w.1, { uid := w.2.uid, busy := w.2.busy, freed := w.2.freed }) }

omit hr in
/-- R465: a core has been replaced by a spare. -/
def State.spared (s : State) (core : Nat) : State :=
  ((s.modCore core Core.spare).setCr (clusterOf core) (nLERR (coreIndex core)) 0).setCr (clusterOf core) (nTHR (coreIndex core)) 0

theorem execRepairCoreToSpare_replaces (hi : (s.core core).repairable) (hu : getK 0 s.spares (clusterOf core) < 4) :
    exec (.repairCoreToSpare core) s = .next ((({ s.spared core with
      spares := insK (s.spared core).spares (clusterOf core) (getK 0 s.spares (clusterOf core) + 1)
      moved := insK (s.spared core).moved core (getK 0 (s.spared core).moved core + 1) } : State).repairEnds 0).modCr 16 nREPSTAT fun v =>
        dwSet v 11 8 (3 - getK 0 s.spares (clusterOf core))) := by
  change execRepairCoreToSpare core s = _
  exact congrArg Host.Outcome.next ((if_neg (not_not_intro hr)).trans
    ((if_neg fun h => (repairable_iff _).2 h hi).trans (if_neg (by omega))))

omit hr in
theorem core_spared : (s.spared core).core core = (s.core core).spare := core_modCore_same s core Core.spare

omit hr in
theorem live_spared (t : Nat) : (((s.spared core).core core).wave t).live = false := by
  rw [core_spared, Core.wave, Core.spare]
  generalize (s.core core).waves = l
  induction l with
  | nil => rfl
  | cons p l ih =>
    rw [List.map_cons, getK]
    split
    · rfl
    · exact ih

end repairCore

section repairStack
variable {n : Nat} (hr : s.repair = some (1, n))
include hr

theorem execRepairStackToService_eq (ok : Bool) : exec (.repairStackToService n ok) s =
    .next (if ok then ((s.modCr 16 (nSTKSTAT (n % 8)) fun v => dwSet v 25 24 0).loadRemap (n % 8)).repairEnds 0 else s.repairEnds 3) := by
  change execRepairStackToService n ok s = _
  exact congrArg Host.Outcome.next (if_neg (not_not_intro hr))

end repairStack

/-! ## Attestation (R462) -/

/-- A request whose step has come, and that is well formed, is served. -/
theorem attestOp_eq {off : BitVec 20} {op : Nat} (ha : s.attest = some (cl, off.toNat)) {req : List Byte}
    (hreq : s.rdSram (seraiAddr cl off.toNat) 64 = req) (ho : (req.getD 32 0).toNat = op) (hop : op ≤ 2)
    (hi : op = 1 → 4 ≤ (req.getD 33 0).toNat ∧ (req.getD 33 0).toNat ≤ 7) (body : List Byte → State) : attestOp s cl off op body = body req := by
  subst hreq
  refine (if_neg (not_not_intro ha)).trans ((if_neg ?_).trans (if_neg (not_not_intro ho)))
  rw [ho]
  rintro (h | ⟨h1, h⟩)
  · omega
  · have := hi h1
    omega

theorem ite_bool_not {α : Type} (b : Bool) (x y : α) : (if !b then x else y) = if b then y else x := by cases b <;> rfl

section attest
variable {off : BitVec 20} (ha : s.attest = some (cl, off.toNat)) {req : List Byte} (hreq : s.rdSram (seraiAddr cl off.toNat) 64 = req)
include ha hreq

theorem execAttestQuote_eq (ho : (req.getD 32 0).toNat = 0) {text : List Byte}
    (ht : req.take 32 ++ (List.range 8).flatMap s.measBytes ++ bytesOf 4 (dwBits (s.cr 16 nBOOTSTAT) 63 32) ++ List.replicate 28 0 = text) :
    exec (.attestQuote cl off) s = .next (if Config.identityUnsealed then (s.attestWrite cl off.toNat
      (text ++ (Config.sm2Sign Config.identityKey (bytesOf 32 (Config.sm3 text).toNat) ++ List.replicate 64 0).take 64)).attestEnds 0
        else s.attestEnds 2) := by
  subst ht
  change execAttestQuote cl off s = _
  exact congrArg Host.Outcome.next ((attestOp_eq ha hreq ho (by decide) nofun _).trans (ite_bool_not _ _ _))

theorem execAttestExtend_eq (ho : (req.getD 32 0).toNat = 1) {i : Nat} (hi : (req.getD 33 0).toNat = i) (h4 : 4 ≤ i) (h7 : i ≤ 7) :
    exec (.attestExtend cl off) s =
      .next (({ s with meas := insK s.meas i (Config.sm3 (s.measBytes i ++ req.take 32)) } : State).attestEnds 0) := by
  subst hi
  change execAttestExtend cl off s = _
  exact congrArg Host.Outcome.next (attestOp_eq ha hreq ho (by decide) (fun _ => ⟨h4, h7⟩) _)

theorem execAttestPubkey_eq (ho : (req.getD 32 0).toNat = 2) : exec (.attestPubkey cl off) s =
    .next (if Config.identityUnsealed then
      (s.attestWrite cl off.toNat ((Config.sm2PublicKey Config.identityKey ++ List.replicate 64 0).take 64)).attestEnds 0 else s.attestEnds 2) := by
  change execAttestPubkey cl off s = _
  exact congrArg Host.Outcome.next ((attestOp_eq ha hreq ho (by decide) nofun _).trans (ite_bool_not _ _ _))

end attest

/-! ## The restart of a shard and the repair of a cluster (R466, R469) -/

theorem execShardRestart_eq {shard actor : Nat} (hactor : (if shard = 0 then 1 else 0) = actor) (hs : shard < 16)
    (hr : s.running.getLsbD actor = true) (hu : ((s.tiedParts shard actor).foldl State.killPart s).startSerai shard = u) (hup : u.update = none) :
    exec (.shardRestart shard) s = .next (u.reloadShard shard actor) := by
  change execShardRestart shard s = _
  unfold execShardRestart
  dsimp only
  rw [hactor, hu]
  refine congrArg Host.Outcome.next ((if_neg ?_).trans ?_)
  · rw [hr]
    rintro (h | h)
    · omega
    · cases h
  · have hv : (u.reloadShard shard actor).update = none := hup
    generalize u.reloadShard shard actor = v at hv ⊢
    rw [hv]

theorem shard_reloadShard {shard actor : Nat} : (s.reloadShard shard actor).shard shard =
    { ownmap := (s.shard actor).ownmap, parts := (s.shard actor).parts, mounts := (s.shard actor).mounts, ver := (s.shard actor).ver } :=
  getK_insK_same _ _ _ _

/-- R466: the next step of a cluster's repair. -/
def State.repairPhase (s : State) (cl n : Nat) : State := { s with crepair := putK 0 s.crepair cl n }

/-- R466: a cluster begins or ends to drain. -/
def State.setDrain (s : State) (cl b : Nat) : State := s.modCr 16 nCDRAIN fun v => dwSet v cl cl b

/-- R466: the next object of a bucket goes, or all have gone. -/
def State.sendNext (s : State) (cl src dst done : Nat) : State :=
  match s.unsent cl dst with
  | o :: _ => s.migrate src dst (BitVec.ofNat 64 o)
  | [] => s.repairPhase cl done

section clusterRepair
variable (hcl : cl < 16)
include hcl

theorem execClusterRepair_begins (h : getK 0 s.crepair cl = 0) (hr : s.running.getLsbD 0 = true) :
    exec (.clusterRepair cl) s = .next ((s.setDrain cl 1).repairPhase cl 1) := by
  change execClusterRepair cl s = _
  exact congrArg Host.Outcome.next ((if_neg (by omega)).trans ((if_pos h).trans (if_pos hr)))

variable (hu : s.update = none)
include hu

/-- A step of a repair that has begun, while no update is under way. -/
theorem clusterRepair_goes {n : Nat} (h : getK 0 s.crepair cl = n) (hn : n ≠ 0) {a b c d : State} :
    (if 16 ≤ cl then a else if getK 0 s.crepair cl = 0 then b else if s.update.isSome then c else d) = d :=
  (if_neg (by omega)).trans ((if_neg (by omega)).trans (if_neg (by rw [hu]; nofun)))

theorem execClusterRepair_moves (h : getK 0 s.crepair cl = 1) (hi : ∀ i < 128, ∀ w ∈ (s.core (cl * 128 + i)).waves, w.2.live = false)
    (hm : (s.startUpdate cl (cl ^^^ 1)).update.isSome = true) :
    exec (.clusterRepair cl) s = .next ((s.startUpdate cl (cl ^^^ 1)).repairPhase cl 2) := by
  change execClusterRepair cl s = _
  refine congrArg Host.Outcome.next ((clusterRepair_goes hcl hu h (by decide)).trans ((if_pos h).trans ((if_neg fun hb => ?_).trans (if_pos hm))))
  obtain ⟨i, hir, hb⟩ := List.any_eq_true.1 hb
  obtain ⟨w, hw, hb⟩ := List.any_eq_true.1 hb
  rw [hi i (List.mem_range.1 hir) w hw] at hb
  cases hb

theorem execClusterRepair_sends (h : getK 0 s.crepair cl = 2) : exec (.clusterRepair cl) s = .next (s.sendNext cl cl (cl ^^^ 1) 3) := by
  change execClusterRepair cl s = _
  exact congrArg Host.Outcome.next ((clusterRepair_goes hcl hu h (by decide)).trans ((if_neg (by omega)).trans (if_pos h)))

theorem execClusterRepair_tested (h : getK 0 s.crepair cl = 3) (ht : s.selfTest = none) (hr : s.repair = none) (hs : ∀ x ∈ s.suspects, x.1 ≠ cl)
    (hm : (s.startUpdate cl cl).update.isSome = true) : exec (.clusterRepair cl) s = .next ((s.startUpdate cl cl).repairPhase cl 4) := by
  change execClusterRepair cl s = _
  refine congrArg Host.Outcome.next ((clusterRepair_goes hcl hu h (by decide)).trans ((if_neg (by omega)).trans ((if_neg (by omega)).trans
    ((if_pos h).trans ((if_neg ?_).trans (if_pos hm))))))
  rw [ht, hr]
  rintro (h | h | h)
  · cases h
  · cases h
  · obtain ⟨x, hx, h⟩ := List.any_eq_true.1 h
    exact hs x hx (beq_iff_eq.1 h)

theorem execClusterRepair_sendsBack (h : getK 0 s.crepair cl = 4) : exec (.clusterRepair cl) s = .next (s.sendNext cl (cl ^^^ 1) cl 5) := by
  change execClusterRepair cl s = _
  exact congrArg Host.Outcome.next ((clusterRepair_goes hcl hu h (by decide)).trans ((if_neg (by omega)).trans ((if_neg (by omega)).trans
    ((if_neg (by omega)).trans (if_pos h)))))

theorem execClusterRepair_drained (h : getK 0 s.crepair cl = 5) : exec (.clusterRepair cl) s = .next ((s.setDrain cl 0).repairPhase cl 6) := by
  change execClusterRepair cl s = _
  exact congrArg Host.Outcome.next ((clusterRepair_goes hcl hu h (by decide)).trans ((if_neg (by omega)).trans ((if_neg (by omega)).trans
    ((if_neg (by omega)).trans ((if_neg (by omega)).trans (if_pos h))))))

theorem execClusterRepair_last (h : getK 0 s.crepair cl = 6) : exec (.clusterRepair cl) s =
    .next (if s.rsaved.any fun x => clusterOf x.1 == cl then s.repairRestore cl else s.repairPhase cl 0) := by
  change execClusterRepair cl s = _
  exact congrArg Host.Outcome.next ((clusterRepair_goes hcl hu h (by decide)).trans ((if_neg (by omega)).trans ((if_neg (by omega)).trans
    ((if_neg (by omega)).trans ((if_neg (by omega)).trans (if_neg (by omega)))))))

end clusterRepair

end

/-- R459: the reset state with what lies outside the package. -/
theorem execColdReset_eq (s : State) : exec .coldReset s = .next ({ State.reset with
    files := s.files, drives := s.drives, ethUp := s.ethUp, inbox := s.inbox, out := s.out, fresh := s.fresh, nextId := s.nextId
    remap := s.remap, hub := s.hub, spares := s.spares, moved := s.moved } : State).bootSequence := rfl

/-- R463: the state of a warm reset after QUIESCE. -/
theorem execWarmResetQuiesced_eq {s : State} (h : s.warm = .quiesce) (hq : s.quiet = true) : ∃ u, exec .warmResetQuiesced s = .next u ∧
    u.warm = .retrain ∧ u.hbm = s.hbm ∧ u.hbmTag = s.hbmTag ∧ u.sram = [] ∧ u.sramTag = [] ∧ u.running = 0 ∧
    u.crs = s.crs.filter (fun p => crSurvives p.1) ∧ ∀ c t, (u.wave c t).live = false := by
  refine ⟨_, congrArg Host.Outcome.next (if_neg ?_), rfl, rfl, rfl, rfl, rfl, rfl, rfl, wave_of_mapped rfl⟩
  rw [hq]
  rintro (hw | hw)
  · exact hw h
  · cases hw

/-- Settles O58: each event of the device's management by the branch that its hypotheses choose; the stacks that fail to train by an
induction over them (`stkUnavail_untrained`). -/
theorem deviceEvents : Obligations.DeviceEvents := by
  refine ⟨fun s cl core n mask failed target off retain => ⟨execColdReset_eq s, rfl, fun h => ?_, fun h hq => execWarmResetQuiesced_eq h hq,
      fun h => ?_, fun h => execWarmResetChecked_eq h, ⟨fun h => execSelfTestHbmRow_pass h, fun h => ⟨fun hi => ?_, fun w hw ha => ?_⟩,
        fun h => ⟨fun hb => execSelfTestAmemBank_busy h hb retain, fun hb => ?_⟩, fun h => ?_, fun h => ?_, fun h => execSelfTestSeraiSram_pass h⟩,
      fun x r m e hx hr => ⟨fun he => ?_, fun he => ?_⟩, fun hr => ⟨fun hi => execRepairCoreToSpare_busy hr hi,
        fun hi hu => execRepairCoreToSpare_noSpare hr hi hu, fun hi hu => ?_⟩, fun hr => ?_, fun ha => ⟨fun ho => execAttestQuote_eq ha rfl ho rfl,
        fun ho h4 h7 => execAttestExtend_eq ha rfl ho rfl h4 h7, fun ho => execAttestPubkey_eq ha rfl ho⟩⟩,
    fun s shard cl => ⟨fun hs hr hup hu => ⟨execShardRestart_eq rfl hs hr rfl hu, shard_reloadShard⟩, fun hcl => ⟨fun h hr => execClusterRepair_begins hcl h hr,
      fun h hi hm => execClusterRepair_moves hcl h.2 h.1 hi hm, fun x rest h hx => ?_, fun h hx => ?_,
      fun h ht hr hs hm => execClusterRepair_tested hcl h.2 h.1 ht hr hs hm, fun x rest h hx => ?_, fun h hx => ?_,
      fun h => execClusterRepair_drained hcl h.2 h.1, fun h hs => ?_, fun x hx h hc => ?_⟩⟩⟩
  · exact ⟨_, congrArg Host.Outcome.next (beginWarm_of_run retain h), rfl,
      (congrArg (fun u : State => dwBit (u.cr 16 nRSTCTL) 1) (beginWarm_of_run retain h).symm).trans (dwBit_beginWarm retain), .of_eq rfl rfl rfl rfl⟩
  · refine ⟨_, execWarmResetRetrained_eq h, rfl, (memory_untrained failed (List.range 8)).trans (.of_eq rfl rfl rfl rfl), fun k hk => ?_⟩
    refine (stkUnavail_untrained failed (fun j hj => List.mem_range.1 hj) hk).trans ?_
    rw [decide_eq_true (List.mem_range.2 hk), Bool.true_and]
  · exact ⟨execSelfTestCore_idle h hi true, execSelfTestCore_idle h hi false⟩
  · exact execSelfTestCore_busy h hw ha retain
  · exact ⟨execSelfTestAmemBank_idle h hb true, execSelfTestAmemBank_idle h hb false⟩
  · exact ⟨execSelfTestCacheSet_eq h rfl true, execSelfTestCacheSet_eq h rfl false⟩
  · exact ⟨execSelfTestFabricLane_eq h true, execSelfTestFabricLane_eq h false⟩
  · exact (execSelfTestDone_eq hx hr rfl).trans (congrArg Host.Outcome.next (if_pos he))
  · exact (execSelfTestDone_eq hx hr rfl).trans (congrArg Host.Outcome.next (if_neg he))
  · refine ⟨s.spared core, _, execRepairCoreToSpare_replaces hr hi hu, rfl, .of_eq rfl rfl rfl rfl, live_spared, ?_, ?_⟩
    · rw [core_spared]
      rfl
    · rw [core_spared]
      rfl
  · exact ⟨execRepairStackToService_eq hr false, execRepairStackToService_eq hr true⟩
  · refine (execClusterRepair_sends hcl h.2 h.1).trans ?_
    rw [State.sendNext, hx]
  · refine (execClusterRepair_sends hcl h.2 h.1).trans ?_
    rw [State.sendNext, hx]
    rfl
  · refine (execClusterRepair_sendsBack hcl h.2 h.1).trans ?_
    rw [State.sendNext, hx]
  · refine (execClusterRepair_sendsBack hcl h.2 h.1).trans ?_
    rw [State.sendNext, hx]
    rfl
  · refine (execClusterRepair_last hcl h.2 h.1).trans (congrArg Host.Outcome.next (if_neg fun ha => ?_))
    obtain ⟨x, hx, ha⟩ := List.any_eq_true.1 ha
    exact hs x hx (beq_iff_eq.1 ha)
  · exact (execClusterRepair_last hcl h.2 h.1).trans (congrArg Host.Outcome.next (if_pos (List.any_eq_true.2 ⟨x, hx, by simpa using hc⟩)))

end Sys2Proof.Machine

namespace Sys2Proof.Machine

section
variable {s u : State} {port n : Nat} {src : BitVec 10} {addr : DWord}

/-! ## Clock synchronisation (R476) -/

theorem clockAsk_eq {p : Nat} (hp : (List.range 8).find? s.portUp = some p) (hl : s.isLeader = false)
    (hd : s.syncAt = none ∨ ∃ t, s.syncAt = some t ∧ 100000 ≤ (s.lease - t).toNat) : clockAsk s =
      .next (State.emit { s with syncAt := some s.lease, syncT1 := some s.lease } (.clockAsk p (dwBits (s.cr 16 nFABCTL) 57 48) s.lease)) := by
  have hany : (List.range 8).any s.portUp = true :=
    List.any_eq_true.2 ⟨p, List.mem_of_find?_eq_some hp, List.find?_some hp⟩
  have hdue : s.syncDue = true := by
    rw [State.syncDue, hl, hany]
    rcases hd with hd | ⟨t, hd, ht⟩
    · rw [hd]
      rfl
    · rw [hd]
      exact decide_eq_true ht
  rw [clockAsk, hp]
  exact congrArg Host.Outcome.next (if_neg (by rw [hdue]; nofun))

theorem setSync_lease (b : Bool) : (s.setSync b).lease = s.lease := by
  unfold State.setSync
  split <;> rfl

theorem setSync_syncGood (b : Bool) : (s.setSync b).syncGood = s.syncGood := by
  unfold State.setSync
  split <;> rfl

theorem synced_setSync (b : Bool) : (s.setSync b).synced = b := by
  unfold State.setSync
  split
  next h => exact h
  next =>
    have hcr : ((s.modCr 16 nFABCTL fun v => dwSet v 33 33 (if b then 1 else 0)).raiseSome 3 6 [if b then 1 else 0]).cr 16 nFABCTL =
        dwSet (s.cr 16 nFABCTL) 33 33 (if b then 1 else 0) :=
      cr_modCr_same s 16 nFABCTL fun v => dwSet v 33 33 (if b then 1 else 0)
    rw [State.synced, hcr, dwBit_dwSet _ _ (by omega) (by omega), if_pos (by omega)]
    cases b <;> rfl

/-- R476: what an exchange notes before the clock is stepped. -/
def State.exchanged (s : State) (good : Bool) : State :=
  { s with syncT1 := none, syncLast := s.lease, syncGood := if good then Nat.min 8 (s.syncGood + 1) else 0 }

/-- R476: the offset of an exchange steps the clock forward while SYNC is 0. -/
def State.stepped (s : State) (o2 : Int) : State :=
  if !s.synced && decide (0 < o2) then
    ({ s with lease := s.lease + BitVec.ofInt 48 (o2 / 2), syncLast := s.lease + BitVec.ofInt 48 (o2 / 2) } : State).aged s.lease
  else s

theorem stepped_of_synced (h : s.synced = true) (o2 : Int) : s.stepped o2 = s := if_neg (by rw [h]; nofun)

theorem stepped_syncGood (o2 : Int) : (s.stepped o2).syncGood = s.syncGood := by
  unfold State.stepped
  split <;> rfl

theorem stepped_lease {o2 : Int} (h : s.synced = false) (ho : 0 < o2) : (s.stepped o2).lease = s.lease + BitVec.ofInt 48 (o2 / 2) := by
  rw [State.stepped, if_pos (by rw [h, decide_eq_true ho]; rfl)]
  rfl

section exchange
variable {t1 t2 t3 : Lease} (hl : s.isLeader = false) (ht : s.syncT1 = some t1) {o2 : Int} (ho : leaseDiff t2 t1 + leaseDiff t3 s.lease = o2)
include hl ht ho

theorem execClockSyncExchange_eq {good : Bool}
    (hg : decide ((o2.natAbs : Int) + (leaseDiff s.lease t1 - leaseDiff t3 t2 + 20) ≤ (dwBits (s.cr 16 nFABCTL) 31 16 : Nat)) = good) :
    exec (.clockSyncExchange t1 t2 t3 s.lease) s = .next (if !good then ((s.exchanged good).stepped o2).setSync false
      else if 8 ≤ ((s.exchanged good).stepped o2).syncGood then ((s.exchanged good).stepped o2).setSync true else (s.exchanged good).stepped o2) := by
  subst hg ho
  change execClockSyncExchange t1 t2 t3 s.lease s = _
  refine congrArg Host.Outcome.next (if_neg ?_)
  rw [hl, ht]
  rintro (h | h | h)
  · cases h
  · exact h rfl
  · exact h rfl

variable (hgood : (o2.natAbs : Int) + (leaseDiff s.lease t1 - leaseDiff t3 t2 + 20) ≤ (dwBits (s.cr 16 nFABCTL) 31 16 : Nat))

theorem execClockSyncExchange_bad
    (hbad : ¬(o2.natAbs : Int) + (leaseDiff s.lease t1 - leaseDiff t3 t2 + 20) ≤ (dwBits (s.cr 16 nFABCTL) 31 16 : Nat)) :
    exec (.clockSyncExchange t1 t2 t3 s.lease) s = .next (((s.exchanged false).stepped o2).setSync false) :=
  execClockSyncExchange_eq hl ht ho (decide_eq_false hbad)

include hgood

theorem execClockSyncExchange_good : exec (.clockSyncExchange t1 t2 t3 s.lease) s =
    .next (if 8 ≤ ((s.exchanged true).stepped o2).syncGood then ((s.exchanged true).stepped o2).setSync true else (s.exchanged true).stepped o2) :=
  execClockSyncExchange_eq hl ht ho (decide_eq_true hgood)

end exchange

theorem execSyncLossTimeout_eq (hl : s.isLeader = false) (hs : s.synced = true) (hd : 1000000 ≤ (s.lease - s.syncLast).toNat) :
    exec .syncLossTimeout s = .next (({ s with syncGood := 0 } : State).setSync false) := by
  change execSyncLossTimeout s = _
  refine congrArg Host.Outcome.next (if_neg ?_)
  rw [hl, hs]
  rintro (h | h | h)
  · cases h
  · cases h
  · omega

/-! ## Requests without an answer (R482) -/

theorem execFabricRequestTimeout_load {id : Nat} {p : Prod} {a : Access} {t : Lease} (hp : findK s.prods id = some p) (hsrc : p.src = .load a)
    (hsent : a.sent = some (port, t)) (hlate : s.farLate t = true) :
    exec (.fabricRequestTimeout id) s = .next ((s.timedOut port a.place.dst).failLoad id p a (48 + port)) := by
  change execFabricRequestTimeout id s = _
  rw [execFabricRequestTimeout, hp]
  dsimp only
  rw [hsrc]
  dsimp only
  rw [hsent]
  exact congrArg Host.Outcome.next (if_pos hlate)

theorem execFabricRequestTimeout_store {id : Nat} {x : PStore} {t : Lease} (hp : findK s.prods id = none) (hx : findK s.stores id = some x)
    (hsent : x.sent = some (port, t)) (hlate : s.farLate t = true) (hst : x.stage < 2) :
    exec (.fabricRequestTimeout id) s = .next ((s.timedOut port x.place.dst).failStore id x (48 + port)) := by
  change execFabricRequestTimeout id s = _
  rw [execFabricRequestTimeout, hp]
  dsimp only
  rw [hx]
  dsimp only
  rw [hsent]
  exact congrArg Host.Outcome.next (if_pos ⟨hlate, hst⟩)

/-! ## Inbound requests (R474, R479 to R481) -/

/-- A request that passes its checks reaches its home. -/
theorem inboundOp_ok {len right bti off : Nat} {ok : Bool} {p : Place} {e : BitVec 512} (hok : ok = true) (hs : s.synced = true)
    (hw : s.inWindow src addr.toNat = some (bti, off)) (hc : s.engineChk (port % 16) (eOwner (s.tableEntry bti)) bti off len right = (.ok (p, e), u))
    (hup : (!u.heldSpan p len && (blocksOf p len).all fun b => (u.homeDown b.1 b.2).isNone) = true) (body : State → Place → BitVec 512 → State) :
    inboundOp s port src addr len right ok body = body u p e := by
  obtain ⟨hheld, hall⟩ := Bool.and_eq_true_iff.1 hup
  unfold inboundOp
  rw [if_neg (by rw [hok, hs]; simp), hw]
  dsimp only
  rw [hc]
  refine (if_neg (by simpa using hheld)).trans (if_neg fun h => ?_)
  obtain ⟨b, hb, h⟩ := List.any_eq_true.1 h
  have := List.all_eq_true.1 hall b hb
  rw [Option.isNone_iff_eq_none] at this
  rw [this] at h
  cases h

theorem inboundOp_unsynced {len right : Nat} {ok : Bool} (hs : s.synced = false) (body : State → Place → BitVec 512 → State) :
    inboundOp s port src addr len right ok body = s.inRefuse port src := if_pos (.inr (by rw [hs]; rfl))

theorem storeAnswer_of_noRecall {p : Place} {data : List Byte} {x : Lease} (h : s.mayRecall port p n = false) :
    s.storeAnswer port src addr p n data x = s.emit (.fabric port src.toNat true data x) := by
  rw [State.storeAnswer, h]
  rfl

theorem execRecallTimeout_eq {id : Nat} {r : Recall} (hr : findK s.recalls id = some r) (ht : 2000 ≤ (s.lease - r.start).toNat) :
    exec (.recallTimeout id) s = .next (({ s with recalls := delK s.recalls id } : State).emit (.fabric r.port r.dst true r.data r.vis)) := by
  change execRecallTimeout id s = _
  rw [execRecallTimeout, hr]
  exact congrArg Host.Outcome.next (if_neg (by omega))

theorem findK_delK {α : Type} (m : Sparse α) (k : Nat) : findK (delK m k) k = none := by
  have h : (delK m k).find? (fun p => p.1 == k) = none := by
    refine List.find?_eq_none.2 fun p hp => ?_
    simpa [delK] using (List.mem_filter.1 hp).2
  rw [findK, h]
  rfl

theorem lines_unmark (k : Cluster) (mark : Option Nat) : (k.unmark mark).lines = k.lines := by
  unfold Cluster.unmark
  split
  · rfl
  · extract_lets e b
    split
    · split <;> rfl
    · rfl

theorem findK_dropLine (k : Cluster) (key : Nat) : findK (k.dropLine key).lines key = none := by
  unfold Cluster.dropLine
  split
  next h => exact h
  next =>
    rw [lines_unmark]
    exact findK_delK _ _

/-- R480: the copies of a line in some clusters are dropped. -/
def State.lineDropped (s : State) (line : Nat) (l : List Nat) : State :=
  l.foldl (fun (s : State) cl => if (findK (s.cl cl).lines line).isSome then s.modCl cl fun k => k.dropLine line else s) s

theorem findK_lineDropped (line : Nat) {l : List Nat} {c : Nat} (h : c ∈ l ∨ findK (s.cl c).lines line = none) :
    findK ((s.lineDropped line l).cl c).lines line = none := by
  induction l generalizing s with
  | nil => exact h.resolve_left List.not_mem_nil
  | cons d l ih =>
    rw [State.lineDropped, List.foldl_cons]
    refine ih ?_
    rcases h with h | h
    · rcases List.mem_cons.1 h with rfl | h
      · right
        split
        · rw [cl_modCl_same]
          exact findK_dropLine _ _
        next hn => exact Option.not_isSome_iff_eq_none.1 hn
      · exact .inl h
    · right
      split
      · by_cases hcd : c = d
        · subst hcd
          rw [cl_modCl_same]
          exact findK_dropLine _ _
        · rw [cl_modCl_other _ _ hcd]
          exact h
      · exact h

end

/-- Settles O59: the clock by its two steps (`stepped_lease`, `synced_setSync`), an inbound request by `inboundOp_ok`, and the others by
the branches that their hypotheses choose. -/
theorem fabricEvents : Obligations.FabricEvents := by
  intro s port n id line src addr o1 o2 data op w64 width t1 t2 t3
  refine ⟨fun p hp hl hd => clockAsk_eq hp hl hd, fun hl ht => ⟨fun hg hs => ?_, fun hg hs ho => ?_, fun hg => ?_⟩,
    fun hl hs hd => execSyncLossTimeout_eq hl hs hd, fun p a port t hp hsrc hsent hlate => execFabricRequestTimeout_load hp hsrc hsent hlate,
    fun x port t hp hx hsent hlate hst => execFabricRequestTimeout_store hp hx hsent hlate hst,
    fun bti off p e u hs hw => ⟨fun hc hr hup => ?_, fun hc hr hup => ?_, fun hc hr ho hup => ?_⟩, fun p x h => storeAnswer_of_noRecall h,
    fun hs => ⟨congrArg Host.Outcome.next (inboundOp_unsynced hs _), congrArg Host.Outcome.next (inboundOp_unsynced hs _),
      congrArg Host.Outcome.next (inboundOp_unsynced hs _)⟩, fun r hr ht => execRecallTimeout_eq hr ht, fun hp => ?_, fun hp he => ?_, fun hl => ?_, fun hl => ?_⟩
  · refine ⟨_, execClockSyncExchange_good hl ht rfl hg, ?_⟩
    rw [stepped_of_synced (show (s.exchanged true).synced = true from hs)]
    have hsync : (s.exchanged true).setSync true = s.exchanged true := if_pos hs
    rw [hsync, ite_self]
    exact ⟨rfl, rfl, rfl, .of_eq rfl rfl rfl rfl⟩
  · refine ⟨_, execClockSyncExchange_good hl ht rfl hg, ?_⟩
    have hlease := stepped_lease (s := s.exchanged true) hs ho
    have hcount := stepped_syncGood (s := s.exchanged true) (leaseDiff t2 t1 + leaseDiff t3 s.lease)
    split
    · rw [setSync_lease, setSync_syncGood, hlease, hcount]
      exact ⟨rfl, rfl⟩
    · rw [hlease, hcount]
      exact ⟨rfl, rfl⟩
  · refine ⟨_, execClockSyncExchange_bad hl ht rfl hg, ?_, synced_setSync false⟩
    rw [setSync_syncGood, stepped_syncGood]
    rfl
  · exact congrArg Host.Outcome.next (inboundOp_ok hr hs hw hc hup _)
  · exact congrArg Host.Outcome.next (inboundOp_ok hr hs hw hc hup _)
  · refine congrArg Host.Outcome.next (inboundOp_ok ?_ hs hw hc hup _)
    rw [Bool.and_eq_true, beq_iff_eq, decide_eq_true_iff]
    exact ⟨hr, ho⟩
  · exact congrArg Host.Outcome.next (if_neg (by omega))
  · refine congrArg Host.Outcome.next ((if_neg ?_).trans (if_pos rfl))
    rw [he]
    rintro (h | h)
    · omega
    · cases h
  · exact ⟨s.lineDropped line (List.range 16), congrArg Host.Outcome.next (if_neg (by omega)), fun c hc => findK_lineDropped line (.inl (List.mem_range.2 hc))⟩
  · exact congrArg Host.Outcome.next (if_pos hl)

end Sys2Proof.Machine

namespace Sys2Proof.Machine

section
variable {s u : State} {c cl q id peer : Nat} {ws : List Word}

/-! ## The issue unit (R499) -/

section issue
variable {e : Nat} {t : NetTrk} (ht : firstTrk (·.order) (fun t => decide (t.stage < 2)) (s.core c).netTrk = some (e, t))
include ht

theorem execNetIssueUnitServe_malformed (h0 : t.stage = 0) (hm : wsBits t.words 15 5 ≠ 0 ∨ wsBits t.words 19 16 ≠ 0) :
    exec (.netIssueUnitServe c) s = .next (s.endNet c e t (some 1)) := by
  change execNetIssueUnitServe c s = _
  rw [execNetIssueUnitServe, ht]
  exact congrArg Host.Outcome.next ((if_pos h0).trans (if_pos hm))

theorem execNetIssueUnitServe_claims {x : Unit} {w : Nat} {y : State} (h0 : t.stage = 0) (h5 : wsBits t.words 15 5 = 0) (h16 : wsBits t.words 19 16 = 0)
    (hen : (s.qdesc (clusterOf c) (nNQ (wsBits t.words 4 0) 0)).en = true)
    (hpart : (s.qdesc (clusterOf c) (nNQ (wsBits t.words 4 0) 0)).part = (s.cl (clusterOf c)).part)
    (hm : s.queueMem (clusterOf c) (s.qdesc (clusterOf c) (nNQ (wsBits t.words 4 0) 0)) = (.ok x, u))
    (hc : u.queueClaim (clusterOf c) (nNQ (wsBits t.words 4 0) 0) = (.ok w, y)) : exec (.netIssueUnitServe c) s =
      .next (y.modCore c fun k => { k with netTrk := insK k.netTrk e { t with stage := 1, w, q := wsBits t.words 4 0 } }) := by
  change execNetIssueUnitServe c s = _
  rw [execNetIssueUnitServe, ht]
  refine congrArg Host.Outcome.next ((if_pos h0).trans ((if_neg ?_).trans ((if_neg ?_).trans ?_)))
  · rintro (h | h)
    · exact h h5
    · exact h h16
  · rw [hen]
    rintro (h | h)
    · cases h
    · exact h hpart
  · rw [hm]
    dsimp only
    rw [hc]

theorem execNetIssueUnitServe_writes (h0 : t.stage ≠ 0)
    (hp : s.queuePut (clusterOf c) (nNQ t.q 0) t.w (netSlot c e t.kind t.words) = (.ok (), u)) : exec (.netIssueUnitServe c) s =
      if t.kind = 5 then .next (u.endNet c e t none)
      else .next (u.modCore c fun k => { k with netTrk := insK k.netTrk e { t with stage := 2 } }) := by
  change execNetIssueUnitServe c s = _
  rw [execNetIssueUnitServe, ht]
  refine (congrArg Host.Outcome.next (if_neg h0)).trans ?_
  rw [hp]
  exact apply_ite Host.Outcome.next _ _ _

theorem execNetIssueUnitServe_fails {b : Nat} (h0 : t.stage ≠ 0)
    (hp : s.queuePut (clusterOf c) (nNQ t.q 0) t.w (netSlot c e t.kind t.words) = (.bad b, u)) :
    exec (.netIssueUnitServe c) s = .next (u.endNet c e t (some 8)) := by
  change execNetIssueUnitServe c s = _
  rw [execNetIssueUnitServe, ht]
  refine congrArg Host.Outcome.next ((if_neg h0).trans ?_)
  rw [hp]

end issue

/-! ## Heads of queues (R282, R494) -/

section head
variable (hh : s.initiatorHead cl q = (some ws, u))
include hh

theorem execNetWrTake_starts (hg : nGated ws = false ∨ dwBit (u.cr cl (nNQ q 1)) 24 = false) :
    exec (.netWrTake cl q) s = .next (u.netStart cl q ws) := by
  change execNetWrTake cl q s = _
  rw [execNetWrTake, hh]
  refine congrArg Host.Outcome.next (if_neg ?_)
  rcases hg with hg | hg <;> rw [hg] <;> simp

theorem execNetGateOpen_starts (hg : nGated ws = true) (hm : u.gateMet cl q ws = true) :
    exec (.netGateOpen cl q) s = .next (u.netStart cl q ws) := by
  change execNetGateOpen cl q s = _
  rw [execNetGateOpen, hh]
  exact congrArg Host.Outcome.next (if_pos (by rw [hg, hm]; rfl))

end head

/-! ## Transmission (R489, R490) -/

/-- R490: the packet that an operation sends next, to its peer's sequence as it is. -/
def State.nextPkt (s : State) (id : Nat) (o : NetOp) (data : List Byte × List Tag) : NetPkt :=
  { psn := (s.peer (nPeerNo o.words)).psn, op := id, index := o.sent, data := data.1, tags := data.2, words := o.words, msg := o.msg.getD id,
    at_ := s.lease + BitVec.ofNat 48 s.rto, rto := s.rto }

theorem netTransmit_eq {o : NetOp} {kind : Nat} (ho : findK s.netOps id = some o) (hk : nKind o.words = kind) (hf : o.fail = none) (hs : o.sent < o.total)
    (hroom : (s.peer (nPeerNo o.words)).unack.length < 1024) (hturn : s.inTurn id o = true)
    (hfree : ∀ b ∈ o.nextParts, s.eHeld b.1 = false ∧ s.homeDown b.1 b.2.1 = none) {d : (List Byte × List Tag) × State} (hd : s.packetData o = d)
    (hfirst : (d.2.peer (nPeerNo o.words)).first.isSome = true) {x : NetPkt × State}
    (hx : d.2.transmit (nPeerNo o.words) (d.2.nextPkt id o d.1) = x) {y : State}
    (hy : (x.2.modPeer (nPeerNo o.words) fun p => { p with
      first := (d.2.peer (nPeerNo o.words)).first, psn := (d.2.peer (nPeerNo o.words)).psn + 1, unack := p.unack ++ [x.1] }) = y) :
    netTransmit s id kind = { y with netOps := insK y.netOps id { o with sent := o.sent + 1 } } := by
  obtain ⟨f, hf1⟩ := Option.isSome_iff_exists.1 hfirst
  rw [netTransmit, ho]
  refine (if_neg ?_).trans ((if_neg fun h => ?_).trans ((if_neg fun h => ?_).trans ?_))
  · rw [hf, hturn]
    rintro (h | h | h | h | h)
    · exact h hk
    · cases h
    · omega
    · omega
    · cases h
  · obtain ⟨b, hb, h⟩ := List.any_eq_true.1 h
    rw [(hfree b hb).1] at h
    cases h
  · obtain ⟨b, hb, h⟩ := List.any_eq_true.1 h
    rw [(hfree b hb).2] at h
    cases h
  · rw [hd]
    dsimp only
    rw [hf1] at hy ⊢
    dsimp only
    rw [if_pos hfirst]
    subst hx hy
    rfl

/-! ## Posted receives (R487, R488) -/

/-- R488: a posted entry is removed, with its cause, and its counter counts the failure. -/
def State.dropPosted (s : State) (cl q : Nat) (ws : List Word) (cause : Nat) : State :=
  let x := (s.queueErr cl (nNQ q 0) cause).queueAdvance cl (nNQ q 0)
  if wsBit ws 232 then x.ctrEnd cl (wsBits ws 231 224) true else x

theorem queueLook_of_head {n : Nat} (h : s.queueHead cl n = (some ws, u)) : s.queueLook cl n = (.ok (some ws), u) := by
  rw [State.queueHead] at h
  generalize s.queueLook cl n = r at h ⊢
  obtain ⟨_ | _ | _, v⟩ := r <;> cases h
  rfl

section posted
variable (hr : dwBit (s.cr cl (nNQ q 1)) 15 = true) (hh : s.queueHead cl (nNQ q 0) = (some ws, u))
include hr hh

theorem execNetPostReceive_malformed (hm : nMalformed ws true (dwBit (u.cr cl (nNQ q 1)) 24) = true) :
    exec (.netPostReceive cl q) s = .next (u.dropPosted cl q ws 1) := by
  change execNetPostReceive cl q s = _
  refine congrArg Host.Outcome.next ((if_neg (by rw [hr]; nofun)).trans ?_)
  rw [hh]
  exact if_pos hm

variable (hm : nMalformed ws true (dwBit (u.cr cl (nNQ q 1)) 24) = false) {x : State}
include hm

theorem execNetPostReceive_badPlace {b : Nat}
    (hp : u.netSegs cl (u.qdesc cl (nNQ q 0)).part (nLasp ws) (nLaddr ws) (nLen ws) rWRITE = (.bad b, x)) :
    exec (.netPostReceive cl q) s = .next (x.dropPosted cl q ws 2) := by
  change execNetPostReceive cl q s = _
  refine congrArg Host.Outcome.next ((if_neg (by rw [hr]; nofun)).trans ?_)
  rw [hh]
  refine (if_neg (by rw [hm]; nofun)).trans ?_
  dsimp only
  rw [hp]
  rfl

variable {segs word : List (Place × Nat)} {y : State}
  (hp : u.netSegs cl (u.qdesc cl (nNQ q 0)).part (nLasp ws) (nLaddr ws) (nLen ws) rWRITE = (.ok segs, x))
  (hw : x.netSegs cl (u.qdesc cl (nNQ q 0)).part (nLasp ws) (nOpnd1 ws) 8 rWRITE = (.ok word, y))
include hp hw

theorem execNetPostReceive_stays : exec (.netPostReceive cl q) s = .next y := by
  change execNetPostReceive cl q s = _
  refine congrArg Host.Outcome.next ((if_neg (by rw [hr]; nofun)).trans ?_)
  rw [hh]
  refine (if_neg (by rw [hm]; nofun)).trans ?_
  dsimp only
  rw [hp]
  dsimp only
  rw [hw]

omit hr in
theorem postedHead_of_checked : s.postedHead cl q = (.ok (some (ws, segs)), y) := by
  rw [State.postedHead, queueLook_of_head hh]
  refine (if_neg (by rw [hm]; nofun)).trans ?_
  dsimp only
  rw [hp]
  dsimp only
  rw [hw]

end posted

/-! ## Arrivals (R489, R490) -/

/-- R490: a peer's sequence as a packet enters it, with the messages of an earlier epoch gone. -/
def State.entered (s : State) (n : Nat) (x : PeerSeq) (fresh : Bool) : State :=
  if fresh then { s.modPeer n (fun _ => x) with netMsgs := (s.modPeer n fun _ => x).netMsgs.filter fun m => m.2.peer != n }
  else s.modPeer n fun _ => x

section arrive
variable {p : NetPacket} {n : Nat} {x : PeerSeq} {fresh : Bool} (hv : p.valid = true) (h1 : 1 ≤ p.kind) (h6 : p.kind ≤ 6) (h5 : p.kind ≠ 5)
  (hn : s.peerOf p.addr p.v6 p.job = some n) (he : (s.peer n).enter p.epoch p.first = some (x, fresh))
include hv h1 h6 h5 hn he

theorem execNetPacketArrive_eq (hu : s.entered n x fresh = u) : exec (.netPacketArrive p) s =
    .next (if psnLe p.psn x.cack ∨ x.bits.contains p.psn then u.answerAgain n p.msg
      else if 1024 < (p.psn - x.cack).toNat then u
      else if p.kind = 6 then
        match u.awaits n p with
        | none => (u.modPeer n fun q => q.take p.psn).netAnswer n p.msg false none
        | some o => if (msgParts o.segs (2048 * p.index) 2048).any fun b => u.eHeld b.1 then u else (u.modPeer n fun q => q.take p.psn).netRespond n p o
      else
        match u.openMsg n p with
        | (none, w) => w
        | (some (j, m), w) =>
          if (if p.kind = 3 then msgParts m.segs 0 m.len else msgParts m.segs (2048 * p.index) 2048).any fun b => w.eHeld b.1 then w
          else (w.modPeer n fun q => q.take p.psn).netPlace n p j m) := by
  subst hu
  change execNetPacketArrive p s = _
  refine congrArg Host.Outcome.next ((if_neg ?_).trans ?_)
  · rw [hv]
    rintro (h | h | h | h)
    · cases h
    · omega
    · exact h5 h
    · omega
  · rw [hn]
    dsimp only
    rw [he] <;> rfl

theorem execNetPacketArrive_again (hu : s.entered n x fresh = u) (hd : psnLe p.psn x.cack = true ∨ x.bits.contains p.psn = true) :
    exec (.netPacketArrive p) s = .next (u.answerAgain n p.msg) :=
  (execNetPacketArrive_eq hv h1 h6 h5 hn he hu).trans (congrArg Host.Outcome.next (if_pos hd))

variable (hu : s.entered n x fresh = u) (hc : psnLe p.psn x.cack = false) (hb : x.bits.contains p.psn = false) (hw : (p.psn - x.cack).toNat ≤ 1024)
include hu hc hb hw

omit hv h1 h6 h5 hn he hu in
/-- A packet inside the window that has not come before. -/
theorem packet_new {a b d : State} : (if psnLe p.psn x.cack ∨ x.bits.contains p.psn then a else if 1024 < (p.psn - x.cack).toNat then b else d) = d := by
  refine (if_neg ?_).trans (if_neg (by omega))
  rw [hc, hb]
  simp

theorem execNetPacketArrive_places {j : Nat} {m : NetMsg} {w : State} (hk : p.kind ≤ 4) (hm : u.openMsg n p = (some (j, m), w))
    (hfree : ∀ b ∈ (if p.kind = 3 then msgParts m.segs 0 m.len else msgParts m.segs (2048 * p.index) 2048), w.eHeld b.1 = false) :
    exec (.netPacketArrive p) s = .next ((w.modPeer n fun q => q.take p.psn).netPlace n p j m) := by
  refine (execNetPacketArrive_eq hv h1 h6 h5 hn he hu).trans (congrArg Host.Outcome.next ((packet_new hc hb hw).trans ((if_neg (by omega)).trans ?_)))
  rw [hm]
  refine if_neg fun h => ?_
  obtain ⟨b, hb, h⟩ := List.any_eq_true.1 h
  rw [hfree b hb] at h
  cases h

theorem execNetPacketArrive_noRequest (hk : p.kind = 6) (ha : u.awaits n p = none) :
    exec (.netPacketArrive p) s = .next ((u.modPeer n fun q => q.take p.psn).netAnswer n p.msg false none) := by
  refine (execNetPacketArrive_eq hv h1 h6 h5 hn he hu).trans (congrArg Host.Outcome.next ((packet_new hc hb hw).trans ((if_pos hk).trans ?_)))
  rw [ha]

theorem execNetPacketArrive_responds {o : NetOp} (hk : p.kind = 6) (ha : u.awaits n p = some o)
    (hfree : ∀ b ∈ msgParts o.segs (2048 * p.index) 2048, u.eHeld b.1 = false) :
    exec (.netPacketArrive p) s = .next ((u.modPeer n fun q => q.take p.psn).netRespond n p o) := by
  refine (execNetPacketArrive_eq hv h1 h6 h5 hn he hu).trans (congrArg Host.Outcome.next ((packet_new hc hb hw).trans ((if_pos hk).trans ?_)))
  rw [ha]
  refine if_neg fun h => ?_
  obtain ⟨b, hb, h⟩ := List.any_eq_true.1 h
  rw [hfree b hb] at h
  cases h

end arrive

/-! ## Acknowledgements and retransmissions (R490) -/

theorem modPeer_congr {n : Nat} {f g : PeerSeq → PeerSeq} (h : f (s.peer n) = g (s.peer n)) : s.modPeer n f = s.modPeer n g := by
  rw [State.modPeer, State.modPeer, h]

/-- R490: an acknowledgement that shows nothing above CACK, refuses nothing and completes nothing. -/
theorem execNetAckArrive_cumulative {a : NetAck} {n : Nat} (hn : s.peerOf a.addr a.v6 a.job = some n) (he : (s.peer n).epoch = a.epoch) (hs : a.sack = [])
    (hr : a.refused = []) (hc : a.complete = []) : exec (.netAckArrive a) s =
      .next (s.modPeer n fun p => { p with unack := p.unack.filter fun k => !psnLe k.psn a.cack }) := by
  change execNetAckArrive a s = _
  rw [execNetAckArrive, hn]
  refine congrArg Host.Outcome.next ((if_neg (not_not_intro he)).trans ?_)
  dsimp only
  rw [hs, hr, hc, List.foldl_nil, List.foldl_nil]
  have hnone : ∀ l : List NetPkt, ∀ v : State, l.filter (fun k => decide (k.tries < v.retry) && decide (3 ≤ (List.filter (fun x => !psnLe x k.psn) []).length) &&
      (List.filter (fun x => !psnLe x k.psn) []).any fun x => !k.shown.contains x) = [] := fun l v =>
    List.filter_eq_nil_iff.2 fun k _ => by simp
  rw [hnone, List.foldl_nil]
  refine modPeer_congr ?_
  simp

section retransmit
variable {psn : Word} {x : NetPkt} (hx : ((s.peer peer).unack.find? fun k => k.psn == psn) = some x) (ht : Lease.before s.lease x.at_ = false)
include hx ht

theorem execNetRetransmitTimeout_eq : exec (.netRetransmitTimeout peer psn) s = .next (if s.retry ≤ x.tries then
      (s.resetPeer peer 7).2.raiseSome 3 1 [BitVec.ofNat 32 peer, BitVec.ofNat 32 (s.resetPeer peer 7).1] else s.resend peer x []) := by
  change execNetRetransmitTimeout peer psn s = _
  rw [execNetRetransmitTimeout, hx]
  exact congrArg Host.Outcome.next (if_neg (by rw [ht]; nofun))

end retransmit

/-! ## Completion at the target (R488, R492) -/

section target
variable {m : NetMsg} (hm : findK s.netMsgs id = some m) (hf : m.fail = none) (hp : packets (Nat.max 1 m.len) ≤ m.placed.length)
  (hv : ∀ v, m.vis = some v → Lease.before v s.lease = true)
include hm hf hp hv

/-- R488: the counter of a posted receive that ends. -/
def State.countPosted (s : State) (cl : Nat) (ws : List Word) (fail : Bool) : State :=
  if wsBit ws 232 then s.ctrEnd cl (wsBits ws 231 224) fail else s

omit hm hp in
/-- A message that is whole and visible ends. -/
theorem target_goes (hp : packets (Nat.max 1 m.len) ≤ m.placed.length) {a b : State} :
    (if m.fail.isSome ∨ m.placed.length < packets (Nat.max 1 m.len) ∨ !(match m.vis with | some v => Lease.before v s.lease | none => true) then a else b) = b := by
  refine if_neg ?_
  rw [hf]
  rintro (h | h | h)
  · cases h
  · omega
  · revert h hv
    generalize m.vis = vis
    cases vis with
    | none => nofun
    | some v =>
      intro hv h
      dsimp only at h
      rw [hv v rfl] at h
      cases h

theorem execNetTargetComplete_put (hr : m.recv = none) : exec (.netTargetComplete id) s =
    .next ((if (s.regOf m.clus m.key).cen then s.ctrAdd m.clus (s.regOf m.clus m.key).ctr 1 else s).endMsg m.peer id m.msg none) := by
  change execNetTargetComplete id s = _
  rw [execNetTargetComplete, hm]
  refine congrArg Host.Outcome.next ((target_goes hf hv hp).trans ?_)
  dsimp only
  rw [hr]

variable (hr : m.recv = some ws)
include hr

theorem execNetTargetComplete_counted (hd : m.done = true) : exec (.netTargetComplete id) s =
    .next ((s.countPosted m.clus ws false).endMsg m.peer id m.msg none) := by
  change execNetTargetComplete id s = _
  rw [execNetTargetComplete, hm]
  refine congrArg Host.Outcome.next ((target_goes hf hv hp).trans ?_)
  dsimp only
  rw [hr]
  exact if_pos hd

variable (hd : m.done = false)
include hd

theorem execNetTargetComplete_badWord {b : Nat} (hw : s.netSegs m.clus m.part (nLasp ws) (nOpnd1 ws) 8 rWRITE = (.bad b, u)) :
    exec (.netTargetComplete id) s = .next ((u.countPosted m.clus ws true).endMsg m.peer id m.msg (some (if b = 5 then 8 else 2))) := by
  change execNetTargetComplete id s = _
  rw [execNetTargetComplete, hm]
  refine congrArg Host.Outcome.next ((target_goes hf hv hp).trans ?_)
  dsimp only
  rw [hr]
  refine (if_neg (by rw [hd]; nofun)).trans ?_
  rw [hw]
  rfl

theorem execNetTargetComplete_word {x : Place} {n : Nat} {rest : List (Place × Nat)}
    (hw : s.netSegs m.clus m.part (nLasp ws) (nOpnd1 ws) 8 rWRITE = (.ok ((x, n) :: rest), u)) (hheld : u.eHeld x = false) (hdown : u.homeDown x 8 = none)
    {w : Lease × State} (hwr : u.eWrite x (bytesOf 8 (m.len + 2 ^ 32 * m.peer)) = w) : exec (.netTargetComplete id) s =
      .next { w.2 with netMsgs := insK w.2.netMsgs id { m with done := true, vis := some w.1 } } := by
  change execNetTargetComplete id s = _
  rw [execNetTargetComplete, hm]
  refine congrArg Host.Outcome.next ((target_goes hf hv hp).trans ?_)
  dsimp only
  rw [hr]
  refine (if_neg (by rw [hd]; nofun)).trans ?_
  rw [hw]
  refine (if_neg (by rw [hheld]; nofun)).trans ((if_neg (by rw [hdown]; nofun)).trans ?_)
  rw [hwr]

end target

/-! ## Completion at the initiator (R491) -/

section initiator
variable {o : NetOp} (ho : findK s.netOps id = some o)

/-- R491: when an operation is complete: it has failed, or its packets are acknowledged and reported, or its data are visible. -/
def NetOp.complete (o : NetOp) (s : State) (id : Nat) : Prop :=
  (o.fail.isSome = true ∧ ∀ v, o.vis = some v → Lease.before v s.lease = true) ∨
  (o.fail = none ∧ o.report = true ∧ nKind o.words ≤ 2 ∧ o.total ≤ o.sent ∧ ∀ x ∈ (s.peer (nPeerNo o.words)).unack, x.op ≠ id) ∨
  (o.fail = none ∧ o.report = true ∧ (nKind o.words = 3 ∨ nKind o.words = 4) ∧ ∀ v, o.vis = some v → Lease.before v s.lease = true)

/-- The time of a visibility has passed, where there is one. -/
theorem vis_passed (vis : Option Lease) (now : Lease) : (∀ v, vis = some v → Lease.before v now = true) →
    (match vis with | some v => Lease.before v now | none => true) = true := by
  intro h
  cases vis with
  | none => rfl
  | some v => exact h v rfl

theorem complete_goes (hc : o.complete s id) {a b : State} :
    (if if o.fail.isNone then !(o.report && (if nKind o.words ≤ 2 ∨ nKind o.words = 6 then
        decide (o.total ≤ o.sent) && !((s.peer (nPeerNo o.words)).unack.any fun k => k.op == id)
          else match o.vis with | some v => Lease.before v s.lease | none => true))
      else !(match o.vis with | some v => Lease.before v s.lease | none => true) then a else b) = b := by
  refine if_neg ?_
  rcases hc with ⟨hf, hv⟩ | ⟨hf, hr, hk, ht, hu⟩ | ⟨hf, hr, hk, hv⟩
  · obtain ⟨x, hx⟩ := Option.isSome_iff_exists.1 hf
    simp [hx, vis_passed o.vis s.lease hv]
  · have hany : ((s.peer (nPeerNo o.words)).unack.any fun k => k.op == id) = false :=
      List.any_eq_false.2 fun x hx => by simpa using hu x hx
    rw [hf, hr, if_pos (show nKind o.words ≤ 2 ∨ nKind o.words = 6 from .inl hk), hany, decide_eq_true ht]
    simp
  · have hn : ¬(nKind o.words ≤ 2 ∨ nKind o.words = 6) := by omega
    simp [hf, hr, if_neg hn, vis_passed o.vis s.lease hv]

/-- R491: the counter of an operation that ends. -/
def State.countOp (s : State) (o : NetOp) : State := if wsBit o.words 232 then s.ctrEnd o.cl (wsBits o.words 231 224) o.fail.isSome else s

include ho

theorem execNetInitiatorComplete_eq (hc : o.complete s id) (hu : ({ s with netOps := delK s.netOps id } : State) = u) :
    exec (.netInitiatorComplete id) s = .next (State.countOp
      (match o.tok.bind fun c => ((findK (u.core c).netTrk (wsBits o.words 464 459)).filter (·.stage == 2)).map fun t => (c, t) with
        | some (c, t) => u.endNet c (wsBits o.words 464 459) t o.fail
        | none => u) o) := by
  subst hu
  change execNetInitiatorComplete id s = _
  rw [execNetInitiatorComplete, ho]
  exact congrArg Host.Outcome.next ((complete_goes hc).trans rfl)

theorem execNetInitiatorComplete_noToken (hc : o.complete s id) (ht : o.tok = none) :
    exec (.netInitiatorComplete id) s = .next (({ s with netOps := delK s.netOps id } : State).countOp o) := by
  rw [execNetInitiatorComplete_eq ho hc rfl, ht]
  rfl

theorem execNetInitiatorComplete_token (hc : o.complete s id) {x : Nat} {t : NetTrk} (hx : o.tok = some x)
    (ht : findK (s.core x).netTrk (wsBits o.words 464 459) = some t) (hu : ({ s with netOps := delK s.netOps id } : State) = u) :
    exec (.netInitiatorComplete id) s =
      .next (State.countOp (if t.stage = 2 then u.endNet x (wsBits o.words 464 459) t o.fail else u) o) := by
  have htu : findK (u.core x).netTrk (wsBits o.words 464 459) = some t := by rw [← hu]; exact ht
  rw [execNetInitiatorComplete_eq ho hc hu, hx, Option.bind_some, htu]
  by_cases h : t.stage = 2
  · rw [if_pos h, Option.filter_some, if_pos (beq_iff_eq.2 h)]
    rfl
  · rw [if_neg h, Option.filter_some, if_neg (by simpa using h)]
    rfl

end initiator

/-! ## Peers, registrations and writes of registers (R303, R426, R484, R495, R496) -/

theorem execRevocationComplete_eq {r : Nat} (hr : (s.regOf cl r).state = 2)
    (hm : ∀ m ∈ s.netMsgs, m.2.kind = 1 ∨ m.2.clus ≠ cl ∨ m.2.key ≠ r ∨ m.2.fail.isSome = true) :
    exec (.revocationComplete cl r) s = .next ((s.modCr cl (nREG r 0) fun v => dwSet v 1 0 0).raise cl 3 3 [BitVec.ofNat 32 r]) := by
  change execRevocationComplete cl r s = _
  refine congrArg Host.Outcome.next (if_neg ?_)
  rintro (h | h)
  · exact h hr
  · obtain ⟨m, hmem, h⟩ := List.any_eq_true.1 h
    simp only [Bool.and_eq_true, bne_iff_ne, beq_iff_eq, Option.isNone_iff_eq_none] at h
    obtain ⟨⟨⟨hk, hcl⟩, hkey⟩, hf⟩ := h
    rcases hm m hmem with h | h | h | h
    · exact hk h
    · exact h hcl
    · exact h hkey
    · rw [hf] at h
      cases h

section register
variable {num : BitVec 24} {v : DWord} (hcl : cl < 16)
include hcl

theorem execRegisterWrite_made (ha : s.crAllowed cl 0 num.toNat = true) (hw : ∀ k < 8, num.toNat = nWCTX k → s.wctxWaits k v = false) :
    exec (.registerWrite cl num v) s = .next (s.writeCr cl 0 num.toNat v) := by
  change execRegisterWrite cl num v s = _
  refine congrArg Host.Outcome.next ((if_neg ?_).trans (if_neg ?_))
  · rw [ha]
    rintro (h | h)
    · omega
    · cases h
  · rintro ⟨hlo, hhi, h⟩
    have hk : num.toNat - nWCTX 0 < 8 := by
      simp only [nWCTX, crNum] at hlo hhi ⊢
      omega
    have hn : num.toNat = nWCTX (num.toNat - nWCTX 0) := by
      simp only [nWCTX, crNum] at hlo ⊢
      omega
    rw [hw _ hk hn] at h
    cases h

omit hcl in
theorem execRegisterWrite_refused (ha : s.crAllowed cl 0 num.toNat = false) : exec (.registerWrite cl num v) s = .next s := by
  change execRegisterWrite cl num v s = _
  exact congrArg Host.Outcome.next (if_pos (.inr (by rw [ha]; rfl)))

end register

end

/-- Settles O60: each event by the branch of it that its hypotheses choose; an arriving packet by `execNetPacketArrive_eq`, a
transmission by `netTransmit_eq`, a completion by `target_goes` and `complete_goes`. -/
theorem networkEvents : Obligations.NetworkEvents := by
  intro s c cl q id peer r psn v num i a p k me
  refine ⟨fun e t ht => ⟨fun h0 hm => execNetIssueUnitServe_malformed ht h0 hm,
      fun x u w y h0 h5 h16 hen hpart hm hc => execNetIssueUnitServe_claims ht h0 h5 h16 hen hpart hm hc,
      fun u h0 hp => execNetIssueUnitServe_writes ht h0 hp, fun b u h0 hp => execNetIssueUnitServe_fails ht h0 hp⟩,
    fun ws u hh => ⟨fun hg => execNetWrTake_starts hh hg, fun hg hm => execNetGateOpen_starts hh hg hm⟩,
    fun o kind ho hk hf hs hroom hturn hfree hfirst => ?_,
    fun ws u hr hh => ⟨fun hm => execNetPostReceive_malformed hr hh hm, fun hm => ⟨fun b x hp => execNetPostReceive_badPlace hr hh hm hp,
      fun segs word x y hp hw => ⟨execNetPostReceive_stays hr hh hm hp hw, postedHead_of_checked hh hm hp hw⟩⟩⟩,
    fun n x fresh hv h1 h6 h5 hn he => ⟨fun hd => execNetPacketArrive_again hv h1 h6 h5 hn he rfl hd,
      fun j m w hk hc hb hw hm hfree => execNetPacketArrive_places hv h1 h6 h5 hn he rfl hc hb hw hk hm hfree,
      fun hk hc hb hw => ⟨fun ha => execNetPacketArrive_noRequest hv h1 h6 h5 hn he rfl hc hb hw hk ha,
        fun o ha hfree => execNetPacketArrive_responds hv h1 h6 h5 hn he rfl hc hb hw hk ha hfree⟩⟩,
    fun n hn he hs hr hc => execNetAckArrive_cumulative hn he hs hr hc, fun x hx ht => ⟨fun h => ?_, fun h => ?_⟩,
    fun m hm hf hp hv hr => execNetTargetComplete_put hm hf hp hv hr,
    fun m ws hm hf hp hv hr => ⟨fun hd => execNetTargetComplete_counted hm hf hp hv hr hd, fun b u hd hw => execNetTargetComplete_badWord hm hf hp hv hr hd hw,
      fun x n rest u hd hw hheld hdown => execNetTargetComplete_word hm hf hp hv hr hd hw hheld hdown rfl⟩,
    fun o ho hc => ⟨fun ht => execNetInitiatorComplete_noToken ho hc ht, fun x t hx ht => execNetInitiatorComplete_token ho hc hx ht rfl⟩,
    fun hp => congrArg Host.Outcome.next (if_neg (by omega)), fun hr => ⟨congrArg Host.Outcome.next (if_neg (by omega)), congrArg Host.Outcome.next (if_neg (by omega))⟩,
    fun hr hm => execRevocationComplete_eq hr hm, fun hcl ha hw => execRegisterWrite_made hcl ha hw, fun _ ha => execRegisterWrite_refused ha⟩
  · have hsent := netTransmit_eq ho hk hf hs hroom hturn hfree rfl hfirst rfl rfl
    refine ⟨fun h => ?_, fun h => ?_, fun h => ?_, fun h => ?_⟩ <;> subst h <;> exact congrArg Host.Outcome.next hsent
  · exact (execNetRetransmitTimeout_eq hx ht).trans (congrArg Host.Outcome.next (if_neg (by omega)))
  · exact (execNetRetransmitTimeout_eq hx ht).trans (congrArg Host.Outcome.next (if_pos h))

end Sys2Proof.Machine

namespace Sys2Proof.Machine

/-! ## What the advance of a path leaves beside memory and its threads: queues, banks, SATF, walkers and control registers -/

/-- From `s` to `t` no queue, accumulator bank, SATF or walker has changed, and no control register unless `c` is a serai. -/
structure Aside (c : Nat) (s t : State) : Prop where
  crs : isSerai c = false → t.crs = s.crs
  waves : ∀ c, (t.core c).queues = (s.core c).queues ∧ (t.core c).banks = (s.core c).banks ∧
    ∀ u, (t.wave c u).satf = (s.wave c u).satf ∧ (t.wave c u).walkers = (s.wave c u).walkers

namespace Aside
variable {c : Nat} {s t u : State}

theorem refl (s : State) : Aside c s s := ⟨fun _ => rfl, fun _ => ⟨rfl, rfl, fun _ => ⟨rfl, rfl⟩⟩⟩

theorem trans (h : Aside c s t) (h' : Aside c t u) : Aside c s u where
  crs := fun hc => (h'.crs hc).trans (h.crs hc)
  waves := fun k => by
    obtain ⟨q, b, w⟩ := h.waves k
    obtain ⟨q', b', w'⟩ := h'.waves k
    exact ⟨q'.trans q, b'.trans b, fun n => ⟨(w' n).1.trans (w n).1, (w' n).2.trans (w n).2⟩⟩

theorem of_cores (h1 : isSerai c = false → t.crs = s.crs) (h2 : t.cores = s.cores) : Aside c s t :=
  ⟨h1, fun k => by simp [State.wave, State.core, h2]⟩

theorem ite {p : Prop} [Decidable p] (h1 : Aside c s t) (h2 : Aside c s u) : Aside c s (if p then t else u) := by
  split
  · exact h1
  · exact h2

theorem foldl {α : Type} {f : State → α → State} (hf : ∀ s x, Aside c s (f s x)) (xs : List α) (s : State) : Aside c s (xs.foldl f s) :=
  List.foldlRecOn xs f (refl s) fun _ h x _ => h.trans (hf _ x)

end Aside

section
variable {c : Nat} (s : State)

theorem aside_modWave (k n : Nat) {f : Wave → Wave} (hf : ∀ w, (f w).satf = w.satf ∧ (f w).walkers = w.walkers) : Aside c s (s.modWave k n f) where
  crs := fun _ => rfl
  waves := fun i => by
    refine ⟨?_, ?_, fun u => ?_⟩
    · rw [State.modWave, core_modCore]
      split
      next h => rw [h]; rfl
      next => rfl
    · rw [State.modWave, core_modCore]
      split
      next h => rw [h]; rfl
      next => rfl
    · rw [wave_modWave]
      split
      next h => rw [h.1, h.2]; exact hf _
      next => exact ⟨rfl, rfl⟩

theorem aside_modThread (k n l : Nat) (f : Thread → Thread) : Aside c s (s.modThread k n l f) := aside_modWave s k n fun _ => ⟨rfl, rfl⟩

/-- A fold of updates that each leave SATF and the walkers leaves them. -/
theorem still_foldl {f : Wave → Nat → Wave} (hf : ∀ w l, (f w l).satf = w.satf ∧ (f w l).walkers = w.walkers) (ls : List Nat) (w : Wave) :
    (ls.foldl f w).satf = w.satf ∧ (ls.foldl f w).walkers = w.walkers :=
  List.foldlRecOn (motive := fun v => v.satf = w.satf ∧ v.walkers = w.walkers) ls f ⟨rfl, rfl⟩ fun v h l _ =>
    ⟨(hf v l).1.trans h.1, (hf v l).2.trans h.2⟩

theorem aside_modThreads (k n : Nat) (m : Mask) (f : Nat → Thread → Thread) : Aside c s (s.modThreads k n m f) :=
  aside_modWave s k n fun w => still_foldl (f := fun w l => w.modThread l (f l)) (fun _ _ => ⟨rfl, rfl⟩) _ w

theorem aside_wantLine (k n : Nat) (pc : DWord) : Aside c s (s.wantLine k n pc) where
  crs := fun _ => rfl
  waves := fun i => by
    unfold State.wantLine State.wave
    rw [core_modCore]
    split
    next h => rw [h]; split <;> exact ⟨rfl, rfl, fun _ => ⟨rfl, rfl⟩⟩
    next => exact ⟨rfl, rfl, fun _ => ⟨rfl, rfl⟩⟩

theorem aside_suspect (cl kind target : Nat) : Aside c s (s.suspect cl kind target) := by
  unfold State.suspect
  exact .ite (.refl s) (.of_cores (fun _ => rfl) rfl)

theorem aside_foundSram (cl code : Nat) (finfo : Word) (extra : DWord) : Aside c s (s.foundSram cl code finfo extra) := by
  unfold State.foundSram
  refine .ite (.trans ?_ (aside_suspect _ _ _ _)) (.refl s)
  exact .of_cores (fun _ => rfl) rfl

theorem aside_monitorFault (cl : Nat) : Aside c s (s.monitorFault cl) := by
  have hr : ∀ t : State, Aside c t (t.toRestart cl) := fun t => .ite (.refl t) (.of_cores (fun _ => rfl) rfl)
  unfold State.monitorFault
  split
  · refine .trans ?_ (hr _)
    exact .of_cores (fun _ => rfl) rfl
  · exact hr s

/-- R32, R411: only a PAGE fault counts in a control register; the entry of a serai thread is in registers of its own. -/
theorem aside_faultAt (t l issue : Nat) {code : Nat} (hcode : code ≠ 6) (finfo : Word) (extra pc word : DWord) :
    Aside c s (s.faultAt c t l issue code finfo extra pc word) := by
  unfold State.faultAt
  rw [if_neg hcode]
  dsimp only
  cases hc : isSerai c with
  | true =>
    rw [if_pos rfl]
    refine (aside_foundSram s (clusterOf c) code finfo extra).trans (.ite ?_ ?_)
    · exact .trans (aside_modThread _ _ _ _ _) (aside_monitorFault _ _)
    · unfold State.enterMonitor
      refine .trans ?_ (aside_modThread _ _ _ _ _)
      exact .of_cores (fun h => absurd (hc.symm.trans h) nofun) rfl
  | false =>
    rw [if_neg Bool.false_ne_true]
    refine .trans (aside_modWave s c t ?_) (.of_cores (fun _ => rfl) rfl)
    exact fun _ => ⟨rfl, rfl⟩

theorem still_arrive (w : Wave) (a : DWord) (m : Mask) : (w.arrive a m).satf = w.satf ∧ (w.arrive a m).walkers = w.walkers :=
  still_foldl (fun v l => by split <;> exact ⟨rfl, rfl⟩) _ _

theorem still_leaveHeader (w : Wave) (a : DWord) (conv : Bool) (m : Mask) :
    (w.leaveHeader a conv m).satf = w.satf ∧ (w.leaveHeader a conv m).walkers = w.walkers :=
  still_foldl (fun v l => by split <;> exact ⟨rfl, rfl⟩) _ _

theorem aside_enterHeader (t : Nat) (m : Mask) (issue : Nat) (a w : DWord) : Aside c s (s.enterHeader c t m issue a w) := by
  have hmove : ∀ u : State, Aside c u (u.modWave c t fun wv =>
      (if (Header.ofWord w).conv then wv.arrive a m else wv).leaveHeader a (Header.ofWord w).conv m) := fun u => by
    refine aside_modWave u c t fun wv => ?_
    obtain ⟨h1, h2⟩ := still_leaveHeader (if (Header.ofWord w).conv then wv.arrive a m else wv) a (Header.ofWord w).conv m
    have harr : (if (Header.ofWord w).conv then wv.arrive a m else wv).satf = wv.satf ∧
        (if (Header.ofWord w).conv then wv.arrive a m else wv).walkers = wv.walkers := by
      split
      · exact still_arrive wv a m
      · exact ⟨rfl, rfl⟩
    exact ⟨h1.trans harr.1, h2.trans harr.2⟩
  unfold State.enterHeader
  refine .ite ?bad (.ite ?_ (.ite ?_ (.trans ?_ (aside_wantLine _ _ _ _))))
  case bad => exact (aside_modThreads s c t m _).trans (.foldl (fun u l => aside_faultAt u t l issue (by decide) _ _ _ _) _ _)
  all_goals exact (aside_modThreads s c t m _).trans (hmove _)

theorem aside_fallTo (t : Nat) (m : Mask) (issue : Nat) (a : DWord) : Aside c s (s.fallTo c t m issue a) := by
  unfold State.fallTo
  split
  · exact aside_modThreads _ _ _ _ _
  · refine .ite (aside_modThreads _ _ _ _ _) (.ite ?_ (aside_enterHeader _ _ _ _ _ _))
    exact (aside_modThreads _ _ _ _ _).trans (.foldl (fun u l => aside_faultAt u t l issue (by decide) _ _ _ _) _ _)

theorem aside_moveLanes (m : Mask) (call : Bool) (d : DWord) : Aside c s (s.moveLanes m call d) := by
  unfold State.moveLanes
  refine .ite (.refl s) (aside_modWave _ _ _ fun w => ?_)
  exact still_foldl (f := fun w l => w.leave l s.cur.pc d) (fun _ _ => ⟨rfl, rfl⟩) _ w

theorem aside_advance (m : Mask) : Aside s.cur.core s (s.advance m) := by
  unfold State.advance
  refine .ite ?_ (.trans ?_ (aside_fallTo _ _ _ _ _))
  all_goals exact (aside_modThreads s _ _ m _).trans (.trans (aside_modThreads _ _ _ _ _) (aside_moveLanes _ _ _ _))

theorem aside_finish : Aside s.cur.core s s.finish := by
  rw [finish_eq]
  refine .ite (.refl s) (.trans (t := s.issued) ?_ (aside_advance s.issued _))
  exact aside_modWave s _ _ fun _ => ⟨rfl, rfl⟩

end
end Sys2Proof.Machine

namespace Sys2Proof.Machine

/-! ## Updates of a thread for each row -/

/-- Each row's lane is updated, in the order of the rows. -/
def State.modRows {α : Type} (s : State) (rows : List (Nat × α)) (f : Nat × α → Thread → Thread) : State :=
  rows.foldl (fun s p => s.modLane p.1 (f p)) s

section
variable {α : Type} (s : State) (rows : List (Nat × α)) (f : Nat × α → Thread → Thread)

theorem cur_modRows : (s.modRows rows f).cur = s.cur := foldl_keeps State.cur (fun (s : State) (p : Nat × α) => s.modLane p.1 (f p)) (fun _ _ => rfl) rows s

theorem memory_modRows : SameMemory s (s.modRows rows f) :=
  .of_eq (foldl_keeps State.sram (fun (s : State) (p : Nat × α) => s.modLane p.1 (f p)) (fun _ _ => rfl) rows s) (foldl_keeps State.hbm (fun (s : State) (p : Nat × α) => s.modLane p.1 (f p)) (fun _ _ => rfl) rows s)
    (foldl_keeps State.sramTag (fun (s : State) (p : Nat × α) => s.modLane p.1 (f p)) (fun _ _ => rfl) rows s) (foldl_keeps State.hbmTag (fun (s : State) (p : Nat × α) => s.modLane p.1 (f p)) (fun _ _ => rfl) rows s)

theorem aside_modRows {c : Nat} : Aside c s (s.modRows rows f) := .foldl (fun u _ => aside_modThread u _ _ _ _) rows s

theorem thread_modLane (u : State) (l : Nat) (g : Thread → Thread) (c t j : Nat) :
    (u.modLane l g).thread c t j = if c = u.cur.core ∧ t = u.cur.turn ∧ j = l then g (u.curThread l) else u.thread c t j := by
  rw [State.modLane, thread_modThread]
  rfl

theorem thread_modRows_other {c t l : Nat} (h : c ≠ s.cur.core ∨ t ≠ s.cur.turn ∨ l ∉ rows.map (·.1)) :
    (s.modRows rows f).thread c t l = s.thread c t l := by
  induction rows generalizing s with
  | nil => rfl
  | cons p ps ih =>
    rw [List.map_cons, List.mem_cons, not_or] at h
    refine (ih (s.modLane p.1 (f p)) (h.imp_right fun h => h.imp_right And.right)).trans ?_
    rw [thread_modLane, if_neg]
    rintro ⟨rfl, rfl, rfl⟩
    simp at h

variable {rows}

theorem curThread_modRows (hn : (rows.map (·.1)).Nodup) {p : Nat × α} (hp : p ∈ rows) :
    (s.modRows rows f).curThread p.1 = f p (s.curThread p.1) := by
  induction rows generalizing s with
  | nil => nomatch hp
  | cons a as ih =>
    obtain ⟨hna, hn⟩ := List.nodup_cons.1 hn
    have hthread : ∀ j, (s.modLane a.1 (f a)).curThread j = if j = a.1 then f a (s.curThread a.1) else s.curThread j := fun j => by
      rw [State.curThread, thread_modLane]
      exact if_congr_val ⟨fun h => h.2.2, fun h => ⟨rfl, rfl, h⟩⟩ (fun _ => rfl) rfl
    rcases List.mem_cons.1 hp with rfl | hp
    · have hrest : ((s.modLane p.1 (f p)).modRows as f).curThread p.1 = (s.modLane p.1 (f p)).curThread p.1 := by
        rw [State.curThread, cur_modRows]
        exact thread_modRows_other _ _ _ (.inr (.inr hna))
      exact hrest.trans ((hthread p.1).trans (if_pos rfl))
    · refine (ih (s.modLane a.1 (f a)) hn hp).trans ?_
      rw [hthread, if_neg]
      exact fun h => hna (List.mem_map.2 ⟨p, hp, h⟩)

end

/-! ## The flags and the advance, after D is written -/

/-- What the flags and the advance of the path leave of the state in which D is written. -/
structure Delivered (v t : State) (fl : Flags) : Prop where
  keeps : Keeps v t
  crs : isSerai v.cur.core = false → t.crs = v.crs
  cores : ∀ c, (t.core c).queues = (v.core c).queues ∧ (t.core c).banks = (v.core c).banks ∧ ∀ u, (t.wave c u).walkers = (v.wave c u).walkers
  satf : (t.wave v.cur.core v.cur.turn).satf = (v.wave v.cur.core v.cur.turn).satf ||| fl

/-- R101: flags that are raised: they are ORed into SATF, and no queue, bank, walker or control register changes. -/
theorem curFlags_sets (v : State) (fl : Flags) : (v.curFlags fl).crs = v.crs ∧
    (∀ c, ((v.curFlags fl).core c).queues = (v.core c).queues ∧ ((v.curFlags fl).core c).banks = (v.core c).banks ∧
      ∀ u, ((v.curFlags fl).wave c u).walkers = (v.wave c u).walkers) ∧
    ((v.curFlags fl).wave v.cur.core v.cur.turn).satf = (v.wave v.cur.core v.cur.turn).satf ||| fl := by
  unfold State.curFlags State.addFlags
  by_cases hfl : fl = 0
  · rw [if_pos hfl, hfl]
    exact ⟨rfl, fun _ => ⟨rfl, rfl, fun _ => rfl⟩, BitVec.or_zero.symm⟩
  · rw [if_neg hfl]
    have hwalk : ∀ (k : Core) (n u : Nat), ((k.modWave n fun w => { w with satf := w.satf ||| fl }).wave u).walkers = (k.wave u).walkers := fun k n u => by
      by_cases hu : u = n
      · subst hu; rw [wave_modWave_same]
      · rw [wave_modWave_other _ _ hu]
    refine ⟨rfl, fun c => ?_, ?_⟩
    · unfold State.wave
      rw [core_modCore]
      split
      next h => rw [h]; exact ⟨rfl, rfl, hwalk _ _⟩
      next => exact ⟨rfl, rfl, fun _ => rfl⟩
    · unfold State.wave
      rw [core_modCore_same]
      exact congrArg Wave.satf (wave_modWave_same (v.core v.cur.core) v.cur.turn fun w => { w with satf := w.satf ||| fl })

theorem delivered (v : State) (fl : Flags) : Delivered v (v.curFlags fl).finish fl := by
  have hcur : (v.curFlags fl).cur = v.cur := (keeps_curFlags v fl).cur
  have hfin := aside_finish (v.curFlags fl)
  obtain ⟨hcrs, hcores, hsatf⟩ := curFlags_sets v fl
  refine ⟨(keeps_curFlags v fl).trans (keeps_finish _), fun h => (hfin.crs (hcur ▸ h)).trans hcrs, fun c => ?_, ?_⟩
  · obtain ⟨q, b, w⟩ := hfin.waves c
    obtain ⟨q', b', w'⟩ := hcores c
    exact ⟨q.trans q', b.trans b', fun u => (w u).2.trans (w' u)⟩
  · exact (((hfin.waves _).2.2 _).1).trans hsatf

/-! ## The bodies of lane instructions -/

theorem laneValue_deliver (s : State) (d : DstReq) (rows : List (Nat × List (List Word))) (f : Nat → List (List Word) → List Word) :
    laneValue s d rows f = s.deliver d (rows.map fun p => (p.1, f p.1 p.2)) 0 := by
  have h : ∀ v : State, v.curFlags 0 = v := fun v => by
    unfold State.curFlags State.addFlags
    exact if_pos rfl
  rw [State.deliver, h]
  rfl

/-- The bodies run in the order of the rows, each in the state the earlier ones leave. -/
theorem foldl_bodies (body : State → Nat → List (List Word) → State × List Word × Flags) (rows : List (Nat × List (List Word)))
    (a : State × List (Nat × List Word) × Flags) :
    let r := rows.foldl (fun (a : State × List (Nat × List Word) × Flags) p =>
      ((body a.1 p.1 p.2).1, a.2.1 ++ [(p.1, (body a.1 p.1 p.2).2.1)], a.2.2 ||| (body a.1 p.1 p.2).2.2)) a
    r.2.1.map (·.1) = a.2.1.map (·.1) ++ rows.map (·.1) ∧
    ∀ R : State → State → Prop, (∀ a, R a a) → (∀ a b c, R a b → R b c → R a c) → (∀ a l vs, R a (body a l vs).1) → R a.1 r.1 := by
  induction rows generalizing a with
  | nil => exact ⟨(List.append_nil _).symm, fun R hr _ _ => hr _⟩
  | cons p ps ih =>
    obtain ⟨h1, h2⟩ := ih ((body a.1 p.1 p.2).1, a.2.1 ++ [(p.1, (body a.1 p.1 p.2).2.1)], a.2.2 ||| (body a.1 p.1 p.2).2.2)
    refine ⟨h1.trans ?_, fun R hr ht hb => ht _ _ _ (hb a.1 p.1 p.2) (h2 R hr ht hb)⟩
    rw [List.map_append, List.append_assoc]
    rfl

/-! ## Destinations (R22, R210, R220) -/

section
variable (s : State) {n al : Nat} {outs : List (Nat × List Word)}

theorem writeDst_reg (r : Nat) : s.writeDst { o := .reg r, n, al } outs = s.modRows outs fun p t => t.setRegs (t.step 0 r) p.2 := by
  cases outs <;> rfl

theorem writeDst_special (k : Nat) : s.writeDst { o := .special k, n, al } outs = s := by
  cases outs <;> rfl

/-- R220: the entries that a push adds to its port's queue. -/
def pushed (n : Nat) (outs : List (Nat × List Word)) : List QEntry :=
  (List.range n).map fun i => .fifo (outs.foldl (fun m p => putK 0 m p.1 (p.2.getD i 0)) [])

theorem writeDst_port {p q : Nat} (hq : (s.core s.cur.core).portQueue p = some q) (hne : outs ≠ []) :
    s.writeDst { o := .port p, n, al } outs = s.modCore s.cur.core fun k => k.setQueue q (k.queue q ++ pushed n outs) := by
  unfold State.writeDst
  refine (if_neg (by simpa using hne)).trans ?_
  dsimp only
  rw [hq] <;> rfl

/-- R211: a lane's element reaches the place its walker names, where the access passes its checks. -/
def State.walkerStore (s : State) (w : Walker) (p : Nat × List Word) : State :=
  match s.checkWalker w p.1 rWRITE with
  | .ok pl _ => s.issueStore p.1 pl (2 ^ w.esize) (natOfWords p.2 % 2 ^ (8 * 2 ^ w.esize)) .data false none
  | _ => s

theorem writeDst_walker (i : Nat) (hne : outs ≠ []) : s.writeDst { o := .walker i, n, al } outs =
    (outs.foldl (fun u p => u.walkerStore ((s.wave s.cur.core s.cur.turn).walker i) p) s).modCurWave fun wv => wv.modWalker i Walker.advance := by
  unfold State.writeDst
  exact if_neg (by simpa using hne)

end

/-! ### A walker's stores -/

theorem checkWalker_of_crs {s t : State} (h1 : t.crs = s.crs) (h2 : t.cls = s.cls) (h3 : t.cur = s.cur) (w : Walker) (l right : Nat) :
    t.checkWalker w l right = s.checkWalker w l right := by
  have hflat : ∀ c a n r, t.checkFlat c a n r = s.checkFlat c a n r := fun c a n r => by
    unfold State.checkFlat State.spOk State.ccr State.cr State.crT State.partOf State.cl
    rw [h1, h2]
  unfold State.checkWalker
  dsimp only
  rw [h3, hflat]

/-- No own-slice element that a lane's walker names holds the byte at `a`. -/
def State.awayFrom (s : State) (w : Walker) (outs : List (Nat × List Word)) (a : Nat) : Prop :=
  ∀ p ∈ outs, ∀ b e, s.checkWalker w p.1 rWRITE = .ok (.sram b) e → isOwn s.cur.core (.sram b) = true → a < b ∨ b + 2 ^ w.esize ≤ a

theorem esize_ne (w : Walker) : 2 ^ w.esize ≠ 16 := by
  have h : w.esize < 4 := Nat.mod_lt _ (by decide)
  exact fun h16 => by
    have := Nat.pow_le_pow_right (n := 2) (by decide) (Nat.le_of_lt_succ h)
    omega

/-- What one element's store leaves of memory: the tags, and the bytes it does not name. -/
theorem walkerStore_memory (u : State) (w : Walker) (p : Nat × List Word) : (u.walkerStore w p).sramTag = u.sramTag ∧
    ∀ a, u.awayFrom w [p] a → (u.walkerStore w p).sramByte a = u.sramByte a := by
  unfold State.walkerStore
  split
  next pl e hchk =>
    cases h : isOwn u.cur.core pl with
    | false =>
      rw [issueStore_away h]
      extract_lets x
      split <;> exact ⟨rfl, fun _ _ => rfl⟩
    | true =>
      obtain ⟨b, rfl⟩ := own_sram h
      rw [issueStore_own_data h (esize_ne w)]
      refine ⟨rfl, fun a ha => (sramByte_wrHome_bytesOf u b _ _ a).trans (if_neg ?_)⟩
      rintro ⟨h1, h2, -⟩
      rcases ha p (.head _) b e hchk h with h3 | h3 <;> omega
  next => exact ⟨rfl, fun _ _ => rfl⟩

theorem StoreFrame.refl (s : State) : StoreFrame s s := .of_eq rfl rfl rfl rfl rfl rfl id

theorem storeFrame_walkerStore (u : State) (w : Walker) (p : Nat × List Word) : StoreFrame u (u.walkerStore w p) := by
  unfold State.walkerStore
  split
  · exact storeFrame_issueStore _ _ _ _ _ _ _ _
  · exact .refl u

theorem walkerStores_frame (s : State) (w : Walker) (outs : List (Nat × List Word)) :
    let t := outs.foldl (fun u p => u.walkerStore w p) s
    StoreFrame s t ∧ t.sramTag = s.sramTag ∧ ∀ a, s.awayFrom w outs a → t.sramByte a = s.sramByte a := by
  refine List.foldlRecOn (motive := fun t => StoreFrame s t ∧ t.sramTag = s.sramTag ∧ ∀ a, s.awayFrom w outs a → t.sramByte a = s.sramByte a)
    outs _ ⟨.refl s, rfl, fun _ _ => rfl⟩ fun u hu p hp => ?_
  obtain ⟨hf, htag, hbyte⟩ := hu
  obtain ⟨htag', hbyte'⟩ := walkerStore_memory u w p
  refine ⟨hf.trans (storeFrame_walkerStore u w p), htag'.trans htag, fun a ha => (hbyte' a ?_).trans (hbyte a ha)⟩
  intro x hx b e hchk hown
  rw [List.mem_singleton] at hx
  subst hx
  rw [checkWalker_of_crs hf.crs hf.cls hf.cur] at hchk
  rw [hf.cur] at hown
  exact ha x hp b e hchk hown

/-! ## Whatever D is, the issuing path and SATF stay until the flags -/

theorem satf_modWalker (v : State) (i c u : Nat) : ((v.modCurWave fun wv => wv.modWalker i Walker.advance).wave c u).satf = (v.wave c u).satf := by
  rw [State.modCurWave, wave_modWave]
  split
  next h => rw [h.1, h.2]; rfl
  next => rfl

theorem writeDst_cur_satf (s : State) (d : DstReq) (outs : List (Nat × List Word)) : (s.writeDst d outs).cur = s.cur ∧
    ∀ c u, ((s.writeDst d outs).wave c u).satf = (s.wave c u).satf := by
  by_cases hne : outs = []
  · subst hne
    exact ⟨rfl, fun _ _ => rfl⟩
  obtain ⟨o, n, al⟩ := d
  cases o with
  | reg r =>
    rw [writeDst_reg]
    exact ⟨cur_modRows _ _ _, fun c u => (((aside_modRows (c := c) s outs _).waves c).2.2 u).1⟩
  | port p =>
    cases hq : (s.core s.cur.core).portQueue p with
    | some q =>
      rw [writeDst_port s hq hne]
      refine ⟨rfl, fun c u => congrArg Wave.satf ?_⟩
      unfold State.wave
      rw [core_modCore]
      split
      next h => rw [h]; rfl
      next => rfl
    | none =>
      have hs : s.writeDst { o := .port p, n, al } outs = s := by
        unfold State.writeDst
        refine (if_neg (by simpa using hne)).trans ?_
        dsimp only
        rw [hq] <;> rfl
      rw [hs]
      exact ⟨rfl, fun _ _ => rfl⟩
  | walker i =>
    rw [writeDst_walker s i hne]
    obtain ⟨hf, -, -⟩ := walkerStores_frame s ((s.wave s.cur.core s.cur.turn).walker i) outs
    exact ⟨hf.cur, fun c u => (satf_modWalker _ _ _ _).trans ((hf.waves c).2.2 u).1⟩
  | _ =>
    have hs : ∀ {a b : State}, (if outs.isEmpty then a else b) = b := if_neg (by simpa using hne)
    unfold State.writeDst
    rw [hs]
    exact ⟨rfl, fun _ _ => rfl⟩

end Sys2Proof.Machine

namespace Sys2Proof.Machine

/-! ## The frame, by the kind of D (R18, R22, R210, R220) -/

section
variable {s : State} {n al : Nat} {outs : List (Nat × List Word)} {fl : Flags}

theorem satf_deliver (o : Operand) : ((s.deliver { o, n, al } outs fl).wave s.cur.core s.cur.turn).satf = (s.wave s.cur.core s.cur.turn).satf ||| fl := by
  obtain ⟨hcur, hsatf⟩ := writeDst_cur_satf s { o, n, al } outs
  have h := (delivered (s.writeDst { o, n, al } outs) fl).satf
  rw [hcur, hsatf] at h
  exact h

/-- The fields of a thread that its program holds, from what it holds. -/
theorem held_fields {t u : Thread} (h : u.held = t.held) : u.regs = t.regs ∧ u.empty = t.empty ∧ u.preds = t.preds ∧ u.wh = t.wh ∧ u.batches = t.batches :=
  ⟨congrArg (·.1) h, congrArg (·.2.1) h, congrArg (·.2.2.1) h, congrArg (·.2.2.2.1) h, congrArg (·.2.2.2.2) h⟩

theorem registerFrame_deliver (r : Nat) (hn : (outs.map (·.1)).Nodup) : RegisterFrame s (s.deliver { o := .reg r, n, al } outs fl) r outs := by
  have hw := writeDst_reg s (n := n) (al := al) (outs := outs) r
  have hd := delivered (s.writeDst { o := .reg r, n, al } outs) fl
  rw [hw] at hd
  have hcur : (s.modRows outs fun p t => t.setRegs (t.step 0 r) p.2).cur = s.cur := cur_modRows _ _ _
  have haside := aside_modRows (c := s.cur.core) s outs fun p t => t.setRegs (t.step 0 r) p.2
  have hheld : ∀ c u l, ((s.deliver { o := .reg r, n, al } outs fl).thread c u l).held =
      ((s.modRows outs fun p t => t.setRegs (t.step 0 r) p.2).thread c u l).held := fun c u l => by
    rw [State.deliver, hw]
    exact hd.keeps.held c u l
  have hlane : ∀ p ∈ outs, ((s.deliver { o := .reg r, n, al } outs fl).curThread p.1).held =
      ((s.curThread p.1).setRegs (s.dstReg p.1 r) p.2).held := fun p hp => by
    have hc : (s.deliver { o := .reg r, n, al } outs fl).cur = s.cur := by
      rw [State.deliver, hw]
      exact hd.keeps.cur.trans hcur
    rw [State.curThread, hc, hheld]
    have h := curThread_modRows s (fun p t => t.setRegs (t.step 0 r) p.2) hn hp
    rw [State.curThread, hcur] at h
    rw [h]
    rfl
  rw [State.deliver, hw] at hheld hlane ⊢
  refine ⟨(memory_modRows s outs _).trans hd.keeps.memory, hd.keeps.cur.trans hcur, fun c => (hd.cores c).2.1.trans (haside.waves c).2.1,
    fun h => (hd.crs (hcur ▸ h)).trans (haside.crs h), fun c u l h => ?_, fun p hp x => ?_, fun p hp x => ?_, fun p hp => ?_⟩
  · rw [hheld, thread_modRows_other _ _ _ h]
  · obtain ⟨hregs, -⟩ := held_fields (hlane p hp)
    rw [Thread.reg, hregs]
    exact reg_setRegs _ _ _ _
  · obtain ⟨-, hempty, -⟩ := held_fields (hlane p hp)
    rw [Thread.isEmpty, hempty]
    exact isEmpty_setRegs _ _ _ _
  · obtain ⟨-, -, hpreds, hwh, hbatches⟩ := held_fields (hlane p hp)
    obtain ⟨kp, kw, kb, -⟩ := setRegs_kept (s.curThread p.1) (s.dstReg p.1 r) p.2
    exact ⟨hpreds.trans kp, hwh.trans kw, hbatches.trans kb⟩

theorem special_deliver (k : Nat) : let t := s.deliver { o := .special k, n, al } outs fl
    SameMemory s t ∧ SameHeld s t ∧ ∀ c, (t.core c).queues = (s.core c).queues := by
  have hd := delivered s fl
  rw [State.deliver, writeDst_special]
  exact ⟨hd.keeps.memory, hd.keeps.held, fun c => (hd.cores c).1⟩

theorem queue_setQueue (k : Core) (q x : Nat) (es : List QEntry) : (k.setQueue q es).queue x = if x = q then es else k.queue x :=
  getK_insK _ _ _ _ _

theorem port_deliver {p q : Nat} (hq : (s.core s.cur.core).portQueue p = some q) (hne : outs ≠ []) : let t := s.deliver { o := .port p, n, al } outs fl
    SameMemory s t ∧ SameHeld s t ∧ (∀ x, x ≠ q → (t.core s.cur.core).queue x = (s.core s.cur.core).queue x) ∧
    (t.core s.cur.core).queue q = (s.core s.cur.core).queue q ++ pushed n outs := by
  have hpush := keeps_modCore s s.cur.core (fun k => k.setQueue q (k.queue q ++ pushed n outs)) fun _ => rfl
  have hd := delivered (s.modCore s.cur.core fun k => k.setQueue q (k.queue q ++ pushed n outs)) fl
  rw [State.deliver, writeDst_port s hq hne]
  generalize hu : (s.modCore s.cur.core fun k => k.setQueue q (k.queue q ++ pushed n outs)) = u at hd hpush ⊢
  have hqueue : ∀ x, ((u.curFlags fl).finish.core s.cur.core).queue x = if x = q then (s.core s.cur.core).queue q ++ pushed n outs else (s.core s.cur.core).queue x := fun x => by
    rw [Core.queue, (hd.cores _).1, ← hu, core_modCore_same]
    exact queue_setQueue _ _ _ _
  exact ⟨(hpush.trans hd.keeps).memory, (hpush.trans hd.keeps).held, fun x hx => (hqueue x).trans (if_neg hx), (hqueue q).trans (if_pos rfl)⟩

theorem walker_deliver (i : Nat) (hne : outs ≠ []) : let t := s.deliver { o := .walker i, n, al } outs fl
    let w := (s.wave s.cur.core s.cur.turn).walker i
    (∀ c u l, (t.thread c u l).regs = (s.thread c u l).regs ∧ (t.thread c u l).empty = (s.thread c u l).empty ∧
      (t.thread c u l).preds = (s.thread c u l).preds ∧ (t.thread c u l).batches = (s.thread c u l).batches) ∧
    (t.wave s.cur.core s.cur.turn).walker i = w.advance ∧
    (∀ k, t.hbmByte k = s.hbmByte k) ∧ (∀ b, getK 0 t.sramTag b = getK 0 s.sramTag b ∧ getK 0 t.hbmTag b = getK 0 s.hbmTag b) ∧
    ∀ a, s.awayFrom w outs a → t.sramByte a = s.sramByte a := by
  rw [State.deliver, writeDst_walker s i hne]
  obtain ⟨hf, htag, hbyte⟩ := walkerStores_frame s ((s.wave s.cur.core s.cur.turn).walker i) outs
  generalize outs.foldl (fun u p => u.walkerStore ((s.wave s.cur.core s.cur.turn).walker i) p) s = v at hf htag hbyte
  have hmove := keeps_modWave v v.cur.core v.cur.turn (fun wv => wv.modWalker i Walker.advance) fun _ _ => rfl
  have hd := delivered (v.modCurWave fun wv => wv.modWalker i Walker.advance) fl
  have hkeeps : Keeps v _ := hmove.trans hd.keeps
  refine ⟨fun c u l => ?_, ?_, fun k => ?_, fun b => ⟨?_, ?_⟩, fun a ha => (hkeeps.memory.sram a).trans (hbyte a ha)⟩
  · obtain ⟨hr, he, hp, -, hb⟩ := held_fields (hkeeps.held c u l)
    obtain ⟨hr', he', hp', hb'⟩ := hf.threads c u l
    exact ⟨hr.trans hr', he.trans he', hp.trans hp', hb.trans hb'⟩
  · have hwalk : (v.wave s.cur.core s.cur.turn).walkers = (s.wave s.cur.core s.cur.turn).walkers := ((hf.waves _).2.2 _).2
    rw [Wave.walker, (hd.cores _).2.2, State.modCurWave, wave_modWave, if_pos ⟨congrArg Issue.core hf.cur.symm, congrArg Issue.turn hf.cur.symm⟩, hf.cur]
    refine (getK_insK _ _ _ _ _).trans ((if_pos rfl).trans ?_)
    rw [Wave.walker, hwalk]
    rfl
  · exact (hkeeps.memory.hbm k).trans (by rw [State.hbmByte, hf.hbm]; rfl)
  · exact (hkeeps.memory.sramTag b).trans (by rw [htag])
  · exact (hkeeps.memory.hbmTag b).trans (by rw [hf.hbmTag])

end

/-! ## Predicates (R19) -/

theorem pred_setPred (t : Thread) (k j : BitVec 3) (b : Bool) : (t.setPred k b).pred j = if j = k ∧ k ≠ 0 then b else t.pred j := by
  unfold Thread.setPred
  by_cases hk : k = 0
  · rw [if_pos hk, if_neg fun h => h.2 hk]
  rw [if_neg hk]
  have hj8 : j.toNat < 8 := j.isLt
  unfold Thread.pred
  by_cases hjk : j = k
  · subst hjk
    rw [if_pos (show j = j ∧ j ≠ 0 from ⟨rfl, hk⟩), beq_false_of_ne hk]
    cases b <;> simp [hj8]
  · have hne : j.toNat ≠ k.toNat := fun h => hjk (BitVec.eq_of_toNat_eq h)
    rw [if_neg (show ¬(j = k ∧ k ≠ 0) from fun h => hjk h.1)]
    cases b <;> simp [hj8, hne]

theorem setPred_kept (t : Thread) (k : BitVec 3) (b : Bool) : (t.setPred k b).regs = t.regs ∧ (t.setPred k b).empty = t.empty ∧
    (t.setPred k b).wh = t.wh ∧ (t.setPred k b).batches = t.batches := by
  unfold Thread.setPred
  split <;> exact ⟨rfl, rfl, rfl, rfl⟩

theorem setPred_k0 (t : Thread) (b : Bool) : t.setPred 0 b = t := if_pos rfl

theorem predFrame (s : State) {rows : List (Nat × List (List Word))} (hn : (rows.map (·.1)).Nodup) (k : BitVec 3)
    (f : Nat → List (List Word) → Bool × Flags) :
    let t := predResult s k rows f
    SameMemory s t ∧ t.cur = s.cur ∧ (isSerai s.cur.core = false → t.crs = s.crs) ∧
    (∀ c u l, c ≠ s.cur.core ∨ u ≠ s.cur.turn ∨ l ∉ rows.map (·.1) ∨ k = 0 → (t.thread c u l).held = (s.thread c u l).held) ∧
    ∀ p ∈ rows,
      let old := s.curThread p.1
      let new := t.curThread p.1
      new.regs = old.regs ∧ new.empty = old.empty ∧ new.wh = old.wh ∧ new.batches = old.batches ∧
      (∀ j : BitVec 3, new.pred j = if j = k ∧ k ≠ 0 then (f p.1 p.2).1 else old.pred j) := by
  have hcur := cur_modRows s rows fun p t => t.setPred k (f p.1 p.2).1
  have haside := aside_modRows (c := s.cur.core) s rows fun p t => t.setPred k (f p.1 p.2).1
  have hd : Delivered (s.modRows rows fun p t => t.setPred k (f p.1 p.2).1) (predResult s k rows f) _ := delivered _ _
  have hother := fun c u l => thread_modRows_other s rows (fun p t => t.setPred k (f p.1 p.2).1) (c := c) (t := u) (l := l)
  have hrow := fun p (hp : p ∈ rows) => curThread_modRows s (fun p t => t.setPred k (f p.1 p.2).1) hn hp
  have hlane : ∀ p ∈ rows, ((predResult s k rows f).curThread p.1).held = ((s.curThread p.1).setPred k (f p.1 p.2).1).held := fun p hp => by
    rw [State.curThread, hd.keeps.cur, hd.keeps.held]
    exact congrArg Thread.held (hrow p hp)
  refine ⟨(memory_modRows s rows _).trans hd.keeps.memory, hd.keeps.cur.trans hcur, fun h => (hd.crs (hcur ▸ h)).trans (haside.crs h),
    fun c u l h => (hd.keeps.held c u l).trans ?_, fun p hp => ?_⟩
  · by_cases hin : c ≠ s.cur.core ∨ u ≠ s.cur.turn ∨ l ∉ rows.map (·.1)
    · rw [hother c u l hin]
    · simp only [not_or, ne_eq, Classical.not_not] at hin
      obtain ⟨rfl, rfl, hl⟩ := hin
      obtain ⟨p, hp, rfl⟩ := List.mem_map.1 hl
      obtain rfl : k = 0 := by simpa [hl] using h
      have h0 := hrow p hp
      rw [setPred_k0, State.curThread, hcur] at h0
      rw [h0]
      rfl
  · obtain ⟨hr, he, hp', hw, hb⟩ := held_fields (hlane p hp)
    obtain ⟨kr, ke, kw, kb⟩ := setPred_kept (s.curThread p.1) k (f p.1 p.2).1
    refine ⟨hr.trans kr, he.trans ke, hw.trans kw, hb.trans kb, fun j => ?_⟩
    rw [Thread.pred, hp']
    exact pred_setPred _ _ _ _

/-- Settles O8: every lane instruction ends in `deliver`; D is written as its kind says, and the flags and the advance of the path
(`delivered`) keep what it wrote and all that the frame names. -/
theorem resultFrames : Obligations.ResultFrames := by
  unfold Obligations.ResultFrames
  refine ⟨fun s d rows => ⟨fun _ => rfl, fun f => laneValue_deliver s d rows f, fun body => ?_⟩, fun s n al outs fl hn =>
    ⟨fun o => satf_deliver o, fun r => registerFrame_deliver r hn, fun k => special_deliver k, fun p q hq hne => port_deliver hq hne,
      fun i hne => walker_deliver i hne⟩, fun s rows hn k f => predFrame s hn k f⟩
  obtain ⟨h1, h2⟩ := foldl_bodies body rows (s, [], 0)
  exact ⟨_, _, _, rfl, h1, h2⟩

end Sys2Proof.Machine
